-- ==== Sys2Proof/Word.lean ====
section
/-! DEFINITION. The words of the Cucia: bytes, register words, node identifiers, and the plainest
arithmetic on them (little-endian fields, bit ranges, saturation, ceiling division). -/

namespace Sys2Proof

/-- One byte (Table 0.3's unit of every layout). -/
abbrev Byte := BitVec 8
/-- A string of bytes, lowest address first. -/
abbrev Bytes := List Byte
/-- A register value or any other 64-bit word; 32-bit registers are held zero-extended. -/
abbrev Word := BitVec 64
/-- A 64-bit node identifier (R9). -/
abbrev NodeId := BitVec 64
/-- A 256-bit digest (SHA-256). -/
abbrev Digest := BitVec 256

/-- R9: 0 and all ones are no node identifiers. -/
def NodeId.valid (n : NodeId) : Bool := n != 0 && n != BitVec.allOnes 64

/-- `⌈a / b⌉`, 0 when `b` is 0. -/
def ceilDiv (a b : Nat) : Nat := if b = 0 then 0 else (a + b - 1) / b

/-- Bits `[hi:lo]` of a number. -/
def bits (v hi lo : Nat) : Nat := (v / 2 ^ lo) % 2 ^ (hi + 1 - lo)

/-- Bit `i` of a number. -/
def bit (v i : Nat) : Bool := (v / 2 ^ i) % 2 == 1

/-- A Boolean as a bit. -/
def b2n (b : Bool) : Nat := if b then 1 else 0

/-- Bits `[hi:lo]` of `v` replaced by `x` (its low bits). -/
def setBits (v hi lo x : Nat) : Nat :=
  v - bits v hi lo * 2 ^ lo + (x % 2 ^ (hi + 1 - lo)) * 2 ^ lo

/-- `a + 1`, saturating at `2^w - 1`. -/
def satInc (w a : Nat) : Nat := min (a + 1) (2 ^ w - 1)

/-- `a + b`, saturating at `2^w - 1`. -/
def satAdd (w a b : Nat) : Nat := min (a + b) (2 ^ w - 1)

/-- The little-endian value of a byte string (R123). -/
def leVal : Bytes → Nat
  | [] => 0
  | b :: bs => b.toNat + 256 * leVal bs

/-- The first `n` bytes, little-endian, of a value. -/
def leBytes : Nat → Nat → Bytes
  | 0, _ => []
  | n + 1, v => BitVec.ofNat 8 v :: leBytes n (v / 256)

/-- Bytes `off` to `off + n - 1` of a layout, read little-endian; bytes past the end read 0. -/
def le (bs : Bytes) (off n : Nat) : Nat := leVal ((bs.drop off).take n)

/-- Bytes `off` to `off + n - 1` of a layout are all zero. -/
def zeroAt (bs : Bytes) (off n : Nat) : Bool := ((bs.drop off).take n).all (· == 0)

/-- A layout written field by field: each field gives its size in bytes and its value. -/
def packLE : List (Nat × Nat) → Bytes
  | [] => []
  | (n, v) :: fs => leBytes n v ++ packLE fs

/-- The low `w` bits of a number read as two's complement. -/
def signed (w v : Nat) : Int :=
  let u := v % 2 ^ w
  if u < 2 ^ (w - 1) then (u : Int) else (u : Int) - (2 ^ w : Nat)

end Sys2Proof
end

