-- ==== Sys2Proof/Syntax.lean ====
section
/-! DEFINITION. The commands the Cucia takes: one constructor of `Instr` per row of the opcode
table, and the types of their operands (instruction words, frames and their payloads, what the
environment of the block supplies with an event). -/

namespace Sys2Proof

/-- Table 5.3: the completion codes. -/
inductive Code where
  | ok | overdue | refusedBound | illegalInState | badOperand | killed | sizeExceeded | sizeShort
  | checkFail | accessRevoked | accessViolation | staleWindow | staleMap | staleEpoch | targetDead
  | isolated | mediaReadOnly | noSpace | orphaned | writeCollided | shadowMismatch | notResident
  | derated | fieldChanged
deriving DecidableEq, Repr

/-- Table 5.1: a service program instruction without its opcode byte. -/
structure IWord where
  opc : BitVec 64
  opb : BitVec 32
  opa : BitVec 16
  posted : Bool
  flags : BitVec 7
deriving DecidableEq, Repr

/-- The header of an arriving Alhado frame (Table 13.2), with the link it arrived on and what that
link's checks found (R360, R391). The type is the command's row. -/
structure Frame where
  link : Nat
  tc : Nat
  encrypted : Bool
  forwarded : Bool
  retransmit : Bool
  sealBit : Bool
  ackValid : Bool
  hops : Nat
  payloadLen : Nat
  window : Option Nat
  src : NodeId
  dst : NodeId
  seq : Nat
  ack : Nat
  routeEpoch : Nat
  ref : Nat
  offset : Nat
  generation : Nat
  stamp : Nat
  crcOk : Bool
  tagOk : Bool
deriving DecidableEq, Repr

/-- The name of a deed (R187, R191): a lantern deed by keeper, lantern index there and deed index;
a shared-region deed by its owner and window index. -/
structure DeedKey where
  region : Bool
  keeper : NodeId
  lantern : Nat
  deed : Nat
deriving DecidableEq, Repr

/-- One deed of the open of a move (Table 7.4): its key, the epoch it will hold (e + 1), its
positions, its codec ratio (Table 7.1 encoding), and the ratio of each of its pages. -/
structure OpenDeed where
  key : DeedKey
  epoch : Nat
  posStart : Nat
  posCount : Nat
  pages : List Nat
  ratio : Nat
deriving DecidableEq, Repr

/-- What a lantern move carries besides deeds (R16, R160, R166, R271): the lantern entry's
travelling fields, the deeds homed elsewhere, the token log, the ember map, and the `DONE`
request, if any. -/
structure OpenLantern where
  lanternAtSource : Nat
  priorState : Nat
  svcClass : Nat
  model : Nat
  adapter : Nat
  tokens : Nat
  idleTimeout : Nat
  hintUs : Nat
  toolWait : Bool
  nearState : Bool
  packed : Bool
  releaseBeat : Nat
  cookie : Nat
  createBeat : Nat
  tokenLog : List (BitVec 16)
  embers : List (Nat × Nat × Nat × Nat)
  /-- deed, epoch, pos_start, pos_count, home, state of Table 7.2 -/
  remote : List (Nat × Nat × Nat × Nat × NodeId × Nat)
  /-- codec ratios of the shared pages carried (R264) -/
  shared : List Nat
  /-- byte offset of Table 6.5 and value -/
  request : Option (List (Nat × Nat))
deriving DecidableEq, Repr

/-- The open of a move (R196). -/
structure MoveOpen where
  deeds : List OpenDeed
  lantern : Option OpenLantern
  rateSize : Nat
  promised : Nat
deriving DecidableEq, Repr

/-- The receipt of a move (R198). -/
structure MoveReceipt where
  commitBeat : Nat
  lantern : Option Nat
deriving DecidableEq, Repr

/-- How the reads of a resume or tier move went (R71): the most retries of one read, whether a unit was rebuilt from parity,
and the beat in which the first read ended. -/
structure ReadReport where
  retries : Nat
  rebuilt : Bool
  first : Nat
deriving DecidableEq, Repr

/-- How the reads of a resume or tier move ended: what failed, if anything did, and how they went. -/
structure ReadEnd where
  fail : Option Code
  report : ReadReport
deriving DecidableEq, Repr

/-- The frame types that a `NACK` names (Table 13.3). -/
inductive FrameKind where
  | data | openK | commit | nack | ack | read | readResp | winSeal | deed | partialK | collective
  | beacon | probe | hello | join | heartbeat | leave | mgmt
deriving DecidableEq, Repr

/-- A refusal: the code, and the refused frame's type and ref (Table 13.3). -/
structure Nack where
  code : Code
  kind : FrameKind
  ref : Nat
deriving DecidableEq, Repr

/-- A deed query (R200, R205): the deed, the epoch e + 1 it asks about, and the query's number. -/
structure DeedQuery where
  key : DeedKey
  epoch : Nat
  query : Nat
  /-- the sender holds the deed `HOME` itself at this epoch, if it does (R205) -/
  homeAtSender : Option Nat
deriving DecidableEq, Repr

/-- An answer to a deed query (Table 7.5). -/
structure DeedAnswer where
  key : DeedKey
  query : Nat
  code : Nat
  epoch : Nat
  home : NodeId
  commitBeat : Option Nat
  fromLog : Bool
  /-- the lantern index of a lantern move's receipt-log entry (R198, R199) -/
  lantern : Option Nat := none
deriving DecidableEq, Repr

/-- A home or ember notice (R193, R198). -/
structure DeedNotice where
  key : DeedKey
  home : NodeId
  epoch : Nat
deriving DecidableEq, Repr

/-- A decree notice (R204). -/
structure DecreeNotice where
  key : DeedKey
  epoch : Nat
  id : Nat
deriving DecidableEq, Repr

/-- A decree acknowledgement (R204): for deed 0 it carries the lantern index, or 0xFFFF_FFFF. -/
structure DecreeAck where
  id : Nat
  lantern : Nat
deriving DecidableEq, Repr

/-- A near-state query (R265 to R267). -/
structure PartialQuery where
  id : Nat
  key : DeedKey
  epoch : Nat
  placement : Nat
  model : Nat
  program : Nat
  pAttn : Nat
  layerFirst : Nat
  layerCount : Nat
  rows : Nat
  /-- the query rows, layer-major, in FP32 -/
  query : List (BitVec 32) := []
deriving DecidableEq, Repr

/-- One block of a partial record (R268): lse, max and o, in FP32 bits. -/
structure PartialBlock where
  lse : BitVec 32
  max : BitVec 32
  o : List (BitVec 32)
deriving DecidableEq, Repr

/-- A partial record (Table 9.7) with the query it answers. -/
structure PartialRec where
  id : Nat
  lantern : Nat
  deed : Nat
  rows : Nat
  epoch : Nat
  placement : Nat
  posStart : Nat
  posCount : Nat
  layerFirst : Nat
  layerCount : Nat
  headDim : Nat
  stepSeq : Nat
  blocks : List PartialBlock
deriving DecidableEq, Repr

/-- The records that `ATTN_MERGE` reads; `bad` says that one of them could not be read. -/
structure MergeRecs where
  recs : List PartialRec
  bad : Bool
deriving DecidableEq, Repr

/-- A request to follow; `child` is what the root tells the parent of a follower that it has placed. -/
structure FollowFrame where
  frame : Frame
  child : Option NodeId
deriving DecidableEq, Repr

/-- What a contribution belongs to, with the epochs of its row's deeds (R212). -/
structure PartOf where
  stepSeq : Nat
  row : Nat
  deeds : List (Nat × Nat)
deriving DecidableEq, Repr

/-- An answer of a home to a near-state query: a record, or a refusal (`NOT_RESIDENT`,
`STALE_EPOCH` with the new home, `CHECK_FAIL`, `BAD_OPERAND`). -/
inductive PartialAnswer where
  | record (r : PartialRec)
  | refused (id : Nat) (code : Code) (home : NodeId) (epoch : Nat)
deriving DecidableEq, Repr

/-- The open of a `COPY` (R380). -/
structure CopyOpen where
  dstOff : Nat
  len : Nat
  frames : Nat
  promised : Nat
deriving DecidableEq, Repr

/-- A beacon payload (Table 2.2) with the measured arrival time (R36). -/
structure Beacon where
  beatNumber : Nat
  beatTime : Nat
  rootId : NodeId
  lenNs : Nat
  hops : Nat
  reservedZero : Bool
  sendOffset : Nat
deriving DecidableEq, Repr

/-- Steps 2 and 3 of the join handshake (Table 13.7), with what the hash and signature engine
found of the sender's key chain and signature over the transcript (R371). -/
structure JoinProof where
  nonce : Digest
  pubKey : Digest
  digest : Digest
  chainOk : Bool
  sigOk : Bool
deriving DecidableEq, Repr

/-- A membership change as the root or a new root distributes it (R416). -/
structure FieldMember where
  node : NodeId
  meadow : Nat
  weight : Nat
deriving DecidableEq, Repr

/-- A field descriptor (Tables 15.3 and 15.4), parsed. -/
structure FieldDesc where
  fieldId : Nat
  root : NodeId
  beatNs : Nat
  floor : Nat
  epoch : Nat
  model : Nat
  tiles : Nat
  members : List FieldMember
  crc : Nat
deriving DecidableEq, Repr

/-- What the root of a field distributes (R416, R419): the kind of a membership change, or that the field enters `HOLD`
(R425: 0 budget, 1 floor) or is released from it (R426). -/
inductive ChangeKind where
  | reform | join | expel | autoExpel | straggle
  | hold (reason : Nat)
  | release
  /-- the change that the descriptor and the subject name does not take place (R432) -/
  | withdraw
deriving DecidableEq, Repr

/-- A membership change distributed in `MGMT` frames (R416): the new descriptor, in rank order. -/
structure FieldChange where
  kind : ChangeKind
  desc : FieldDesc
  subject : NodeId
deriving DecidableEq, Repr

/-- A change as it is heard: `sameCount` says that the beat number of a new root is the local count (R417). -/
structure HeardChange where
  change : FieldChange
  sameCount : Bool
deriving DecidableEq, Repr

/-- READY (R414), or the refusal of R418. -/
structure FieldReady where
  fieldId : Nat
  crc : Nat
  freeBeat : Nat
  refused : Bool
deriving DecidableEq, Repr

/-- A step report (R421). -/
structure StepReport where
  fieldId : Nat
  stepSeq : Nat
  slack : Int
  derated : Bool
  quarantined : Nat
  retx : Nat
deriving DecidableEq, Repr

/-- The fabric reset payload (Table 19.2). -/
structure ResetFrame where
  reach : Nat
  target : NodeId
  counter : Nat
  mac : Digest
  /-- header bytes 8 to 23 followed by payload bytes 0 to 31 (check 5 of R493) -/
  macInput : Bytes
deriving DecidableEq, Repr

/-- A firmware package as verified (R500, R508): its manifest fields, and what the checks found. -/
structure FwPackage where
  version : Nat
  security : Nat
  settings : Nat
  len : Nat
  manifestDigest : Digest
  partDigests : List Digest
  keySlot : Nat
  sigOk : Bool
  partsOk : Bool
  shapeOk : Bool
  /-- the patch table part, entry by entry (R502) -/
  patches : List (BitVec 64) := []
deriving DecidableEq, Repr

/-- An offer of a package (R510). -/
structure FwOffer where
  digest : Digest
  version : Nat
  security : Nat
  len : Nat
deriving DecidableEq, Repr

/-- What the intake engine's read of one ring found at a boundary (R94, R98): a read error, or the
producer index word and the entries from INTAKE_CI on, each with its program (the words at the
program address when it is given by address) and whether its fetch completes by order 5 (R97). -/
structure FetchedEntry where
  bytes : Bytes
  prog : List (BitVec 128)
  late : Bool
deriving DecidableEq, Repr

/-- One ring's poll at a boundary. -/
structure Poll where
  ring : Nat
  error : Bool
  pi : Nat
  entries : List FetchedEntry
deriving DecidableEq, Repr

/-- What the environment of a boundary supplies to `BEAT_BOUNDARY`: the taper readings in cycles
per second of the beat that ends (R43), the polls of the rings (R94), the result records whose
host write received an error response (R543), by ring and slot, the meadows whose running step completed its last tile
stage in the beat that ends (R48), the bit errors of the beat, and the host's reads of the commons. -/
structure BeatInput where
  tapers : List Nat
  polls : List Poll
  resultErrors : List (Nat × Nat)
  finished : List Nat
  /-- words of on-chip memory that bit errors have struck in the beat: place, and bits in error (R453) -/
  upsets : List (Nat × Nat) := []
  /-- the host's reads of the commons through BAR2 in the beat that opens: offset and size (R445, R455) -/
  bar2Reads : List (Nat × Nat) := []
  /-- channels of the GDDR7 lines that reads of the beat corrected, and of those that they found uncorrectable, beside the host's
  reads and the scrubs, which report their own (R320) -/
  corrected : List Nat := []
  uncorrected : List Nat := []
  /-- links of the codewords that FEC corrected in the beat, and of those that it could not (Table 13.14) -/
  fecCorrected : List Nat := []
  fecLost : List Nat := []
  /-- temperatures of flash dies that have changed: die, and °C as a byte in two's complement (R349) -/
  dieTemps : List (Nat × Nat) := []
  /-- the Lamplighter firmware does not run in the beat that opens, so nothing feeds the watchdog (R492) -/
  stalled : Bool := false
deriving DecidableEq, Repr

/-- What the tiles report at the end of a step beside their results, which follow from the program and its inputs (R51): the beats
used, when no boundary has reported them, the failure code if the step failed (R178), stall beats of the expanders, the CRC-64
that a faulty tile formed in place of its own, by virtual tile (R243, R245), and whether a path fault or a media fault touched
the step (R83). -/
structure StepResult where
  usedBeats : Nat
  fail : Option Code
  stallBeats : Nat
  faults : List (Nat × BitVec 64)
  path : Bool
  media : Bool
deriving DecidableEq, Repr

/-- The readings of the sensors at a sample (R478), in °C: the 44 junction sensors, inlet, outlet. -/
structure Temps where
  junction : List Int
  inlet : Int
  outlet : Int
deriving DecidableEq, Repr

/-- The levels of the strap pins. -/
structure Straps where
  bootSel : BitVec 2
  clkSel : BitVec 2
deriving DecidableEq, Repr

/-- The sources a boot can find (R499 to R501): what each slot, the medium and the host supply. -/
structure BootInput where
  slotA : Option FwPackage
  slotB : Option FwPackage
  medium : Option FwPackage
  /-- the march of R464 found these (tile or bank, failing rows) beyond the repair record -/
  marchTiles : List (Nat × Nat)
  marchBanks : List (Nat × Nat)
deriving DecidableEq, Repr

/-- What the steward finds on flash at a restart (R345). -/
structure RestartInput where
  checkpointValid : Bool
  readOnlyRecord : Bool
  /-- units of CLOSED superblocks with a failing page that parity rebuilds -/
  rebuilt : List Nat
  /-- those with pages that it cannot rebuild -/
  lostUnits : List Nat
deriving DecidableEq, Repr

/-- An algorithm that a NEGOTIATE_ALGORITHMS request offers (R449). -/
inductive SpdmAlg where
  | sha256 | slhDsaSha2128f | secp384r1 | aes256gcm
  /-- one that the Cucia does not offer -/
  | other (code : Nat)
deriving DecidableEq, Repr

/-- A DOE object: its bytes, and the algorithms that a negotiation offers. -/
structure DoeObject where
  bytes : Bytes
  algs : List SpdmAlg
deriving DecidableEq, Repr

/-- The commands: one constructor per row of spec/opcode_table.json, in its order. -/
inductive Instr where
  | nop (c : Nat) (w : IWord)
  | halt (c : Nat) (w : IWord)
  | jump (c : Nat) (w : IWord)
  | branch (c : Nat) (w : IWord)
  | call (c : Nat) (w : IWord)
  | ret (c : Nat) (w : IWord)
  | fence (c : Nat) (w : IWord)
  | progressSet (c : Nat) (w : IWord)
  | postedInstructionComplete (c idx : Nat) (outcome : Option Code)
  | lampLight (c : Nat) (w : IWord)
  | lampDim (c : Nat) (w : IWord)
  | lampSet (c : Nat) (w : IWord)
  | lampWait (c : Nat) (w : IWord)
  | lampWaitMet (c : Nat)
  | lampWaitTimeout (c : Nat)
  | ltnCreate (c : Nat) (w : IWord) (d : Bytes)
  | ltnClose (c : Nat) (w : IWord)
  | ltnPark (c : Nat) (w : IWord)
  | parkCommit (lantern : Nat) (fail : Option Code)
  | ltnResume (c : Nat) (w : IWord)
  | resumeCommit (lantern : Nat) (reads : ReadEnd)
  | ltnQuery (c : Nat) (w : IWord)
  | reqAdmit (c : Nat) (w : IWord) (d : Bytes)
  | reqKill (c : Nat) (w : IWord)
  | reqSetprio (c : Nat) (w : IWord)
  | reqSetdeadline (c : Nat) (w : IWord)
  | reqRelease (c : Nat) (w : IWord)
  | reqReleaseTimeout (r : Nat)
  | pgAlloc (c : Nat) (w : IWord)
  | pgFree (c : Nat) (w : IWord)
  | pgShare (c : Nat) (w : IWord) (d : Bytes)
  | pgAppend (c : Nat) (w : IWord) (d : Bytes)
  | setUnion (c : Nat) (w : IWord) (d : Bytes)
  | setIntersect (c : Nat) (w : IWord) (d : Bytes)
  | setDiff (c : Nat) (w : IWord) (d : Bytes)
  | setHash (c : Nat) (w : IWord) (d : Bytes) (tokens : List (BitVec 16)) (bad : Bool)
  | prefixMatch (c : Nat) (w : IWord) (d : Bytes) (hashes : List Digest)
  | moveState (c : Nat) (w : IWord)
  | deedQuery (c : Nat) (w : IWord)
  | deedDecree (c : Nat) (w : IWord) (d : Bytes)
  | deedRelease (c : Nat) (w : IWord)
  | moveOpenReceive (f : Frame) (o : MoveOpen)
  | moveDataReceive (f : Frame) (data : Bytes) (checkOk : Bool)
  | moveReceiptReceive (f : Frame) (r : MoveReceipt)
  | nackReceive (f : Frame) (n : Nack)
  | moveKill (ring slot : Nat)
  | moveAbortReceive (f : Frame)
  | receiptDeadlineExpiry (mv : Nat)
  | deedQueryRepeat (mv : Nat)
  | deedTimeoutOrphan (mv : Nat)
  | incomingAbandon (mv : Nat)
  | deedQueryReceive (f : Frame) (q : DeedQuery)
  | deedAnswerReceive (f : Frame) (a : DeedAnswer)
  | homeNoticeReceive (f : Frame) (n : DeedNotice)
  | emberNoticeReceive (f : Frame) (n : DeedNotice)
  | decreeNoticeReceive (f : Frame) (n : DecreeNotice)
  | decreeNoticeRepeat (id : Nat)
  | decreeAckReceive (f : Frame) (a : DecreeAck)
  | stepRun (c : Nat) (w : IWord)
  | stepStart (m : Nat)
  | stepCommit (m : Nat) (r : StepResult)
  | shadow (c : Nat) (w : IWord) (faults : List (Nat × BitVec 64))
  /-- the virtual tiles that faulty shadow tiles replay, and the CRCs they form -/
  | autoShadowRun (m : Nat) (faulty : List Nat) (crcs : List (BitVec 64))
  /-- `faulty`: the referee's tile is, and forms this CRC -/
  | refereeRun (faulty : Bool) (crc : BitVec 64)
  | tileQuarantineLeave (m : Nat)
  /-- what the tile formed, and what the ROM's canary expects -/
  | canaryRun (tile : Nat) (got want : BitVec 64)
  | attnPartial (c : Nat) (w : IWord) (d : Bytes)
  | attnPartialRoundAdmit (p : Nat)
  | partialQueryReceive (f : Frame) (q : PartialQuery)
  | partialRoundStart (m : Nat)
  | partialResultReceive (f : Frame) (a : PartialAnswer)
  | attnMerge (c : Nat) (w : IWord) (d : Bytes) (recs : MergeRecs)
  | ember (c : Nat) (w : IWord)
  | rekindle (c : Nat) (w : IWord) (d : Bytes)
  | autoEmber
  | trieEviction
  | pack (c : Nat) (w : IWord) (d : Bytes) (src : Bytes) (fail : Option Code)
  | unpack (c : Nat) (w : IWord) (d : Bytes) (src : Bytes) (fail : Option Code)
  | tierMove (c : Nat) (w : IWord)
  | tierMoveCommit (obj : Nat) (data : Bytes) (reads : ReadEnd)
  | tierPlace (c : Nat) (w : IWord)
  | streamWeights (c : Nat) (w : IWord) (d : Bytes) (fail : Option Code)
  | adpLoad (c : Nat) (w : IWord) (d : Bytes) (payload : Bytes)
  | adpReplace (c : Nat) (w : IWord) (d : Bytes) (payload : Bytes)
  | adpRetire (c : Nat) (w : IWord)
  | winOpen (c : Nat) (w : IWord) (d : Bytes)
  | winRevoke (c : Nat) (w : IWord)
  | winRevokeComplete (win : Nat)
  | copy (c : Nat) (w : IWord) (d : Bytes)
  | copyOpenReceive (f : Frame) (o : CopyOpen)
  | copyDataReceive (f : Frame) (data : Bytes) (checkOk collided : Bool)
  | copyCommitReceive (f : Frame) (commitBeat : Nat)
  | sealWin (c : Nat) (w : IWord)
  | winSealReceive (f : Frame) (light : Bool)
  | readReceive (f : Frame) (len : Nat) (zero : Bool)
  | readRespReceive (f : Frame) (data : Bytes)
  | loadTimeout (id : Nat)
  | fieldForm (c : Nat) (w : IWord) (d : Bytes)
  | fieldAdmit (c : Nat) (w : IWord)
  | fieldExpel (c : Nat) (w : IWord)
  | fieldReform (c : Nat) (w : IWord) (d : Bytes)
  | fieldReadyReceive (f : Frame) (r : FieldReady)
  | fieldCommitBeatReceive (f : Frame) (fieldId c : Nat)
  | fieldAbortReceive (f : Frame) (fieldId : Nat) (missing : NodeId)
  | fieldChangeReceive (f : Frame) (ch : HeardChange)
  | fieldCommit (m : Nat)
  | fieldFormTimeout (m : Nat)
  | stepReportReceive (f : Frame) (r : StepReport)
  | fieldStepEvaluation (m : Nat)
  | fieldStepGraceExpiry (m : Nat)
  | followRequestReceive (r : FollowFrame)
  | followLockTimeout
  | meadowDefine (c : Nat) (w : IWord) (d : Bytes)
  | meadowDefineEffect (m : Nat)
  | meadowRole (c : Nat) (w : IWord)
  | meadowDrain (c : Nat) (w : IWord)
  | meadowDrained (m : Nat)
  | march (c : Nat) (w : IWord)
  | marchRunComplete (run : Nat) (failing : Nat)
  | scrubNow (c : Nat) (w : IWord) (bad : Bool)
  | flashTrim (c : Nat) (w : IWord)
  | fwStage (c : Nat) (w : IWord) (p : FwPackage) (readBackOk : Bool)
  | fwArm (c : Nat) (w : IWord) (verifyOk : Bool)
  | blockReset (c : Nat) (w : IWord)
  | blockRestore (n : Nat)
  | attest (c : Nat) (w : IWord) (d : Bytes) (fail : Bool)
  | beatBoundary (i : BeatInput)
  | deratedExited
  | voltageLower
  | powerOverDeclared (watts : Nat)
  | powerCapAdmit (c : Nat)
  | noDeadlineAdmit (cls : Nat)
  | beatLenWrite (v : BitVec 32)
  | beatLenEffect
  | beaconReceive (f : Frame) (b : Beacon) (arrival : Nat)
  | beaconLost
  | beaconHoldoverEnd
  | probeSend (link : Nat)
  | probeReceive (f : Frame) (reply : Bool) (roundTripNs : Nat)
  | entryAdmission (idx : Nat) (descs : List Bytes)
  | intakeCtrlWrite (ring : Nat) (v : BitVec 32)
  | resultRecordRetry (ring slot : Nat) (success : Bool)
  | idleTimerExpiry (lantern : Nat)
  | promisedBeatExpiry (p : Nat)
  | breachStoreDrain
  | eventStoreDrain
  | pendingWriteRelease (off : Nat)
  | routeInstall (v : BitVec 32) (map : Bytes)
  | mapDrainEnd
  /-- `ns`: when in the beat it arrived; `payload` goes on as it came -/
  | frameForward (f : Frame) (kind : FrameKind) (ns : Nat) (payload : Bytes)
  | ackReceive (f : Frame) (map : List Nat)
  | ackSend (partner : Nat)
  | retransmitTimeout (partner seq : Nat)
  | collectiveReceive (f : Frame) (of : PartOf) (data : Bytes)
  | helloSend (link : Nat)
  | helloReceive (f : Frame)
  | joinStart (node : NodeId)
  | joinNonceReceive (f : Frame) (nonce : Digest)
  | joinProofReceive (f : Frame) (p : JoinProof)
  | joinInitiatorProofReceive (f : Frame) (p : JoinProof)
  | joinResultReceive (f : Frame) (accepted : Bool)
  | joinRetry (partner : Nat)
  | joinTimeout (partner : Nat)
  | heartbeatSend (partner : Nat)
  | heartbeatReceive (f : Frame)
  | partnerDeadTimeout (partner : Nat)
  | leaveDepartureReceive (f : Frame)
  | leaveEvictionReceive (f : Frame)
  | fabCtrlLeave
  | partnerCmdJoin
  | partnerCmdApprove (partner : Nat)
  | partnerCmdRefuse (partner : Nat)
  | partnerCmdEvict (partner : Nat)
  | portCfgWrite (port : Nat) (v : BitVec 32)
  | linkUp (link : Nat)
  | linkTrainFail (link : Nat)
  | linkDown (link : Nat)
  | linkTransmitSelect (link : Nat) (ns : Nat)
  | keyCmdLoad
  | keyCmdActivate
  | keyCmdDisable
  | gateCtrlApply (entries : BitVec 4)
  | queueSel (v : BitVec 32)
  | partnerSel (v : BitVec 32)
  | winSel (v : BitVec 32)
  | fieldSel (v : BitVec 32)
  | peekSel (v : BitVec 32)
  | hostedFind (v : BitVec 64)
  | scSnap
  | fieldFollow (v : BitVec 64)
  | fieldCtrlRelease (m : Nat)
  | fieldCtrlPrep (m : Nat)
  | fieldPrepComplete (failures : Nat)
  | tileClear (tile : Nat)
  | shadowSetWrite (word : Nat) (v : BitVec 32)
  | shadowSetEffect
  | modelCmdInstall (slot : Nat) (d : Bytes)
  | modelCmdRemove (slot : Nat)
  | objCmdInstall (index : Nat) (d : Bytes)
  | objCmdRemove (index : Nat)
  | hostRead (off : Nat) (uncorrectable : Bool)
  | readThroughComplete (tier : Nat) (data : Bytes) (uncorrectable : Bool)
  | hostWrite (off : Nat) (data : Bytes)
  | biSnoopAnswer (line : Nat) (modified : Option Bytes) (late : Bool)
  | h2dSnoop (addr : BitVec 64)
  | hdmDecoderCommit (base size : Nat)
  | cxlLinkTrained (width rate : Nat)
  | doeRequest (proto code : Nat) (req : DoeObject)
  | cxlIdeFail
  | commonsPlainWrite (off size : Nat) (v : BitVec 64)
  | commonsSetAliasWrite (off size : Nat) (v : BitVec 64)
  | commonsClearAliasWrite (off size : Nat) (v : BitVec 64)
  | lampPlainWrite (lamp size : Nat) (v : BitVec 64)
  | lampSetAliasWrite (lamp size : Nat) (v : BitVec 64)
  | lampClearAliasWrite (lamp size : Nat) (v : BitVec 64)
  | lampAddAliasWrite (lamp size : Nat) (v : BitVec 64)
  | regLowHalfRead (off : Nat)
  | regWrite (off size : Nat) (v : BitVec 64)
  | flashTimeSet (v : BitVec 64)
  | flashCmdCheckpoint
  | flashCmdFormat
  | flashCheckpointDue
  | journalPageDurable
  | flashRestart (i : RestartInput)
  | gcStart
  | gcUnitMove (unit : Nat) (unreadable : Bool)
  | sbVerify (sb : Nat) (bad : List Nat)
  | sbEraseComplete (sb : Nat)
  | flashProgramFail (sb die plane channel : Nat)
  | flashEraseFail (sb die plane channel : Nat)
  | flashPatrol (unit : Nat) (retries : Nat) (failed : Bool)
  | gddrPatrolScrub (frame : Nat) (corrected uncorrectable : Bool)
  | gddrRecalibration (channel : Nat)
  | taperCalibration (pair : Nat)
  | bgWindowStart
  | telemetrySnapshot
  | pldmRequest (type cmd : Nat) (arg : Nat)
  | tempSample (t : Temps)
  | thermalTripRecovery
  | powerEnvelope (watts : Nat)
  | overcurrentTrip
  | powerOnReset
  | perstAssert
  | perstDeassert (s : Straps)
  | pwrFailAssert (ns : Nat)
  | cxlReset
  | rstArm (v : BitVec 32)
  | rstCmd (v : BitVec 32)
  | blkReset (v : BitVec 32)
  | watchdogExpiry
  | fabricResetFrame (f : Frame) (r : ResetFrame)
  | boot (i : BootInput)
  | bootImgCmd (p : Option FwPackage)
  | sdCardInsert (p : Option FwPackage)
  | fwOfferReceive (f : Frame) (o : FwOffer)
  | fwFetchRequestReceive (f : Frame) (off len : Nat)
  | fwChunkReceive (f : Frame) (off : Nat) (data : Bytes) (assembled : Option FwPackage)
  | fwActivation (ok : Bool)
  | fwActResume
  | fwCmdCommit
  | fwCmdRestage (p : FwPackage)
  | fwCmdSave
  | deedQueryTimeout (c : Nat)
  | partialRoundEnd (m : Nat) (id : Nat) (bad : Bool)
  | powerLoss (withHold : Bool)
  | msixEntryUnmask (entry : Nat)
  | regHighHalfRead (off : Nat)
deriving DecidableEq, Repr

end Sys2Proof
end

