-- ==== Sys2Proof/Decode.lean ====
section
/-! DEFINITION. Words of the opcode table: the table gives bits to none of its rows, so no word
spells a command. -/

namespace Sys2Proof

/-- The command that word `w` of `nbits` bits spells by the table's bits: none, since no row of the
table has bits. -/
def decodeTableWord (_nbits _w : Nat) : Option Instr := none

end Sys2Proof
end

