-- ==== Sys2Proof/Machine/Sha.lean ====
section
/-! DEFINITION. SHA-256, which the spec names for prefix hashes, adapter payloads and images (R258,
R278). The hash is held in the form this model wants: its constants are computed from what they are
(root fractions of primes), and a block is one walk over a sliding window of sixteen words beside two
histories of four chaining words (notes/assumptions/26.md). -/

namespace Sys2Proof.Machine

/-- The largest r below 2^bits with r^k ≤ n, settled bit by bit from the top. -/
def rootUnder (k n : Nat) : Nat → Nat → Nat
  | 0, r => r
  | bits + 1, r => rootUnder k n bits (if (r + 2 ^ bits) ^ k ≤ n then r + 2 ^ bits else r)

/-- The first 32 fraction bits of the k-th root of p. -/
def rootFraction (k p : Nat) : BitVec 32 := BitVec.ofNat 32 (rootUnder k (p * 2 ^ (32 * k)) 37 0)

/-- The primes below 312, which are the first sixty-four. -/
def firstPrimes : List Nat :=
  ((List.range 312).drop 2).filter fun n => ((List.range 18).drop 2).all fun d => n ≤ d || n % d != 0

/-- A hash in progress: the last four words of either history, newest first. -/
structure Chain where
  up : List (BitVec 32)
  down : List (BitVec 32)
  deriving DecidableEq, Repr

/-- Rotated right by each amount, the results added without carry. -/
def turns (x : BitVec 32) (by_ : List Nat) : BitVec 32 :=
  by_.foldl (fun y n => y ^^^ x.rotateRight n) 0

/-- Both histories moved on by one word, mixed with the round's word m. -/
def Chain.push (c : Chain) (m : BitVec 32) : Chain :=
  let u := fun n => c.up.getD n 0
  let d := fun n => c.down.getD n 0
  let t := d 3 + turns (d 0) [6, 11, 25] + (d 2 ^^^ (d 0 &&& (d 1 ^^^ d 2))) + m
  { up := (t + turns (u 0) [2, 13, 22] + ((u 0 &&& u 1) ||| (u 2 &&& (u 0 ||| u 1)))) :: c.up.take 3
    down := (u 3 + t) :: c.down.take 3 }

/-- The window's oldest word dropped and the schedule's next one put behind it. -/
def slide (w : List (BitVec 32)) : List (BitVec 32) :=
  let early := w.getD 1 0
  let late := w.getD 14 0
  w.tail ++ [w.headD 0 + (turns early [7, 18] ^^^ early >>> 3) + w.getD 9 0 + (turns late [17, 19] ^^^ late >>> 10)]

/-- One block: a round for each of the constants. -/
def Chain.rounds : List (BitVec 32) → List (BitVec 32) → Chain → Chain
  | [], _, c => c
  | k :: ks, w, c => Chain.rounds ks (slide w) (c.push (k + w.headD 0))

/-- A block's sixteen words, each first byte most significant. -/
def blockWords (b : Bytes) : List (BitVec 32) :=
  (List.range 16).map fun i => BitVec.ofNat 32 (((b.drop (4 * i)).take 4).foldl (fun n x => 256 * n + x.toNat) 0)

/-- The blocks one after another, each result added to what it began from. -/
def Chain.blocks (ks : List (BitVec 32)) : Nat → Bytes → Chain → Chain
  | 0, _, c => c
  | n + 1, b, c =>
    let e := Chain.rounds ks (blockWords b) c
    Chain.blocks ks n (b.drop 64) ⟨List.zipWith (· + ·) c.up e.up, List.zipWith (· + ·) c.down e.down⟩

/-- The message closed: a one bit, zeros to eight bytes short of a block, and its length in bits. -/
def shaSealed (b : Bytes) : Bytes :=
  b ++ 0x80#8 :: List.replicate ((119 - b.length % 64) % 64) 0 ++ (leBytes 8 (8 * b.length)).reverse

/-- SHA-256, the digest's first byte most significant. PRESUMED, log entry 26. -/
def sha256 (b : Bytes) : Digest :=
  let roots := (firstPrimes.take 8).map (rootFraction 2)
  let m := shaSealed b
  let c := Chain.blocks (firstPrimes.map (rootFraction 3)) (m.length / 64) m ⟨roots.take 4, roots.drop 4⟩
  BitVec.ofNat 256 ((c.up ++ c.down).foldl (fun n w => n * 2 ^ 32 + w.toNat) 0)

/-- The bytes of a digest, first byte first. -/
def digestBytes (d : Digest) : Bytes := (leBytes 32 d.toNat).reverse

end Sys2Proof.Machine
end

