-- ==== Sys2Proof/Config.lean ====
section
/-! DEFINITION. What an implementation fixes and what the spec leaves open: every constant below has
no body, so that nothing can be proved of its value (notes/assumptions/20.md to 24.md). -/

namespace Sys2Proof.Config

/-- A fresh open value, one for each reading of the counter `State.freeCtr`. DESIGN CHOICE, log entry 20. -/
opaque freeNat : Nat → Nat
/-- The addresses of the Cucia's own structures in GDDR7 (lantern lists, deed tables, ember maps,
trie groups, adapter payloads): kind and index. DESIGN CHOICE, log entry 21. -/
opaque structAddr : Nat → Nat → Nat
/-- R502: the words of the mask ROM, which the spec does not give, by word address. DESIGN CHOICE, log entry 163. -/
opaque romWord : Nat → BitVec 32
/-- R231: the transcendental functions of the vector unit, exact to the stated error only. DESIGN CHOICE, log entry 22. -/
opaque exp2 : BitVec 32 → BitVec 32
/-- DESIGN CHOICE, log entry 22. -/
opaque log2 : BitVec 32 → BitVec 32
/-- DESIGN CHOICE, log entry 22. -/
opaque recip : BitVec 32 → BitVec 32
/-- DESIGN CHOICE, log entry 22. -/
opaque rsqrt : BitVec 32 → BitVec 32
/-- DESIGN CHOICE, log entry 22. -/
opaque sin : BitVec 32 → BitVec 32
/-- DESIGN CHOICE, log entry 22. -/
opaque cos : BitVec 32 → BitVec 32
/-- R218, R225: the UE8M0 code of a value that the format does not hold: sign, whether it is an infinity, and m × 2^e. DESIGN CHOICE, log
entry 139. -/
opaque scaleCode : Bool → Bool → Nat → Int → Nat
/-- What a step's tiles take and give where the spec gives tile words no operand for it, each a function of the step's inputs
alone (R51): the bytes that a `LOAD` or `RECV` word brings (inputs, tile, word, byte), the batch row and the GDDR7 address that a
`STORE` word writes for, and the first place that a 64-row operation covers, a slot position or 8,192 + a batch row (inputs, tile, word). DESIGN CHOICE, log entry 142. -/
opaque stepByte : List Nat → Nat → Nat → Nat → Nat
/-- DESIGN CHOICE, log entry 142. -/
opaque stepPlace : List Nat → Nat → Nat → Nat × Nat
/-- DESIGN CHOICE, log entry 142. -/
opaque stepFirst : List Nat → Nat → Nat → Nat
/-- The token that a step program produces for a row, from the row's inputs (R51, R238). DESIGN CHOICE, log entry 142. -/
opaque stepToken : List Nat → Nat
/-- The signature of a message under the module's identity key (R504, R506). DESIGN CHOICE, log entry 23. -/
opaque sign : Bytes → Bytes
/-- The module's identity public key, and the measurement of its mask ROM (R504, R505). DESIGN CHOICE, log entry 23. -/
opaque identityKey : Digest
/-- DESIGN CHOICE, log entry 23. -/
opaque romMeasurement : Digest
/-- The responses of the DOE and PLDM standards that the spec names but does not give. DESIGN CHOICE, log entry 23. -/
opaque standardReply : Nat → Nat → Bytes → Bytes
/-- Payload length of a frame whose payload layout the spec does not give, by frame type code. DESIGN CHOICE, log entry 23. -/
opaque payloadLen : Nat → Nat
/-- Values the hardware reads of itself: serial number, strap levels at power-on. DESIGN CHOICE, log entry 23. -/
opaque deviceWord : Nat → Nat
/-- R522, R523: the registers that a service programs part declares persistent, and what the conversion of a
settings record from one version to another makes of a value. DESIGN CHOICE, log entry 24. -/
opaque persistent : Nat → Nat → Bool
/-- DESIGN CHOICE, log entry 24. -/
opaque convert : Nat → Nat → Nat → Word → Word

end Sys2Proof.Config
end

