-- ==== Sys2Proof/Machine/Regs.lean ====
section
/-! DEFINITION. The registers of BAR0: where each lies, how wide it is, which of its fields software
may write and with which values, and its reset value (Tables 2.7 to 22.5 of the chapters). -/

namespace Sys2Proof.Machine

/-- The values a field accepts (R4). -/
inductive Legal where
  | any
  | range (lo hi : Nat)
  | mult (m lo hi : Nat)
deriving DecidableEq, Repr

/-- `v` is one of the field's legal values. -/
def Legal.ok : Legal → Nat → Bool
  | .any, _ => true
  | .range lo hi, v => decide (lo ≤ v ∧ v ≤ hi)
  | .mult m lo hi, v => decide (lo ≤ v ∧ v ≤ hi ∧ v % m = 0)

/-- How a field takes a write (Table 0.3). -/
inductive FieldKind where
  | rw | w1c | w1s
deriving DecidableEq, Repr

/-- One writable field. -/
structure RField where
  hi : Nat
  lo : Nat
  kind : FieldKind
  legal : Legal
deriving DecidableEq, Repr

/-- Access of a register. -/
inductive RAcc where
  | rw | ro | wo
deriving DecidableEq, Repr

/-- A register or an array of registers of one kind. -/
structure RegSpec where
  off : Nat
  count : Nat
  stride : Nat
  width : Nat
  acc : RAcc
  reset : Nat
  resets : List (Nat × Nat)
  fields : List RField
deriving DecidableEq, Repr

/-- Part 0 of the register table. -/
def regTable0 : List RegSpec :=
  [ ⟨0, 1, 4, 32, .ro, 3231101185, [], []⟩,
    ⟨4, 1, 4, 32, .ro, 0, [], []⟩,
    ⟨8, 1, 4, 32, .ro, 0, [], []⟩,
    ⟨12, 1, 4, 32, .ro, 0, [], []⟩,
    ⟨16, 1, 8, 64, .ro, 0, [], []⟩,
    ⟨4096, 1, 4, 32, .ro, 0, [], []⟩,
    ⟨4100, 1, 4, 32, .ro, 0, [], []⟩,
    ⟨4104, 1, 4, 32, .ro, 0, [], []⟩,
    ⟨4108, 1, 4, 32, .rw, 100, [], [⟨7, 0, .rw, (.range 85 104)⟩]⟩,
    ⟨4112, 1, 4, 32, .rw, 0, [], [⟨0, 0, .rw, .any⟩]⟩,
    ⟨4116, 1, 4, 32, .rw, 0, [], [⟨1, 1, .w1c, .any⟩, ⟨0, 0, .w1c, .any⟩]⟩,
    ⟨4352, 44, 4, 32, .ro, 0, [], []⟩,
    ⟨65536, 1, 4, 32, .ro, 1, [], []⟩,
    ⟨65540, 1, 4, 32, .ro, 0, [], []⟩,
    ⟨65544, 1, 4, 32, .wo, 0, [], [⟨31, 0, .rw, .any⟩]⟩,
    ⟨65548, 1, 4, 32, .wo, 0, [], [⟨31, 31, .rw, .any⟩, ⟨0, 0, .rw, .any⟩]⟩,
    ⟨65552, 1, 4, 32, .rw, 0, [], [⟨15, 3, .w1s, .any⟩]⟩,
    ⟨65556, 1, 4, 32, .rw, 2147533648, [], [⟨31, 31, .rw, .any⟩, ⟨23, 0, .rw, (.range 1000 16777215)⟩]⟩,
    ⟨65560, 1, 4, 32, .rw, 0, [], [⟨8, 8, .rw, .any⟩, ⟨7, 0, .rw, .any⟩]⟩,
    ⟨65568, 1, 4, 32, .ro, 0, [], []⟩,
    ⟨65576, 1, 8, 64, .rw, 0, [], [⟨63, 12, .rw, .any⟩]⟩,
    ⟨65584, 1, 4, 32, .rw, 0, [], [⟨31, 0, .rw, (.range 1 2147483648)⟩]⟩,
    ⟨65588, 1, 4, 32, .wo, 0, [], [⟨31, 31, .rw, .any⟩]⟩,
    ⟨65592, 1, 4, 32, .ro, 0, [], []⟩ ]

/-- Part 1 of the register table. -/
def regTable1 : List RegSpec :=
  [ ⟨65600, 1, 8, 64, .ro, 0, [], []⟩,
    ⟨65608, 1, 8, 64, .ro, 0, [], []⟩,
    ⟨65616, 8, 4, 32, .wo, 0, [], [⟨31, 0, .rw, .any⟩]⟩,
    ⟨131072, 1, 4, 32, .rw, 2000, [], [⟨16, 0, .rw, (.mult 50 500 65500)⟩]⟩,
    ⟨131076, 1, 4, 32, .ro, 2000, [], []⟩,
    ⟨131080, 1, 8, 64, .ro, 0, [], []⟩,
    ⟨131088, 1, 8, 64, .ro, 0, [], []⟩,
    ⟨131096, 1, 4, 32, .ro, 0, [], []⟩,
    ⟨131104, 1, 8, 64, .ro, 0, [], []⟩,
    ⟨131112, 1, 4, 32, .rw, 16, [], [⟨7, 0, .rw, (.range 4 255)⟩]⟩,
    ⟨131116, 1, 4, 32, .rw, 256, [], [⟨15, 0, .rw, .any⟩]⟩,
    ⟨131120, 1, 4, 32, .ro, 0, [], []⟩,
    ⟨131124, 1, 4, 32, .rw, 64, [], [⟨7, 0, .rw, (.range 16 255)⟩]⟩,
    ⟨131128, 1, 4, 32, .ro, 55705600, [], []⟩,
    ⟨131132, 1, 4, 32, .rw, 55705600, [], [⟨31, 31, .rw, .any⟩, ⟨25, 16, .rw, (.range 650 850)⟩]⟩,
    ⟨131136, 1, 4, 32, .rw, 1000, [], [⟨15, 0, .rw, (.range 1 65535)⟩]⟩,
    ⟨131328, 64, 4, 32, .ro, 0, [], []⟩,
    ⟨196608, 256, 64, 64, .rw, 0, [], [⟨63, 6, .rw, .any⟩]⟩,
    ⟨196616, 256, 64, 64, .rw, 0, [], [⟨63, 2, .rw, .any⟩]⟩,
    ⟨196624, 256, 64, 64, .rw, 0, [], [⟨63, 2, .rw, .any⟩]⟩,
    ⟨196632, 256, 64, 64, .rw, 0, [], [⟨63, 6, .rw, .any⟩]⟩,
    ⟨196640, 256, 64, 32, .rw, 16, [], [⟨31, 31, .rw, .any⟩, ⟨25, 24, .rw, .any⟩, ⟨23, 16, .rw, .any⟩, ⟨6, 0, .rw, (.range 1 64)⟩]⟩,
    ⟨196644, 256, 64, 32, .rw, 1028, [], [⟨12, 8, .rw, (.range 4 16)⟩, ⟨4, 0, .rw, (.range 4 16)⟩]⟩,
    ⟨196648, 256, 64, 32, .ro, 0, [], []⟩ ]

/-- Part 2 of the register table. -/
def regTable2 : List RegSpec :=
  [ ⟨196652, 256, 64, 32, .ro, 0, [], []⟩,
    ⟨212992, 1, 4, 32, .ro, 0, [], []⟩,
    ⟨262144, 1, 8, 64, .rw, 0, [], [⟨63, 12, .rw, .any⟩]⟩,
    ⟨262152, 1, 4, 32, .rw, 12, [], [⟨4, 0, .rw, (.range 7 20)⟩]⟩,
    ⟨262156, 1, 4, 32, .ro, 0, [], []⟩,
    ⟨262160, 1, 4, 32, .rw, 0, [], [⟨19, 0, .rw, .any⟩]⟩,
    ⟨262164, 1, 4, 32, .rw, 0, [], [⟨31, 31, .rw, .any⟩, ⟨30, 30, .w1c, .any⟩, ⟨7, 0, .rw, .any⟩]⟩,
    ⟨262168, 1, 4, 32, .ro, 0, [], []⟩,
    ⟨262400, 1, 8, 64, .ro, 0, [], []⟩,
    ⟨262408, 1, 4, 32, .ro, 0, [], []⟩,
    ⟨262412, 1, 4, 32, .ro, 0, [], []⟩,
    ⟨262416, 1, 4, 32, .ro, 0, [], []⟩,
    ⟨262420, 1, 4, 32, .ro, 0, [], []⟩,
    ⟨327680, 1, 4, 32, .rw, 32, [], [⟨9, 0, .rw, (.range 8 256)⟩]⟩,
    ⟨327684, 1, 4, 32, .rw, 48, [], [⟨7, 0, .rw, (.range 1 64)⟩]⟩,
    ⟨327688, 1, 4, 32, .rw, 25, [], [⟨7, 0, .rw, (.range 1 57)⟩]⟩,
    ⟨327692, 1, 4, 32, .rw, 60, [], [⟨15, 0, .rw, (.range 1 65535)⟩]⟩,
    ⟨327696, 1, 4, 32, .rw, 257, [], [⟨11, 8, .rw, (.range 1 8)⟩, ⟨3, 0, .rw, (.range 1 8)⟩]⟩,
    ⟨327700, 1, 4, 32, .ro, 0, [], []⟩,
    ⟨327712, 8, 4, 32, .rw, 67108864, [], [⟨31, 0, .rw, (.mult 4096 0 4294967295)⟩]⟩,
    ⟨327744, 8, 4, 32, .rw, 4, [], [⟨7, 0, .rw, .any⟩]⟩,
    ⟨327776, 1, 4, 32, .ro, 0, [], []⟩,
    ⟨327780, 1, 4, 32, .ro, 0, [], []⟩,
    ⟨327784, 1, 4, 32, .ro, 0, [], []⟩ ]

/-- Part 3 of the register table. -/
def regTable3 : List RegSpec :=
  [ ⟨327808, 1, 4, 32, .rw, 360, [], [⟨9, 0, .rw, (.range 50 400)⟩]⟩,
    ⟨327812, 1, 4, 32, .ro, 0, [], []⟩,
    ⟨327824, 1, 8, 64, .rw, 0, [], [⟨63, 12, .rw, .any⟩]⟩,
    ⟨327832, 1, 4, 32, .rw, 10, [], [⟨4, 0, .rw, (.range 6 20)⟩]⟩,
    ⟨327836, 1, 4, 32, .ro, 0, [], []⟩,
    ⟨327840, 1, 4, 32, .rw, 0, [], [⟨19, 0, .rw, .any⟩]⟩,
    ⟨327844, 1, 4, 32, .rw, 0, [], [⟨31, 31, .rw, .any⟩, ⟨30, 30, .w1c, .any⟩, ⟨7, 0, .rw, .any⟩]⟩,
    ⟨327936, 8, 8, 64, .ro, 0, [], []⟩,
    ⟨393216, 1, 4, 32, .rw, 25000, [], [⟨31, 0, .rw, (.range 1 4294967295)⟩]⟩,
    ⟨393220, 1, 4, 32, .rw, 10000000, [], [⟨31, 0, .rw, .any⟩]⟩,
    ⟨393224, 1, 4, 32, .rw, 4294967295, [], [⟨31, 0, .rw, .any⟩]⟩,
    ⟨393228, 1, 4, 32, .rw, 2000000, [], [⟨31, 0, .rw, .any⟩]⟩,
    ⟨393232, 1, 4, 32, .rw, 30000000, [], [⟨31, 0, .rw, .any⟩]⟩,
    ⟨393236, 1, 4, 32, .rw, 300000000, [], [⟨31, 0, .rw, .any⟩]⟩,
    ⟨393240, 1, 4, 32, .rw, 1000, [], [⟨15, 0, .rw, (.range 1 65535)⟩]⟩,
    ⟨393244, 1, 4, 32, .rw, 500000, [], [⟨31, 0, .rw, (.range 1 4294967295)⟩]⟩,
    ⟨393248, 1, 8, 64, .rw, 0, [], [⟨63, 0, .rw, (.range 0 18446744073709551614)⟩]⟩,
    ⟨393280, 8, 4, 32, .ro, 0, [], []⟩,
    ⟨393312, 7, 4, 32, .ro, 0, [], []⟩,
    ⟨393344, 1, 4, 32, .rw, 0, [], [⟨22, 22, .rw, .any⟩, ⟨21, 0, .rw, .any⟩]⟩,
    ⟨393472, 32, 4, 32, .ro, 0, [], []⟩,
    ⟨397312, 64, 4, 32, .rw, 16, [], [⟨7, 0, .rw, (.range 1 255)⟩]⟩,
    ⟨397568, 1, 4, 32, .rw, 0, [], [⟨0, 0, .w1s, .any⟩]⟩,
    ⟨401408, 64, 8, 64, .ro, 0, [], []⟩ ]

/-- Part 4 of the register table. -/
def regTable4 : List RegSpec :=
  [ ⟨401920, 64, 8, 64, .ro, 0, [], []⟩,
    ⟨405504, 1, 4, 32, .rw, 5000, [], [⟨23, 0, .rw, (.range 64 16777215)⟩]⟩,
    ⟨405508, 1, 4, 32, .rw, 64, [], [⟨15, 0, .rw, (.range 8 65535)⟩]⟩,
    ⟨405512, 1, 4, 32, .rw, 4096, [], [⟨15, 0, .rw, (.range 16 65535)⟩]⟩,
    ⟨405516, 1, 4, 32, .wo, 0, [], [⟨31, 31, .rw, .any⟩, ⟨23, 16, .rw, .any⟩, ⟨15, 0, .rw, .any⟩]⟩,
    ⟨405520, 1, 4, 32, .ro, 0, [], []⟩,
    ⟨405524, 1, 4, 32, .ro, 0, [], []⟩,
    ⟨405528, 1, 4, 32, .ro, 0, [], []⟩,
    ⟨405532, 1, 4, 32, .ro, 0, [], []⟩,
    ⟨405536, 1, 4, 32, .ro, 0, [], []⟩,
    ⟨405544, 1, 8, 64, .rw, 0, [], [⟨63, 0, .rw, .any⟩]⟩,
    ⟨405552, 1, 8, 64, .rw, 0, [], [⟨63, 63, .rw, .any⟩, ⟨31, 10, .rw, .any⟩, ⟨9, 0, .rw, .any⟩]⟩,
    ⟨405560, 1, 4, 32, .ro, 0, [], []⟩,
    ⟨524288, 8, 4, 32, .ro, 0, [], []⟩,
    ⟨524352, 128, 4, 32, .ro, 0, [], []⟩,
    ⟨557056, 1, 4, 32, .rw, 256, [], [⟨15, 0, .rw, .any⟩]⟩,
    ⟨557060, 1, 4, 32, .rw, 16, [], [⟨7, 0, .rw, (.range 1 255)⟩]⟩,
    ⟨557064, 1, 4, 32, .wo, 0, [], [⟨31, 31, .rw, .any⟩, ⟨6, 0, .rw, .any⟩]⟩,
    ⟨557072, 4, 4, 32, .rw, 0, [(3, 4026531840)], [⟨31, 0, .rw, .any⟩]⟩,
    ⟨557088, 1, 4, 32, .ro, 0, [], []⟩,
    ⟨557092, 1, 4, 32, .ro, 0, [], []⟩,
    ⟨557096, 1, 4, 32, .ro, 0, [], []⟩,
    ⟨557120, 8, 8, 64, .ro, 0, [], []⟩,
    ⟨557184, 8, 4, 32, .ro, 0, [], []⟩ ]

/-- Part 5 of the register table. -/
def regTable5 : List RegSpec :=
  [ ⟨557216, 8, 4, 32, .ro, 0, [], []⟩,
    ⟨557312, 128, 4, 32, .ro, 0, [(124, 1073741824), (125, 1073741824), (126, 1073741824), (127, 1073741824)], []⟩,
    ⟨558080, 128, 4, 32, .ro, 0, [], []⟩,
    ⟨573440, 1, 8, 64, .rw, 0, [], [⟨63, 7, .rw, .any⟩]⟩,
    ⟨573448, 1, 4, 32, .wo, 0, [], [⟨31, 31, .rw, .any⟩, ⟨30, 30, .rw, .any⟩, ⟨5, 0, .rw, .any⟩]⟩,
    ⟨573452, 1, 4, 32, .ro, 0, [], []⟩,
    ⟨573456, 1, 4, 32, .ro, 0, [], []⟩,
    ⟨573460, 1, 4, 32, .ro, 0, [], []⟩,
    ⟨573464, 1, 4, 32, .rw, 16384, [], [⟨31, 0, .rw, .any⟩]⟩,
    ⟨573468, 1, 4, 32, .rw, 32768, [], [⟨31, 0, .rw, .any⟩]⟩,
    ⟨573472, 1, 4, 32, .rw, 2, [], [⟨3, 0, .rw, (.range 1 15)⟩]⟩,
    ⟨573476, 1, 4, 32, .ro, 0, [], []⟩,
    ⟨573480, 1, 4, 32, .ro, 0, [], []⟩,
    ⟨573484, 1, 4, 32, .ro, 0, [], []⟩,
    ⟨573488, 1, 4, 32, .ro, 0, [], []⟩,
    ⟨573492, 1, 4, 32, .ro, 0, [], []⟩,
    ⟨573496, 1, 4, 32, .rw, 0, [], [⟨11, 0, .rw, .any⟩]⟩,
    ⟨573504, 1, 4, 32, .ro, 0, [], []⟩,
    ⟨573508, 1, 4, 32, .ro, 0, [], []⟩,
    ⟨573512, 1, 8, 64, .ro, 0, [], []⟩,
    ⟨589824, 1, 4, 32, .rw, 1985229328, [], [⟨31, 28, .rw, (.range 0 8)⟩, ⟨27, 24, .rw, (.range 0 8)⟩, ⟨23, 20, .rw, (.range 0 8)⟩, ⟨19, 16, .rw, (.range 0 8)⟩, ⟨15, 12, .rw, (.range 0 8)⟩, ⟨11, 8, .rw, (.range 0 8)⟩, ⟨7, 4, .rw, (.range 0 8)⟩, ⟨3, 0, .rw, (.range 0 8)⟩]⟩,
    ⟨589840, 1, 4, 32, .ro, 0, [], []⟩,
    ⟨589844, 1, 4, 32, .ro, 0, [], []⟩,
    ⟨589848, 1, 4, 32, .ro, 0, [], []⟩ ]

/-- Part 6 of the register table. -/
def regTable6 : List RegSpec :=
  [ ⟨589852, 1, 4, 32, .ro, 0, [], []⟩,
    ⟨589856, 1, 4, 32, .ro, 0, [], []⟩,
    ⟨589860, 1, 4, 32, .ro, 0, [], []⟩,
    ⟨589864, 1, 4, 32, .ro, 0, [], []⟩,
    ⟨589868, 1, 4, 32, .ro, 0, [], []⟩,
    ⟨589888, 8, 8, 64, .ro, 0, [], []⟩,
    ⟨589952, 8, 8, 64, .ro, 0, [], []⟩,
    ⟨655360, 1, 4, 32, .rw, 65536, [], [⟨17, 0, .rw, (.mult 256 0 90256)⟩]⟩,
    ⟨655364, 1, 4, 32, .ro, 24720, [], []⟩,
    ⟨655368, 1, 4, 32, .ro, 6328320, [], []⟩,
    ⟨655376, 1, 8, 64, .rw, 0, [], [⟨63, 21, .rw, .any⟩]⟩,
    ⟨655384, 1, 8, 64, .rw, 0, [], [⟨63, 0, .rw, (.mult 2097152 0 18446744073709551615)⟩]⟩,
    ⟨655392, 1, 8, 64, .ro, 0, [], []⟩,
    ⟨655400, 1, 8, 64, .rw, 0, [], [⟨63, 0, .rw, (.mult 4096 0 18446744073709551615)⟩]⟩,
    ⟨655408, 1, 8, 64, .rw, 1000000000000, [], [⟨63, 0, .rw, .any⟩]⟩,
    ⟨655424, 1, 8, 64, .rw, 0, [], [⟨63, 6, .rw, .any⟩]⟩,
    ⟨655432, 1, 4, 32, .wo, 0, [], [⟨31, 31, .rw, .any⟩, ⟨30, 29, .rw, .any⟩, ⟨17, 0, .rw, .any⟩]⟩,
    ⟨655436, 1, 4, 32, .ro, 0, [], []⟩,
    ⟨655440, 1, 4, 32, .ro, 0, [], []⟩,
    ⟨655444, 1, 4, 32, .ro, 0, [], []⟩,
    ⟨655448, 1, 4, 32, .ro, 0, [], []⟩,
    ⟨655452, 1, 4, 32, .ro, 0, [], []⟩,
    ⟨655456, 1, 4, 32, .ro, 48, [], []⟩,
    ⟨655460, 1, 4, 32, .ro, 1008, [], []⟩ ]

/-- Part 7 of the register table. -/
def regTable7 : List RegSpec :=
  [ ⟨655464, 1, 4, 32, .rw, 3600, [], [⟨16, 0, .rw, (.range 60 86400)⟩]⟩,
    ⟨655468, 1, 4, 32, .ro, 0, [], []⟩,
    ⟨655616, 24, 4, 32, .ro, 0, [], []⟩,
    ⟨655744, 24, 4, 32, .ro, 0, [], []⟩,
    ⟨655872, 24, 4, 32, .ro, 0, [], []⟩,
    ⟨720896, 1, 4, 32, .ro, 0, [], []⟩,
    ⟨720900, 1, 4, 32, .wo, 0, [], [⟨31, 31, .rw, .any⟩, ⟨1, 0, .rw, (.range 0 1)⟩]⟩,
    ⟨720904, 1, 4, 32, .rw, 300, [], [⟨15, 0, .rw, (.range 10 3600)⟩]⟩,
    ⟨720908, 1, 4, 32, .rw, 4104, [], [⟨15, 8, .rw, .any⟩, ⟨7, 0, .rw, .any⟩]⟩,
    ⟨720912, 1, 8, 64, .ro, 0, [], []⟩,
    ⟨720920, 1, 8, 64, .wo, 0, [], [⟨63, 0, .rw, .any⟩]⟩,
    ⟨720928, 1, 8, 64, .ro, 24000000425984, [], []⟩,
    ⟨720936, 1, 8, 64, .ro, 0, [], []⟩,
    ⟨720944, 1, 4, 32, .ro, 117656, [], []⟩,
    ⟨720948, 1, 4, 32, .ro, 0, [], []⟩,
    ⟨720952, 1, 4, 32, .ro, 0, [], []⟩,
    ⟨720956, 1, 4, 32, .ro, 320, [], []⟩,
    ⟨720960, 1, 4, 32, .ro, 0, [], []⟩,
    ⟨720964, 1, 4, 32, .ro, 0, [], []⟩,
    ⟨720968, 1, 4, 32, .ro, 0, [], []⟩,
    ⟨720972, 1, 4, 32, .ro, 0, [], []⟩,
    ⟨720976, 1, 4, 32, .ro, 0, [], []⟩,
    ⟨720980, 1, 4, 32, .ro, 0, [], []⟩,
    ⟨720984, 1, 4, 32, .ro, 0, [], []⟩ ]

/-- Part 8 of the register table. -/
def regTable8 : List RegSpec :=
  [ ⟨720988, 1, 4, 32, .ro, 0, [], []⟩,
    ⟨720992, 1, 8, 64, .ro, 0, [], []⟩,
    ⟨721000, 1, 8, 64, .ro, 0, [], []⟩,
    ⟨721008, 1, 8, 64, .ro, 0, [], []⟩,
    ⟨721152, 128, 4, 32, .ro, 320, [], []⟩,
    ⟨786432, 1, 8, 64, .rw, 0, [], [⟨63, 0, .rw, (.range 1 18446744073709551614)⟩]⟩,
    ⟨786440, 1, 4, 32, .rw, 0, [], [⟨1, 1, .w1s, .any⟩, ⟨0, 0, .rw, .any⟩]⟩,
    ⟨786444, 1, 4, 32, .rw, 50, [], [⟨7, 0, .rw, (.range 1 200)⟩]⟩,
    ⟨786448, 1, 4, 32, .rw, 4, [], [⟨7, 0, .rw, (.range 1 255)⟩]⟩,
    ⟨786452, 1, 4, 32, .rw, 6, [], [⟨3, 0, .rw, (.range 1 15)⟩]⟩,
    ⟨786456, 1, 4, 32, .rw, 64, [], [⟨15, 0, .rw, (.range 8 65535)⟩]⟩,
    ⟨786460, 1, 4, 32, .rw, 2500, [], [⟨23, 0, .rw, .any⟩]⟩,
    ⟨786464, 1, 4, 32, .rw, 5000, [], [⟨23, 0, .rw, (.range 256 16777215)⟩]⟩,
    ⟨786468, 1, 4, 32, .ro, 0, [], []⟩,
    ⟨786472, 1, 4, 32, .wo, 0, [], [⟨31, 31, .rw, .any⟩, ⟨30, 29, .rw, .any⟩, ⟨11, 0, .rw, .any⟩]⟩,
    ⟨786480, 1, 8, 64, .rw, 0, [], [⟨63, 0, .rw, .any⟩]⟩,
    ⟨786488, 1, 4, 32, .rw, 0, [], [⟨11, 0, .rw, .any⟩]⟩,
    ⟨786496, 16, 4, 32, .ro, 0, [], []⟩,
    ⟨786560, 1, 4, 32, .rw, 0, [], [⟨11, 0, .rw, .any⟩]⟩,
    ⟨786564, 1, 4, 32, .ro, 0, [], []⟩,
    ⟨786568, 1, 4, 32, .ro, 0, [], []⟩,
    ⟨786576, 1, 8, 64, .ro, 0, [], []⟩,
    ⟨786688, 1, 4, 32, .ro, 0, [], []⟩,
    ⟨786692, 1, 4, 32, .ro, 0, [], []⟩ ]

/-- Part 9 of the register table. -/
def regTable9 : List RegSpec :=
  [ ⟨786696, 1, 4, 32, .ro, 0, [], []⟩,
    ⟨786700, 1, 4, 32, .ro, 0, [], []⟩,
    ⟨786704, 1, 4, 32, .ro, 0, [], []⟩,
    ⟨786708, 1, 4, 32, .ro, 0, [], []⟩,
    ⟨786712, 1, 4, 32, .ro, 0, [], []⟩,
    ⟨786716, 1, 4, 32, .ro, 0, [], []⟩,
    ⟨786720, 1, 4, 32, .ro, 0, [], []⟩,
    ⟨786724, 1, 4, 32, .ro, 0, [], []⟩,
    ⟨786728, 1, 4, 32, .ro, 0, [], []⟩,
    ⟨786944, 8, 4, 32, .rw, 0, [], [⟨31, 31, .rw, .any⟩, ⟨2, 2, .rw, .any⟩, ⟨1, 0, .rw, (.range 0 2)⟩]⟩,
    ⟨787200, 32, 4, 32, .ro, 0, [], []⟩,
    ⟨787456, 32, 4, 32, .ro, 0, [], []⟩,
    ⟨787584, 32, 4, 32, .ro, 0, [], []⟩,
    ⟨788480, 1, 4, 32, .rw, 0, [], [⟨8, 8, .rw, .any⟩, ⟨4, 0, .rw, .any⟩]⟩,
    ⟨788496, 8, 4, 32, .wo, 0, [], [⟨31, 0, .rw, .any⟩]⟩,
    ⟨788528, 1, 4, 32, .wo, 0, [], [⟨31, 0, .rw, .any⟩]⟩,
    ⟨788532, 1, 4, 32, .wo, 0, [], [⟨31, 31, .rw, .any⟩, ⟨1, 0, .rw, .any⟩]⟩,
    ⟨790528, 1, 4, 32, .rw, 20, [], [⟨7, 0, .rw, .any⟩]⟩,
    ⟨790532, 1, 4, 32, .rw, 0, [], [⟨31, 31, .w1s, .any⟩, ⟨3, 0, .rw, .any⟩]⟩,
    ⟨790544, 1, 4, 32, .ro, 0, [], []⟩,
    ⟨790560, 8, 4, 32, .rw, 64, [(1, 256), (2, 128), (3, 256), (5, 128)], [⟨10, 0, .rw, (.range 0 1024)⟩]⟩,
    ⟨790592, 8, 4, 32, .ro, 9879, [], []⟩,
    ⟨790656, 16, 4, 32, .rw, 0, [(0, 4278321151)], [⟨31, 24, .rw, .any⟩, ⟨16, 0, .rw, .any⟩]⟩,
    ⟨790784, 64, 4, 32, .rw, 238, [], [⟨7, 5, .rw, .any⟩, ⟨3, 1, .rw, .any⟩]⟩ ]

/-- Part 10 of the register table. -/
def regTable10 : List RegSpec :=
  [ ⟨791040, 1, 4, 32, .rw, 0, [], [⟨30, 30, .w1s, .any⟩, ⟨12, 8, .rw, .any⟩, ⟨2, 0, .rw, .any⟩]⟩,
    ⟨791044, 1, 4, 32, .ro, 0, [], []⟩,
    ⟨791048, 1, 4, 32, .ro, 0, [], []⟩,
    ⟨791052, 1, 4, 32, .ro, 0, [], []⟩,
    ⟨791056, 1, 4, 32, .ro, 0, [], []⟩,
    ⟨847872, 1, 8, 64, .rw, 0, [], [⟨63, 12, .rw, .any⟩]⟩,
    ⟨847880, 1, 4, 32, .wo, 0, [], [⟨31, 0, .rw, .any⟩]⟩,
    ⟨847884, 1, 4, 32, .ro, 0, [], []⟩,
    ⟨847888, 1, 4, 32, .rw, 5000, [], [⟨23, 0, .rw, (.range 16 16777215)⟩]⟩,
    ⟨847892, 1, 4, 32, .ro, 0, [], []⟩,
    ⟨847896, 1, 4, 32, .ro, 0, [], []⟩,
    ⟨847900, 1, 4, 32, .ro, 0, [], []⟩,
    ⟨917504, 1, 8, 64, .rw, 0, [], [⟨63, 0, .rw, (.range 0 18446744073709551614)⟩]⟩,
    ⟨917512, 1, 4, 32, .wo, 0, [], [⟨31, 31, .rw, .any⟩, ⟨30, 28, .rw, (.range 0 1)⟩, ⟨2, 0, .rw, .any⟩]⟩,
    ⟨917516, 1, 4, 32, .ro, 0, [], []⟩,
    ⟨917520, 1, 4, 32, .rw, 300, [], [⟨9, 0, .rw, (.range 0 1000)⟩]⟩,
    ⟨917524, 1, 4, 32, .rw, 1, [], [⟨7, 0, .rw, .any⟩]⟩,
    ⟨917528, 1, 4, 32, .rw, 5000000, [], [⟨31, 0, .rw, (.range 1 4294967295)⟩]⟩,
    ⟨917532, 1, 4, 32, .rw, 8, [], [⟨15, 0, .rw, .any⟩]⟩,
    ⟨917536, 1, 4, 32, .rw, 256, [], [⟨15, 0, .rw, (.range 64 65535)⟩]⟩,
    ⟨917540, 1, 4, 32, .rw, 64, [], [⟨15, 0, .rw, (.range 1 65535)⟩]⟩,
    ⟨917544, 1, 4, 32, .rw, 50000, [], [⟨23, 0, .rw, (.range 256 16777215)⟩]⟩,
    ⟨917548, 1, 4, 32, .rw, 840172033, [], [⟨31, 24, .rw, .any⟩, ⟨23, 16, .rw, .any⟩, ⟨15, 8, .rw, .any⟩, ⟨7, 0, .rw, .any⟩]⟩,
    ⟨917552, 1, 4, 32, .ro, 0, [], []⟩ ]

/-- Part 11 of the register table. -/
def regTable11 : List RegSpec :=
  [ ⟨917556, 1, 4, 32, .ro, 0, [], []⟩,
    ⟨917568, 8, 4, 32, .ro, 0, [], []⟩,
    ⟨917600, 8, 4, 32, .ro, 0, [], []⟩,
    ⟨917632, 8, 4, 32, .ro, 0, [], []⟩,
    ⟨917760, 1, 4, 32, .rw, 0, [], [⟨14, 12, .rw, .any⟩, ⟨8, 0, .rw, .any⟩]⟩,
    ⟨917768, 1, 8, 64, .ro, 0, [], []⟩,
    ⟨917776, 1, 4, 32, .ro, 0, [], []⟩,
    ⟨917780, 1, 4, 32, .ro, 0, [], []⟩,
    ⟨983040, 1, 4, 32, .rw, 500000, [], [⟨31, 31, .rw, .any⟩, ⟨23, 0, .rw, (.range 1024 16777215)⟩]⟩,
    ⟨983048, 1, 8, 64, .rw, 0, [], [⟨63, 12, .rw, .any⟩]⟩,
    ⟨983056, 1, 4, 32, .rw, 6, [], [⟨3, 0, .rw, (.range 2 12)⟩]⟩,
    ⟨983060, 1, 4, 32, .ro, 0, [], []⟩,
    ⟨983064, 1, 4, 32, .rw, 0, [], [⟨11, 0, .rw, .any⟩]⟩,
    ⟨983068, 1, 4, 32, .ro, 0, [], []⟩,
    ⟨983072, 1, 4, 32, .rw, 100, [], [⟨15, 0, .rw, (.range 10 10000)⟩]⟩,
    ⟨983076, 1, 4, 32, .rw, 7, [], [⟨7, 0, .rw, (.range 1 90)⟩]⟩,
    ⟨983080, 1, 4, 32, .ro, 0, [], []⟩,
    ⟨983084, 1, 4, 32, .ro, 0, [], []⟩,
    ⟨983088, 1, 4, 32, .ro, 0, [], []⟩,
    ⟨983092, 1, 4, 32, .ro, 0, [], []⟩,
    ⟨2097152, 1, 4, 32, .rw, 0, [], [⟨0, 0, .rw, .any⟩]⟩,
    ⟨2097156, 1, 4, 32, .rw, 2, [], [⟨3, 0, .rw, (.range 0 8)⟩]⟩,
    ⟨2097160, 1, 4, 32, .rw, 2147483648, [], [⟨31, 31, .rw, .any⟩, ⟨5, 4, .rw, .any⟩, ⟨1, 0, .rw, .any⟩]⟩,
    ⟨2097164, 1, 4, 32, .ro, 0, [], []⟩ ]

/-- Part 12 of the register table. -/
def regTable12 : List RegSpec :=
  [ ⟨2097168, 1, 4, 32, .ro, 0, [], []⟩,
    ⟨2097172, 1, 4, 32, .ro, 0, [], []⟩,
    ⟨2097176, 1, 4, 32, .ro, 0, [], []⟩,
    ⟨2097180, 1, 4, 32, .ro, 0, [], []⟩,
    ⟨2097408, 64, 4, 32, .ro, 16, [], []⟩,
    ⟨2097664, 128, 4, 32, .ro, 24, [], []⟩,
    ⟨2162688, 1, 4, 32, .ro, 0, [], []⟩,
    ⟨2162692, 1, 4, 32, .rw, 1, [], [⟨1, 1, .rw, .any⟩, ⟨0, 0, .rw, .any⟩]⟩,
    ⟨2162696, 1, 4, 32, .wo, 0, [], [⟨31, 31, .rw, .any⟩, ⟨1, 0, .rw, (.range 0 2)⟩]⟩,
    ⟨2162704, 1, 8, 64, .ro, 0, [], []⟩,
    ⟨2162712, 1, 8, 64, .ro, 0, [], []⟩,
    ⟨2162720, 1, 4, 32, .rw, 500, [], [⟨15, 0, .rw, (.range 64 65535)⟩]⟩,
    ⟨2162724, 1, 4, 32, .ro, 0, [], []⟩,
    ⟨2162728, 1, 4, 32, .ro, 0, [], []⟩,
    ⟨2162732, 1, 4, 32, .ro, 0, [], []⟩,
    ⟨2162736, 1, 4, 32, .ro, 0, [], []⟩,
    ⟨2162740, 1, 4, 32, .ro, 0, [], []⟩,
    ⟨2228224, 1, 4, 32, .ro, 0, [], []⟩,
    ⟨2228256, 8, 4, 32, .ro, 0, [], []⟩,
    ⟨2228288, 8, 4, 32, .ro, 0, [], []⟩,
    ⟨2228320, 1, 4, 32, .rw, 1, [], [⟨3, 0, .rw, (.range 1 9)⟩]⟩,
    ⟨2228352, 8, 4, 32, .ro, 0, [], []⟩ ]

/-- All registers, in ascending offset. -/
def regTable : List RegSpec :=
  regTable0 ++ regTable1 ++ regTable2 ++ regTable3 ++ regTable4 ++ regTable5 ++ regTable6 ++ regTable7 ++ regTable8 ++ regTable9 ++ regTable10 ++ regTable11 ++ regTable12

/-- The element of the register that offset `off` names, as (register, index); `off` is the first
byte of the element. -/
def RegSpec.index (r : RegSpec) (off : Nat) : Option Nat :=
  if r.off ≤ off ∧ off < r.off + r.count * r.stride ∧ (off - r.off) % r.stride = 0 then
    some ((off - r.off) / r.stride) else none

/-- The register whose element starts at `off`. -/
def findReg (off : Nat) : Option RegSpec := regTable.find? (fun r => (r.index off).isSome)

/-- The reset value of one element (R544). -/
def RegSpec.resetAt (r : RegSpec) (off : Nat) : Nat :=
  match r.index off with
  | none => 0
  | some i => ((r.resets.find? (fun p => p.1 == i)).map (·.2)).getD r.reset

/-- The reset value at a BAR0 offset; 0 where no register starts. -/
def resetOf (off : Nat) : Word :=
  match findReg off with
  | none => 0
  | some r => BitVec.ofNat 64 (r.resetAt off)

/-- 22_register_map.md, R541. -/
def Reg.DEV_IDENT : Nat := 0x0
/-- 22_register_map.md, R541. -/
def Reg.DEV_STATUS : Nat := 0x4
/-- 22_register_map.md, R541. -/
def Reg.DEV_STRAPS : Nat := 0x8
/-- 22_register_map.md, R541. -/
def Reg.DEV_CFG_REJECTS : Nat := 0xC
/-- 22_register_map.md, R541. -/
def Reg.DEV_SERIAL : Nat := 0x10
/-- 18_module_pins_power_cooling.md, R485. -/
def Reg.DEV_TEMP : Nat := 0x1000
/-- 18_module_pins_power_cooling.md, R485. -/
def Reg.DEV_INPUT : Nat := 0x1004
/-- 18_module_pins_power_cooling.md, R485. -/
def Reg.DEV_POWER : Nat := 0x1008
/-- 18_module_pins_power_cooling.md, R485. -/
def Reg.TJ_WARN : Nat := 0x100C
/-- 18_module_pins_power_cooling.md, R485. -/
def Reg.DEV_LED : Nat := 0x1010
/-- 18_module_pins_power_cooling.md, R485. -/
def Reg.DEV_LATCH : Nat := 0x1014
/-- 18_module_pins_power_cooling.md, R485. -/
def Reg.DEV_SENSOR (i : Nat) : Nat := 0x1100 + 4 * i
/-- 19_reset_boot_and_identity.md, R507. -/
def Reg.RST_CAUSE : Nat := 0x10000
/-- 19_reset_boot_and_identity.md, R507. -/
def Reg.RST_COUNT : Nat := 0x10004
/-- 19_reset_boot_and_identity.md, R507. -/
def Reg.RST_ARM : Nat := 0x10008
/-- 19_reset_boot_and_identity.md, R507. -/
def Reg.RST_CMD : Nat := 0x1000C
/-- 19_reset_boot_and_identity.md, R507. -/
def Reg.BLK_RESET : Nat := 0x10010
/-- 19_reset_boot_and_identity.md, R507. -/
def Reg.WDOG_CTRL : Nat := 0x10014
/-- 19_reset_boot_and_identity.md, R507. -/
def Reg.RST_NOTIFY : Nat := 0x10018
/-- 19_reset_boot_and_identity.md, R507. -/
def Reg.BOOT_STATUS : Nat := 0x10020
/-- 19_reset_boot_and_identity.md, R507. -/
def Reg.BOOT_IMG_ADDR : Nat := 0x10028
/-- 19_reset_boot_and_identity.md, R507. -/
def Reg.BOOT_IMG_LEN : Nat := 0x10030
/-- 19_reset_boot_and_identity.md, R507. -/
def Reg.BOOT_IMG_CMD : Nat := 0x10034
/-- 19_reset_boot_and_identity.md, R507. -/
def Reg.RST_FRAME_REFUSED : Nat := 0x10038
/-- 19_reset_boot_and_identity.md, R507. -/
def Reg.RST_FRAME_CTR : Nat := 0x10040
/-- 19_reset_boot_and_identity.md, R507. -/
def Reg.RST_FRAME_SRC : Nat := 0x10048
/-- 19_reset_boot_and_identity.md, R507. -/
def Reg.FABRIC_RESET_KEY (i : Nat) : Nat := 0x10050 + 4 * i
/-- 02_beats_and_clockless_timing.md, R56. -/
def Reg.BEAT_LEN : Nat := 0x20000
/-- 02_beats_and_clockless_timing.md, R56. -/
def Reg.BEAT_LEN_ACTIVE : Nat := 0x20004
/-- 02_beats_and_clockless_timing.md, R56. -/
def Reg.BEAT_NOW : Nat := 0x20008
/-- 02_beats_and_clockless_timing.md, R56. -/
def Reg.BEAT_TIME : Nat := 0x20010
/-- 02_beats_and_clockless_timing.md, R56. -/
def Reg.BEACON_STATUS : Nat := 0x20018
/-- 02_beats_and_clockless_timing.md, R56. -/
def Reg.BEACON_ROOT : Nat := 0x20020
/-- 02_beats_and_clockless_timing.md, R56. -/
def Reg.BEACON_LOSS : Nat := 0x20028
/-- 02_beats_and_clockless_timing.md, R56. -/
def Reg.BEACON_HOLDOVER : Nat := 0x2002C
/-- 02_beats_and_clockless_timing.md, R56. -/
def Reg.BEACON_DISCARDS : Nat := 0x20030
/-- 02_beats_and_clockless_timing.md, R56. -/
def Reg.TAPER_MARGIN : Nat := 0x20034
/-- 02_beats_and_clockless_timing.md, R56. -/
def Reg.TIMING_STATUS : Nat := 0x20038
/-- 02_beats_and_clockless_timing.md, R56. -/
def Reg.VOLT_CTRL : Nat := 0x2003C
/-- 02_beats_and_clockless_timing.md, R56. -/
def Reg.DERATED_EXIT : Nat := 0x20040
/-- 02_beats_and_clockless_timing.md, R56. -/
def Reg.TAPER_RATE (i : Nat) : Nat := 0x20100 + 4 * i
/-- 04_programs_intake_and_results.md, R102. -/
def Reg.INTAKE_BASE (i : Nat) : Nat := 0x30000 + 64 * i
/-- 04_programs_intake_and_results.md, R102. -/
def Reg.INTAKE_PI_ADDR (i : Nat) : Nat := 0x30008 + 64 * i
/-- 04_programs_intake_and_results.md, R102. -/
def Reg.INTAKE_CI_ADDR (i : Nat) : Nat := 0x30010 + 64 * i
/-- 04_programs_intake_and_results.md, R102. -/
def Reg.RESULT_BASE (i : Nat) : Nat := 0x30018 + 64 * i
/-- 04_programs_intake_and_results.md, R102. -/
def Reg.INTAKE_CTRL (i : Nat) : Nat := 0x30020 + 64 * i
/-- 04_programs_intake_and_results.md, R102. -/
def Reg.INTAKE_SIZE (i : Nat) : Nat := 0x30024 + 64 * i
/-- 04_programs_intake_and_results.md, R102. -/
def Reg.INTAKE_CI (i : Nat) : Nat := 0x30028 + 64 * i
/-- 04_programs_intake_and_results.md, R102. -/
def Reg.INTAKE_STATUS (i : Nat) : Nat := 0x3002C + 64 * i
/-- 04_programs_intake_and_results.md, R102. -/
def Reg.INTAKE_BURST_SUM : Nat := 0x34000
/-- 04_programs_intake_and_results.md, R122. -/
def Reg.EVENT_RING_BASE : Nat := 0x40000
/-- 04_programs_intake_and_results.md, R122. -/
def Reg.EVENT_RING_SIZE : Nat := 0x40008
/-- 04_programs_intake_and_results.md, R122. -/
def Reg.EVENT_RING_PI : Nat := 0x4000C
/-- 04_programs_intake_and_results.md, R122. -/
def Reg.EVENT_RING_CI : Nat := 0x40010
/-- 04_programs_intake_and_results.md, R122. -/
def Reg.EVENT_CTRL : Nat := 0x40014
/-- 04_programs_intake_and_results.md, R122. -/
def Reg.EVENT_DROPPED : Nat := 0x40018
/-- 22_register_map.md, R542. -/
def Reg.RESULT_WRITTEN : Nat := 0x40100
/-- 22_register_map.md, R542. -/
def Reg.RESULT_NO_RECORD : Nat := 0x40108
/-- 22_register_map.md, R542. -/
def Reg.RESULT_WRITE_ERRORS : Nat := 0x4010C
/-- 22_register_map.md, R542. -/
def Reg.RESULT_ERR_LAST : Nat := 0x40110
/-- 22_register_map.md, R542. -/
def Reg.RESULT_INFLIGHT : Nat := 0x40114
/-- 03_delivery_promise.md, R89. -/
def Reg.BG_SHARE : Nat := 0x50000
/-- 03_delivery_promise.md, R89. -/
def Reg.CXL_RESUME_BW : Nat := 0x50004
/-- 03_delivery_promise.md, R89. -/
def Reg.FLASH_RESUME_BW : Nat := 0x50008
/-- 03_delivery_promise.md, R89. -/
def Reg.FLASH_FIRST_BEATS : Nat := 0x5000C
/-- 03_delivery_promise.md, R89. -/
def Reg.RESUME_SLOTS : Nat := 0x50010
/-- 03_delivery_promise.md, R89. -/
def Reg.RESUME_BUSY : Nat := 0x50014
/-- 03_delivery_promise.md, R89. -/
def Reg.ADMIT_LIMIT (i : Nat) : Nat := 0x50020 + 4 * i
/-- 03_delivery_promise.md, R89. -/
def Reg.ADMIT_STEPS (i : Nat) : Nat := 0x50040 + 4 * i
/-- 03_delivery_promise.md, R89. -/
def Reg.ADMIT_REFUSALS : Nat := 0x50060
/-- 03_delivery_promise.md, R89. -/
def Reg.BREACH_COUNT : Nat := 0x50064
/-- 03_delivery_promise.md, R89. -/
def Reg.BREACH_DROPPED : Nat := 0x50068
/-- 02_beats_and_clockless_timing.md, R56. -/
def Reg.POWER_CAP : Nat := 0x50080
/-- 02_beats_and_clockless_timing.md, R56. -/
def Reg.POWER_SUM : Nat := 0x50084
/-- 03_delivery_promise.md, R89. -/
def Reg.BREACH_RING_BASE : Nat := 0x50090
/-- 03_delivery_promise.md, R89. -/
def Reg.BREACH_RING_SIZE : Nat := 0x50098
/-- 03_delivery_promise.md, R89. -/
def Reg.BREACH_RING_PI : Nat := 0x5009C
/-- 03_delivery_promise.md, R89. -/
def Reg.BREACH_RING_CI : Nat := 0x500A0
/-- 16_cxl_host_attachment.md, R447. -/
def Reg.BREACH_CTRL : Nat := 0x500A4
/-- 03_delivery_promise.md, R89. -/
def Reg.ADMIT_QUEUED (i : Nat) : Nat := 0x50100 + 8 * i
/-- 06_lanterns_and_request_table.md, R185. -/
def Reg.LTN_IDLE_DEFAULT : Nat := 0x60000
/-- 06_lanterns_and_request_table.md, R185. -/
def Reg.LTN_TOOL_DEFAULT : Nat := 0x60004
/-- 06_lanterns_and_request_table.md, R185. -/
def Reg.LTN_IDLE_HINT : Nat := 0x60008
/-- 06_lanterns_and_request_table.md, R185. -/
def Reg.PARK_T_PACK : Nat := 0x6000C
/-- 06_lanterns_and_request_table.md, R185. -/
def Reg.PARK_T_HOST : Nat := 0x60010
/-- 06_lanterns_and_request_table.md, R185. -/
def Reg.PARK_T_CACHE : Nat := 0x60014
/-- 06_lanterns_and_request_table.md, R185. -/
def Reg.LTN_RETRY : Nat := 0x60018
/-- 06_lanterns_and_request_table.md, R185. -/
def Reg.REQ_RELEASE_TIMEOUT : Nat := 0x6001C
/-- 06_lanterns_and_request_table.md, R185. -/
def Reg.LTN_PARK_NODE : Nat := 0x60020
/-- 06_lanterns_and_request_table.md, R185. -/
def Reg.LTN_STATE_COUNT (i : Nat) : Nat := 0x60040 + 4 * i
/-- 06_lanterns_and_request_table.md, R185. -/
def Reg.REQ_STATE_COUNT (i : Nat) : Nat := 0x60060 + 4 * i
/-- 06_lanterns_and_request_table.md, R185. -/
def Reg.PEEK_SEL : Nat := 0x60080
/-- 06_lanterns_and_request_table.md, R185. -/
def Reg.PEEK_DATA (i : Nat) : Nat := 0x60100 + 4 * i
/-- 06_lanterns_and_request_table.md, R185. -/
def Reg.SC_WEIGHT (i : Nat) : Nat := 0x61000 + 4 * i
/-- 06_lanterns_and_request_table.md, R185. -/
def Reg.SC_SNAP : Nat := 0x61100
/-- 06_lanterns_and_request_table.md, R185. -/
def Reg.SC_TILE_BEATS (i : Nat) : Nat := 0x62000 + 8 * i
/-- 06_lanterns_and_request_table.md, R185. -/
def Reg.SC_LINK_BYTES (i : Nat) : Nat := 0x62200 + 8 * i
/-- 07_deeds_and_epochs.md, R214. -/
def Reg.DEED_TIMEOUT : Nat := 0x63000
/-- 07_deeds_and_epochs.md, R214. -/
def Reg.DEED_QUERY_GAP : Nat := 0x63004
/-- 07_deeds_and_epochs.md, R214. -/
def Reg.DEED_PAGES : Nat := 0x63008
/-- 07_deeds_and_epochs.md, R214. -/
def Reg.MOVE_KILL : Nat := 0x6300C
/-- 07_deeds_and_epochs.md, R214. -/
def Reg.MOVES_OUT : Nat := 0x63010
/-- 07_deeds_and_epochs.md, R214. -/
def Reg.MOVES_IN : Nat := 0x63014
/-- 07_deeds_and_epochs.md, R214. -/
def Reg.DEED_ORPHANS : Nat := 0x63018
/-- 07_deeds_and_epochs.md, R214. -/
def Reg.HOSTED_COUNT : Nat := 0x6301C
/-- 07_deeds_and_epochs.md, R214. -/
def Reg.STALE_DISCARDS : Nat := 0x63020
/-- 07_deeds_and_epochs.md, R214. -/
def Reg.HOSTED_KEEPER : Nat := 0x63028
/-- 07_deeds_and_epochs.md, R214. -/
def Reg.HOSTED_FIND : Nat := 0x63030
/-- 07_deeds_and_epochs.md, R214. -/
def Reg.HOSTED_INDEX : Nat := 0x63038
/-- 15_fields_faults_and_composition.md, R433. -/
def Reg.MEADOW_STATE (i : Nat) : Nat := 0x80000 + 4 * i
/-- 15_fields_faults_and_composition.md, R433. -/
def Reg.MEADOW_DESC (i : Nat) : Nat := 0x80040 + 4 * i
/-- 08_step_engine_and_formats.md, R250. -/
def Reg.SHADOW_EVERY : Nat := 0x88000
/-- 08_step_engine_and_formats.md, R250. -/
def Reg.CANARY_PASSES : Nat := 0x88004
/-- 08_step_engine_and_formats.md, R250. -/
def Reg.TILE_CLEAR : Nat := 0x88008
/-- 08_step_engine_and_formats.md, R250. -/
def Reg.SHADOW_SET (i : Nat) : Nat := 0x88010 + 4 * i
/-- 08_step_engine_and_formats.md, R250. -/
def Reg.SHADOW_RUNS : Nat := 0x88020
/-- 08_step_engine_and_formats.md, R250. -/
def Reg.SHADOW_MISMATCHES : Nat := 0x88024
/-- 08_step_engine_and_formats.md, R250. -/
def Reg.SHADOW_ABANDONED : Nat := 0x88028
/-- 08_step_engine_and_formats.md, R250. -/
def Reg.STEP_SEQ (i : Nat) : Nat := 0x88040 + 8 * i
/-- 08_step_engine_and_formats.md, R250. -/
def Reg.FMT_SAT (i : Nat) : Nat := 0x88080 + 4 * i
/-- 08_step_engine_and_formats.md, R250. -/
def Reg.FMT_NAN (i : Nat) : Nat := 0x880A0 + 4 * i
/-- 08_step_engine_and_formats.md, R250. -/
def Reg.TILE_STATE (i : Nat) : Nat := 0x88100 + 4 * i
/-- 08_step_engine_and_formats.md, R250. -/
def Reg.QUAR_HIST (i : Nat) : Nat := 0x88400 + 4 * i
/-- 09_kv_pages_and_near_state_attention.md, R283. -/
def Reg.MODEL_DESC_ADDR : Nat := 0x8C000
/-- 09_kv_pages_and_near_state_attention.md, R283. -/
def Reg.MODEL_CMD : Nat := 0x8C008
/-- 09_kv_pages_and_near_state_attention.md, R283. -/
def Reg.MODEL_STATUS : Nat := 0x8C00C
/-- 09_kv_pages_and_near_state_attention.md, R283. -/
def Reg.KV_FRAMES_TOTAL : Nat := 0x8C010
/-- 09_kv_pages_and_near_state_attention.md, R283. -/
def Reg.KV_FRAMES_FREE : Nat := 0x8C014
/-- 09_kv_pages_and_near_state_attention.md, R283. -/
def Reg.KV_EMBER_LOW : Nat := 0x8C018
/-- 09_kv_pages_and_near_state_attention.md, R283. -/
def Reg.KV_EMBER_HIGH : Nat := 0x8C01C
/-- 09_kv_pages_and_near_state_attention.md, R283. -/
def Reg.EMBER_PER_BEAT : Nat := 0x8C020
/-- 09_kv_pages_and_near_state_attention.md, R283. -/
def Reg.EMBER_AUTO_COUNT : Nat := 0x8C024
/-- 09_kv_pages_and_near_state_attention.md, R283. -/
def Reg.PREFIX_NODES : Nat := 0x8C028
/-- 09_kv_pages_and_near_state_attention.md, R283. -/
def Reg.PREFIX_EVICTED : Nat := 0x8C02C
/-- 09_kv_pages_and_near_state_attention.md, R283. -/
def Reg.PARTIAL_LATE : Nat := 0x8C030
/-- 09_kv_pages_and_near_state_attention.md, R283. -/
def Reg.ADP_RESIDENT : Nat := 0x8C034
/-- 09_kv_pages_and_near_state_attention.md, R283. -/
def Reg.ADP_SEL : Nat := 0x8C038
/-- 09_kv_pages_and_near_state_attention.md, R283. -/
def Reg.ADP_INFO0 : Nat := 0x8C040
/-- 09_kv_pages_and_near_state_attention.md, R283. -/
def Reg.ADP_INFO1 : Nat := 0x8C044
/-- 09_kv_pages_and_near_state_attention.md, R283. -/
def Reg.ADP_INFO2 : Nat := 0x8C048
/-- 10_codecs.md, R308. -/
def Reg.EXP_ASSIGN : Nat := 0x90000
/-- 10_codecs.md, R308. -/
def Reg.FR_SAT : Nat := 0x90010
/-- 10_codecs.md, R308. -/
def Reg.FR_NAN_GROUPS : Nat := 0x90014
/-- 10_codecs.md, R308. -/
def Reg.FR_BADQUAD : Nat := 0x90018
/-- 10_codecs.md, R308. -/
def Reg.FR_PARTIAL : Nat := 0x9001C
/-- 10_codecs.md, R308. -/
def Reg.EXACT_RAW_BLOCKS : Nat := 0x90020
/-- 10_codecs.md, R308. -/
def Reg.EXACT_SIZE_ERRORS : Nat := 0x90024
/-- 10_codecs.md, R308. -/
def Reg.EXACT_CRC_ERRORS : Nat := 0x90028
/-- 10_codecs.md, R308. -/
def Reg.EXACT_STALL_BEATS : Nat := 0x9002C
/-- 10_codecs.md, R308. -/
def Reg.EXP_IN_BYTES (i : Nat) : Nat := 0x90040 + 8 * i
/-- 10_codecs.md, R308. -/
def Reg.EXP_OUT_BYTES (i : Nat) : Nat := 0x90080 + 8 * i
/-- 11_memory_tiers.md, R328. -/
def Reg.GDDR_KV_SIZE : Nat := 0xA0000
/-- 11_memory_tiers.md, R328. -/
def Reg.GDDR_OBJ_SIZE : Nat := 0xA0004
/-- 11_memory_tiers.md, R328. -/
def Reg.GDDR_OBJ_FREE : Nat := 0xA0008
/-- 11_memory_tiers.md, R328. -/
def Reg.SWAP_BASE : Nat := 0xA0010
/-- 11_memory_tiers.md, R328. -/
def Reg.SWAP_SIZE : Nat := 0xA0018
/-- 11_memory_tiers.md, R328. -/
def Reg.SWAP_FREE : Nat := 0xA0020
/-- 11_memory_tiers.md, R328. -/
def Reg.SWAP_RESERVE : Nat := 0xA0028
/-- 11_memory_tiers.md, R328. -/
def Reg.FLASH_PARK_RESERVE : Nat := 0xA0030
/-- 11_memory_tiers.md, R328. -/
def Reg.OBJ_DESC_ADDR : Nat := 0xA0040
/-- 11_memory_tiers.md, R328. -/
def Reg.OBJ_CMD : Nat := 0xA0048
/-- 11_memory_tiers.md, R328. -/
def Reg.OBJ_STATUS : Nat := 0xA004C
/-- 11_memory_tiers.md, R328. -/
def Reg.OBJ_COUNT : Nat := 0xA0050
/-- 11_memory_tiers.md, R328. -/
def Reg.HDM_UNMAPPED : Nat := 0xA0054
/-- 11_memory_tiers.md, R328. -/
def Reg.HDM_WRITE_DISCARD : Nat := 0xA0058
/-- 11_memory_tiers.md, R328. -/
def Reg.RT_QUEUED : Nat := 0xA005C
/-- 11_memory_tiers.md, R328. -/
def Reg.RT_BOUND_HOST : Nat := 0xA0060
/-- 11_memory_tiers.md, R328. -/
def Reg.RT_BOUND_FLASH : Nat := 0xA0064
/-- 11_memory_tiers.md, R328. -/
def Reg.SCRUB_PERIOD : Nat := 0xA0068
/-- 11_memory_tiers.md, R328. -/
def Reg.SCRUB_PASSES : Nat := 0xA006C
/-- 11_memory_tiers.md, R328. -/
def Reg.GDDR_CE (i : Nat) : Nat := 0xA0100 + 4 * i
/-- 11_memory_tiers.md, R328. -/
def Reg.GDDR_UE (i : Nat) : Nat := 0xA0180 + 4 * i
/-- 11_memory_tiers.md, R328. -/
def Reg.GDDR_RETIRED (i : Nat) : Nat := 0xA0200 + 4 * i
/-- 12_flash_steward.md, R355. -/
def Reg.FLASH_STATUS : Nat := 0xB0000
/-- 12_flash_steward.md, R355. -/
def Reg.FLASH_CMD : Nat := 0xB0004
/-- 12_flash_steward.md, R355. -/
def Reg.FLASH_CKPT_PERIOD : Nat := 0xB0008
/-- 12_flash_steward.md, R355. -/
def Reg.FLASH_GC_MARKS : Nat := 0xB000C
/-- 12_flash_steward.md, R355. -/
def Reg.FLASH_TIME : Nat := 0xB0010
/-- 12_flash_steward.md, R355. -/
def Reg.FLASH_TIME_SET : Nat := 0xB0018
/-- 12_flash_steward.md, R355. -/
def Reg.FLASH_EXPORTED : Nat := 0xB0020
/-- 12_flash_steward.md, R355. -/
def Reg.FLASH_FREE : Nat := 0xB0028
/-- 12_flash_steward.md, R355. -/
def Reg.FLASH_FIRST_NS : Nat := 0xB0030
/-- 12_flash_steward.md, R355. -/
def Reg.FLASH_OPEN : Nat := 0xB0034
/-- 12_flash_steward.md, R355. -/
def Reg.FLASH_FREE_SB : Nat := 0xB0038
/-- 12_flash_steward.md, R355. -/
def Reg.FLASH_SPARES_MIN : Nat := 0xB003C
/-- 12_flash_steward.md, R355. -/
def Reg.FLASH_RETIRED : Nat := 0xB0040
/-- 12_flash_steward.md, R355. -/
def Reg.FLASH_RETRY1 : Nat := 0xB0044
/-- 12_flash_steward.md, R355. -/
def Reg.FLASH_RETRY2 : Nat := 0xB0048
/-- 12_flash_steward.md, R355. -/
def Reg.FLASH_REBUILDS : Nat := 0xB004C
/-- 12_flash_steward.md, R355. -/
def Reg.FLASH_MEDIA_FAULTS : Nat := 0xB0050
/-- 12_flash_steward.md, R355. -/
def Reg.FLASH_LOST_UNITS : Nat := 0xB0054
/-- 12_flash_steward.md, R355. -/
def Reg.FLASH_ERASE_MAX : Nat := 0xB0058
/-- 12_flash_steward.md, R355. -/
def Reg.FLASH_ERASE_MIN : Nat := 0xB005C
/-- 12_flash_steward.md, R355. -/
def Reg.FLASH_GC_BYTES : Nat := 0xB0060
/-- 12_flash_steward.md, R355. -/
def Reg.FLASH_JOURNAL_SEQ : Nat := 0xB0068
/-- 12_flash_steward.md, R355. -/
def Reg.FLASH_CKPT_SEQ : Nat := 0xB0070
/-- 12_flash_steward.md, R355. -/
def Reg.FLASH_DIE_SPARES (i : Nat) : Nat := 0xB0100 + 4 * i
/-- 13_alhado_fabric_and_windows.md, R392. -/
def Reg.NODE_ID : Nat := 0xC0000
/-- 13_alhado_fabric_and_windows.md, R392. -/
def Reg.FAB_CTRL : Nat := 0xC0008
/-- 13_alhado_fabric_and_windows.md, R392. -/
def Reg.LOAD_TIMEOUT : Nat := 0xC000C
/-- 13_alhado_fabric_and_windows.md, R392. -/
def Reg.RETX_MARGIN : Nat := 0xC0010
/-- 13_alhado_fabric_and_windows.md, R392. -/
def Reg.RETX_LIMIT : Nat := 0xC0014
/-- 13_alhado_fabric_and_windows.md, R392. -/
def Reg.HEARTBEAT_GAP : Nat := 0xC0018
/-- 13_alhado_fabric_and_windows.md, R392. -/
def Reg.PARTNER_DEAD_BEATS : Nat := 0xC001C
/-- 13_alhado_fabric_and_windows.md, R392. -/
def Reg.JOIN_TIMEOUT : Nat := 0xC0020
/-- 13_alhado_fabric_and_windows.md, R392. -/
def Reg.PARTNER_COUNT : Nat := 0xC0024
/-- 13_alhado_fabric_and_windows.md, R392. -/
def Reg.PARTNER_CMD : Nat := 0xC0028
/-- 13_alhado_fabric_and_windows.md, R392. -/
def Reg.PARTNER_CMD_NODE : Nat := 0xC0030
/-- 13_alhado_fabric_and_windows.md, R392. -/
def Reg.PARTNER_SEL : Nat := 0xC0038
/-- 13_alhado_fabric_and_windows.md, R392. -/
def Reg.PARTNER_DATA (i : Nat) : Nat := 0xC0040 + 4 * i
/-- 13_alhado_fabric_and_windows.md, R392. -/
def Reg.WIN_SEL : Nat := 0xC0080
/-- 13_alhado_fabric_and_windows.md, R392. -/
def Reg.WIN_INFO0 : Nat := 0xC0084
/-- 13_alhado_fabric_and_windows.md, R392. -/
def Reg.WIN_INFO1 : Nat := 0xC0088
/-- 13_alhado_fabric_and_windows.md, R392. -/
def Reg.WIN_INFO2 : Nat := 0xC0090
/-- 13_alhado_fabric_and_windows.md, R392. -/
def Reg.TP_DUPLICATES : Nat := 0xC0100
/-- 13_alhado_fabric_and_windows.md, R392. -/
def Reg.TP_OUT_OF_WINDOW : Nat := 0xC0104
/-- 13_alhado_fabric_and_windows.md, R392. -/
def Reg.TP_RETX : Nat := 0xC0108
/-- 13_alhado_fabric_and_windows.md, R392. -/
def Reg.FRAME_DROPS : Nat := 0xC010C
/-- 13_alhado_fabric_and_windows.md, R392. -/
def Reg.FWD_DROPS : Nat := 0xC0110
/-- 13_alhado_fabric_and_windows.md, R392. -/
def Reg.GCM_FAILURES : Nat := 0xC0114
/-- 13_alhado_fabric_and_windows.md, R392. -/
def Reg.WIN_STALE : Nat := 0xC0118
/-- 13_alhado_fabric_and_windows.md, R392. -/
def Reg.WIN_REVOKED : Nat := 0xC011C
/-- 13_alhado_fabric_and_windows.md, R392. -/
def Reg.WIN_VIOLATIONS : Nat := 0xC0120
/-- 13_alhado_fabric_and_windows.md, R392. -/
def Reg.LOAD_TIMEOUTS : Nat := 0xC0124
/-- 13_alhado_fabric_and_windows.md, R392. -/
def Reg.COPY_COMMITS : Nat := 0xC0128
/-- 13_alhado_fabric_and_windows.md, R392. -/
def Reg.PORT_CFG (i : Nat) : Nat := 0xC0200 + 4 * i
/-- 13_alhado_fabric_and_windows.md, R392. -/
def Reg.LINK_STATUS (i : Nat) : Nat := 0xC0300 + 4 * i
/-- 13_alhado_fabric_and_windows.md, R392. -/
def Reg.LINK_FEC_CE (i : Nat) : Nat := 0xC0400 + 4 * i
/-- 13_alhado_fabric_and_windows.md, R392. -/
def Reg.LINK_FEC_UE (i : Nat) : Nat := 0xC0480 + 4 * i
/-- 13_alhado_fabric_and_windows.md, R392. -/
def Reg.KEY_SEL : Nat := 0xC0800
/-- 13_alhado_fabric_and_windows.md, R392. -/
def Reg.KEY_DATA (i : Nat) : Nat := 0xC0810 + 4 * i
/-- 13_alhado_fabric_and_windows.md, R392. -/
def Reg.KEY_SALT : Nat := 0xC0830
/-- 13_alhado_fabric_and_windows.md, R392. -/
def Reg.KEY_CMD : Nat := 0xC0834
/-- 14_traffic_classes_and_gates.md, R405. -/
def Reg.LEN_OVERHEAD : Nat := 0xC1000
/-- 14_traffic_classes_and_gates.md, R405. -/
def Reg.GATE_CTRL : Nat := 0xC1004
/-- 14_traffic_classes_and_gates.md, R405. -/
def Reg.FWD_LATE : Nat := 0xC1010
/-- 14_traffic_classes_and_gates.md, R405. -/
def Reg.CLASS_SHARE (i : Nat) : Nat := 0xC1020 + 4 * i
/-- 14_traffic_classes_and_gates.md, R405. -/
def Reg.GATE_FRACTION (i : Nat) : Nat := 0xC1040 + 4 * i
/-- 14_traffic_classes_and_gates.md, R405. -/
def Reg.GATE_LIST (i : Nat) : Nat := 0xC1080 + 4 * i
/-- 14_traffic_classes_and_gates.md, R405. -/
def Reg.SC_TC_ALLOW (i : Nat) : Nat := 0xC1100 + 4 * i
/-- 14_traffic_classes_and_gates.md, R405. -/
def Reg.QUEUE_SEL : Nat := 0xC1200
/-- 14_traffic_classes_and_gates.md, R405. -/
def Reg.QUEUE_DEPTH : Nat := 0xC1204
/-- 14_traffic_classes_and_gates.md, R405. -/
def Reg.QUEUE_DEPTH_MAX : Nat := 0xC1208
/-- 14_traffic_classes_and_gates.md, R405. -/
def Reg.QUEUE_DELAY : Nat := 0xC120C
/-- 14_traffic_classes_and_gates.md, R405. -/
def Reg.QUEUE_DELAY_MAX : Nat := 0xC1210
/-- 07_deeds_and_epochs.md, R214. -/
def Reg.ROUTE_MAP_BASE : Nat := 0xCF000
/-- 07_deeds_and_epochs.md, R214. -/
def Reg.ROUTE_INSTALL : Nat := 0xCF008
/-- 07_deeds_and_epochs.md, R214. -/
def Reg.ROUTE_EPOCH : Nat := 0xCF00C
/-- 07_deeds_and_epochs.md, R214. -/
def Reg.MAP_DRAIN : Nat := 0xCF010
/-- 07_deeds_and_epochs.md, R214. -/
def Reg.MAP_DRAIN_LEFT : Nat := 0xCF014
/-- 07_deeds_and_epochs.md, R214. -/
def Reg.MAP_FORWARDS : Nat := 0xCF018
/-- 07_deeds_and_epochs.md, R214. -/
def Reg.MAP_STALE : Nat := 0xCF01C
/-- 15_fields_faults_and_composition.md, R433. -/
def Reg.FIELD_FOLLOW : Nat := 0xE0000
/-- 15_fields_faults_and_composition.md, R433. -/
def Reg.FIELD_CTRL : Nat := 0xE0008
/-- 15_fields_faults_and_composition.md, R433. -/
def Reg.FIELD_READY : Nat := 0xE000C
/-- 15_fields_faults_and_composition.md, R433. -/
def Reg.EXPEL_THRESHOLD : Nat := 0xE0010
/-- 15_fields_faults_and_composition.md, R433. -/
def Reg.EXPEL_BUDGET : Nat := 0xE0014
/-- 15_fields_faults_and_composition.md, R433. -/
def Reg.EXPEL_WINDOW : Nat := 0xE0018
/-- 15_fields_faults_and_composition.md, R433. -/
def Reg.STRAGGLE_STEPS : Nat := 0xE001C
/-- 15_fields_faults_and_composition.md, R433. -/
def Reg.FIELD_LEAD : Nat := 0xE0020
/-- 15_fields_faults_and_composition.md, R433. -/
def Reg.FIELD_GRACE : Nat := 0xE0024
/-- 15_fields_faults_and_composition.md, R433. -/
def Reg.FIELD_FORM_TIMEOUT : Nat := 0xE0028
/-- 15_fields_faults_and_composition.md, R433. -/
def Reg.HEALTH_PEN : Nat := 0xE002C
/-- 15_fields_faults_and_composition.md, R433. -/
def Reg.EXPEL_COUNT : Nat := 0xE0030
/-- 15_fields_faults_and_composition.md, R433. -/
def Reg.HOLD_COUNT : Nat := 0xE0034
/-- 15_fields_faults_and_composition.md, R433. -/
def Reg.FIELD_STATUS (i : Nat) : Nat := 0xE0040 + 4 * i
/-- 15_fields_faults_and_composition.md, R433. -/
def Reg.FIELD_ID (i : Nat) : Nat := 0xE0060 + 4 * i
/-- 15_fields_faults_and_composition.md, R433. -/
def Reg.FIELD_EPOCH (i : Nat) : Nat := 0xE0080 + 4 * i
/-- 15_fields_faults_and_composition.md, R433. -/
def Reg.FIELD_SEL : Nat := 0xE0100
/-- 15_fields_faults_and_composition.md, R433. -/
def Reg.FIELD_MEMBER0 : Nat := 0xE0108
/-- 15_fields_faults_and_composition.md, R433. -/
def Reg.FIELD_MEMBER1 : Nat := 0xE0110
/-- 15_fields_faults_and_composition.md, R433. -/
def Reg.FIELD_MEMBER2 : Nat := 0xE0114
/-- 21_background_work_and_telemetry.md, R533. -/
def Reg.TELEM_CTRL : Nat := 0xF0000
/-- 21_background_work_and_telemetry.md, R533. -/
def Reg.TELEM_RING_BASE : Nat := 0xF0008
/-- 21_background_work_and_telemetry.md, R533. -/
def Reg.TELEM_RING_SIZE : Nat := 0xF0010
/-- 21_background_work_and_telemetry.md, R533. -/
def Reg.TELEM_RING_PI : Nat := 0xF0014
/-- 21_background_work_and_telemetry.md, R533. -/
def Reg.TELEM_RING_CI : Nat := 0xF0018
/-- 21_background_work_and_telemetry.md, R533. -/
def Reg.TELEM_DROPPED : Nat := 0xF001C
/-- 21_background_work_and_telemetry.md, R533. -/
def Reg.CAL_PERIOD : Nat := 0xF0020
/-- 21_background_work_and_telemetry.md, R533. -/
def Reg.FLASH_PATROL_DAYS : Nat := 0xF0024
/-- 21_background_work_and_telemetry.md, R533. -/
def Reg.BG_STATUS : Nat := 0xF0028
/-- 21_background_work_and_telemetry.md, R533. -/
def Reg.BG_PEAK : Nat := 0xF002C
/-- 21_background_work_and_telemetry.md, R533. -/
def Reg.EVENT_COUNT : Nat := 0xF0030
/-- 21_background_work_and_telemetry.md, R533. -/
def Reg.PLDM_EID : Nat := 0xF0034
/-- 17_on_chip_memory.md, R467. -/
def Reg.COMMONS_ARB : Nat := 0x200000
/-- 17_on_chip_memory.md, R467. -/
def Reg.COMMONS_HOST : Nat := 0x200004
/-- 17_on_chip_memory.md, R467. -/
def Reg.MARCH_CTRL : Nat := 0x200008
/-- 17_on_chip_memory.md, R467. -/
def Reg.MARCH_BUSY : Nat := 0x20000C
/-- 17_on_chip_memory.md, R467. -/
def Reg.SRAM_CE : Nat := 0x200010
/-- 17_on_chip_memory.md, R467. -/
def Reg.SRAM_UE : Nat := 0x200014
/-- 17_on_chip_memory.md, R467. -/
def Reg.COMMONS_COLLISIONS : Nat := 0x200018
/-- 17_on_chip_memory.md, R467. -/
def Reg.COMMONS_HOST_DISCARD : Nat := 0x20001C
/-- 17_on_chip_memory.md, R467. -/
def Reg.BANK_SPARES (i : Nat) : Nat := 0x200100 + 4 * i
/-- 17_on_chip_memory.md, R467. -/
def Reg.TILE_SPARES (i : Nat) : Nat := 0x200200 + 4 * i
/-- 20_firmware_update.md, R524. -/
def Reg.FW_STATUS : Nat := 0x210000
/-- 20_firmware_update.md, R524. -/
def Reg.FW_CTRL : Nat := 0x210004
/-- 20_firmware_update.md, R524. -/
def Reg.FW_CMD : Nat := 0x210008
/-- 20_firmware_update.md, R524. -/
def Reg.FW_ARMED_BEAT : Nat := 0x210010
/-- 20_firmware_update.md, R524. -/
def Reg.FW_PROMISED_MAX : Nat := 0x210018
/-- 20_firmware_update.md, R524. -/
def Reg.FW_ACT_BEATS : Nat := 0x210020
/-- 20_firmware_update.md, R524. -/
def Reg.FW_VERSION_ACTIVE : Nat := 0x210024
/-- 20_firmware_update.md, R524. -/
def Reg.FW_VERSION_STAGED : Nat := 0x210028
/-- 20_firmware_update.md, R524. -/
def Reg.FW_VERSION_STORE : Nat := 0x21002C
/-- 20_firmware_update.md, R524. -/
def Reg.FW_SEC_FLOOR : Nat := 0x210030
/-- 20_firmware_update.md, R524. -/
def Reg.FW_SETTINGS_VERSION : Nat := 0x210034
/-- 19_reset_boot_and_identity.md, R507. -/
def Reg.SEC_STATUS : Nat := 0x220000
/-- 19_reset_boot_and_identity.md, R507. -/
def Reg.SEC_ID_PUBKEY (i : Nat) : Nat := 0x220020 + 4 * i
/-- 19_reset_boot_and_identity.md, R507. -/
def Reg.SEC_DIGEST (i : Nat) : Nat := 0x220040 + 4 * i
/-- 19_reset_boot_and_identity.md, R507. -/
def Reg.SEC_MEAS_SEL : Nat := 0x220060
/-- 19_reset_boot_and_identity.md, R507. -/
def Reg.SEC_MEAS_DATA (i : Nat) : Nat := 0x220080 + 4 * i

end Sys2Proof.Machine
end

