-- ==== Sys2Proof/Machine/Table.lean ====
section
/-! DEFINITION. Sparse tables: every register block, memory and object table of the Cucia is a list
of key and value pairs in one canonical form (keys strictly rising, no entry equal to what an
unlisted key reads as), so that equal tables are equal data. -/

namespace Sys2Proof.Machine

/-- A sparse table. -/
abbrev Tbl (α : Type) := List (Nat × α)

/-- The listed value at key `k`. -/
def Tbl.find {α : Type} : Tbl α → Nat → Option α
  | [], _ => none
  | (j, v) :: t, k => if j = k then some v else Tbl.find t k

/-- The entry at `k` removed. -/
def Tbl.drop {α : Type} : Tbl α → Nat → Tbl α
  | [], _ => []
  | (j, v) :: t, k => if j = k then Tbl.drop t k else (j, v) :: Tbl.drop t k

/-- The entry `(k, v)` put before the first larger key. -/
def Tbl.put {α : Type} : Tbl α → Nat → α → Tbl α
  | [], k, v => [(k, v)]
  | (j, w) :: t, k, v => if k < j then (k, v) :: (j, w) :: t else (j, w) :: Tbl.put t k v

/-- The value at `k`, `d k` when unlisted. DESIGN CHOICE, log entry 2. -/
def Tbl.get {α : Type} (d : Nat → α) (t : Tbl α) (k : Nat) : α := (Tbl.find t k).getD (d k)

/-- `k` set to `v`; the default value is not listed. -/
def Tbl.set {α : Type} [DecidableEq α] (d : Nat → α) (t : Tbl α) (k : Nat) (v : α) : Tbl α :=
  if v = d k then Tbl.drop t k else Tbl.put (Tbl.drop t k) k v

/-- The keys rise strictly from `lo` (exclusive when given). -/
def Tbl.sortedFrom {α : Type} : Option Nat → Tbl α → Bool
  | _, [] => true
  | none, (j, _) :: t => Tbl.sortedFrom (some j) t
  | some i, (j, _) :: t => decide (i < j) && Tbl.sortedFrom (some j) t

/-- The canonical form. -/
def Tbl.wf {α : Type} [DecidableEq α] (d : Nat → α) (t : Tbl α) : Bool :=
  Tbl.sortedFrom none t && t.all (fun e => decide (e.2 ≠ d e.1))

/-- The keys whose value meets `p`, lowest first. -/
def Tbl.keys {α : Type} (t : Tbl α) (p : α → Bool) : List Nat :=
  (t.filter (fun e => p e.2)).map (·.1)

/-- How many listed values meet `p`. -/
def Tbl.count {α : Type} (t : Tbl α) (p : α → Bool) : Nat := (t.filter (fun e => p e.2)).length

/-- The lowest key from `i` on that is not listed, among at most `fuel` candidates. DESIGN CHOICE, log entry 60. -/
def Tbl.lowestFree {α : Type} (t : Tbl α) (i : Nat) : Nat → Option Nat
  | 0 => none
  | n + 1 => match t.find i with
    | none => some i
    | some _ => Tbl.lowestFree t (i + 1) n

/-- Every listed value rewritten. -/
def Tbl.mapVals {α : Type} (f : Nat → α → α) (t : Tbl α) : Tbl α := t.map (fun e => (e.1, f e.1 e.2))

/-- Runs of used units, by first unit; a table of lengths. -/
abbrev Extents := Tbl Nat

/-- Units in use. -/
def Extents.used (x : Extents) : Nat := (x.map (·.2)).sum

/-- The lowest start, at or above `at_`, of a free run of `n` units below `cap`. DESIGN CHOICE, log entry 60. -/
def Extents.fit (n cap : Nat) : Extents → Nat → Option Nat
  | [], at_ => if at_ + n ≤ cap then some at_ else none
  | (s, len) :: t, at_ =>
    if at_ + n ≤ s then (if at_ + n ≤ cap then some at_ else none)
    else Extents.fit n cap t (max at_ (s + len))

/-- Big-memory reads and writes, byte by byte. -/
def Tbl.readBytes (m : Tbl (BitVec 8)) (a n : Nat) : List (BitVec 8) :=
  (List.range n).map (fun i => Tbl.get (fun _ => 0) m (a + i))

def Tbl.writeBytes (m : Tbl (BitVec 8)) (a : Nat) : List (BitVec 8) → Tbl (BitVec 8)
  | [] => m
  | b :: bs => Tbl.writeBytes (Tbl.set (fun _ => 0) m a b) (a + 1) bs

end Sys2Proof.Machine
end

