-- ==== Sys2Proof/Machine/State.lean ====
section
/-! DEFINITION. The state of the Cucia: every register, table, queue, timer and mode the spec gives
it, as plain data; why a step can stop; and the machine at power-on reset. -/

namespace Sys2Proof.Machine

/-! ## Beats (chapter 2) -/

/-- Table 2.3. -/
inductive BeaconState where
  | local_ | acquiring | locked | freeRun | master
deriving DecidableEq, Repr

/-- Table 2.5. -/
inductive Timing where
  | normal | marginLow | derated
deriving DecidableEq, Repr

/-- The beat, the beacon, the tapers and the voltage loop (R29 to R55). -/
structure Clock where
  now : Nat := 0
  time : Nat := 0
  len : Nat := 2000
  lenPending : Option Nat := none
  /-- order of Table 2.1 that this beat has reached; 8 once the beat's work is done -/
  order : Nat := 8
  beacon : BeaconState := .local_
  root : NodeId := 0
  offset : Int := 0
  hops : Nat := 0
  /-- consecutive offsets within the lock band (R38) -/
  inBand : Nat := 0
  lastBeacon : Nat := 0
  freeSince : Nat := 0
  /-- correction not yet slewed into the boundary, in ns (R36) -/
  correction : Int := 0
  beaconLink : Option Nat := none
  timing : Timing := .normal
  exitCount : Nat := 0
  volt : Nat := 850
  /-- beats since the last step of the voltage loop at the higher level (R46) -/
  highCount : Nat := 0
  minTaper : Nat := 0
  /-- last taper readings, cycles per second -/
  tapers : List Nat := []
  overBeats : Nat := 0
  /-- beat of the last measurement above it (R55) -/
  overAt : Nat := 0
  overRaised : Bool := false
  /-- measured one-way delay by link, ns (R37) -/
  delays : Tbl Nat := []
  /-- children of the beacon's distribution tree, and at a root every follower in the order of the requests
  (R35, R412) -/
  children : List NodeId := []
  followers : List NodeId := []
  /-- beat of the follow request that awaits its lock (R412) -/
  followAt : Option Nat := none
deriving DecidableEq, Repr

/-! ## Promises and breaches (chapter 3) -/

/-- An open promise (R59, R81 to R86). -/
structure Promise where
  id : Nat
  ring : Nat
  slot : Nat
  tag : Nat
  index : Nat
  meadow : Nat
  svc : Nat
  tc : Nat
  k : Nat
  n : Nat
  d : Nat
  /-- the terms of the bound in formula order: code of Table 3.4 and allotment -/
  terms : List (Nat × Nat)
  /-- term code and beat of each phase that has ended -/
  ends : List (Nat × Nat)
  /-- BAR0 offsets of the registers the bound drew on (R77) -/
  regs : List Nat
  lantern : Option Nat
  request : Option Nat
  peer : NodeId
  path : Bool
  media : Bool
  derated : Bool
  /-- the initiating Cucia judges it from a commit beat (R199, R381) -/
  remote : Bool
  /-- promised instructions not yet committed, and those of them that commit at another Cucia -/
  left : Nat
  remoteLeft : Nat
  /-- the latest commit beat among those that have committed (R61) -/
  last : Nat
  /-- the beat length that the bound was evaluated with (R32) -/
  b : Nat
  breached : Bool
deriving DecidableEq, Repr

/-- A write held under R77 until the named promises have ended. -/
structure PendingWrite where
  off : Nat
  value : Nat
  promises : List Nat
deriving DecidableEq, Repr

/-! ## Programs, intake, results, events (chapter 4) -/

/-- A parsed intake entry (Tables 4.1, 4.2) as fetched. -/
structure Entry where
  ring : Nat
  tag : Nat
  slot : Nat
  progressEn : Bool
  notify : Bool
  fullTurn : Bool
  meadow : Nat
  svc : Nat
  progress : Nat
  deadline : Nat
  prog : List (BitVec 128)
  isInline : Bool
  /-- a field held a reserved encoding (R91, R101) -/
  bad : Bool
  resultBase : Nat
deriving DecidableEq, Repr

/-- What a context waits for. -/
inductive Wait where
  | none
  | lamp (lamp target : Nat) (till : Option Nat)
  | op
  | power (watts since : Nat)
  | room (cls since : Nat)
  | drain (meadow : Nat)
deriving DecidableEq, Repr

/-- A posted instruction of a program (R127): the command, its code once completed, and the state it then observed. -/
structure Posted where
  index : Nat
  cmd : Instr
  done : Option Code
  obs : Nat := 0
deriving DecidableEq, Repr

/-- What admission granted to one instruction of the group ahead of its start: bytes counted in a
class (R67), a step scheduled, or the code that step has already ended with. -/
structure Grant where
  index : Nat
  cls : Nat
  bytes : Nat
  step : Option Nat
  code : Option Code
  /-- tier whose resume slot it holds (R69), 0 for none -/
  slot : Nat
  /-- declared power counted from the admission of a `SHADOW` of the group (R53) -/
  watts : Nat := 0
deriving DecidableEq, Repr

/-- Where a program context stands. -/
inductive CtxPhase where
  | presented | running | draining | fencing | awaitRequest
deriving DecidableEq, Repr

/-- A program context of the Lamplighter (R93), with the bound fields its result record reports. -/
structure Ctx where
  entry : Entry
  phase : CtxPhase
  wait : Wait
  pc : Nat
  stack : List Nat
  posted : List Posted
  halted : Bool
  /-- instructions of the admission group (R108), admitted together -/
  group : Nat
  promise : Option Nat
  admitBeat : Nat
  bound : Nat
  accepted : Bool
  breached : Bool
  term : Nat
  request : Option Nat
  lantern : Option Nat
  out0 : Nat
  out1 : Nat
  outLen : Nat
  progressBp : Nat
  progressLost : Bool
  progressOwn : Bool
  /-- the code its request has ended with, while the program still runs -/
  reqCode : Option Code
  grants : List Grant
  /-- the record's bound fields already report the group or the first promised instruction (R105) -/
  reported : Bool
  /-- its place in the order of presentation (R62, R95) -/
  turn : Nat := 0
  /-- beat in which its program began to wait for the power cap (R53) -/
  powerSince : Option Nat := none
deriving DecidableEq, Repr

/-- A ring's state beside its registers (Table 4.6). -/
structure RingSt where
  ci : Nat := 0
  state : Nat := 0
  error : Nat := 0
  /-- the value last written to INTAKE_CI_ADDR -/
  told : Nat := 0
deriving DecidableEq, Repr

/-- A result record on its way to host memory (R104, R543). -/
structure ResultOut where
  ring : Nat
  slot : Nat
  status : Nat
  notify : Bool
  addr : Nat
  bytes : Bytes
deriving DecidableEq, Repr

/-- A progress record (Table 4.11). -/
structure Progress where
  tag : Nat := 0
  ring : Nat := 0
  state : Nat := 0
  bp : Nat := 0
  unit : Nat := 0
  position : Nat := 0
  total : Nat := 0
  update : Nat := 0
  /-- position and basis points of a further update in the same beat, which the next boundary shows (R118) -/
  next : Option (Nat × Nat) := none
deriving DecidableEq, Repr

/-- An event being recorded (Table 21.3): `order` is the order of Table 2.1 at which it was raised,
0 for none. -/
structure EvRec where
  order : Nat
  code : Nat
  attr : Nat
  count : Nat
  beat : Nat
  node : NodeId
  detail : Nat
deriving DecidableEq, Repr

/-- Intake, contexts, results, events and progress. -/
structure Intake where
  rings : Tbl RingSt := []
  staging : List Entry := []
  late : List Entry := []
  ctxs : Tbl Ctx := []
  nextTurn : Nat := 0
  /-- records written this beat whose response is not yet known -/
  results : List ResultOut := []
  retries : List ResultOut := []
  progress : Tbl Progress := []
  /-- events of this beat, in writing order -/
  evBeat : List EvRec := []
  /-- numbered records held on chip (at most 256) -/
  evStore : List (Nat × EvRec) := []
  evSeq : Nat := 0
  evLost : Bool := false
  evWrote : Bool := false
  evEdge : Bool := false
  brStore : List Bytes := []
  brSeq : Nat := 0
  brWrote : Bool := false
  brEdge : Bool := false
  promises : List Promise := []
  nextPromise : Nat := 0
  pendingWrites : List PendingWrite := []
  /-- registers whose terms were shortened in this beat, with the value that admissions of the beat still use (R77) -/
  oldRegs : List (Nat × Nat) := []
  lamps : Tbl Word := []
  /-- MSI-X table entries to be signalled at the end of this beat (R446) -/
  msix : List Nat := []
deriving DecidableEq, Repr

/-! ## Pages, lanterns, requests, deeds (chapters 6, 7, 9) -/

/-- A page entry (Table 9.3). -/
structure Page where
  tier : Nat
  shared : Bool
  ratio : Nat
  loc : Nat
deriving DecidableEq, Repr

/-- A page list named by its root address (Table 9.2). -/
structure PList where
  pages : List Page := []
  readOnly : Bool := false
  bound : Option Nat := none
  model : Nat := 0
  adapter : Nat := 0
  posStart : Nat := 0
deriving DecidableEq, Repr

/-- Table 6.2. -/
inductive LState where
  | closed | idle | active | toolWait | swapped | hibernated | lent | orphaned
deriving DecidableEq, Repr

/-- A lantern entry (Table 6.1), with its shared pages and its token log (R271). -/
structure Lantern where
  state : LState := .closed
  toolWaitFlag : Bool := false
  nearState : Bool := false
  packed : Bool := false
  svc : Nat := 0
  meadow : Nat := 0
  model : Nat := 0
  adapter : Nat := 0
  request : Option Nat := none
  deeds : Nat := 0
  prior : LState := .closed
  parkTier : Nat := 0
  tokens : Nat := 0
  idleTimeout : Nat := 0
  hintUs : Nat := 0
  timer : Nat := 0
  release : Nat := 0
  parkedBytes : Nat := 0
  cookie : Nat := 0
  create : Nat := 0
  shared : List Page := []
  log : List (BitVec 16) := []
  /-- ember map: deed, epoch, pos_start, pos_count (R272) -/
  embers : List (Nat × Nat × Nat × Nat) := []
  /-- reserved for the open of a lantern move (R163) -/
  reserved : Bool := false
  /-- the cache node has refused its park: the next tier is taken (R171) -/
  cacheRefused : Bool := false
deriving DecidableEq, Repr

/-- Table 6.6. -/
inductive RState where
  | free | admitted | running | done | overdue | failed | killed
deriving DecidableEq, Repr

/-- A request entry (Table 6.5) with what the engine needs beside it. -/
structure Request where
  state : RState := .free
  breached : Bool := false
  entryEnded : Bool := false
  noDeadline : Bool := false
  fullTurn : Bool := false
  follow : Bool := false
  onOverdue : Nat := 0
  prio : Nat := 0
  svc : Nat := 0
  meadow : Nat := 0
  finalCode : Option Code := none
  row : Option Nat := none
  lantern : Nat := 0
  adapter : Nat := 0
  tag : Nat := 0
  deadlineBeat : Nat := 0
  promisedBeat : Nat := 0
  pTokens : Nat := 0
  prefilled : Nat := 0
  gMax : Nat := 0
  generated : Nat := 0
  placement : Nat := 0
  ring : Nat := 0
  slot : Nat := 0
  /-- admission order (R180) -/
  order : Nat := 0
  /-- it stands in the prefill queue with the requests that have a deadline (R180) -/
  ahead : Bool := false
  /-- a pending `REQ_RELEASE`: tool wait flag and hint -/
  releasing : Option (Bool × Nat) := none
  /-- its `LTN_RESUME` has not yet committed (Table 6.6) -/
  resuming : Bool := false
  promise : Option Nat := none
  ctx : Option Nat := none
  /-- beat in which it entered `DONE`; prompt tokens entered so far; whether it completed late -/
  doneBeat : Nat := 0
  completed : Bool := false
  reserved : Bool := false
  tokensAddr : Nat := 0
  outAddr : Nat := 0
  /-- beat in which its deadline token committed -/
  dt : Option Nat := none
  /-- the last token it generated -/
  lastTok : Option (BitVec 16) := none
  /-- a step has carried it -/
  carried : Bool := false
deriving DecidableEq, Repr

/-- Table 7.2. -/
inductive DState where
  | none | home | lent | incoming | remote | orphaned | ember
deriving DecidableEq, Repr

/-- A deed entry (Table 7.1) with its pages; `deed` is the deed index in the lantern. -/
structure Deed where
  state : DState := .none
  ratio : Nat := 0
  partials : Nat := 0
  posStart : Nat := 0
  posCount : Nat := 0
  region : Bool := false
  deed : Nat := 0
  home : NodeId := 0
  epoch : Nat := 0
  peer : NodeId := 0
  keeper : NodeId := 0
  keeperLantern : Nat := 0
  pages : List Page := []
  npages : Nat := 0
  /-- the heads_local its pages were laid out for (R256), 0 where not known. DEDUCED, log entry 172 -/
  laid : Nat := 0
deriving DecidableEq, Repr

/-- Where a deed entry is: a keeper's table, the hosted table, or a window (R142). -/
inductive DRef where
  | own (lantern deed : Nat)
  | hosted (i : Nat)
  | region (w : Nat)
deriving DecidableEq, Repr

/-- An entry of the receipt log: a committed transfer with its deed keys and epochs, the home they went to, the lantern index
there, and the transfer's source and number (R198). -/
structure Receipt where
  deeds : List (DeedKey × Nat)
  commit : Option Nat
  home : NodeId
  lantern : Option Nat
  src : NodeId
  mv : Nat
deriving DecidableEq, Repr

/-- Who waits for a long operation. -/
inductive Owner where
  | instr (c : Nat)
  | posted (c index : Nat)
  | engine
deriving DecidableEq, Repr

/-- A move as source (R195 to R202). -/
structure MoveOut where
  id : Nat
  owner : Owner
  ring : Nat
  slot : Nat
  dst : NodeId
  lantern : Option Nat
  deeds : List DRef
  /-- 1 open, 2 stream, 3 sealed -/
  phase : Nat
  n : Nat
  k : Nat
  hops : Nat
  promise : Option Nat
  rate : Nat
  sent : Nat
  sealBeat : Nat
  tc : Nat
  svc : Nat
  queried : Nat
  parked : Bool
  /-- hosted entries reserved at the start (R194) -/
  hostedKept : Nat
  /-- DEED_QUERY_GAP and DEED_TIMEOUT as they stood at the receipt deadline (R215) -/
  gap : Nat
  tmo : Nat
deriving DecidableEq, Repr

/-- A move as destination. -/
structure MoveIn where
  id : Nat
  src : NodeId
  op : MoveOpen
  refs : List DRef
  lantern : Option Nat
  request : Option Nat
  got : Nat
  /-- last beat in which a `SEAL` is awaited (R201) -/
  till : Nat
  badCheck : Bool
  /-- it is a park to this cache node: its class is TC3 (R18) -/
  parked : Bool := false
  /-- number of its own queries to the source, 0 before the first (R201) -/
  query : Nat := 0
deriving DecidableEq, Repr

/-- A decree notice being repeated (R204). -/
structure Decree where
  id : Nat
  key : DeedKey
  epoch : Nat
  dst : NodeId
  /-- hosted entries that wait for the lantern index of the acknowledgement -/
  kept : List Nat
  gap : Nat
  sentBeat : Nat
deriving DecidableEq, Repr

/-- A software `DEED_QUERY` in flight (R205). -/
structure QueryOut where
  id : Nat
  c : Nat
  dst : NodeId
  key : DeedKey
  gap : Nat
  till : Nat
  sentBeat : Nat
  localView : Nat
deriving DecidableEq, Repr

/-- A park in progress (R276): tier of Table 6.1, the places its pages go to, in list order. -/
structure Park where
  lantern : Nat
  tier : Nat
  owner : Owner
  pages : List Page
  bytes : Nat
  /-- who waits in the packed tier for room in TC3 (R18) -/
  waiting : Option Owner := none
deriving DecidableEq, Repr

/-- A resume in move mode in progress (R277): source tier, and the request admitted with it. -/
structure Resume where
  lantern : Nat
  tier : Nat
  owner : Owner
  request : Option Nat
  promise : Option Nat
  /-- its pages have been read, and wait for room in the KV pool -/
  read : Bool := false
deriving DecidableEq, Repr

/-- Lanterns, requests, deeds, moves. -/
structure Lore where
  lanterns : Tbl Lantern := []
  requests : Tbl Request := []
  nextOrder : Nat := 0
  /-- keeper tables, by 1,024 × lantern + deed -/
  deeds : Tbl Deed := []
  hosted : Tbl Deed := []
  hostedReserved : Nat := 0
  receipts : List Receipt := []
  /-- transfers that this Cucia gave away as source, with their new homes (R213) -/
  released : List Receipt := []
  /-- transfers abandoned as destination (R201) -/
  abandoned : List Receipt := []
  movesOut : List MoveOut := []
  movesIn : List MoveIn := []
  nextMove : Nat := 1
  decrees : List Decree := []
  queries : List QueryOut := []
  parks : List Park := []
  resumes : List Resume := []
  hostedFind : Nat := 0
  /-- MOVE_KILL as written, until order 1 of the next beat samples it (R206) -/
  moveKill : Option (Nat × Nat) := none
  peek : Bytes := []
  /-- running counters of the service classes (R183) and the latched copy -/
  scTile : Tbl Nat := []
  scLink : Tbl Nat := []
  scTileSnap : Tbl Nat := []
  scLinkSnap : Tbl Nat := []
  /-- an open of a move has arrived since the last reset -/
  opensSeen : Bool := false
  /-- automatic embering has begun and free space has not yet reached KV_EMBER_HIGH (R273) -/
  embering : Bool := false
  /-- beat in which the lantern engine last embered -/
  emberBeat : Option Nat := none
deriving DecidableEq, Repr

/-- A trie node (Table 9.5). -/
structure TrieNode where
  hash : Digest := 0
  parent : Option Nat := none
  depth : Nat := 0
  pages : List Page := []
  posStart : Nat := 0
  model : Nat := 0
  adapter : Nat := 0
  lastUse : Nat := 0
deriving DecidableEq, Repr

/-- A model descriptor (Table 9.1). -/
structure Model where
  model : Nat := 0
  layers : Nat := 0
  qHeads : Nat := 0
  kvHeads : Nat := 0
  headDim : Nat := 0
  headsLocal : Nat := 0
  kvFmt : Nat := 0
  ratio : Nat := 0
  byPosition : Bool := false
  pageTokens : Nat := 0
  eos : Nat := 0
  maxPositions : Nat := 0
  weights : Nat := 0
  partialProg : Nat := 0
deriving DecidableEq, Repr

/-- An adapter version (R278 to R280): state 0 free, 1 resident, 2 retired. -/
structure Adapter where
  state : Nat := 0
  model : Nat := 0
  successor : Option Nat := none
  payload : Bytes := []
  object : Nat := 0
deriving DecidableEq, Repr

/-- An object descriptor (Table 11.1); `state` is 0 when the index is not in use. -/
structure Obj where
  base : Nat := 0
  size : Nat := 0
  home : Nat := 0
  exact : Bool := false
  ratio : Nat := 0
  touch : Bool := false
  readOnly : Bool := false
  fmt : Nat := 0
  state : Nat := 0
  loc : Nat := 0
  node : NodeId := 0
  window : Nat := 0
  stored : Nat := 0
  touchBeat : Nat := 0
  cookie : Nat := 0
  placement : Nat := 0
  migrateFail : Option Nat := none
deriving DecidableEq, Repr

/-- A tier move in progress (R313). -/
structure TierMv where
  obj : Nat
  target : Nat
  loc : Nat
  owner : Owner
  promise : Option Nat
  /-- host writes held while `LENT`: HDM offset and bytes, oldest first -/
  held : List (Nat × Bytes)
  slot : Nat
deriving DecidableEq, Repr

/-- A read-through queued or in flight (R324, R325). -/
structure ReadThrough where
  tier : Nat
  obj : Nat
  unit : Nat
  offs : List Nat
deriving DecidableEq, Repr

/-- Pages, prefixes, models, adapters, objects and the memories behind them. -/
structure Store where
  lists : Tbl PList := []
  refs : Tbl Nat := []
  kvUsed : Extents := []
  swapUsed : Extents := []
  objUsed : Extents := []
  flashUsed : Extents := []
  trie : Tbl TrieNode := []
  models : Tbl Model := []
  adapters : Tbl Adapter := []
  objs : Tbl Obj := []
  tierMoves : List TierMv := []
  rts : List ReadThrough := []
  gddr : Tbl Byte := []
  flash : Tbl Byte := []
  swap : Tbl Byte := []
  /-- consecutive patrol passes in which a 4 KiB unit was corrected, and retired units (R321) -/
  ceRuns : Tbl Nat := []
  retired : List Nat := []
  retirePending : List Nat := []
  setDescs : Tbl (List Page × Nat × Nat) := []
deriving DecidableEq, Repr

/-! ## Steps and meadows (chapters 8, 15) -/

/-- A step program header (Table 8.4), parsed. -/
structure Hdr where
  addr : Nat
  kind : Nat
  merges : Bool
  sat : Bool
  generic : Bool
  beatNs : Nat
  pLen : Nat
  energy : Nat
  chunk : Nat
  rows : Nat
  tiles : Nat
  allow : Nat
  pattern : Nat
  members : Nat
  shardEpoch : Nat
  model : Nat
  bodyAddr : Nat
  bodyWords : Nat
  capture : Nat
  shardTable : Nat
  reduceTable : Nat
  weights : Nat
  crc : Nat
  /-- word places of the length and segment tables in tile SRAM -/
  len4 : Nat
  seg4 : Nat
deriving DecidableEq, Repr

/-- What one row does in a step (R237): tokens taken, its segment, positions committed before. -/
structure RowUse where
  row : Nat
  request : Nat
  tokens : Nat
  segment : Nat
  kvLen : Nat
  /-- the tokens are prompt tokens -/
  prompt : Bool
  /-- this is a generation token, or the last chunk of the prompt (R73) -/
  emits : Bool
deriving DecidableEq, Repr

/-- An admitted step: `STEP_RUN`, or a step of `REKINDLE` (lantern, first and last deed). -/
structure Step where
  id : Nat
  owner : Owner
  hdr : Hdr
  rekindle : Option (Nat × Nat × Nat × Nat)
  start : Nat
  commit : Nat
  /-- the beat in which it was to commit when it was admitted, reckoned without overruns (R549) -/
  due : Nat
  /-- the beats that its tiles used, once their last stage has completed (R48) -/
  used : Option Nat
  started : Bool
  watts : Nat
  promise : Option Nat
  epoch : Nat
  index : Nat
  rows : List RowUse
deriving DecidableEq, Repr

/-- A captured step (R242). -/
structure Capture where
  seq : Nat
  hdr : Hdr
  tiles : List Nat
  crcs : List Word
  /-- the CRCs that its captured inputs give (R243) -/
  truth : List Word
  rows : List Nat
  /-- the requests of those rows (R146) -/
  requests : List Nat
  /-- 0 held, 1 discarded by a redefinition, 2 by a re-form -/
  lost : Nat
deriving DecidableEq, Repr

/-- A shadow run (R243 to R245): software's (with owner) or automatic. -/
structure ShadowRun where
  meadow : Nat
  seq : Nat
  owner : Option Nat
  promise : Option Nat
  watts : Nat
  /-- virtual tile, original tile, CRC of the original and of the shadow, for the referee -/
  mismatch : Option (Nat × Nat × Nat × Word × Word)
  hdr : Hdr
  due : Nat
  /-- the CRCs that the shadow tiles have formed (R243), and the requests of the step's rows (R146) -/
  crcs : List Word := []
  /-- the CRC that the captured inputs of the disputed virtual tile give (R245) -/
  truth : Word := 0
  /-- an automatic run that it took the set from, abandoned at the next boundary (R244) -/
  replaces : Bool := false
  requests : List Nat := []
  /-- beats of shadow-tile work that an automatic run has had within the background share (R244) -/
  worked : Nat := 0
deriving DecidableEq, Repr

/-- A `SEAL` whose frame has been sent: its number, who waits, the partner, and the beat of its acknowledgement. -/
structure SealOut where
  id : Nat
  owner : Owner
  node : NodeId
  acked : Option Nat := none
deriving DecidableEq, Repr

/-- A partial round accepted at a home (R267). -/
structure Round where
  id : Nat
  src : NodeId
  query : PartialQuery
  meadow : Nat
  row : Option Nat
  due : Nat
  arrived : Nat
deriving DecidableEq, Repr

/-- An `ATTN_PARTIAL` at the keeper (R265, R266). -/
structure PartialOp where
  id : Nat
  owner : Owner
  lantern : Nat
  deed : Nat
  epoch : Nat
  placement : Nat
  dst : NodeId
  outAddr : Nat
  /-- where an unbound partial's query rows lie, and whether in BF16 (Table 9.6) -/
  queryAddr : Nat
  bf16 : Bool
  program : Nat
  model : Nat
  stepSeq : Option Nat
  layerFirst : Nat
  layers : Nat
  rows : Nat
  pAttn : Nat
  hops : Nat
  request : Option Nat
  promise : Option Nat
  /-- layers done, rounds sent, and per round its query beat -/
  doneLayers : Nat
  sentLayers : Nat
  roundBeats : List Nat
  missed : Option Nat
  blocks : List PartialBlock
  deadline : Nat
deriving DecidableEq, Repr

/-- Table 15.2's meadow states. -/
inductive MState where
  | free | running | draining | drained
deriving DecidableEq, Repr

/-- A meadow (R13, R406 to R410, chapter 8). -/
structure Meadow where
  state : MState := .free
  role : Nat := 0
  tiles : List Nat := []
  chans : Nat := 0
  desc : Bytes := []
  /-- a definition that waits for its boundary (R408) -/
  pendingDef : Option (Bytes × Nat) := none
  pendingRole : Option Nat := none
  roleOwner : Option Nat := none
  drainOwner : Option Nat := none
  defOwner : Option Nat := none
  /-- header addresses of the programs it has run (R234) -/
  ran : List Nat := []
  program : Option Hdr := none
  steps : List Step := []
  seq : Nat := 0
  window : Option (Nat × Nat × Nat) := none
  captures : List Capture := []
  shadowNext : Nat := 0
  resplit : Option Nat := none
  sinceShadow : Nat := 0
  deficits : Tbl Nat := []
  rotation : Nat := 0
  quarantined : List Nat := []
  stuck : Bool := false
  slackMin : Option Int := none
  slackMax : Int := 0
  lastSlack : Int := 0
  overruns : Nat := 0
  shadowRuns : Nat := 0
  stalls : Nat := 0
  portShares : List Nat := []
deriving DecidableEq, Repr

/-- A tile beside its meadow (Table 8.8): state 0 FREE, 1 MEADOW, 2 SHADOW, 3 QUARANTINED,
4 RETIRED. -/
structure TileSt where
  state : Nat := 0
  meadow : Nat := 0
  band : Nat := 0
  cls : Nat := 0
  passes : Nat := 0
  fails : Nat := 0
deriving DecidableEq, Repr

/-- A `REKINDLE` in progress (R275): the range, how much of it steps have taken and committed. -/
structure Rekindle where
  owner : Owner
  meadow : Nat
  lantern : Nat
  first : Nat
  last : Nat
  total : Nat
  taken : Nat
  done : Nat
  /-- its place in the prefill queue (R180) -/
  order : Nat
  promised : Bool
  promise : Option Nat
  placement : Nat
deriving DecidableEq, Repr

/-- The step engine. -/
structure Engine where
  meadows : Tbl Meadow := []
  tiles : Tbl TileSt := []
  nextStep : Nat := 0
  /-- bodies checked: header address, hdr_crc and what was found (R235) -/
  checked : List (Nat × Nat × Bool) := []
  /-- a shadow set that waits for its boundary (R249) -/
  shadowSet : Option (List Nat) := none
  shadow : Option ShadowRun := none
  referee : List ShadowRun := []
  shadowPending : List (Nat × Nat) := []
  rounds : List Round := []
  partials : List PartialOp := []
  nextPartial : Nat := 1
  rekindles : List Rekindle := []
  /-- results of tile work in tile SRAM, by 2^20 × tile + word -/
  sram : Tbl (BitVec 32) := []
  /-- tiles without power (R49) -/
  gated : List Nat := []
  /-- shard and reduction tables by address: the members in rank order, and the tiles in shard order (R230, R234) -/
  tables : Tbl (List NodeId × List Nat) := []
deriving DecidableEq, Repr

/-! ## The fabric (chapters 13, 14) -/

/-- Table 13.8. -/
inductive PState where
  | free | joining | live | dead | left
deriving DecidableEq, Repr

/-- What a frame the Cucia sends carries. -/
inductive Payload where
  | none
  | bytes (b : Bytes)
  | moveOpen (o : MoveOpen)
  | copyOpen (o : CopyOpen)
  | moveAbort
  | receipt (r : MoveReceipt)
  | copyCommit (beat : Nat)
  | nack (n : Nack)
  | query (q : DeedQuery)
  | answer (a : DeedAnswer)
  | home (n : DeedNotice)
  | emberNote (n : DeedNotice)
  | decree (n : DecreeNotice)
  | decreeAck (a : DecreeAck)
  | partialQ (q : PartialQuery)
  | partialA (a : PartialAnswer)
  /-- a member's contribution to a step for one batch row, with the deeds and their epochs that it read (R212) -/
  | contribution (meadow stepSeq row : Nat) (deeds : List (Nat × Nat)) (data : Bytes)
  | beacon (b : Beacon)
  | ack (e : Nat) (map : List Nat)
  | probe (reply : Bool)
  | nonce (d : Digest)
  | joinResult (ok : Bool)
  | leave (eviction : Bool)
  /-- a follow request, or to the parent of a follower in the beacon's tree the child that it gets (R412) -/
  | follow (child : Option NodeId)
  | fieldOpen (d : FieldDesc)
  | fieldReady (r : FieldReady)
  | fieldCommit (fieldId beat : Nat)
  | fieldAbort (fieldId : Nat) (missing : NodeId)
  | fieldChange (ch : FieldChange)
  | stepReport (r : StepReport)
  | reset (r : ResetFrame)
  | fwOffer (o : FwOffer)
  | fwFetch (off len : Nat)
  /-- bytes of the package whose manifest has this digest -/
  | fwChunk (digest : Digest) (off len : Nat)
  | sealW (light : Bool) (id : Nat)
  | read (len : Nat)
  /-- of a frame on its way: as it came -/
  | forwarded (data : Bytes)
deriving DecidableEq, Repr

/-- A frame the Cucia sends or forwards (Table 13.2). -/
structure OutFrame where
  kind : FrameKind
  tc : Nat
  src : NodeId
  dst : NodeId
  seq : Nat
  ack : Option Nat
  retransmit : Bool
  forwarded : Bool
  sealBit : Bool
  hops : Nat
  len : Nat
  window : Option Nat
  generation : Nat
  routeEpoch : Nat
  ref : Nat
  offset : Nat
  stamp : Nat
  payload : Payload
  /-- on an encrypted link: the key slot and the link counter (R389) -/
  encrypted : Bool := false
  keySel : Nat := 0
  linkCtr : Nat := 0
  /-- of a frame held for retransmission: the class its bytes are charged to and the promise it serves; no header field -/
  svc : Nat := 0
  promise : Option Nat := none
  /-- of a forwarded frame: when in its beat it arrived; no header field -/
  cameNs : Nat := 0
deriving DecidableEq, Repr

/-- An item of a class queue: one frame, or a stream that is cut into frames as it is sent. -/
inductive QItem where
  | frame (f : OutFrame) (reads forwarded : Bool) (promise : Option Nat) (svc since : Nat)
  | moveStream (mv : Nat) (order svc since : Nat) (promised : Bool)
  | copyStream (cp : Nat) (order svc since : Nat) (promised : Bool)
deriving DecidableEq, Repr

/-- A class queue's samples (R404). -/
structure QSample where
  depth : Nat := 0
  depthMax : Nat := 0
  delay : Nat := 0
  delayMax : Nat := 0
  /-- the telemetry sampler's own maxima -/
  tDepth : Nat := 0
  tDelay : Nat := 0
deriving DecidableEq, Repr

/-- A link (R356 to R358, R389 to R391): state 0 DOWN, 1 TRAINING, 2 UP, 3 FAILED. -/
structure Link where
  state : Nat := 0
  lanes : Nat := 0
  encrypted : Bool := false
  slot : Nat := 0
  keys : List (Option (Nat × Nat)) := [none, none]
  counter : Nat := 0
  authFails : Nat := 0
  neighbour : NodeId := 0
  enabledAt : Nat := 0
  lastProbe : Nat := 0
  lastHello : Nat := 0
  /-- it has been `UP` since its port was enabled -/
  trained : Bool := false
deriving DecidableEq, Repr

/-- A partner (Tables 13.8, 13.9) with its transport and join state. -/
structure Partner where
  node : NodeId := 0
  state : PState := .free
  attest : Nat := 0
  link : Nat := 0xFF
  txNext : Nat := 1
  /-- held until acknowledged: sequence number, frame, last sending beat, retransmissions -/
  unacked : List (Nat × OutFrame × Nat × Nat) := []
  rxNext : Nat := 1
  rxSeen : List Nat := []
  heard : Nat := 0
  sent : Nat := 0
  ackOwed : Bool := false
  joinBeat : Nat := 0
  digest : Digest := 0
  initiator : Bool := false
  joinStart : Nat := 0
  joinStep : Nat := 0
  joinSent : Nat := 0
  myNonce : Digest := 0
  nonce : Digest := 0
  /-- a `LEAVE` awaits its acknowledgement (R550) or an eviction its answer (R11) -/
  leaving : Bool := false
  evicting : Bool := false
  /-- it has refused an eviction for the join under way -/
  evictRefused : Bool := false
  forNode : NodeId := 0
deriving DecidableEq, Repr

/-- A window and its shared-region deed (R375, R376): state 0 CLOSED, 1 OPEN, 2 REVOKING. -/
structure Window where
  state : Nat := 0
  generation : Nat := 0
  root : Nat := 0
  peer : NodeId := 0
  rights : Nat := 0
  tcMask : Nat := 0
  lamp : Option Nat := none
  sealOff : Nat := 0
  /-- free staging pages -/
  staging : List Page := []
  ratio : Nat := 0
  deed : Deed := {}
  revokeBeat : Nat := 0
  revokeLamp : Nat := 0
  revokeCtx : Option Nat := none
deriving DecidableEq, Repr

/-- A `COPY` at its initiator (R380, R381). -/
structure CopyOut where
  id : Nat
  owner : Owner
  src : Nat
  dst : NodeId
  window : Nat
  generation : Nat
  tc : Nat
  dstOff : Nat
  len : Nat
  sent : Nat
  k : Nat
  n : Nat
  promise : Option Nat
  svc : Nat
  opened : Bool
deriving DecidableEq, Repr

/-- A `COPY` at its target. -/
structure CopyIn where
  id : Nat
  src : NodeId
  window : Nat
  op : CopyOpen
  /-- first page of the region that the range touches, and the staging pages taken for them -/
  firstPage : Nat
  stage : List Page
  /-- data frames accepted, and whether the sealed one is among them -/
  got : Nat
  sealedAt : Bool
  till : Nat
deriving DecidableEq, Repr

/-- A remote load in flight (R384 to R388). -/
structure Load where
  id : Nat
  dst : NodeId
  window : Nat
  off : Nat
  len : Nat
  sentNs : Nat
  hdm : Nat
deriving DecidableEq, Repr

/-- A route map in force (R366): nodes with (link, lanes, hops, alternate), targets with placement. -/
structure RouteMap where
  nodes : List (NodeId × Nat × Nat × Nat × Nat) := []
  targets : List (Nat × Option NodeId) := []
deriving DecidableEq, Repr

/-- The fabric. -/
structure Fabric where
  links : Tbl Link := []
  partners : Tbl Partner := []
  windows : Tbl Window := []
  copies : List CopyOut := []
  /-- `SEAL` instructions that have not completed -/
  seals : List SealOut := []
  copiesIn : List CopyIn := []
  loads : List Load := []
  nextId : Nat := 1
  /-- generation that a `COPY` last named, by 4,096 × node + window -/
  gens : Tbl Nat := []
  map : RouteMap := {}
  oldMap : Option RouteMap := none
  epoch : Nat := 0
  drainEnd : Nat := 0
  newMap : Option RouteMap := none
  stubs : List (Nat × NodeId) := []
  queues : Tbl (List QItem) := []
  /-- TC0 time in ns that the COLLECTIVE frames of a meadow have used beyond its share, by 8 × link + meadow (R407) -/
  tc0Used : Tbl Nat := []
  credits : Tbl Int := []
  drr : Tbl (Nat × Nat) := []
  samples : Tbl QSample := []
  /-- the gate list in force: (mask, end) in order; the end of the beat is 0x1FFFF -/
  gates : List (Nat × Nat) := [(0xFF, 0x1FFFF)]
  gatesPending : Option (List (Nat × Nat)) := none
  gatesWait : Option (List (Nat × Nat) × List Nat) := none
  gateFrac : List Nat := [9879, 9879, 9879, 9879, 9879, 9879, 9879, 9879]
  shareNext : List (Nat × Nat) := []
  admitQueued : Tbl Nat := []
  keyData : List Nat := [0, 0, 0, 0, 0, 0, 0, 0]
  keySalt : Nat := 0
  /-- snapshots: of a queue, a partner, a window, a field member -/
  queueSnap : QSample := {}
  partnerSnap : Bytes := []
  winSnap : Nat × Nat × Nat := (0, 0, 0)
  fieldSnap : Nat × Nat × Nat := (0, 0, 0)
deriving DecidableEq, Repr

/-! ## Outputs -/

/-- What the Cucia has put out, newest first in `State.out`: writes to host memory, frames on links,
MSI-X messages, read data, and the signals of its other interfaces. -/
inductive OutMsg where
  | hostWrite (addr : Nat) (data : Bytes)
  | frame (link : Nat) (f : OutFrame)
  | msix (entry : Nat)
  | regRead (off : Nat) (v : Word)
  | hdmData (off : Nat) (data : Bytes)
  /-- the answer to a read of the commons through BAR2 -/
  | bar2Data (off : Nat) (data : Bytes)
  | hdmOnes (off len : Nat)
  /-- a back-invalidate snoop: BISnpInv, or BISnpData for what will be read (R440) -/
  | snoop (line : Nat) (inv : Bool)
  | snoopReply (addr : Word)
  | doe (data : Bytes)
  | pldm (data : Bytes)
  | hdmRead (tier addr len : Nat)
  /-- a line of the service UART (R484): kind 0 boot stage, 1 event record by sequence number -/
  | uart (kind value : Nat)
deriving DecidableEq, Repr

/-! ## The CXL side (chapter 16) -/

/-- The link to the host and its vectors. -/
structure Cxl where
  up : Bool := false
  /-- the address that the host's enumeration gave BAR2 (R444) -/
  bar2 : Option Nat := none
  /-- the committed HDM decoder: host base and size -/
  decoder : Option (Nat × Nat) := none
  /-- trained width and rate in GT/s -/
  width : Nat := 0
  rate : Nat := 0
  /-- lines granted to the host's caches, oldest first (R439), and snoops not yet answered (R440) -/
  lines : List Nat := []
  snoops : List Nat := []
  /-- host requests held at the ingress: those that wait for a snoop (offset, data of a write), and reads
  behind a full read-through queue -/
  waiting : List (Nat × Option Bytes) := []
  ingress : List Nat := []
  /-- host reads that wait for room in the snoop filter (R439), and lines that a context's instruction waits for (R440) -/
  filterWaits : List Nat := []
  snoopFor : List (Nat × Nat) := []
  biLate : Nat := 0
  /-- an IDE stream failed and has not been keyed again (R450) -/
  ideInsecure : Bool := false
  /-- algorithms negotiated (R449); the session: 0 none, 1 keys exchanged, 2 secured -/
  algs : Option (List SpdmAlg) := none
  session : Nat := 0
  /-- the MSI-X table by 4-byte word, and the pending bits (R446) -/
  vectors : Tbl Nat := []
  vecPending : List Nat := []
deriving DecidableEq, Repr

/-! ## Reset, firmware, sensors, background work (chapters 17 to 21) -/

/-- A firmware slot of the flash (R512, R519, R521): 0 empty, 1 staged, 2 in use now or before. -/
structure Slot where
  state : Nat := 2
  pkg : Option FwPackage := none
deriving DecidableEq, Repr

/-- Firmware: the two slots and the boot record, the package store, the fetch from a partner, the armed
activation, the settings records and the anti-rollback floor (chapter 20, R499, R500). -/
structure Firmware where
  slotA : Slot := {}
  slotB : Slot := {}
  /-- the boot record: active slot, slot kept as committed, trial -/
  active : Nat := 0
  kept : Nat := 0
  trial : Bool := false
  /-- what runs, and its source: 0 slot A, 1 slot B, 2 medium, 3 host -/
  running : Option FwPackage := none
  source : Nat := 0
  store : Option FwPackage := none
  fetch : Option (NodeId × FwOffer × Nat) := none
  refused : List Digest := []
  /-- beat A, and the package loaded ahead of it -/
  armed : Option Nat := none
  loaded : Option FwPackage := none
  activating : Bool := false
  lastCode : Nat := 0
  /-- bits burned in the anti-rollback fuses -/
  floor : Nat := 0
  /-- settings records, newest first: version, and values by offset; the version applied -/
  settings : List (Nat × List (Nat × Word)) := []
  applied : Nat := 0
deriving DecidableEq, Repr

/-- A march run, in progress or waiting (R461). -/
structure MarchRun where
  id : Nat
  owner : Owner
  /-- 1 tile SRAM, 2 commons bank -/
  kind : Nat
  index : Nat
  destructive : Bool
  repair : Bool
  /-- word operations in all and those done (R466) -/
  work : Nat := 0
  done : Nat := 0
deriving DecidableEq, Repr

/-- A background activity that takes its resources over several beats (R526): index of Table 21.2, which of that activity's works it
is, and what it still needs of each counted resource. -/
structure BgJob where
  act : Nat
  id : Nat
  need : List (Nat × Nat)
deriving DecidableEq, Repr

/-- A `SCRUB_NOW` that waits for its range (R157, R321): its job, whose it is, flash or GDDR7, first byte and MiB, and whether the
range holds what cannot be corrected. -/
structure ScrubRun where
  job : Nat
  owner : Owner
  flash : Bool
  start : Nat
  mib : Nat
  bad : Bool
deriving DecidableEq, Repr

/-- Background work (R525 to R527): what each counted resource has given in this window; the settings in force;
when the passes in progress began, and what they have covered. -/
structure Background where
  used : Tbl Nat := []
  /-- beat in which the window began, once one has: each window begins once -/
  windowAt : Option Nat := none
  jobs : List BgJob := []
  scrubs : List ScrubRun := []
  nextJob : Nat := 0
  share : Nat := 32
  calMs : Nat := 100
  days : Nat := 7
  recalStart : Nat := 0
  recalDone : List Nat := []
  taperStart : Nat := 0
  taperDone : List Nat := []
  scrubStart : Nat := 0
  patrolStart : Nat := 0
deriving DecidableEq, Repr

/-- The telemetry sampler (R531): number and beat of the last snapshot written, and the counts it held. -/
structure Sampler where
  seq : Nat := 0
  /-- beat of the last snapshot latched, written or not -/
  tried : Nat := 0
  beat : Nat := 0
  base : List Nat := []
deriving DecidableEq, Repr

/-- DEV_STATUS, the reset controller, the pins, the sensors, the commons and the march engine. -/
structure Sys where
  ready : Bool := false
  hold : Bool := false
  coreOff : Bool := false
  /-- a firmware activation holds every step and admission back (R514) -/
  paused : Bool := false
  /-- beat at which the pause ends, and beat in which the activation ended (R517) -/
  resumeAt : Nat := 0
  actEnd : Nat := 0
  /-- input power above lockout; the input switch open after an overcurrent trip (R470); PERST# low -/
  powered : Bool := true
  switchOpen : Bool := false
  perst : Bool := true
  /-- straps as latched (R497): BOOT_SEL and CLK_SEL -/
  bootSel : Nat := 0
  clkSel : Nat := 0
  /-- beat of the last RST_ARM -/
  armBeat : Option Nat := none
  /-- beat of the last watchdog feed (R492) -/
  fed : Nat := 0
  /-- RST_FRAME_CTR as journaled (R494) -/
  frameCtr : Nat := 0
  /-- blocks in reset alone, with the beat it began (R495) -/
  blocks : List (Nat × Nat) := []
  /-- events to raise once the event ring is set (R499, R520) -/
  late : List (Nat × Nat) := []
  /-- measurements 1 to 9 of the last boot (R505) -/
  meas : List Digest := []
  fw : Firmware := {}
  /-- sensor samples of the last 1 ms, newest first (R478, R485) -/
  samples : List Temps := []
  warnArmed : Bool := true
  limitArmed : Bool := true
  /-- consecutive samples at the trip threshold, and with the coolant rise above its limit -/
  tripCount : Nat := 0
  coolCount : Nat := 0
  coolRaised : Bool := false
  /-- the commons by 8-byte word -/
  commons : Tbl Word := []
  /-- words of either memory whose stored 72 bits are in error, with how many: 1 or 2 (R453) -/
  upsets : Tbl Nat := []
  /-- the patch table in force (R502) -/
  patches : List Word := []
  marches : List MarchRun := []
  nextMarch : Nat := 0
  bg : Background := {}
  telem : Sampler := {}
  /-- halves of 64-bit registers: the read latch of R536, and the low halves held by R537 -/
  latch : Option (Nat × Nat) := none
  halves : Tbl Nat := []
  /-- registers whose command or snapshot was asked for in this beat: each reads busy until the next boundary (R185, R186,
  R328, R392, R405, R433, R554, Table 9.11) -/
  busy : List Nat := []
deriving DecidableEq, Repr

/-- What an LED shows (Table 18.10): its colour, steady at 0 Hz or blinking. -/
inductive LedShow where
  | off
  | green (hz : Nat)
  | amber (hz : Nat)
  | blue (hz : Nat)
deriving DecidableEq, Repr

/-! ## The flash steward (chapter 12) -/

/-- Table 12.9's steward states. -/
inductive FState where
  | restoring | ready | readOnly | failed
deriving DecidableEq, Repr

/-- A map entry (Table 12.3). -/
structure MapEnt where
  valid : Nat := 0
  lost : Bool := false
  phys : Nat := 0xFFFFFFFF
deriving DecidableEq, Repr

/-- A data superblock (Table 12.4): 0 FREE, 1 OPEN, 2 CLOSED, 3 VERIFIED, 4 ERASING; the next unit slot;
erase count; flash time at its opening. -/
structure Superblock where
  state : Nat := 0
  stream : Nat := 0
  slot : Nat := 0
  erases : Nat := 0
  opened : Nat := 0
  /-- opened before the last reset (R351) -/
  aged : Bool := false
  /-- media faults by block in this life (R347) -/
  faults : List Nat := []
  /-- temperature of each die at its first row, a byte in two's complement (R349) -/
  temps : Tbl Nat := []
deriving DecidableEq, Repr

/-- A journal record that waits for its page (Table 12.5). -/
structure JRec where
  typ : Nat
  valid : Nat := 0
  index : Nat := 0
  oldPhys : Nat := 0
  newPhys : Nat := 0
  aux : Nat := 0
  payload : Bytes := []
deriving DecidableEq, Repr

/-- The flash steward. -/
structure Flash where
  state : FState := .restoring
  map : Tbl MapEnt := []
  sbs : Tbl Superblock := []
  /-- open superblock by stream: 0 host, 1 collection, 2 system -/
  opens : Tbl Nat := []
  /-- records not yet durable, oldest first -/
  recs : List JRec := []
  seq : Nat := 0
  /-- journal pages programmed since the last checkpoint -/
  pages : Nat := 0
  /-- live 4 KiB locations by granule -/
  live : Tbl Nat := []
  /-- spare records, newest first: a hole's address and the spare block attached in its place (R347) -/
  spares : List (Nat × Nat) := []
  /-- the dies' present temperatures, a byte in two's complement (R349) -/
  dieTemps : Tbl Nat := []
  /-- what lies in the system partition: first unit and units; 0 and 1 the slots, 2 the package store, 3 the boot record,
  4 the settings records, 5 the counter of reset frames -/
  system : Tbl (Nat × Nat) := []
  /-- retired blocks without a spare, in the phys form with row 0 -/
  holes : List Nat := []
  retired : Nat := 0
  /-- the READ_ONLY record has been journaled; it persists across resets -/
  readOnly : Bool := false
  ckptSeq : Nat := 0
  ckptTime : Nat := 0
  timeOffset : Int := 0
  timeSet : Bool := false
  /-- the victim of garbage collection (R340) -/
  gc : Option Nat := none
  gcActive : Bool := false
  /-- superblocks that a compacting trim collects (R340) -/
  gcQueue : List Nat := []
  held : Bool := false
  /-- the last reset cleared GDDR7 contents, so the restart drops the exported tier (R345) -/
  dropTier : Bool := false
  /-- the parity area: place of the first of a unit slot's 4 parity pages, 128 places to a block, and the slot's phys, newest
  first; and the next place (R335) -/
  parity : List (Nat × Nat) := []
  parityNext : Nat := 0
  /-- formats since manufacture: each erases every superblock once (R355) -/
  formats : Nat := 0
deriving DecidableEq, Repr

/-! ## Fields (chapter 15) -/

/-- A membership change under way at the Cucia that distributes it (R414, R416, R419). -/
structure Change where
  kind : ChangeKind
  desc : FieldDesc
  subject : NodeId
  /-- context of the instruction that waits for it, and the program's meadow -/
  owner : Option Nat
  since : Nat
  ready : List (NodeId × FieldReady)
  commitAt : Option Nat
  /-- whether the field stands in `HOLD` afterwards -/
  hold : Bool
deriving DecidableEq, Repr

/-- A change as a member or a joining node received it: who distributes it, whether READY was sent, and c. -/
structure Announced where
  change : FieldChange
  issuer : NodeId
  answered : Bool
  commitAt : Option Nat
  /-- an expulsion by software in `HOLD` -/
  hold : Bool
deriving DecidableEq, Repr

/-- A meadow's field: state of Table 15.5, membership epoch, root, members. -/
structure FieldSt where
  state : Nat := 0
  id : Nat := 0
  epoch : Nat := 0
  root : NodeId := 0
  /-- the members in rank order -/
  members : List FieldMember := []
  floor : Nat := 0
  beatNs : Nat := 0
  model : Nat := 0
  tiles : Nat := 0
  /-- the `FIELD_FORM` here: its context, descriptor, start, and at the root the answers -/
  owner : Option Nat := none
  desc : Option FieldDesc := none
  since : Nat := 0
  ready : List (NodeId × FieldReady) := []
  /-- beat c of the form -/
  commitAt : Option Nat := none
  announced : List Announced := []
  /-- changes distributed from here, in the order in which they started -/
  changes : List Change := []
  /-- a step was abandoned over a dead member: no step starts until a change commits (R427) -/
  halted : Bool := false
  /-- counts for this member's next report (R421) -/
  derated : Bool := false
  quar : Nat := 0
  retx : Nat := 0
  /-- at the root: health and consecutive late steps by member, reports of the step being evaluated -/
  health : List (NodeId × Nat) := []
  late : List (NodeId × Nat) := []
  reports : List (NodeId × StepReport) := []
  evalSeq : Option Nat := none
  /-- beat of the last report -/
  reportBeat : Nat := 0
  /-- step data received from other members: member, step, bytes (R230, R242) -/
  data : List (NodeId × Nat × Bytes) := []
  /-- commit beats of the expulsions by the Cucia -/
  expels : List Nat := []
deriving DecidableEq, Repr

/-- The state of the Cucia. -/
structure State where
  /-- commands waiting, first in, first out -/
  pending : List Instr := []
  /-- registers by BAR0 offset; an unlisted one holds its reset value -/
  regs : Tbl Word := []
  clk : Clock := {}
  io : Intake := {}
  lore : Lore := {}
  mem : Store := {}
  eng : Engine := {}
  fab : Fabric := {}
  cxl : Cxl := {}
  sys : Sys := {}
  fls : Flash := {}
  fld : Tbl FieldSt := []
  /-- READY answers that arrived before the root's own `FIELD_FORM` (R414): sender, answer, beat -/
  early : List (NodeId × FieldReady × Nat) := []
  /-- everything put out so far, newest first -/
  out : List OutMsg := []
  /-- the model's own counter of the free values taken so far -/
  freeCtr : Nat := 0
deriving DecidableEq, Repr

/-- Why a step stops: raised by no command of this model; every command the spec gives has an
effect, so this type only closes the interface. Safe: the machine stops where nothing is known. -/
inductive Fault where
  /-- raised by no command (safe) -/
  | none
deriving DecidableEq, Repr

/-- A command that the model refuses. -/
inductive Refusal where
  /-- raised by a dispatch arm of a command that has no meaning yet (safe: the machine stops) -/
  | notModelled (mnemonic : String)
deriving DecidableEq, Repr

/-- The machine after power-on reset, PERST# asserted, before boot. -/
def State.reset : State := {}

end Sys2Proof.Machine
end

