-- ==== Sys2Proof/Machine/Ops.lean ====
section
/-! DEFINITION. The named operations over registers, outputs, events, lamps, promises, breach
records, program contexts and result records. Every meaning is written over these. -/

namespace Sys2Proof.Machine

/-! ## Event codes (R530, Table 21.4) -/

def Ev.configRejected : Nat := 0x0001
def Ev.eventOverflow : Nat := 0x0002
def Ev.breachOverflow : Nat := 0x0003
def Ev.bgBehind : Nat := 0x0004
def Ev.beatMarginLow : Nat := 0x0101
def Ev.deratedEntered : Nat := 0x0102
def Ev.deratedExited : Nat := 0x0103
def Ev.beatOverrun : Nat := 0x0104
def Ev.beaconLost : Nat := 0x0105
def Ev.beaconConflict : Nat := 0x0106
def Ev.beaconTreeFull : Nat := 0x0107
def Ev.powerOverDeclared : Nat := 0x0108
def Ev.intakeLate : Nat := 0x0201
def Ev.intakeOverrun : Nat := 0x0202
def Ev.intakeBadSlot : Nat := 0x0203
def Ev.lampZero : Nat := 0x0204
def Ev.requestEnded : Nat := 0x0205
def Ev.parkNoSpace : Nat := 0x0301
def Ev.lanternOrphaned : Nat := 0x0302
def Ev.deedOrphaned : Nat := 0x0303
def Ev.deedSuperseded : Nat := 0x0304
def Ev.deedConflict : Nat := 0x0305
def Ev.emberAuto : Nat := 0x0306
def Ev.shadowOriginalLost : Nat := 0x0401
def Ev.shadowSplit : Nat := 0x0402
def Ev.tileQuarantined : Nat := 0x0403
def Ev.tileReadmitted : Nat := 0x0404
def Ev.shadowSetEmpty : Nat := 0x0405
def Ev.sramUe : Nat := 0x0406
def Ev.sramRepairFull : Nat := 0x0407
def Ev.commonsHostDiscard : Nat := 0x0408
def Ev.codecPartial : Nat := 0x0501
def Ev.hdmUnmapped : Nat := 0x0502
def Ev.hdmWriteDiscard : Nat := 0x0503
def Ev.tierNoSpace : Nat := 0x0504
def Ev.gddrUe : Nat := 0x0505
def Ev.gddrRetireFull : Nat := 0x0506
def Ev.flashReadOnly : Nat := 0x0507
def Ev.flashMedia : Nat := 0x0508
def Ev.linkTrainFail : Nat := 0x0601
def Ev.linkDown : Nat := 0x0602
def Ev.linkRekeyNeeded : Nat := 0x0603
def Ev.linkAuthFail : Nat := 0x0604
def Ev.routeMapBad : Nat := 0x0605
def Ev.mapBehind : Nat := 0x0606
def Ev.partnerTableFull : Nat := 0x0607
def Ev.partnerJoined : Nat := 0x0608
def Ev.partnerJoinPending : Nat := 0x0609
def Ev.partnerJoinFailed : Nat := 0x060A
def Ev.partnerRefused : Nat := 0x060B
def Ev.partnerDead : Nat := 0x060C
def Ev.partnerLeft : Nat := 0x060D
def Ev.windowStale : Nat := 0x060E
def Ev.windowRevokedArrival : Nat := 0x060F
def Ev.windowViolation : Nat := 0x0610
def Ev.remoteLoadTimeout : Nat := 0x0611
def Ev.remoteViolation : Nat := 0x0612
def Ev.fieldCommitLate : Nat := 0x0701
def Ev.fieldLeft : Nat := 0x0702
def Ev.fieldHold : Nat := 0x0703
def Ev.fieldExpelled : Nat := 0x0704
def Ev.cxlLinkDegraded : Nat := 0x0801
def Ev.biLate : Nat := 0x0802
def Ev.cxlIdeFail : Nat := 0x0803
def Ev.tjWarn : Nat := 0x0901
def Ev.tjLimit : Nat := 0x0902
def Ev.coolantFlowLow : Nat := 0x0903
def Ev.powerEnvelope : Nat := 0x0904
def Ev.fabricResetRefused : Nat := 0x0A01
def Ev.bootFallback : Nat := 0x0A02
def Ev.fwPackageFound : Nat := 0x0A03
def Ev.fwPackageReceived : Nat := 0x0A04
def Ev.fwPackageRefused : Nat := 0x0A05
def Ev.fwActivated : Nat := 0x0A06
def Ev.fwActivateFailed : Nat := 0x0A07
def Ev.fwActLate : Nat := 0x0A08
def Ev.fwRollback : Nat := 0x0A09
def Ev.fwSettingsSkipped : Nat := 0x0A0A

/-- The severity of an event code (Table 21.4). -/
def evSeverity (code : Nat) : Nat :=
  if [0x0103, 0x0204, 0x0205, 0x0306, 0x0404, 0x0608, 0x060D, 0x0A03, 0x0A04, 0x0A06].contains code then 0 else
  if [0x0001, 0x0004, 0x0301, 0x0504, 0x0606, 0x0609, 0x0901].contains code then 1 else
  if [0x0002, 0x0003, 0x0102, 0x0302, 0x0303, 0x0304, 0x0305, 0x0401, 0x0405, 0x0507, 0x0703, 0x0803, 0x0902, 0x0903, 0x0904].contains code then 3 else
  2

/-! ## Registers, outputs, free values -/

/-- The stored value of a register. DEDUCED, log entry 9. -/
def State.reg (s : State) (off : Nat) : Word := Tbl.get resetOf s.regs off
def State.regN (s : State) (off : Nat) : Nat := (s.reg off).toNat
def State.setReg (s : State) (off : Nat) (v : Word) : State :=
  { s with regs := Tbl.set resetOf s.regs off v }
def State.setRegN (s : State) (off v : Nat) : State := s.setReg off (BitVec.ofNat 64 v)
/-- A saturating count of `w` bits goes up by `n`. -/
def State.bump (s : State) (off : Nat) (n : Nat := 1) (w : Nat := 32) : State :=
  s.setRegN off (satAdd w (s.regN off) n)
/-- This Cucia's node identifier (R9). -/
def State.me (s : State) : NodeId := s.reg Reg.NODE_ID

def State.emit (s : State) (m : OutMsg) : State := { s with out := m :: s.out }

/-- A fresh open value. DESIGN CHOICE, log entry 20. -/
def State.free (s : State) : Nat × State :=
  (Config.freeNat s.freeCtr, { s with freeCtr := s.freeCtr + 1 })

/-! ## Updates of the parts of the state -/

def State.mapClk (s : State) (f : Clock → Clock) : State := { s with clk := f s.clk }
def State.mapIo (s : State) (f : Intake → Intake) : State := { s with io := f s.io }
def State.mapLore (s : State) (f : Lore → Lore) : State := { s with lore := f s.lore }
def State.mapMem (s : State) (f : Store → Store) : State := { s with mem := f s.mem }
def State.mapEng (s : State) (f : Engine → Engine) : State := { s with eng := f s.eng }
def State.mapFab (s : State) (f : Fabric → Fabric) : State := { s with fab := f s.fab }

def State.now (s : State) : Nat := s.clk.now
def State.lan (s : State) (i : Nat) : Lantern := Tbl.get (fun _ => {}) s.lore.lanterns i
def State.setLan (s : State) (i : Nat) (l : Lantern) : State :=
  s.mapLore (fun x => { x with lanterns := Tbl.set (fun _ => {}) x.lanterns i l })
def State.mdw (s : State) (m : Nat) : Meadow := Tbl.get (fun _ => {}) s.eng.meadows m
def State.setMdw (s : State) (m : Nat) (x : Meadow) : State :=
  s.mapEng (fun e => { e with meadows := Tbl.set (fun _ => {}) e.meadows m x })
/-- Bytes of a class admitted and not yet sent (R67). -/
def State.queued (s : State) (c : Nat) : Nat := Tbl.get (fun _ => 0) s.fab.admitQueued c
def State.addQueued (s : State) (c n : Nat) : State :=
  s.mapFab (fun f => { f with admitQueued := Tbl.set (fun _ => 0) f.admitQueued c (s.queued c + n) })
def State.subQueued (s : State) (c n : Nat) : State :=
  s.mapFab (fun f => { f with admitQueued := Tbl.set (fun _ => 0) f.admitQueued c (s.queued c - n) })

/-! ## Events (R120, R528, R529) -/

/-- `r` goes behind the records held for this beat, before those of the same order of Table 2.1
with a higher code (R528). The list is newest first here. -/
def insertEv (r : EvRec) : List EvRec → List EvRec
  | [] => [r]
  | x :: xs => if r.order ≠ 0 ∧ x.order = r.order ∧ r.code < x.code then x :: insertEv r xs
    else r :: x :: xs

/-- R529: a raising with the code, node and detail of a record held in this beat merges into it. -/
def mergeEv (r : EvRec) : List EvRec → Option (List EvRec)
  | [] => none
  | x :: xs => if x.code = r.code ∧ x.node = r.node ∧ x.detail = r.detail then
      some ({ x with count := min (x.count + 1) 255 } :: xs)
    else (mergeEv r xs).map (x :: ·)

/-- An event is raised at order `o` of Table 2.1 (0: at no order of the table). -/
def State.raise (s : State) (code : Nat) (node : NodeId := 0) (d0 d1 : Nat := 0)
    (meadow : Option Nat := none) (o : Nat := 0) : State :=
  let attr := evSeverity code * 64 + (match meadow with | none => 0 | some m => 8 + m % 8)
  let r : EvRec := { order := o, code := code, attr := attr, count := 1, beat := s.now, node := node, detail := d0 % 2 ^ 32 + (d1 % 2 ^ 32) * 2 ^ 32 }
  let s := s.mapIo (fun io => { io with evBeat := (mergeEv r io.evBeat).getD (insertEv r io.evBeat) })
  let s := s.bump Reg.EVENT_COUNT
  if code = Ev.configRejected then s.bump Reg.DEV_CFG_REJECTS else s

/-- A configuration event names the register and the refused value (Table 21.3). -/
def State.configReject (s : State) (off v : Nat) : State := s.raise Ev.configRejected 0 off v

/-- The register's command is in progress. -/
def State.busy (s : State) (off : Nat) : Bool := s.sys.busy.contains off

/-- A command or a snapshot at a register: it reads busy up to the next boundary, and a write meanwhile is ignored with a configuration
event. The spec lets it take up to one beat. DESIGN CHOICE, log entry 129. -/
def State.whileFree (s : State) (off v : Nat) (go : State → State) : State :=
  if s.busy off then s.configReject off v
  else
    let t := go s
    { t with sys := { t.sys with busy := off :: t.sys.busy } }

/-- The blocks of CD answer only while the device is ready (R539). -/
def State.cdUp (s : State) : Bool := s.sys.ready && !s.sys.coreOff

/-! ## The order of work within a beat (R33, R45) -/

/-- The exit rule of `DERATED` is met (R45). -/
def State.exitDue (s : State) : Bool :=
  s.clk.timing == .derated && decide (bits (s.regN Reg.DERATED_EXIT) 15 0 ≤ s.clk.exitCount)

def State.leaveDerated (s : State) : State :=
  if s.exitDue then (s.mapClk (fun c => { c with timing := .normal })).raise Ev.deratedExited 0 0 0 none 2 else s

/-- Work of order 4 finds order 2 behind it. -/
def State.atCommit (s : State) : State :=
  (if s.clk.order < 3 then s.leaveDerated else s).mapClk (fun c => { c with order := max c.order 4 })

/-! ## Lamps (R113, R114) -/

def State.lamp (s : State) (j : Nat) : Word := Tbl.get (fun _ => 0) s.io.lamps j
def State.setLamp (s : State) (j : Nat) (v : Word) : State :=
  s.mapIo (fun io => { io with lamps := Tbl.set (fun _ => 0) io.lamps j v })
def lampCount (v : Word) : Nat := v.toNat % 2 ^ 48
/-- The lamp word with another count. -/
def lampWith (v : Word) (count : Nat) : Word :=
  BitVec.ofNat 64 (v.toNat / 2 ^ 48 * 2 ^ 48 + count % 2 ^ 48)
/-- Bits [59:51] are reserved and read 0 (R3). -/
def lampMask : Word := 0xF807FFFFFFFFFFFF#64

/-- R114: add to a count, saturating at 2^48 − 1 with overflow set. -/
def State.lightLamp (s : State) (j n : Nat) : State :=
  let v := s.lamp j
  let c := lampCount v + n
  if c < 2 ^ 48 then s.setLamp j (lampWith v c)
  else s.setLamp j (lampWith v (2 ^ 48 - 1) ||| 0x4000000000000000#64)

/-- R114: subtract from a count, saturating at 0 with underflow set, and raise `LAMP_ZERO` when
notify_zero is set and the count falls from above 0 to 0. -/
def State.dimLamp (s : State) (j n : Nat) : State :=
  let v := s.lamp j
  let c := lampCount v
  let s1 := if n ≤ c then s.setLamp j (lampWith v (c - n))
    else s.setLamp j (lampWith v 0 ||| 0x2000000000000000#64)
  if v.getLsbD 63 ∧ 0 < c ∧ c ≤ n then s1.raise Ev.lampZero 0 j else s1

/-! ## Rings in host memory (R87, R88, R120) -/

/-- How many more records a ring takes: base, log2 size, producer and consumer index. -/
def ringRoom (base lg pi ci : Nat) : Nat :=
  if base = 0 then 0 else
    let used := (pi + 2 ^ 20 - ci) % 2 ^ 20
    min (2 ^ lg) (2 ^ 20 - 1) - used

/-- Records written at a ring's producer index; answers the new index. -/
def State.ringWrite (s : State) (base lg len : Nat) : Nat → List Bytes → State
  | _, [] => s
  | pi, b :: bs => State.ringWrite (s.emit (.hostWrite (base + len * (pi % 2 ^ lg)) b)) base lg len
      ((pi + 1) % 2 ^ 20) bs

/-- R87: breach records held on chip go to the breach ring while it has room. -/
def State.drainBreaches (s : State) : State :=
  let base := s.regN Reg.BREACH_RING_BASE
  let lg := s.regN Reg.BREACH_RING_SIZE
  let pi := s.regN Reg.BREACH_RING_PI
  let n := min (ringRoom base lg pi (s.regN Reg.BREACH_RING_CI)) s.io.brStore.length
  if n = 0 then s else
    let s1 := s.ringWrite base lg 64 pi (s.io.brStore.take n)
    (s1.setRegN Reg.BREACH_RING_PI ((pi + n) % 2 ^ 20)).mapIo
      (fun io => { io with brStore := io.brStore.drop n, brWrote := true })

def evBytes (seq : Nat) (r : EvRec) : Bytes :=
  packLE [(4, seq), (2, r.code), (1, r.attr), (1, r.count), (8, r.beat), (8, r.node.toNat), (8, r.detail)]

/-- R120: numbered event records held on chip go to the event ring while it has room; once the
store is empty and records were lost, one `EVENT_OVERFLOW` record follows. Each record written also goes out as a line
of the service UART (R484). -/
def State.drainEvents (s : State) : State :=
  let base := s.regN Reg.EVENT_RING_BASE
  let lg := s.regN Reg.EVENT_RING_SIZE
  let pi := s.regN Reg.EVENT_RING_PI
  let room := ringRoom base lg pi (s.regN Reg.EVENT_RING_CI)
  let n := min room s.io.evStore.length
  let ovf := s.io.evLost && decide (s.io.evStore.length < room)
  let seq := s.io.evSeq + 1
  let recs := (s.io.evStore.take n).map (fun p => evBytes p.1 p.2)
  let recs := if ovf then
      recs ++ [evBytes seq { order := 0, code := Ev.eventOverflow, attr := 3 * 64, count := 1, beat := s.now, node := 0, detail := 0 }]
    else recs
  if recs.isEmpty then s else
    let s1 := recs.foldl (fun (s : State) b => s.emit (.uart 1 (le b 0 4))) (s.ringWrite base lg 32 pi recs)
    let s2 := (s1.setRegN Reg.EVENT_RING_PI ((pi + recs.length) % 2 ^ 20)).mapIo
      (fun io => { io with evStore := io.evStore.drop n, evWrote := true,
                           evLost := io.evLost && !ovf, evSeq := if ovf then seq else io.evSeq })
    if ovf then s2.bump Reg.EVENT_COUNT else s2

/-- The events of the beat are numbered and held; beyond 256 held records each is lost (R120). Each
event of severity 2 or 3 also goes out as a PLDM platform event (R532). -/
def State.flushEvents (s : State) : State :=
  let one (s : State) (r : EvRec) : State :=
    let seq := s.io.evSeq + 1
    let s := if 128 ≤ r.attr then s.emit (.pldm (evBytes seq r)) else s
    let s := s.mapIo (fun io => { io with evSeq := seq })
    let room := ringRoom (s.regN Reg.EVENT_RING_BASE) (s.regN Reg.EVENT_RING_SIZE)
      (s.regN Reg.EVENT_RING_PI) (s.regN Reg.EVENT_RING_CI)
    if s.io.evStore.length < 256 ∨ s.io.evStore.length < room then
      s.mapIo (fun io => { io with evStore := io.evStore ++ [(seq, r)] })
    else
      ((s.bump Reg.EVENT_DROPPED).setReg Reg.EVENT_CTRL (s.reg Reg.EVENT_CTRL ||| 0x40000000#64)).mapIo
        (fun io => { io with evLost := true })
  let evs := s.io.evBeat.reverse
  let s := s.mapIo (fun io => { io with evBeat := [] })
  (evs.foldl one s).drainEvents

/-- An MSI-X table entry is to be signalled at the end of this beat, once (R446). -/
def State.signal (s : State) (vec : Nat) : State :=
  s.mapIo (fun io => { io with msix := if io.msix.contains vec then io.msix else io.msix ++ [vec] })

/-! ## Promises and breach records (R81 to R87) -/

/-- A code's number (Table 5.3). -/
def codeN : Code → Nat
  | .ok => 0 | .overdue => 1 | .refusedBound => 2 | .illegalInState => 3 | .badOperand => 4
  | .killed => 5 | .sizeExceeded => 6 | .sizeShort => 7 | .checkFail => 8 | .accessRevoked => 9
  | .accessViolation => 10 | .staleWindow => 11 | .staleMap => 12 | .staleEpoch => 13
  | .targetDead => 14 | .isolated => 15 | .mediaReadOnly => 16 | .noSpace => 17 | .orphaned => 18
  | .writeCollided => 19 | .shadowMismatch => 20 | .notResident => 21 | .derated => 22
  | .fieldChanged => 23

def State.promise (s : State) (id : Nat) : Option Promise := s.io.promises.find? (·.id == id)
def State.setPromise (s : State) (p : Promise) : State :=
  s.mapIo (fun io => { io with promises := io.promises.map (fun q => if q.id = p.id then p else q) })
def State.dropPromise (s : State) (id : Nat) : State :=
  s.mapIo (fun io => { io with promises := io.promises.filter (fun q => q.id != id) })
def State.updPromise (s : State) (id : Option Nat) (f : Promise → Promise) : State :=
  match id with
  | none => s
  | some i => s.mapIo (fun io => { io with promises := io.promises.map (fun q => if q.id = i then f q else q) })

/-- The first end reported for a term's code, and the ends left. -/
def takeEnd (code : Nat) : List (Nat × Nat) → Option (Nat × List (Nat × Nat))
  | [] => none
  | e :: es => if e.1 = code then some (e.2, es) else (takeEnd code es).map (fun r => (r.1, e :: r.2))

/-- R82: the first term whose phase ended after, or had not ended by, the sum of the allotments up
to it, if there is one. A phase whose end is not reported while a later one's is counts as ended at its sum. Answers
the term's code, its allotment, and the beats in which its phase began and ended. -/
def nameTerm (k now : Nat) : Nat → Nat → List (Nat × Nat) → List (Nat × Nat) → Option (Nat × Nat × Nat × Nat)
  | _, _, [], _ => none
  | sum, began, (code, a) :: ts, es =>
    match takeEnd code es with
    | some (e, es') => if k + sum + a < e then some (code, a, began, e) else nameTerm k now (sum + a) e ts es'
    | none =>
      if ts.any (fun t => es.any (fun e => e.1 == t.1)) then nameTerm k now (sum + a) (k + sum + a) ts es
      else if k + sum + a < now then some (code, a, began, now)
      else none

/-- The term in whose phase the work stands when no term has passed its sum. -/
def stoodTerm (now : Nat) : Nat → List (Nat × Nat) → List (Nat × Nat) → Option (Nat × Nat × Nat × Nat)
  | _, [], _ => none
  | began, (code, a) :: ts, es =>
    match takeEnd code es with
    | some (e, es') => stoodTerm now e ts es'
    | none => if ts.any (fun t => es.any (fun e => e.1 == t.1)) then stoodTerm now (began + a) ts es
      else some (code, a, began, now)

/-- R83: 1 PATH, 2 DERATED, 3 MEDIA, 4 PROGRAM, a path fault first. -/
def Promise.cause (p : Promise) : Nat := if p.path then 1 else if p.media then 3 else if p.derated then 2 else 4

/-- The term a breach record names: the first past its sum, else the one the work stood in. Where the phase of every term has
ended in time the commit itself is late, which `INTAKE_COMMIT` allots for (R200). DEDUCED, log entry 156. -/
def Promise.term (p : Promise) (now : Nat) : Nat × Nat × Nat :=
  match (nameTerm p.k now 0 p.k p.terms p.ends).or (stoodTerm now p.k p.terms p.ends) with
  | some (code, a, b, e) => (code, a, e - b)
  | none => match (p.terms.find? (·.1 == 1)).or p.terms.getLast? with
    | some (code, a) => (code, a, now - (p.ends.map (·.2)).foldl max p.k)
    | none => (0, 0, 0)

/-- The one breach record of a promise (Table 3.6); `used` counts to the commit when it is known. -/
def State.writeBreach (s : State) (p : Promise) (status : Code) (used : Nat) : State :=
  if p.breached then s else
  let seq := s.io.brSeq + 1
  let (code, allot, tused) := p.term s.now
  let none32 := 0xFFFFFFFF
  let rcd := packLE [(4, seq), (2, p.tag), (2, p.slot), (1, codeN status), (1, p.cause * 16 + code),
    (2, p.index), (1, p.meadow), (1, p.svc), (1, p.tc), (1, p.ring), (8, p.k), (8, p.d), (4, p.n),
    (4, used), (4, allot), (4, tused), (4, p.lantern.getD none32), (4, p.request.getD none32),
    (8, if p.cause = 1 then p.peer.toNat else 0)]
  let s := (s.bump Reg.BREACH_COUNT).mapIo (fun io => { io with brSeq := seq })
  let s := s.setPromise { p with breached := true }
  let s := match p.request with
    | none => s
    | some r => s.mapLore (fun l => { l with requests := l.requests.mapVals (fun j q => if j = r then { q with breached := true } else q) })
  let s := s.mapIo (fun io => { io with ctxs := io.ctxs.mapVals (fun _ c => if c.promise = some p.id then { c with breached := true } else c) })
  let room := ringRoom (s.regN Reg.BREACH_RING_BASE) (s.regN Reg.BREACH_RING_SIZE)
    (s.regN Reg.BREACH_RING_PI) (s.regN Reg.BREACH_RING_CI)
  if s.io.brStore.length < 64 ∨ s.io.brStore.length < room then
    (s.mapIo (fun io => { io with brStore := io.brStore ++ [rcd] })).drainBreaches
  else
    ((s.bump Reg.BREACH_DROPPED).setReg Reg.BREACH_CTRL (s.reg Reg.BREACH_CTRL ||| 0x40000000#64)).raise
      Ev.breachOverflow

/-- The phase of one term of a promise's bound ends in beat `b` (R82). `INTAKE_COMMIT` ends when the work starts, `HOPS` with
the first frame of a stream, `TRANSFER` with its last. DEDUCED, log entry 156. -/
def State.endPhase (s : State) (id : Option Nat) (code b : Nat) : State :=
  s.updPromise id (fun p => { p with ends := p.ends ++ [(code, b)] })

/-- One promised instruction of a promise commits in beat `b` (R59, R61, R84): a commit after the promised beat is a miss,
and with the last of them the promise ends. Answers the code the work ends with, which the latest of the commits
decides. -/
def State.keepPromise (s : State) (id : Option Nat) (b : Nat) (remote : Bool := false) : State × Code :=
  match id.bind s.promise with
  | none => (s, .ok)
  | some p =>
    let last := max p.last b
    let code := if p.d < last then Code.overdue else .ok
    let s := if p.k + p.n < b then s.writeBreach p code (b - p.k) else s
    if 1 < p.left then
      (s.updPromise (some p.id) (fun q => { q with left := q.left - 1, remoteLeft := q.remoteLeft - b2n remote, last := last }), .ok)
    else (s.dropPromise p.id, code)

/-- The promise is already missed: local work of it had not committed by the end of its promised beat (R80, R81). -/
def Promise.missed (p : Promise) (now : Nat) : Bool := decide (p.k + p.n < now ∧ p.remoteLeft < p.left)

/-- The code that a record written before the work has ended shows (R86). -/
def Promise.known (p : Promise) (now : Nat) : Code := if p.d < now then .overdue else .ok

/-- The breach record of promised work that ends with a failure (R81). An end under R80 writes one only for a promise that
was already missed. -/
def State.breachOf (s : State) (p : Promise) (code : Code) (excused : Bool) : State :=
  if !excused then s.writeBreach p code (s.now - p.k)
  else if p.missed s.now then s.writeBreach p (p.known s.now) (s.now - p.k) else s

/-- Promised work ends with a failure (R80, R81). -/
def State.failPromise (s : State) (id : Option Nat) (code : Code) (excused : Bool := false) : State :=
  match id.bind s.promise with
  | none => s
  | some p => (s.breachOf p code excused).dropPromise p.id

/-! ## Program contexts and result records (R92, R93, R103 to R105, R127 to R129) -/

def State.ctx (s : State) (c : Nat) : Option Ctx := s.io.ctxs.find c
def State.setCtx (s : State) (c : Nat) (x : Ctx) : State :=
  s.mapIo (fun io => { io with ctxs := Tbl.put (Tbl.drop io.ctxs c) c x })

/-- A fresh context for an entry, presented for admission at its turn. -/
def Ctx.fresh (e : Entry) (turn : Nat := 0) : Ctx :=
  { entry := e, phase := .presented, wait := .none, pc := 0, stack := [], posted := [],
    halted := false, group := 0, promise := none, admitBeat := 0, bound := 0, accepted := false,
    breached := false, term := 0, request := none, lantern := none, out0 := 0, out1 := 0,
    outLen := 0, progressBp := 0, progressLost := false, progressOwn := false, reqCode := none, grants := [], reported := false, turn := turn }

/-- A freed context is taken at the next order 5 (R93). -/
def State.freeCtx (s : State) (c : Nat) : State := s.mapIo (fun io => { io with ctxs := Tbl.drop io.ctxs c })

def State.setProgress (s : State) (i : Nat) (p : Progress) : State :=
  s.mapIo (fun io => { io with progress := Tbl.set (fun _ => {}) io.progress i p })
def State.progress (s : State) (i : Nat) : Progress := Tbl.get (fun _ => {}) s.io.progress i

/-- A running record moves: it shows one update in a beat, and the next boundary shows a further one (R118). -/
def State.moveProgressTo (s : State) (i position bp : Nat) : State :=
  let p := s.progress i
  s.setProgress i (if p.update = s.now then { p with next := some (position, bp) }
    else { p with position := position, bp := bp, update := s.now, next := none })

/-- The work that a record has been told of. -/
def Progress.latest (p : Progress) : Nat := (p.next.map (·.1)).getD p.position

/-- At a boundary a record shows the update that waited; one that runs is updated at least every 1,024 beats (R118). -/
def Progress.refresh (now : Nat) (p : Progress) : Progress :=
  match p.next with
  | some (position, bp) => { p with position := position, bp := bp, update := now, next := none }
  | none => if p.state = 1 ∧ p.update + 1024 ≤ now then { p with update := now } else p

def State.refreshProgress (s : State) : State :=
  s.mapIo (fun io => { io with progress := io.progress.mapVals (fun _ p => p.refresh s.now) })

/-- The entry of a context publishes through the record it names: no other entry has it running (R119). DEDUCED, log entry 37. -/
def State.ownsProgress (s : State) (x : Ctx) : Bool :=
  let p := s.progress x.entry.progress
  x.progressOwn && (p.state != 1 || (p.tag == x.entry.tag && p.ring == x.entry.ring))

/-- The result record of an entry (Tables 4.7, 4.8). -/
def resultBytes (s : State) (x : Ctx) (code : Code) (idx obs : Nat) : Bytes :=
  let flags := b2n x.accepted + 2 * b2n x.halted + 4 * b2n x.breached + 8 * b2n x.progressLost
  packLE [(2, x.entry.tag), (1, codeN code), (1, flags), (2, idx), (1, if code = .illegalInState then obs else 0),
    (1, x.term), (4, x.bound), (1, x.entry.meadow), (1, x.entry.svc), (2, x.progressBp),
    (8, x.admitBeat), (8, s.now), (8, x.out0), (8, x.out1), (4, x.outLen),
    (4, x.lantern.getD 0xFFFFFFFF), (4, x.request.getD 0xFFFFFFFF), (4, 0)]

/-- Requests in flight under a promise. -/
def State.inFlightUnder (s : State) (id : Nat) : Nat :=
  s.lore.requests.count (fun q => q.promise == some id && (q.state == .admitted || q.state == .running))

/-- An entry that fails leaves promised instructions of its group undone: the promise is missed (R81), unless the end is one of
R80. What a request in flight still owes stays open. DESIGN CHOICE, log entry 38. -/
def State.abandonPromise (s : State) (id : Option Nat) (code : Code) : State :=
  match id.bind s.promise with
  | none => s
  | some p =>
    let n := s.inFlightUnder p.id
    let excused := decide (code = .isolated ∨ code = .killed)
    if code = .ok ∨ p.left ≤ n then s
    else if n = 0 then s.failPromise (some p.id) code excused
    else (s.breachOf p code excused).updPromise (some p.id) (fun q => { q with left := n, remoteLeft := 0 })

/-- The result record of an entry that ends is written, its context freed. DEDUCED, log entries 14, 31, 37. -/
def State.closeEntry (s : State) (c : Nat) (code : Code) (idx : Nat) (obs : Nat := 0) : State :=
  match s.ctx c with
  | none => s
  | some x =>
    let live := s.ownsProgress x && (s.progress x.entry.progress).state == 1
    let x := { x with progressBp := if code = .ok ∧ live then 10000 else min x.progressBp 9999 }
    let s := if live then
        let p := s.progress x.entry.progress
        s.setProgress x.entry.progress { p with state := 2, bp := x.progressBp, position := p.latest, next := none, update := s.now }
      else s
    let s := if code = .refusedBound then s.bump Reg.ADMIT_REFUSALS else s
    let s := s.mapLore (fun l => { l with requests := l.requests.mapVals (fun _ q =>
      if q.ctx = some c then { q with ctx := none, entryEnded := true } else q) })
    let s := x.grants.foldl (fun s g => s.subQueued g.cls g.bytes) s
    let unstarted := x.grants.filterMap (fun g => if g.code.isNone then g.step else none)
    let s := s.mapEng (fun e => { e with meadows := e.meadows.mapVals (fun _ m =>
      { m with steps := m.steps.filter (fun t => t.started || !unstarted.contains t.id) }) })
    let bytes := resultBytes s x code idx obs
    let r : ResultOut := 
      { ring := x.entry.ring, slot := x.entry.slot, status := codeN code, notify := x.entry.notify,
        addr := x.entry.resultBase + 64 * x.entry.slot, bytes := bytes }
    let s := (s.emit (.hostWrite r.addr bytes)).mapIo (fun io => { io with results := io.results ++ [r] })
    s.freeCtx c

/-- An entry ends (R103, R104). -/
def State.endEntry (s : State) (c : Nat) (code : Code) (idx : Nat) (obs : Nat := 0) : State :=
  match s.ctx c with
  | none => s
  | some x => (s.abandonPromise x.promise code).closeEntry c code idx obs

/-- The earliest posted instruction that failed, its code and the state it observed (R129). -/
def Ctx.failedPost (x : Ctx) : Option (Nat × Code × Nat) :=
  (x.posted.filterMap (fun p => match p.done with
    | some .ok => none
    | some code => some (p.index, code, p.obs)
    | none => none)).foldl (fun b p => match b with
      | none => some p
      | some q => if p.1 < q.1 then some p else b) none

def Ctx.outstanding (x : Ctx) : Nat := (x.posted.filter (fun p => p.done.isNone)).length

/-- A request is not yet at its end: ADMITTED or RUNNING (R105). -/
def RState.live (r : RState) : Bool := r == .admitted || r == .running

def State.request (s : State) (r : Nat) : Request := Tbl.get (fun _ => {}) s.lore.requests r
def State.setRequest (s : State) (r : Nat) (q : Request) : State :=
  s.mapLore (fun l => { l with requests := Tbl.set (fun _ => {}) l.requests r q })

/-- A program reaches `HALT` or its end (R105, R129). -/
def State.endProgram (s : State) (c : Nat) : State :=
  match s.ctx c with
  | none => s
  | some x =>
    if x.outstanding ≠ 0 then s.setCtx c { x with phase := .draining, wait := .none }
    else match x.failedPost with
      | some (i, code, obs) => s.endEntry c code i obs
      | none => match x.request, x.reqCode with
        | some _, none => s.setCtx c { x with phase := .awaitRequest, wait := .none }
        | _, code => s.endEntry c (code.getD .ok) x.pc

/-- A request ends with `code` (Table 6.6): its entry ends, or learns the code if its program still
runs; an entry that has already ended gets the event of R177. -/
def State.endRequest (s : State) (r : Nat) (st : RState) (code : Code) : State :=
  let q := s.request r
  let s := s.setRequest r { q with state := st, finalCode := some code, doneBeat := s.now }
  match q.ctx with
  | some c => match s.ctx c with
    | none => s
    | some x => if x.request ≠ some r then s
      else if x.phase = .awaitRequest then s.endEntry c code x.pc
      else s.setCtx c { x with reqCode := some code }
  | none => if q.entryEnded ∧ (st = .done ∨ st = .killed) then
      s.raise Ev.requestEnded 0 r (q.lantern) else s

/-- An instruction completes with a code other than `OK`: the program ends there (R92). -/
def State.failInstr (s : State) (c : Nat) (code : Code) (obs : Nat := 0) : State :=
  match s.ctx c with
  | none => s
  | some x =>
    let s := s.setCtx c { x with halted := x.pc + 1 < x.entry.prog.length }
    s.endEntry c code x.pc obs

/-- The opcodes of the class tables of chapter 5. -/
def listedOp (op : Nat) : Bool :=
  decide (op ≤ 0x07) || decide (0x10 ≤ op ∧ op ≤ 0x13) || decide (0x18 ≤ op ∧ op ≤ 0x1C) || decide (0x20 ≤ op ∧ op ≤ 0x24) ||
  decide (0x28 ≤ op ∧ op ≤ 0x30) || decide (0x38 ≤ op ∧ op ≤ 0x3B) || [0x40, 0x41, 0x48, 0x49, 0x50, 0x51, 0x58, 0x59].contains op ||
  decide (0x60 ≤ op ∧ op ≤ 0x62) || decide (0x68 ≤ op ∧ op ≤ 0x6A) || decide (0x70 ≤ op ∧ op ≤ 0x73) || decide (0x78 ≤ op ∧ op ≤ 0x7B) ||
  decide (0x80 ≤ op ∧ op ≤ 0x82) || decide (0x88 ≤ op ∧ op ≤ 0x8E)

/-- The program stands at a word whose opcode no class table lists: it ends there (R92, R124). -/
def State.checkWord (s : State) (c : Nat) : State :=
  match s.ctx c with
  | none => s
  | some x => match x.entry.prog[x.pc]? with
    | none => s
    | some v => if listedOp (v.toNat % 256) then s else s.failInstr c .badOperand

/-- The program continues at index `t` (R92). -/
def State.goto (s : State) (c t : Nat) : State :=
  match s.ctx c with
  | none => s
  | some x => (s.setCtx c { x with pc := t, wait := .none, powerSince := none, group := if t < x.group ∧ x.pc < t then x.group else 0 }).checkWord c

/-- An instruction completes with `OK`: the next one follows, or the program ends. -/
def State.advance (s : State) (c : Nat) : State :=
  match s.ctx c with
  | none => s
  | some x => if x.pc + 1 < x.entry.prog.length then s.goto c (x.pc + 1) else s.endProgram c

/-- A posted instruction's code arrives (R127, R129). -/
def State.postDone (s : State) (c index : Nat) (code : Code) (obs : Nat := 0) : State :=
  match s.ctx c with
  | none => s
  | some x =>
    let x := { x with posted := x.posted.map (fun p => if p.index = index ∧ p.done.isNone then { p with done := some code, obs := obs } else p) }
    let s := s.setCtx c x
    if x.outstanding ≠ 0 then s
    else match x.phase with
      | .draining => s.endProgram c
      | .fencing => match x.failedPost with
        | some (i, code, obs) => (s.setCtx c { x with halted := x.pc + 1 < x.entry.prog.length }).endEntry c code i obs
        | none => (s.setCtx c { x with phase := .running, posted := [] }).advance c
      | _ => s

/-- A long operation ends: whoever waits for it learns the code. -/
def State.finish (s : State) (o : Owner) (code : Code) (obs : Nat := 0) : State :=
  match o with
  | .engine => s
  | .posted c i => s.postDone c i code obs
  | .instr c => match code with
    | .ok => s.advance c
    | code => s.failInstr c code obs

/-- Output fields of a context's result record. -/
def State.setOut (s : State) (o : Owner) (f : Ctx → Ctx) : State :=
  match o with
  | .engine => s
  | .posted c _ => match s.ctx c with | none => s | some x => s.setCtx c (f x)
  | .instr c => match s.ctx c with | none => s | some x => s.setCtx c (f x)

/-! ## Running an instruction of a service program -/

/-- How an instruction's meaning ends. -/
inductive IRes where
  | ok (s : State)
  | jump (s : State) (t : Nat)
  | fail (code : Code) (obs : Nat)
  | failAs (s : State) (code : Code) (obs : Nat)
  | failAt (s : State) (code : Code) (index obs : Nat)
  | wait (s : State) (w : Wait)
  | halt (s : State)
deriving DecidableEq, Repr

/-- An instruction refused with a term of Table 3.5: the bound fields show it when it is the first promised one
(R105). -/
def IRes.refuse (s : State) (c : Nat) (code : Code) (term n : Nat) : IRes :=
  match s.ctx c with
  | none => .fail code 0
  | some x => if x.reported then .failAs s code 0
    else .failAs (s.setCtx c { x with term := term, bound := n, admitBeat := s.now, reported := true }) code 0

end Sys2Proof.Machine

namespace Sys2Proof

/-- The 128-bit word of an instruction (Table 5.1). -/
def IWord.encode (op : Nat) (w : IWord) : BitVec 128 :=
  w.opc ++ w.opb ++ w.opa ++ BitVec.ofBool w.posted ++ w.flags ++ BitVec.ofNat 8 op

/-- R124: flags and operand bits outside the class table's masks are 0. -/
def IWord.uses (w : IWord) (flags opa opb opc : Nat) : Bool :=
  (w.flags.toNat &&& flags) == w.flags.toNat && (w.opa.toNat &&& opa) == w.opa.toNat &&
  (w.opb.toNat &&& opb) == w.opb.toNat && (w.opc.toNat &&& opc) == w.opc.toNat

/-- A flag by its number in the instruction word: flags[8] is bit 0 of the field. -/
def IWord.flag (w : IWord) (i : Nat) : Bool := w.flags.getLsbD (i - 8)

def all64 : Nat := 0xFFFFFFFFFFFFFFFF

/-- Who waits for an instruction's long operation: its context, or its posted slot. -/
def IWord.owner (w : IWord) (c pc : Nat) : Machine.Owner :=
  if w.posted then .posted c pc else .instr c

end Sys2Proof

namespace Sys2Proof.Machine

/-- The context's result of an instruction. -/
def State.settle (s : State) (c : Nat) (r : IRes) : State :=
  match r with
  | .ok s' => s'.advance c
  | .jump s' t => match s'.ctx c with
    | none => s'
    | some x => if t < x.entry.prog.length then s'.goto c t else s'.failInstr c .badOperand
  | .fail code obs => s.failInstr c code obs
  | .failAs s' code obs => s'.failInstr c code obs
  | .failAt s' code index obs => match s'.ctx c with
    | none => s'
    | some x => (s'.setCtx c { x with halted := x.pc + 1 < x.entry.prog.length }).endEntry c code index obs
  | .wait s' w => match s'.ctx c with
    | none => s'
    | some x => s'.setCtx c { x with wait := w }
  | .halt s' => s'.endProgram c

/-- The block of Table 19.3 that an opcode's helper stands in. -/
def opBlock (op : Nat) : Option Nat :=
  match op with
  | 0x2C | 0x2D | 0x2E => some 5
  | 0x2F | 0x8E => some 0xB
  | 0x38 | 0x60 | 0x62 | 0x72 => some 6
  | 0x58 => some 8
  | 0x59 => some 7
  | 0x88 => some 9
  | 0x8A => some 0xF
  | 0x18 | 0x19 | 0x1A | 0x1B => some 4
  | _ => none

/-- New requests to a block in reset are held until it is back (R496). DESIGN CHOICE, log entry 6. -/
def State.opHeld (s : State) (op : Nat) : Bool :=
  match opBlock op with
  | none => false
  | some n => s.sys.blocks.any (fun b => b.1 == n)

/-- Instructions that act on the entry's meadow (R125). -/
def actsOnMeadow (op : Nat) : Bool := [0x20, 0x40, 0x41, 0x51, 0x62, 0x79, 0x7A, 0x7B].contains op

/-- A failure that a command reports, as far as the instruction can end with its code. -/
def onlyCodes (allowed : List Code) (fail : Option Code) : Option Code := fail.filter (fun c => allowed.contains c)

/-- A precondition that fails, with its code and the state it observed. -/
abbrev Pre := Option (Code × Nat)

/-- The command runs instruction `w` of context `c` (R127, R128): only when that context is running
and stands at this very word; otherwise nothing happens. `shape` is R124's test of flags and
operands. A posted set or codec instruction whose precondition `pre` holds is handed over and done at its completion; a
posted transfer starts at once (`early`). DESIGN CHOICE, log entries 6, 11. -/
def State.runInstr (s : State) (c op : Nat) (w : IWord) (cmd : Instr) (shape : Bool)
    (postable early : Bool) (body : Ctx → IRes) (pre : Ctx → Pre := fun _ => none) : State :=
  match s.ctx c with
  | none => s
  | some x =>
    if x.phase ≠ .running ∨ x.wait ≠ .none ∨ x.entry.prog[x.pc]? ≠ some (w.encode op) ∨ s.sys.paused ∨ s.opHeld op then s
    else if !shape ∨ (w.posted ∧ !postable) ∨ (x.entry.meadow = 0xFF ∧ actsOnMeadow op) then s.failInstr c .badOperand
    else if w.posted then
      if 16 ≤ x.outstanding then s
      else
        let note (s'' : State) (done : Option Code) (obs : Nat) : State :=
          match s''.ctx c with
          | none => s''
          | some y => (s''.setCtx c { y with posted := y.posted ++ [{ index := x.pc, cmd := cmd, done := done, obs := obs }] }).advance c
        if early then match body x with
          | .wait s'' .op => note s'' none 0
          | .wait s'' v => match s''.ctx c with
            | none => s''
            | some y => s''.setCtx c { y with wait := v }
          | .ok s'' => note s'' (some .ok) 0
          | .fail code obs => note s (some code) obs
          | .failAs s'' code obs => note s'' (some code) obs
          | .failAt s'' _ _ _ => s''
          | .jump s'' _ => s''
          | .halt s'' => s''
        else match pre x with
          | some (code, obs) => note s (some code) obs
          | none => note s none 0
    else s.settle c (body x)

abbrev Out := Host.Outcome State Fault Refusal

end Sys2Proof.Machine
end

