-- ==== Sys2Proof/Machine/Shares.lean ====
section
/-! DEFINITION. The background share of the counted resources, and the passes that must end within their period (R78,
R525, R526, Tables 21.1, 21.2). -/

namespace Sys2Proof.Machine

def State.mapBg (s : State) (f : Background → Background) : State := { s with sys := { s.sys with bg := f s.sys.bg } }

/-- Keys of the counted resources: GDDR7 channels below 24, the CXL link, 16 flash channels, 128 tiles, 64 commons banks, and the
links by port. -/
def resCxl : Nat := 64
def resFlash (channel : Nat) : Nat := 80 + channel
def resTile (i : Nat) : Nat := 128 + i
def resBank (b : Nat) : Nat := 256 + b
def resLink (port : Nat) : Nat := 512 + port

/-- Capacity in one window (Table 21.1). -/
def State.capacity (s : State) (k : Nat) : Nat :=
  let b := s.clk.len * 1024
  if k < 24 then 144 * b
  else if k = resCxl then bits (s.regN Reg.CXL_RESUME_BW) 7 0 * (bits (s.regN Reg.RESUME_SLOTS) 3 0 + 1) * b
  else if k < resTile 0 then 36 * b / 10
  else if k < resLink 0 then b
  else 25 * ((Tbl.find s.fab.links (k - resLink 0)).map (·.lanes)).getD 0 * b

/-- The share in force: a lower BG_SHARE counts at once, a higher one from the next window (R527). -/
def State.share (s : State) (k : Nat) : Nat := min s.sys.bg.share (bits (s.regN Reg.BG_SHARE) 9 0) * s.capacity k / 1024

def State.bgUsed (s : State) (k : Nat) : Nat := Tbl.get (fun _ => 0) s.sys.bg.used k
def State.bgUse (s : State) (k n : Nat) : State :=
  s.mapBg (fun b => { b with used := Tbl.set (fun _ => 0) b.used k (s.bgUsed k + n) })
/-- The window's share of a resource still holds `n`. -/
def State.bgRoom (s : State) (k n : Nat) : Bool := decide (s.bgUsed k + n ≤ s.share k)

/-- The same for several resources at once, and their use. -/
def State.bgRooms (s : State) (l : List (Nat × Nat)) : Bool := l.all (fun e => s.bgRoom e.1 e.2)
def State.bgUses (s : State) (l : List (Nat × Nat)) : State := l.foldl (fun s e => s.bgUse e.1 e.2) s

/-! ### Work over several beats -/

def State.addJob (s : State) (act id : Nat) (need : List (Nat × Nat)) : State :=
  s.mapBg (fun b => { b with jobs := b.jobs ++ [{ act := act, id := id, need := need }] })
def State.dropJob (s : State) (act id : Nat) : State :=
  s.mapBg (fun b => { b with jobs := b.jobs.filter (fun j => j.act != act || j.id != id) })
def State.hasJob (s : State) (act id : Nat) : Bool := s.sys.bg.jobs.any (fun j => j.act == act && j.id == id)
/-- The work has had all it needs. -/
def State.jobDone (s : State) (act id : Nat) : Bool :=
  !s.sys.bg.jobs.any (fun j => j.act == act && j.id == id && j.need.any (fun e => decide (e.2 ≠ 0)))

/-- One job is served in one beat: of each resource that `may` allows, what the window's share holds, and no more than the
resource gives in a beat. -/
def State.serveJob (s : State) (may : BgJob → Nat → Bool) (j : BgJob) : State × BgJob :=
  j.need.foldl (fun (r : State × BgJob) e =>
    let n := if may j e.1 then min e.2 (min (r.1.share e.1 - r.1.bgUsed e.1) (r.1.capacity e.1 / 1024)) else 0
    (if n = 0 then r.1 else r.1.bgUse e.1 n, { r.2 with need := r.2.need ++ [(e.1, e.2 - n)] })) (s, { j with need := [] })

/-- The activities are served in ascending index (R526). -/
def State.serveJobs (s : State) (may : BgJob → Nat → Bool) : State :=
  let order := (List.range 9).flatMap (fun a => s.sys.bg.jobs.filter (fun j => j.act == a))
  let r := order.foldl (fun (r : State × List BgJob) j => let q := r.1.serveJob may j; (q.1, r.2 ++ [q.2])) (s, [])
  r.1.mapBg (fun b => { b with jobs := r.2 })

/-- An activity's pass has ended: in time its bit of BG_STATUS clears. -/
def State.passEnds (s : State) (activity started period : Nat) : State :=
  if s.clk.time ≤ started + period ∧ bit (s.regN Reg.BG_STATUS) activity then
    s.setRegN Reg.BG_STATUS (s.regN Reg.BG_STATUS - 2 ^ activity)
  else s

/-- A pass has not ended within its period. -/
def State.passLate (s : State) (activity started period : Nat) : State :=
  if s.clk.time ≤ started + period ∨ bit (s.regN Reg.BG_STATUS) activity then s
  else (s.setRegN Reg.BG_STATUS (s.regN Reg.BG_STATUS + 2 ^ activity)).raise Ev.bgBehind 0 activity

def secondNs : Nat := 1000000000
def State.scrubNs (s : State) : Nat := bits (s.regN Reg.SCRUB_PERIOD) 16 0 * secondNs
def Background.calNs (b : Background) : Nat := b.calMs * 1000000
def Background.patrolNs (b : Background) : Nat := b.days * 86400 * secondNs

end Sys2Proof.Machine
end

