-- ==== Sys2Proof/Machine/Operands.lean ====
section
/-! DEFINITION. Operand forms: which flag and operand bits each opcode uses (R124 and the class
tables of chapter 5), and how a deed is named (R142). -/

namespace Sys2Proof.Machine

/-- Masks of the used bits: flags field, op_a, op_b, op_c. -/
def operandMasks : Nat → Option (Nat × Nat × Nat × Nat)
  | 0x00 | 0x01 | 0x05 | 0x06 => some (0, 0, 0, 0)
  | 0x02 | 0x04 => some (0, 0, 0xFFF, 0)
  | 0x03 => some (3, 0x3FFF, 0xFFF, 2 ^ 48 - 1)
  | 0x07 => some (1, 7, 0, all64)
  | 0x10 | 0x11 | 0x12 => some (0, 0x3FFF, 0, 2 ^ 48 - 1)
  | 0x13 => some (0, 0x3FFF, 0xFFFFFFFF, 2 ^ 48 - 1)
  | 0x18 => some (0, 0, 0xFFFFFFFF, all64)
  | 0x19 => some (0, 0, 0x3FFFFF, 0)
  | 0x1A => some (3, 0, 0x3FFFFF, 0)
  | 0x1B => some (1, 0, 0x3FFFFF, 0)
  | 0x1C | 0x20 | 0x2A | 0x51 => some (0, 0, 0x3FFFFF, all64)
  | 0x21 => some (0, 0, 0x3FFFF, 0)
  | 0x22 => some (0, 0xF, 0x3FFFF, 0)
  | 0x23 => some (0, 0, 0x3FFFF, all64)
  | 0x24 => some (1, 0, 0x3FFFF, 0xFFFFFFFF)
  | 0x28 => some (0, 3, 0xFFFFFFFF, all64)
  | 0x29 | 0x2B | 0x2C | 0x2D | 0x2E | 0x2F | 0x30 => some (0, 0, 0, all64)
  | 0x38 => some (7, 0xFFFF, 0x3FFFFF, all64)
  | 0x39 | 0x3A => some (6, 0x3FF, 0x3FFFFF, all64)
  | 0x3B => some (6, 0x3FF, 0x3FFFFF, 0)
  | 0x40 | 0x49 | 0x68 | 0x72 | 0x79 | 0x7A | 0x7B | 0x8B | 0x8E => some (0, 0, 0, all64)
  | 0x41 => some (0, 0, 0xFFFFFFFF, all64)
  | 0x48 => some (0, 0x3FF, 0x3FFFFF, all64)
  | 0x50 => some (4, 0x3FF, 0x3FFFFF, 0)
  | 0x58 | 0x59 => some (7, 0, 0, all64)
  | 0x60 => some (0, 3, 0, all64)
  | 0x61 => some (1, 3, 0, all64)
  | 0x62 => some (0, 0, 0xFF, all64)
  | 0x69 => some (0, 0xFFF, 0, all64)
  | 0x6A => some (0, 0xFFF, 0, 0)
  | 0x70 => some (0, 0, 0xFFF, all64)
  | 0x71 => some (0, 0x3FFF, 0xFFF, 0)
  | 0x73 => some (1, 0, 0xFFF, all64)
  | 0x78 | 0x80 => some (0, 7, 0, all64)
  | 0x81 => some (0, 7, 3, 0)
  | 0x82 => some (0, 7, 0, 0)
  | 0x88 => some (3, 0xFFFF, 0, 0)
  | 0x89 => some (0, 1, 0xFFFFFFFF, all64)
  | 0x8A => some (1, 0, 0xFFFFFFFF, all64)
  | 0x8C => some (1, 0, 0, all64)
  | 0x8D => some (0, 0xFF, 0, 0)
  | _ => none

/-- R124's test of an instruction word: a listed opcode, no undefined flag, no unused operand bit. -/
def shapeOk (op : Nat) (w : IWord) : Bool :=
  match operandMasks op with
  | none => false
  | some (f, a, b, c) => w.uses f a b c

/-- Table 5.2. -/
def mayPost (op : Nat) : Bool := [0x2C, 0x2D, 0x2E, 0x2F, 0x48, 0x58, 0x59, 0x60, 0x72].contains op

/-- Instructions of Table 3.1. -/
def mayPromise (op : Nat) : Bool := [0x1B, 0x20, 0x38, 0x40, 0x41, 0x48, 0x51, 0x60, 0x72].contains op

/-- The opcode byte and the rest of an instruction word (Table 5.1). -/
def opcodeOf (v : BitVec 128) : Nat := v.toNat % 256
def wordOf (v : BitVec 128) : IWord :=
  { opc := (v.extractLsb' 64 64), opb := v.extractLsb' 32 32, opa := v.extractLsb' 16 16,
    posted := v.getLsbD 15, flags := v.extractLsb' 8 7 }

/-- The instruction forms of an entry whose deadline is all ones carry no deadline (R58). -/
def noDeadline : Nat := 0xFFFFFFFFFFFFFFFF

/-- How the operands name a deed (R142): lantern deed, hosted entry or window. -/
def deedRefOf (w : IWord) : Option DRef :=
  match w.flag 9, w.flag 10 with
  | true, true => none
  | true, false => if w.opa = 0 ∧ w.opb.toNat < 4096 then some (.region w.opb.toNat) else none
  | false, true => if w.opa = 0 ∧ w.opb.toNat < 262144 then some (.hosted w.opb.toNat) else none
  | false, false => if w.opa.toNat < 1024 then some (.own w.opb.toNat w.opa.toNat) else none

/-- A completion that observes a state (Table 4.7): object kind and state encoding. DESIGN CHOICE, log entry 12. -/
def obsOf (kind st : Nat) : Nat := kind * 16 + st

/-- Illegal in the present state, naming what was seen. DESIGN CHOICE, log entry 12. -/
def illegal (kind st : Nat) : Pre := some (.illegalInState, obsOf kind st)
def badOp : Pre := some (.badOperand, 0)

/-- A precondition first, then the effect. -/
def afterPre (p : Pre) (r : IRes) : IRes :=
  match p with
  | some (code, obs) => .fail code obs
  | none => r

end Sys2Proof.Machine
end

