-- ==== Sys2Proof/Machine/Bounds.lean ====
section
/-! DEFINITION. The bounds of the delivery promise (R57 to R76, R401, R549) and the decision of the
admission engine. Every ceiling is evaluated exactly (R66). -/

namespace Sys2Proof.Machine

/-- The value that admissions of this beat read: one that a write of the beat has shortened counts from the next (R77). -/
def State.admitReg (s : State) (off : Nat) : Nat :=
  ((s.io.oldRegs.find? (fun e => e.1 == off)).map (·.2)).getD (s.regN off)

/-- The value a new bound takes for a register whose pending write makes terms longer (R77): the
smaller (`low`) or the larger of the value in force and the pending one. -/
def State.effReg (s : State) (off : Nat) (low : Bool) : Nat :=
  match s.io.pendingWrites.find? (·.off == off) with
  | none => s.admitReg off
  | some p => if low then min (s.admitReg off) p.value else max (s.admitReg off) p.value

/-- Beat lengths of the re-forms that this Cucia distributes or has been told of (R418). -/
def State.fieldLens (s : State) : List Nat :=
  s.fld.flatMap (fun e => (e.2.changes.filter (fun k => k.kind == .reform)).map (·.desc.beatNs) ++
    (e.2.announced.filter (fun a => a.change.kind == .reform)).map (·.change.desc.beatNs))

/-- The beat length of a new bound: the longer while a change is pending (R32, R63, R418). -/
def State.boundB (s : State) : Nat := s.fieldLens.foldl max (max s.clk.len (s.clk.lenPending.getD 0))

/-- The path to a node (R367, R368): egress link, L, H, alternate link. -/
def State.route (s : State) (n : NodeId) : Option (Nat × Nat × Nat × Nat) :=
  match s.fab.map.nodes.find? (fun e => e.1 == n) with
  | some e => some e.2
  | none => ((s.fab.links.find? (fun e => e.2.state == 2 && e.2.neighbour == n && n != 0)).map
      (fun e => (e.1, e.2.lanes, 1, 0xFF)))

/-- The partner entry of a node. -/
def State.partnerOf (s : State) (n : NodeId) : Option Nat :=
  (s.fab.partners.find? (fun e => e.2.node == n && e.2.state != .free)).map (·.1)
def State.partner (s : State) (i : Nat) : Partner := Tbl.get (fun _ => {}) s.fab.partners i
def State.setPartner (s : State) (i : Nat) (p : Partner) : State :=
  s.mapFab (fun f => { f with partners := Tbl.set (fun _ => {}) f.partners i p })
def State.partnerState (s : State) (n : NodeId) : PState :=
  match s.partnerOf n with
  | none => .free
  | some i => (s.partner i).state

/-- What admission weighs for one promised instruction: its terms, the registers they drew on, the
refusal terms of Table 3.5 that fail, a full table or tier, whether R41 concerns it, a class without
a share or gate (R401), and the class and bytes it counts. -/
structure Item where
  index : Nat
  terms : List (Nat × Nat)
  regs : List Nat
  fails : List Nat := []
  noSpace : Bool := false
  hop : Bool := false
  shut : Bool := false
  cls : Option (Nat × Nat) := none
  watts : Nat := 0
  lantern : Option Nat := none
  request : Option Nat := none
  peer : NodeId := 0
  tc : Nat := 0xFF
  remote : Bool := false
  /-- declared power of a `SHADOW`, counted from its admission (R53) -/
  held : Nat := 0
deriving DecidableEq, Repr

/-- A `STEP_RUN` or `SHADOW`, whose admission without a deadline comes at its instruction (R53). -/
def Item.isStep (i : Item) : Bool := i.terms.any (fun t => t.1 == 9)

/-- DESIGN CHOICE, log entry 33. -/
def Item.n (i : Item) : Nat := (i.terms.map (·.2)).sum

/-- The transfer term of T_move in beats by class, lanes and rate size; `none` while the class has no share or no
gate (R401). -/
def State.moveBeats (s : State) (c l rate : Nat) : Option Nat :=
  let share := s.effReg (Reg.CLASS_SHARE c) true
  let gate := min (s.fab.gateFrac.getD c 0) (s.effReg (Reg.GATE_FRACTION c) true)
  let kappa := s.effReg Reg.BG_SHARE false
  let a := s.effReg (Reg.ADMIT_LIMIT c) false
  if share = 0 ∨ gate = 0 then none
  else some (ceilDiv ((a + rate) * 1024 * 10000 * 1024) (25 * s.boundB * l * share * gate * (1024 - kappa)))

/-- The weighing of a move or copy of `rate` bytes to `dst` in class `c` (R65 to R67, R381). -/
def State.moveItem (s : State) (index c : Nat) (dst : NodeId) (rate : Nat) : Item :=
  match s.route dst with
  | none => { index := index, terms := [], regs := [], shut := true }
  | some (_, l, h, _) =>
    let x := s.moveBeats c l rate
    let full := decide (s.effReg (Reg.ADMIT_LIMIT c) false < s.queued c)
    { index := index, terms := [(1, 2), (2, h), (3, x.getD 0)],
      regs := [Reg.ADMIT_LIMIT c, Reg.CLASS_SHARE c, Reg.GATE_FRACTION c, Reg.BG_SHARE],
      fails := if full then [0x11] else [], hop := true, shut := x.isNone,
      cls := some (c, rate), peer := dst, tc := c, remote := true }

/-- T_resume by tier: 2 host memory, 4 flash (Table 3.3), 0 otherwise. -/
def State.resumeTerms (s : State) (tier rate : Nat) : List (Nat × Nat) :=
  let b := s.boundB
  if tier = 2 then [(1, 2), (4, ceilDiv rate (s.effReg Reg.CXL_RESUME_BW true * b))]
  else if tier = 4 then
    [(1, 2), (5, s.effReg Reg.FLASH_FIRST_BEATS false), (6, ceilDiv rate (s.effReg Reg.FLASH_RESUME_BW true * b))]
  else []

/-- The registers that bound draws on. -/
def resumeRegs (tier : Nat) : List Nat :=
  if tier = 2 then [Reg.CXL_RESUME_BW, Reg.RESUME_SLOTS]
  else if tier = 4 then [Reg.FLASH_RESUME_BW, Reg.FLASH_FIRST_BEATS, Reg.RESUME_SLOTS] else []

/-- Resumes in progress on a tier (R69): lantern resumes, those admitted with a group and not yet
started, and tier moves holding a slot. -/
def State.slotsBusy (s : State) (tier : Nat) : Nat :=
  (s.lore.resumes.filter (·.tier == tier)).length +
  ((s.io.ctxs.map (fun e => (e.2.grants.filter (·.slot == tier)).length)).sum) +
  (s.mem.tierMoves.filter (fun t => t.slot == tier)).length

/-- The slots of a tier, with the smaller value of a pending write (R77). -/
def State.slotsCap (s : State) (tier : Nat) : Nat :=
  let f (v : Nat) : Nat := if tier = 2 then bits v 3 0 else bits v 11 8
  match s.io.pendingWrites.find? (·.off == Reg.RESUME_SLOTS) with
  | none => f (s.admitReg Reg.RESUME_SLOTS)
  | some p => min (f (s.admitReg Reg.RESUME_SLOTS)) (f p.value)

/-- The weighing of a resume of `rate` bytes from a tier (R69). -/
def State.resumeItem (s : State) (index tier rate : Nat) : Item :=
  let full := decide (tier = 2 ∨ tier = 4) && decide (s.slotsCap tier ≤ s.slotsBusy tier)
  { index := index, terms := s.resumeTerms tier rate, regs := resumeRegs tier,
    fails := if full then [0x14] else [] }

/-- R549: the beats that admitted, uncommitted steps of a meadow still hold, up to the commit of the last of them as it was
scheduled, 0 once that beat has passed. -/
def State.stepW (s : State) (m : Nat) : Nat :=
  match (s.mdw m).steps.getLast? with
  | none => 0
  | some t => t.due - s.now

/-- Declared power of a program in W, rounded up to whole watts. The spec states no rounding. DESIGN CHOICE, log entry 137. -/
def Hdr.watts (h : Hdr) : Nat := ceilDiv h.energy h.beatNs

/-- POWER_SUM: declared power of the counted programs, a promised `SHADOW` from its admission on (R53). -/
def State.powerSum (s : State) : Nat :=
  (s.eng.meadows.map (fun e => (e.2.steps.map (·.watts)).sum)).sum +
  (match s.eng.shadow with | some r => r.watts | none => 0) +
  (s.io.ctxs.map (fun e => (e.2.grants.map (·.watts)).sum)).sum

/-- The power term (R53). -/
def State.powerFail (s : State) (watts : Nat) : Bool :=
  decide (bits (s.regN Reg.POWER_CAP) 9 0 < watts + s.powerSum)

/-- A meadow's field, and whether it belongs to one. -/
def State.field (s : State) (m : Nat) : FieldSt := Tbl.get (fun _ => {}) s.fld m
def State.inField (s : State) (m : Nat) : Bool := (s.field m).state != 0

/-- The weighing of a step (T_step); a shadow run has W = 0. -/
def State.stepItem (s : State) (index m : Nat) (h : Hdr) (shadow : Bool) : Item :=
  let w := if shadow then 0 else s.stepW m
  { index := index, terms := [(9, w + h.pLen + 1)], regs := [],
    fails := if s.powerFail h.watts then [0x12] else [], hop := s.inField m, watts := h.watts,
    held := if shadow then h.watts else 0 }

/-- Chunk capacity of a request on a meadow (R74). -/
def chunkOf (role : Nat) (h : Hdr) : Nat := if role = 1 ∨ h.chunk = 0 then 1 else h.chunk

/-- Prompt tokens of a request that a started step has taken and not yet committed. -/
def State.inSlot (s : State) (m r : Nat) : Nat :=
  (((s.mdw m).steps.filter (·.started)).map (fun t =>
    ((t.rows.filter (fun u => u.request == r && u.prompt)).map (·.tokens)).sum)).sum

/-- R75: queued prefill steps of a meadow. -/
def State.queuedSteps (s : State) (m : Nat) : Nat :=
  let x := s.mdw m
  let c := match x.program with | none => 1 | some h => chunkOf x.role h
  b2n (x.steps.any (·.started)) +
  ((s.lore.requests.filter (fun e => e.2.meadow == m && e.2.ahead &&
      (e.2.state == .admitted || e.2.state == .running))).map
    (fun e => ceilDiv (e.2.pTokens - e.2.prefilled - s.inSlot m e.1) c)).sum

/-- Rows reserved on a meadow (R174). -/
def State.rowsUsed (s : State) (m : Nat) : List Nat :=
  s.lore.requests.filterMap (fun e => if e.2.meadow == m && e.2.state != .free then e.2.row else none)

/-- The lowest free row of a program. -/
def State.freeRow (s : State) (m rows : Nat) : Option Nat :=
  let used := s.rowsUsed m
  (List.range rows).find? (fun r => !used.contains r)

/-- T_first and T_turn without the resume part (R73 to R75). -/
def State.firstItem (s : State) (index m : Nat) (h : Hdr) (p g : Nat) (turn : Bool) : Item :=
  let role := (s.mdw m).role
  let q := s.regN (Reg.ADMIT_STEPS m)
  let steps := ceilDiv p (chunkOf role h) * (h.pLen + 1)
  let base := [(7, q * (h.pLen + 1)), (8, steps)]
  { index := index, terms := if turn then base ++ [(10, (g - 1) * (h.pLen + 1))] else base,
    regs := [Reg.ADMIT_STEPS m], hop := s.inField m }

/-- T_attn (R76). DESIGN CHOICE, log entry 39. -/
def attnItem (index : Nat) (dst : NodeId) (h pAttn allow : Nat) : Item :=
  { index := index, terms := [(11, 2 * h), (12, pAttn + 1)], regs := [],
    fails := if allow < 2 * h + pAttn + 1 then [0x15] else [], hop := true, peer := dst, tc := 2 }

/-- The verdict of the admission engine. -/
inductive Verdict where
  | accept (n : Nat)
  | refuse (code : Code) (term index n : Nat)
deriving DecidableEq, Repr

/-- R41: `FREE_RUN` past its holdover. -/
def State.holdoverOver (s : State) : Bool :=
  s.clk.beacon == .freeRun && decide (s.clk.freeSince + s.regN Reg.BEACON_HOLDOVER < s.now)

/-- The deadline beat of R58; an armed activation ends it a beat before its own (R515). -/
def State.deadlineBeat (s : State) (deadline : Nat) : Nat :=
  let d := s.now + (deadline - s.clk.time) / s.boundB
  match s.sys.fw.armed with
  | none => d
  | some a => min d (a - 1)

/-- R60 to R63: the group's one bound against its deadline, `DERATED` and `BEACON` first, then the
failing term of lowest code, then a full table or tier. DESIGN CHOICE, log entry 33. -/
def State.weigh (s : State) (deadline : Nat) (items : List Item) : Verdict :=
  let first := (items.head?.map (·.index)).getD 0
  if s.clk.timing = .derated then .refuse .derated 0 first 0
  else if items.isEmpty then .accept 0
  else
    let n := (items.map Item.n).sum
    let promised := deadline ≠ noDeadline
    let shut := items.any (·.shut)
    let shown := if shut then 0xFFFFFFFF else n
    if promised ∧ s.holdoverOver ∧ items.any (·.hop) then .refuse .refusedBound 0x17 first shown
    else
      let late := shut ∨ deadline < s.clk.time ∨ s.deadlineBeat deadline < s.now + n
      let has (t : Nat) : Option Nat := (items.find? (fun i => i.fails.contains t)).map (·.index)
      if promised ∧ late then .refuse .refusedBound 0x10 first shown
      else
        let named := if promised then [0x11, 0x12, 0x13, 0x14, 0x15, 0x16].findSome? (fun t => (has t).map (fun i => (t, i)))
          else none
        match named with
        | some (t, i) => .refuse .refusedBound t i shown
        | none => match items.find? (·.noSpace) with
          | some i => .refuse .noSpace 0 i.index (if promised then shown else 0)
          | none => .accept (if promised then n else 0)

/-- The promise of an accepted group or instruction (R59). For a group, the record's index, traffic class, lantern, request
and partner are those of the first promised instruction that has one. DEDUCED, log entry 31. DESIGN CHOICE, log entry 138. Work
with a fabric hop, or of a field, that is admitted in `FREE_RUN` has met its path fault (R41). -/
def State.grant (s : State) (x : Ctx) (deadline n : Nat) (items : List Item) : State × Option Nat :=
  if deadline = noDeadline ∨ items.isEmpty then (s, none)
  else
    let id := s.io.nextPromise
    let pick (f : Item → Option Nat) : Option Nat := items.findSome? f
    let p : Promise :=
      { id := id, ring := x.entry.ring, slot := x.entry.slot, tag := x.entry.tag,
        index := (items.head?.map (·.index)).getD 0, meadow := x.entry.meadow, svc := x.entry.svc,
        tc := ((items.find? (fun i => i.tc != 0xFF)).map (·.tc)).getD 0xFF, k := s.now, n := n,
        d := s.deadlineBeat deadline, terms := items.flatMap (·.terms), ends := [],
        regs := items.flatMap (·.regs), lantern := pick (·.lantern), request := pick (·.request),
        peer := ((items.find? (fun i => i.peer != 0)).map (·.peer)).getD 0, path := s.clk.beacon == .freeRun && items.any (·.hop),
        media := false, derated := decide (s.clk.timing = .derated),
        remote := items.any (·.remote), left := items.length, remoteLeft := (items.filter (·.remote)).length, last := 0,
        b := s.boundB, breached := false }
    (s.mapIo (fun io => { io with promises := io.promises ++ [p], nextPromise := id + 1 }), some id)

/-- The class bytes of accepted work are counted (R67). -/
def State.charge (s : State) (items : List Item) : State :=
  items.foldl (fun s i => match i.cls with | none => s | some (c, b) => s.addQueued c b) s

/-- FW_PROMISED_MAX: the latest promised beat outstanding (R514). -/
def State.promisedMax (s : State) : Nat :=
  s.io.promises.foldl (fun m p => max m (p.k + p.n)) 0

/-- Class `c` has room for work without a deadline (R18, R62, R67). -/
def State.classRoom (s : State) (c : Nat) : Bool :=
  decide (s.queued c ≤ s.regN (Reg.ADMIT_LIMIT c))

/-- How an instruction outside its group is admitted when the Lamplighter reaches it (R57). -/
inductive Admit where
  | go (s : State) (promise : Option Nat) (n : Nat)
  | no (r : IRes)

/-- Class bytes that the group's admission counted for an instruction are its own from its start on. DEDUCED, log entry 31. -/
def State.useGrant (s : State) (c index : Nat) : State :=
  match s.ctx c with
  | none => s
  | some x => s.setCtx c { x with grants := x.grants.map (fun g => if g.index = index then { g with bytes := 0, slot := 0, watts := 0 } else g) }

/-- Another program waits for the power cap and comes first (R53): every one before a program that has not waited yet, and
for one that has, those that began before it. -/
def State.powerBehind (s : State) (c : Nat) (since : Option Nat) : Bool :=
  s.io.ctxs.any (fun e => e.1 != c && (match e.2.wait with
    | .power _ t => (match since with | none => true | some u => decide (t < u ∨ (t = u ∧ e.1 < c)))
    | _ => false))

/-- A program waits for the power cap from its first attempt on. -/
def State.waitPower (s : State) (c : Nat) (x : Ctx) (watts : Nat) : IRes :=
  let since := x.powerSince.getD s.now
  .wait (s.setCtx c { x with powerSince := some since }) (.power watts since)

/-- An instruction of an admission group with a deadline has been admitted with it (R61); any other is
weighed when the Lamplighter reaches it (R57). Work without a deadline is never refused with a bound
and waits for room in its class or under the power cap (R62); while the resume slots are full (R69) it is not started. A step
without a deadline is admitted at its instruction, so `DERATED` refuses it there (R44, R53). DEDUCED, log entry 30. -/
def State.admitAt (s : State) (c : Nat) (x : Ctx) (item : Item) : Admit :=
  if x.entry.deadline = noDeadline then
    let v := if x.pc < x.group ∧ !item.isStep then (if item.noSpace then .refuse .noSpace 0 x.pc 0 else .accept 0)
      else s.weigh noDeadline [item]
    match v with
    | .refuse code term _ n => .no (IRes.refuse s c code term n)
    | .accept _ =>
      if item.fails.contains 0x14 then .no (.wait s .none)
      else if item.isStep ∧ (s.powerFail item.watts ∨ s.powerBehind c x.powerSince) then .no (s.waitPower c x item.watts)
      else match item.cls with
        | none => .go s none 0
        | some (k, _) => if s.classRoom k then .go (s.charge [item]) none item.n
          else .no (.wait s (.room k s.now))
  else if x.pc < x.group then .go (s.useGrant c x.pc) x.promise x.bound
  else match s.weigh x.entry.deadline [item] with
    | .refuse code term _ n => .no (IRes.refuse s c code term n)
    | .accept n =>
      let (s1, id) := s.grant x x.entry.deadline n [item]
      let s2 := match s1.ctx c with
        | none => s1
        | some y => s1.setCtx c (if x.reported then y else
            { y with promise := id, bound := n, accepted := id.isSome, admitBeat := s.now, reported := true })
      .go (s2.charge [item]) id n

/-- A running operation publishes its progress through its entry's record (R117 to R119). -/
def State.publish (s : State) (o : Owner) (unit position total : Nat) : State :=
  let c := match o with | .instr c => some c | .posted c _ => some c | .engine => none
  match c.bind s.ctx with
  | none => s
  | some x => if !s.ownsProgress x then s else
    let p := s.progress x.entry.progress
    let pos := max (if p.state = 1 then p.latest else 0) position
    let bp := if total = 0 then 0 else min (10000 * pos / total) 9999
    let s := if p.state = 1 then (s.setProgress x.entry.progress { p with unit := unit, total := total }).moveProgressTo x.entry.progress pos bp
      else s.setProgress x.entry.progress { p with state := 1, unit := unit, position := pos, total := total, bp := bp, update := s.now, next := none }
    s.setOut o (fun y => { y with progressBp := bp })

end Sys2Proof.Machine
end

