-- ==== Sys2Proof/Machine/FlashOps.lean ====
section
/-! DEFINITION. The flash steward's map, journal and write points (R330 to R338, R344 to R348). -/

namespace Sys2Proof.Machine

def State.mapFls (s : State) (f : Flash → Flash) : State := { s with fls := f s.fls }

/-- Map units of the exported tier, and 4 KiB locations (R332). -/
def mapUnits : Nat := 22888184
def flashUnits : Nat := mapUnits * 256
/-- Data superblocks (Table 12.2). -/
def sbFirst : Nat := 12
def sbLast : Nat := 2403
/-- Unit slots of a superblock: 1,536 rows of 8. -/
def sbSlots : Nat := 12288

def State.mapEnt (s : State) (u : Nat) : MapEnt := Tbl.get (fun _ => {}) s.fls.map u
def State.setMapEnt (s : State) (u : Nat) (e : MapEnt) : State :=
  s.mapFls (fun f => { f with map := Tbl.set (fun _ => {}) f.map u e })
def State.sb (s : State) (i : Nat) : Superblock := Tbl.get (fun _ => {}) s.fls.sbs i
def State.setSb (s : State) (i : Nat) (x : Superblock) : State :=
  s.mapFls (fun f => { f with sbs := Tbl.set (fun _ => {}) f.sbs i x })
def State.live (s : State) (g : Nat) : Nat := Tbl.get (fun _ => 0) s.fls.live g
def State.setLive (s : State) (g n : Nat) : State :=
  s.mapFls (fun f => { f with live := Tbl.set (fun _ => 0) f.live g n })

/-- A record is put into the journal page being filled. -/
def State.journal (s : State) (r : JRec) : State := s.mapFls (fun f => { f with recs := f.recs ++ [r] })

/-- Free exported bytes; 0 unless `READY` (R344). -/
def State.flashFree (s : State) : Nat :=
  if s.fls.state = .ready then 4096 * (flashUnits - Extents.used s.mem.flashUsed) else 0

/-- The superblock of a phys value, and its die. -/
def physSb (p : Nat) : Nat := bits p 22 11
def physDie (p : Nat) : Nat := bits p 27 25
/-- phys of a unit slot: channel 0, plane 0 (Table 12.3). -/
def slotPhys (sb slot : Nat) : Nat := (slot % 8) * 2 ^ 25 + sb * 2 ^ 11 + slot / 8

/-- Units mapped into a superblock; a lost unit holds no live data (R342, R353). -/
def State.unitsIn (s : State) (sb : Nat) : List Nat :=
  (s.fls.map.filter (fun e => !e.2.lost && e.2.phys != 0xFFFFFFFF && physSb e.2.phys == sb)).map (·.1)
/-- Valid granules of a superblock. -/
def State.validIn (s : State) (sb : Nat) : Nat :=
  ((s.fls.map.filter (fun e => !e.2.lost && e.2.phys != 0xFFFFFFFF && physSb e.2.phys == sb)).map
    (fun e => ((List.range 16).filter (fun g => bit e.2.valid g)).length)).sum

/-- Superblocks `FREE`: those never opened are not listed. -/
def State.freeSbs (s : State) : Nat :=
  (sbLast + 1 - sbFirst) - s.fls.sbs.count (fun x => x.state != 0)
def State.sbsIn (s : State) (st : Nat) : Nat := s.fls.sbs.count (fun x => x.state == st)

/-- Erase count of a superblock. -/
def State.eraseCount (s : State) (sb : Nat) : Nat := s.fls.formats + (s.sb sb).erases

/-- Flash time in ns (R351). -/
def State.flashTime (s : State) : Int := (s.clk.time : Int) + s.fls.timeOffset

/-- Die number of a block address: 8 dies on each channel. -/
def blockDie (p : Nat) : Nat := bits p 31 28 * 8 + bits p 27 25
/-- A block address in the phys form with row 0. -/
def blockAddr (sb die plane channel : Nat) : Nat := channel * 2 ^ 28 + die * 2 ^ 25 + plane * 2 ^ 23 + sb * 2 ^ 11
/-- Spares left on a die, of 320. -/
def State.sparesLeft (s : State) (die : Nat) : Nat := 320 - (s.fls.spares.filter (fun e => blockDie e.2 == die)).length

/-- The spare for a hole: the lowest free block of the hole's plane, or, where that plane has none left, of another plane of its die
(Table 12.2, R347). DESIGN CHOICE, log entry 60. -/
def State.spareFor (s : State) (hole : Nat) : Option Nat :=
  let die := bits hole 27 25
  let channel := bits hole 31 28
  let own := bits hole 24 23
  ((own :: (List.range 4).filter (· != own)).flatMap (fun p => (List.range 80).map (fun i => blockAddr (2404 + i) die p channel))).find?
    (fun b => !s.fls.spares.any (fun e => e.2 == b))

/-- The steward enters `READ_ONLY` (R348): a copy whose move is not durable is abandoned (R342). -/
def State.enterReadOnly (s : State) : State :=
  if s.fls.state = .readOnly ∨ s.fls.readOnly then s
  else (((s.mapFls (fun f => { f with recs := f.recs.filter (fun r => r.typ != 0x03) })).journal { typ := 0x0C }).mapFls (fun f => { f with readOnly := true, state := .readOnly, gcActive := false, gc := none, gcQueue := [] })).raise Ev.flashReadOnly

/-- A spare is attached to a hole of a superblock that opens, and the spare records say so (R347). DESIGN CHOICE, log entry 168. -/
def State.attachSpare (s : State) (hole : Nat) : State :=
  match s.spareFor hole with
  | none => s
  | some b =>
    let s := (s.journal { typ := 0x0A, index := hole, aux := b }).mapFls (fun f => { f with spares := (hole, b) :: f.spares, holes := f.holes.filter (· != hole) })
    if s.sparesLeft (blockDie hole) = 0 then s.enterReadOnly else s

/-- A slot whose die index includes a hole is left unwritten (R331). -/
def State.slotHoled (s : State) (sb slot : Nat) : Bool :=
  s.fls.holes.any (fun h => physSb h == sb && physDie h == slot % 8)

/-- The next usable slot of a superblock from `slot` on. -/
def State.usableSlot (s : State) (sb slot : Nat) : Nat → Option Nat
  | 0 => none
  | n + 1 => if sbSlots ≤ slot then none
    else if s.slotHoled sb slot then State.usableSlot s sb (slot + 1) n else some slot

/-- A superblock is closed (Table 12.4). -/
def State.closeSb (s : State) (sb : Nat) : State :=
  let x := s.sb sb
  ((s.setSb sb { x with state := 2 }).journal { typ := 0x07, index := sb }).mapFls
    (fun f => { f with opens := Tbl.drop f.opens x.stream })

/-- The temperatures of a group of 32 dies (Table 12.6). -/
def State.groupTemps (s : State) (g : Nat) : Bytes :=
  (List.range 32).map (fun i => BitVec.ofNat 8 (Tbl.get (fun _ => 0) s.fls.dieTemps (32 * g + i)))

/-- Dies have other temperatures from now on. -/
def State.warmDies (s : State) (new : List (Nat × Nat)) : State :=
  s.mapFls (fun f => { f with dieTemps := new.foldl (fun (t : Tbl Nat) e => if e.1 < 128 then Tbl.set (fun _ => 0) t e.1 (e.2 % 256) else t) f.dieTemps })

/-- A `FREE` superblock is opened as the write point of a stream. -/
def State.openSb (s : State) (stream : Nat) : Option (Nat × State) :=
  match (List.range (sbLast + 1 - sbFirst)).find? (fun i => (s.sb (sbFirst + i)).state == 0) with
  | none => none
  | some i =>
    let sb := sbFirst + i
    let s := (s.fls.holes.filter (fun h => physSb h == sb)).foldl State.attachSpare s
    let x := s.sb sb
    let s := s.setSb sb { x with state := 1, stream := stream, slot := 0, opened := s.flashTime.toNat, aged := false, faults := [], temps := s.fls.dieTemps }
    let t := s.flashTime.toNat
    let s := s.journal { typ := 0x05, index := sb, aux := stream, oldPhys := t % 2 ^ 32, newPhys := t / 2 ^ 32 }
    let s := (List.range 4).foldl (fun s g => s.journal { typ := 0x06, index := sb, aux := g, payload := s.groupTemps g }) s
    some (sb, s.mapFls (fun f => { f with opens := Tbl.put (Tbl.drop f.opens stream) stream sb }))

/-! ### Parity (R335) -/

/-- Blocks of the parity area, in SLC mode, and the unit slots whose 4 parity pages fit one block's 512 pages (R330). -/
def parityBlocks : Nat := 4096
def paritySlots : Nat := 128

/-- The place at which the next parity goes: a block is begun again only once all of its parity has been released; blocks are
taken in turn. DESIGN CHOICE, log entry 157. -/
def State.parityPlace (s : State) : Nat → Nat → Nat
  | 0, p => p
  | n + 1, p => if p % paritySlots = 0 ∧ s.fls.parity.any (fun e => e.1 / paritySlots == p / paritySlots) then
      State.parityPlace s n ((p + paritySlots) % (parityBlocks * paritySlots)) else p

/-- The 4 parity pages of a unit slot are programmed. -/
def State.programParity (s : State) (phys : Nat) : State :=
  let p := s.parityPlace parityBlocks s.fls.parityNext
  s.mapFls (fun f => { f with parity := (p, phys) :: f.parity, parityNext := (p + 1) % (parityBlocks * paritySlots) })

/-- The parity of a superblock is released: it is `VERIFIED`, or it is erased. -/
def State.releaseParity (s : State) (sb : Nat) : State :=
  s.mapFls (fun f => { f with parity := f.parity.filter (fun e => physSb e.2 != sb) })

/-- Parity of a unit slot is held. -/
def State.parityHeld (s : State) (phys : Nat) : Bool := s.fls.parity.any (fun e => e.2 == phys)

/-- Page k of a unit: 16,384 bytes of its data. -/
def State.unitPage (s : State) (u k : Nat) : Bytes := Tbl.readBytes s.mem.flash (2 ^ 20 * u + 16384 * k) 16384

/-- The XOR of pages. -/
def xorPages (ps : List Bytes) : Bytes := (List.range 16384).map (fun i => ps.foldl (fun (x : Byte) p => x ^^^ p.getD i 0) 0)

/-- The parity page of plane `g` of the slot that holds a unit: the XOR of the group's 16 pages, one on each channel. -/
def State.parityPage (s : State) (u g : Nat) : Bytes := xorPages ((List.range 16).map (fun c => s.unitPage u (16 * g + c)))

/-- A page rebuilt from the other 15 of its group and their parity page. -/
def State.rebuiltPage (s : State) (u k : Nat) : Bytes :=
  xorPages (s.parityPage u (k / 16) :: ((List.range 16).filter (· != k % 16)).map (fun c => s.unitPage u (16 * (k / 16) + c)))

/-- The next unit slot of a superblock: its phys. Its parity is programmed ahead of the record that maps it. -/
def State.slotIn (s : State) (sb : Nat) : Option (Nat × State) :=
  match s.usableSlot sb (s.sb sb).slot 12289 with
  | none => none
  | some k =>
    let s := s.setSb sb { s.sb sb with slot := k + 1 }
    let s := if (s.usableSlot sb (k + 1) 12289).isNone then s.closeSb sb else s
    some (slotPhys sb k, s.programParity (slotPhys sb k))

/-- The next unit slot at a stream's write point; a full superblock gives way to a fresh one. -/
def State.nextSlot (s : State) (stream : Nat) : Option (Nat × State) :=
  match s.fls.opens.find stream with
  | some sb => match s.slotIn sb with
    | some r => some r
    | none => match (s.closeSb sb).openSb stream with | none => none | some (n, s1) => s1.slotIn n
  | none => match s.openSb stream with | none => none | some (n, s1) => s1.slotIn n

/-- Units of `n` 4 KiB locations written from granule 0, with their records (R333): `k` units still to write
from unit `u` on. -/
def State.writeUnits (s : State) (u n : Nat) : Nat → Option State
  | 0 => some s
  | k + 1 => match s.nextSlot 0 with
    | none => none
    | some (p, s1) =>
      let here := min n 256
      let v := (List.range 16).foldl (fun a g => if 16 * g < here then a + 2 ^ g else a) 0
      let s2 := (List.range 16).foldl (fun s g => s.setLive (16 * u + g) (min 16 (here - 16 * g))) s1
      let s3 := s2.journal { typ := 0x01, index := u, newPhys := p, valid := v }
      let s4 := s3.mapMem (fun m => { m with flashUsed := Tbl.put (Tbl.drop m.flashUsed (256 * u)) (256 * u) 256 })
      State.writeUnits s4 (u + 1) (n - here) k

/-- Tier space for `n` 4 KiB locations: fresh map units, the lowest free run; the first location. -/
def State.flTake (s : State) (n : Nat) : Option (Nat × State) :=
  let k := ceilDiv n 256
  match Extents.fit (256 * k) flashUnits s.mem.flashUsed 0 with
  | none => none
  | some a => (s.writeUnits (a / 256) n k).map (fun s' => (a, s'))

/-- The whole unit is being freed: a copy of it is discarded and no `UNIT_MOVE` is written (R342). -/
def State.dropUnitMove (s : State) (u : Nat) : State :=
  if (List.range 16).all (fun g => s.live (16 * u + g) == 0) then
    s.mapFls (fun f => { f with recs := f.recs.filter (fun r => !(r.typ == 0x03 && r.index == u)) })
  else s

/-- A granule that has lost its live data loses its valid bit with the journal. -/
def State.freeGranule (s : State) (g : Nat) : State :=
  (s.dropUnitMove (g / 16)).journal { typ := 0x02, index := g / 16, valid := 2 ^ (g % 16) }

/-- Locations freed (R334): a granule without live data loses its valid bit once its record is durable. DESIGN CHOICE, log entry 61. -/
def State.flFree (s : State) (loc n : Nat) : State :=
  if n = 0 then s else
  let g0 := loc / 16
  let g1 := (loc + n - 1) / 16
  (List.range (g1 + 1 - g0)).foldl (fun s i =>
    let g := g0 + i
    let lo := max loc (16 * g)
    let hi := min (loc + n) (16 * g + 16)
    let left := s.live g - (hi - lo)
    let had := s.live g
    let s := s.setLive g left
    if had ≠ 0 ∧ left = 0 then s.freeGranule g else s) s

/-- A unit is unmapped: its tier space is free and a lost mark goes (R334, R353). -/
def State.unmapUnit (s : State) (u : Nat) : State :=
  let s := s.setMapEnt u {}
  s.mapMem (fun m => { m with flashUsed := Tbl.drop m.flashUsed (256 * u) })

/-- A superblock without valid data is queued for its erase (Table 12.4). -/
def State.eraseIfEmpty (s : State) (sb : Nat) : State :=
  let x := s.sb sb
  if (x.state = 2 ∨ x.state = 3) ∧ s.validIn sb = 0 then s.setSb sb { x with state := 4 } else s

/-- A durable record takes effect (R338). -/
def State.applyRec (s : State) (r : JRec) : State :=
  match r.typ with
  | 0x01 => s.setMapEnt r.index { valid := r.valid, lost := false, phys := r.newPhys }
  | 0x02 =>
    let e := s.mapEnt r.index
    let v := e.valid - (e.valid &&& r.valid)
    if e.phys = 0xFFFFFFFF then s
    else
      let s := if v = 0 then s.unmapUnit r.index else s.setMapEnt r.index { e with valid := v }
      s.eraseIfEmpty (physSb e.phys)
  | 0x03 =>
    let e := s.mapEnt r.index
    if e.phys ≠ r.oldPhys then s
    else (s.setMapEnt r.index { e with phys := r.newPhys, valid := e.valid &&& r.valid }).eraseIfEmpty (physSb r.oldPhys)
  | 0x04 => s.setMapEnt r.index { s.mapEnt r.index with lost := true }
  | 0x0D => (List.map (·.1) s.fls.map).foldl (fun s u => if u < mapUnits then s.unmapUnit u else s) s
  | _ => s

/-- A unit's data cannot be read any more: `UNIT_LOST` (R353). DESIGN CHOICE, log entry 104. -/
def State.loseUnit (s : State) (u : Nat) : State :=
  s.journal { typ := 0x04, index := u, oldPhys := (s.mapEnt u).phys }

/-- A read of a lost unit, or one that ends as a media fault, is counted and names unit and page (R353). -/
def State.mediaFault (s : State) (u page : Nat) : State :=
  (s.bump Reg.FLASH_MEDIA_FAULTS).raise Ev.flashMedia 0 u page

/-- A journal page becomes durable: up to 256 records take effect (R337). -/
def State.journalPage (s : State) : State :=
  let now := s.fls.recs.take 256
  if now.isEmpty then s
  else
    let s := s.mapFls (fun f => { f with recs := f.recs.drop 256, seq := f.seq + now.length, pages := f.pages + 1 })
    now.foldl State.applyRec s

/-- Every waiting record is made durable: what commits now depends on it. -/
def State.journalAll (s : State) : State :=
  (List.range (s.fls.recs.length / 256 + 1)).foldl (fun s _ => s.journalPage) s

/-- Units of the system partition, behind the exported tier's (R332). -/
def systemUnits : Nat := 16384

/-- `n` fresh units of the system partition written through the system stream, from unit `u` on (R333, R336). -/
def State.writeSystemUnits (s : State) (u : Nat) : Nat → State
  | 0 => s
  | n + 1 => match s.nextSlot 2 with
    | none => s
    | some (p, s1) => State.writeSystemUnits
        (((List.range 16).foldl (fun (s : State) g => s.setLive (16 * u + g) 16) s1).journal { typ := 0x01, index := u, newPhys := p, valid := 0xFFFF }) (u + 1) n

/-- The system partition takes a new copy of one of its things, and frees the one from before once the new one is durable: the
lowest free run of units. A steward that is neither `READY` nor `READ_ONLY` programs nothing. DESIGN CHOICE, log entry 168. -/
def State.systemWrite (s : State) (kind bytes : Nat) : State :=
  if (s.fls.state ≠ .ready ∧ s.fls.state ≠ .readOnly) ∨ s.fls.held then s
  else
    let n := max 1 (ceilDiv bytes (2 ^ 20))
    let used : Extents := s.fls.system.foldl (fun (x : Extents) e => Tbl.put x e.2.1 e.2.2) []
    match Extents.fit n (mapUnits + systemUnits) used mapUnits with
    | none => s
    | some u =>
      let old := Tbl.find s.fls.system kind
      let s := (s.writeSystemUnits u n).journalAll
      let s := match old with
        | none => s
        | some e => ((List.range e.2).foldl (fun (s : State) i =>
            ((List.range 16).foldl (fun (s : State) g => s.setLive (16 * (e.1 + i) + g) 0) s).journal { typ := 0x02, index := e.1 + i, valid := 0xFFFF }) s).journalAll
      s.mapFls (fun f => { f with system := Tbl.put (Tbl.drop f.system kind) kind (u, n) })

/-- A block is retired as a hole of its superblock (R346, R347). -/
def State.retireBlock (s : State) (hole : Nat) : State :=
  if s.fls.holes.contains hole then s
  else (s.journal { typ := 0x0A, index := hole, aux := 0xFFFFFFFF }).mapFls (fun f => { f with holes := f.holes ++ [hole], retired := f.retired + 1 })

/-- A media fault in a block of a superblock; the second in its life retires the block (R347). -/
def State.blockFault (s : State) (sb block : Nat) : State :=
  let x := s.sb sb
  let s := s.setSb sb { x with faults := block :: x.faults }
  if x.faults.contains block then s.retireBlock block else s

/-- A unit's page cannot be read or rebuilt: its data is lost, and the fault counts against the page's block, whose place
in the unit is an open value (R349, R353). -/
def State.unitFault (s : State) (u : Nat) : State :=
  let e := s.mapEnt u
  let (p, s) := s.free
  let page := p % 64
  let sb := physSb e.phys
  ((s.loseUnit u).mediaFault u page).blockFault sb (blockAddr sb (physDie e.phys) (page / 16) (page % 16))

/-- A read that failed its two retries (R350) and was not rebuilt. -/
def State.readFault (s : State) (u : Nat) : State := ((s.bump Reg.FLASH_RETRY1).bump Reg.FLASH_RETRY2).unitFault u

/-- A unit is copied to the collection stream and its move journaled, with the bits still valid (R341, R342). -/
def State.moveUnit (s : State) (u : Nat) : State :=
  let e := s.mapEnt u
  if s.fls.state = .readOnly ∨ e.lost ∨ e.valid = 0 ∨ e.phys = 0xFFFFFFFF ∨ s.fls.recs.any (fun r => r.typ == 3 && r.index == u) then s
  else match s.nextSlot 1 with
    | none => s
    | some (p, s) => if s.fls.state = .readOnly then s
      else s.journal { typ := 0x03, index := u, oldPhys := e.phys, newPhys := p, valid := e.valid }

/-- Locations that lie in a lost unit. -/
def State.flLost (s : State) (loc n : Nat) : Bool :=
  (List.range (n / 256 + 2)).any (fun i => decide (loc / 256 + i ≤ (loc + n - 1) / 256) && (s.mapEnt (loc / 256 + i)).lost)

/-- The read of `n` locations met a lost unit: the first one, and its first page that is read (R353). -/
def State.flFault (s : State) (loc n : Nat) : State :=
  match (List.range (n / 256 + 2)).find? (fun i => decide (loc / 256 + i ≤ (loc + n - 1) / 256) && (s.mapEnt (loc / 256 + i)).lost) with
  | none => s
  | some i => s.mediaFault (loc / 256 + i) (if i = 0 then loc % 256 / 4 else 0)

end Sys2Proof.Machine
end

