-- ==== Sys2Proof/Machine/Pages.lean ====
section
/-! DEFINITION. KV pages and page lists: allocation in the tiers, refcounts, the page and set
instructions (R141, R255 to R264), the prefix trie. -/

namespace Sys2Proof.Machine

/-- The descriptor of a model. -/
def State.modelOf (s : State) (id : Nat) : Option Model := (s.mem.models.find? (fun e => e.2.model == id)).map (·.2)
/-- The heads_local of a model (Table 9.1), 0 where no descriptor is held. -/
def State.headsOf (s : State) (id : Nat) : Nat := ((s.modelOf id).map (·.headsLocal)).getD 0

/-! ## The tiers' space -/

/-- 4 KiB units of a page at a ratio (Table 9.3). -/
def pageUnits (ratio : Nat) : Nat := match ratio with | 0 => 16 | 1 => 8 | 2 => 6 | _ => 4
/-- The rate size of a page in bytes (R65). -/
def pageBytes (ratio : Nat) : Nat := pageUnits ratio * 4096
def Page.bytes (p : Page) : Nat := pageBytes p.ratio
def pagesBytes (ps : List Page) : Nat := (ps.map Page.bytes).sum

/-- First unit of the KV pool: the regions before it in Table 11.2 hold 1,904 MiB. DESIGN CHOICE, log entry 60. -/
def kvBase : Nat := 1904 * 256
def State.kvUnits (s : State) : Nat := s.regN Reg.GDDR_KV_SIZE * 256
def State.kvFree (s : State) : Nat := s.kvUnits - Extents.used s.mem.kvUsed
/-- First unit and size of object space (R319). -/
def State.objBase (s : State) : Nat := kvBase + s.kvUnits
def State.objUnits (s : State) : Nat := (92160 - 1904 - s.regN Reg.GDDR_KV_SIZE) * 256
def State.objFree (s : State) : Nat := s.objUnits - Extents.used s.mem.objUsed
def State.swapFree (s : State) : Nat := s.regN Reg.SWAP_SIZE - 4096 * Extents.used s.mem.swapUsed
/-- The units in use of a tier. -/
def State.used (s : State) (tier : Nat) : Extents :=
  match tier with | 0 => s.mem.kvUsed | 1 => s.mem.swapUsed | 2 => s.mem.flashUsed | _ => s.mem.objUsed
def State.setUsed (s : State) (tier : Nat) (x : Extents) : State :=
  s.mapMem (fun m => match tier with
    | 0 => { m with kvUsed := x } | 1 => { m with swapUsed := x }
    | 2 => { m with flashUsed := x } | _ => { m with objUsed := x })
/-- First unit and end of a tier's space; tier 3 is object space. -/
def State.span (s : State) (tier : Nat) : Nat × Nat :=
  match tier with
  | 0 => (kvBase, kvBase + s.kvUnits)
  | 1 => (0, s.regN Reg.SWAP_SIZE / 4096)
  | 2 => (0, flashUnits)
  | _ => (s.objBase, s.objBase + s.objUnits)

/-- A run of `n` units taken at the lowest free place of a tier. -/
def State.takeUnits (s : State) (tier n : Nat) : Option (Nat × State) :=
  let (lo, hi) := s.span tier
  (Extents.fit n hi (s.used tier) lo).map (fun a =>
    (a, s.setUsed tier (Tbl.put (s.used tier) a n)))

/-- Pages at a ratio, all or none. -/
def State.takePages (s : State) (tier ratio : Nat) : Nat → Option (List Page × State)
  | 0 => some ([], s)
  | n + 1 => match s.takeUnits tier (pageUnits ratio) with
    | none => none
    | some (a, s1) => (State.takePages s1 tier ratio n).map (fun r =>
        ({ tier := tier, shared := false, ratio := ratio, loc := a } :: r.1, r.2))

/-- The stored bytes of a tier. -/
def State.bytesOf (s : State) (tier : Nat) : Tbl Byte :=
  match tier with | 1 => s.mem.swap | 2 => s.mem.flash | _ => s.mem.gddr
def State.setBytes (s : State) (tier : Nat) (b : Tbl Byte) : State :=
  s.mapMem (fun m => match tier with
    | 1 => { m with swap := b } | 2 => { m with flash := b } | _ => { m with gddr := b })

/-- The listed bytes of `[a, a + n)`, moved to start at 0. -/
def sliceBytes (m : Tbl Byte) (a n : Nat) : Tbl Byte :=
  (m.filter (fun e => decide (a ≤ e.1 ∧ e.1 < a + n))).map (fun e => (e.1 - a, e.2))
/-- `[a, a + n)` replaced by a slice. -/
def pasteBytes (m : Tbl Byte) (a n : Nat) (x : Tbl Byte) : Tbl Byte :=
  m.filter (fun e => decide (e.1 < a)) ++ (x.filter (fun e => decide (e.1 < n))).map (fun e => (e.1 + a, e.2)) ++
    m.filter (fun e => decide (a + n ≤ e.1))

/-- `n` stored bytes copied from one place to another. -/
def State.copyStored (s : State) (t1 a1 t2 a2 n : Nat) : State :=
  s.setBytes t2 (pasteBytes (s.bytesOf t2) a2 n (sliceBytes (s.bytesOf t1) a1 n))

/-- A 4 KiB unit goes out of use for good (R321); a channel retires up to 4,096. -/
def State.retireUnit (s : State) (u : Nat) : State :=
  if 4096 ≤ s.regN (Reg.GDDR_RETIRED (u % 24)) then s.raise Ev.gddrRetireFull 0 (u % 24)
  else
    (s.mapMem (fun m => if u < s.objBase then { m with kvUsed := Tbl.put (Tbl.drop m.kvUsed u) u 1, retired := u :: m.retired }
      else { m with objUsed := Tbl.put (Tbl.drop m.objUsed u) u 1, retired := u :: m.retired })).bump (Reg.GDDR_RETIRED (u % 24)) 1 13

/-- A unit waiting for retirement is retired when it is freed (R321). -/
def State.retireFreed (s : State) (loc n : Nat) : State :=
  let gone := s.mem.retirePending.filter (fun u => decide (loc ≤ u ∧ u < loc + n))
  gone.foldl State.retireUnit (s.mapMem (fun m => { m with retirePending := m.retirePending.filter (fun u => !gone.contains u) }))

/-- A page's units go back to its tier. DESIGN CHOICE, log entry 61. -/
def State.releaseUnits (s : State) (tier loc n : Nat) : State :=
  let s := if tier = 2 then s.flFree loc n else s.setUsed tier (Tbl.drop (s.used tier) loc)
  let s := s.setBytes tier (pasteBytes (s.bytesOf tier) (4096 * loc) (4096 * n) [])
  if tier = 0 ∨ tier = 3 then s.retireFreed loc n else s

def State.refcount (s : State) (loc : Nat) : Nat := Tbl.get (fun _ => 0) s.mem.refs loc
def State.setRef (s : State) (loc n : Nat) : State :=
  s.mapMem (fun m => { m with refs := Tbl.set (fun _ => 0) m.refs loc n })

/-- A page leaves a list: an owned page is freed; a shared page loses a reference, and is freed with
its last (R141, R257). -/
def State.dropPage (s : State) (p : Page) : State :=
  if p.shared then
    let n := s.refcount p.loc - 1
    let s := s.setRef p.loc n
    if n = 0 then s.releaseUnits p.tier p.loc (pageUnits p.ratio) else s
  else s.releaseUnits p.tier p.loc (pageUnits p.ratio)
def State.dropPages (s : State) (ps : List Page) : State := ps.foldl State.dropPage s

/-! ## Page lists -/

/-- A page list as software names it: a list of its own, the owned list of a lantern, the list of a region, or a list
that the Cucia holds itself: a group of the trie (Table 9.5), or what `PREFIX_MATCH` found (R262). -/
inductive ListAt where
  | user (root : Nat)
  | lantern (l : Nat)
  | region (w : Nat)
  | held (ps : List Page)
deriving DecidableEq, Repr

/-- The list whose root lies at an address; an address that names no lantern's list names a list of
software's own, empty until pages are put in. -/
def State.listAt (s : State) (root : Nat) : ListAt :=
  match s.lore.lanterns.find? (fun e => e.2.state != .closed && Config.structAddr 0 e.1 == root) with
  | some e => .lantern e.1
  | none => match s.fab.windows.find? (fun e => e.2.deed.state != .none && e.2.root == root) with
    | some e => .region e.1
    | none => match s.mem.trie.find? (fun e => Config.structAddr 9 e.1 == root), s.mem.setDescs.find? (fun e => Config.structAddr 13 e.1 == root) with
      | some e, _ => .held e.2.pages
      | none, some e => .held e.2.1
      | none, none => .user root

def State.deed (s : State) (r : DRef) : Deed :=
  match r with
  | .own l d => Tbl.get (fun _ => {}) s.lore.deeds (1024 * l + d)
  | .hosted i => Tbl.get (fun _ => {}) s.lore.hosted i
  | .region w => (Tbl.get (fun _ => ({} : Window)) s.fab.windows w).deed

def State.window (s : State) (w : Nat) : Window := Tbl.get (fun _ => {}) s.fab.windows w
def State.setWindow (s : State) (w : Nat) (x : Window) : State :=
  s.mapFab (fun f => { f with windows := Tbl.set (fun _ => {}) f.windows w x })

def State.setDeed (s : State) (r : DRef) (d : Deed) : State :=
  match r with
  | .own l i => s.mapLore (fun x => { x with deeds := Tbl.set (fun _ => {}) x.deeds (1024 * l + i) d })
  | .hosted i => s.mapLore (fun x => { x with hosted := Tbl.set (fun _ => {}) x.hosted i d })
  | .region w => s.setWindow w { s.window w with deed := d }

/-- The deeds of a lantern in its keeper's table, in ascending index. -/
def State.deedsOf (s : State) (l : Nat) : List (DRef × Deed) :=
  (List.range (s.lan l).deeds).map (fun i => (.own l i, s.deed (.own l i)))

/-- Pages of a list, in position order. -/
def State.pagesAt (s : State) (x : ListAt) : List Page :=
  match x with
  | .user r => (Tbl.get (fun _ => ({} : PList)) s.mem.lists r).pages
  | .lantern l => (s.deedsOf l).flatMap (fun e => if e.2.state = .home then e.2.pages else [])
  | .region w => if (s.deed (.region w)).state = .home then (s.deed (.region w)).pages else []
  | .held ps => ps

def State.plist (s : State) (r : Nat) : PList := Tbl.get (fun _ => {}) s.mem.lists r
def State.setPlist (s : State) (r : Nat) (p : PList) : State :=
  s.mapMem (fun m => { m with lists := Tbl.set (fun _ => {}) m.lists r p })

/-- The list is read-only: a list that the Cucia holds itself is. DESIGN CHOICE, log entry 170. -/
def State.listReadOnly (s : State) (x : ListAt) : Bool :=
  match x with | .user r => (s.plist r).readOnly | .lantern _ => false | .region w => (s.plist (s.window w).root).readOnly | .held _ => true
/-- The lantern a list is bound to. -/
def State.listOwner (s : State) (x : ListAt) : Option Nat :=
  match x with | .user r => (s.plist r).bound | .lantern l => some l | .region _ | .held _ => none

/-- The deed that takes a lantern's tokens: its highest-numbered one (R190). -/
def State.topDeed (s : State) (l : Nat) : DRef := .own l ((s.lan l).deeds - 1)

/-- Pages put at the end of a list. -/
def State.appendPages (s : State) (x : ListAt) (ps : List Page) : State :=
  match x with
  | .user r => let p := s.plist r; s.setPlist r { p with pages := p.pages ++ ps }
  | .lantern l =>
    let r := s.topDeed l
    let d := s.deed r
    s.setDeed r { d with pages := d.pages ++ ps, npages := d.npages + ps.length }
  | .region w =>
    let d := s.deed (.region w)
    s.setDeed (.region w) { d with pages := d.pages ++ ps, npages := d.npages + ps.length }
  | .held _ => s

/-- A list without its pages; those of a lantern's deeds that are not `HOME` stay. -/
def State.emptyList (s : State) (x : ListAt) : State :=
  match x with
  | .user r => s.setPlist r { s.plist r with pages := [] }
  | .region w => s.setDeed (.region w) { s.deed (.region w) with pages := [], npages := 0 }
  | .lantern l => (s.deedsOf l).foldl (fun (s : State) (e : DRef × Deed) =>
      if e.2.state = .home then s.setDeed e.1 { e.2 with pages := [], npages := 0 } else s) s
  | .held _ => s

/-- A move out of here that has not ended holds the deed. -/
def State.leaving (s : State) (f : DRef → Bool) : Bool := s.lore.movesOut.any (fun m => m.deeds.any f)

/-- An uncommitted step or move reads the list (Table 5.10). -/
def State.listBusy (s : State) (x : ListAt) : Bool :=
  match s.listOwner x with
  | none => (match x with | .region w => s.leaving (fun r => r == .region w) || (s.deed (.region w)).state == .lent | _ => false)
  | some l => (s.lan l).state == .lent || s.leaving (fun r => match r with | .own k _ => k == l | _ => false) ||
      (match (s.lan l).request with
       | none => false
       | some r => s.eng.meadows.any (fun e => e.2.steps.any (fun t => t.started && t.rows.any (·.request == r))))

def execPgAlloc (c : Nat) (w : IWord) (s : State) : Out :=
  .next (s.runInstr c 0x28 w (.pgAlloc c w) (shapeOk 0x28 w) false false (fun _ =>
    let x := s.listAt w.opc.toNat
    if w.opb = 0 then .fail .badOperand 0
    else if s.listReadOnly x then .fail .illegalInState 0
    else match s.takePages 0 w.opa.toNat w.opb.toNat with
      | none => .fail .noSpace 0
      | some (ps, s1) => .ok (s1.appendPages x ps)))

def execPgFree (c : Nat) (w : IWord) (s : State) : Out :=
  .next (s.runInstr c 0x29 w (.pgFree c w) (shapeOk 0x29 w) false false (fun _ =>
    let x := s.listAt w.opc.toNat
    if s.listBusy x then .fail .illegalInState 0
    else if s.listReadOnly x then .fail .accessViolation 0
    else
      let s1 := s.dropPages (s.pagesAt x)
      .ok (s1.emptyList x)))

/-- Keeper of a lantern: its entry is open and its record deed is `HOME` or on its way out of here;
a closed entry is no lantern of this Cucia's (R15, R160). -/
def State.keeps (s : State) (l : Nat) : Bool := (s.lan l).state != .closed && (s.deed (.own l 0)).state != .remote

/-- The set descriptor that `PREFIX_MATCH` wrote at an address. -/
def State.setDesc (s : State) (a : Nat) : Option (List Page × Nat × Nat) := Tbl.find s.mem.setDescs a

def execPgShare (c : Nat) (w : IWord) (d : Bytes) (s : State) : Out :=
  .next (s.runInstr c 0x2A w (.pgShare c w d) (shapeOk 0x2A w) false false (fun _ =>
    let l := w.opb.toNat
    if !s.keeps l then .fail .staleMap 0
    else match s.setDesc w.opc.toNat with
      | none => .fail .notResident 0
      | some (ps, _, _) =>
        if ps.any (fun p => !p.shared || p.tier != 0 || s.refcount p.loc == 0) then .fail .notResident 0
        else if ps.any (fun p => s.refcount p.loc == 65535) then .fail .noSpace 0
        else
          let s1 := ps.foldl (fun s p => s.setRef p.loc (s.refcount p.loc + 1)) s
          .ok (s1.setLan l { s1.lan l with shared := (s1.lan l).shared ++ ps })))

/-- `PG_APPEND`: source list root at byte 0 and destination list root at byte 8 of its descriptor. -/
def execPgAppend (c : Nat) (w : IWord) (d : Bytes) (s : State) : Out :=
  .next (s.runInstr c 0x2B w (.pgAppend c w d) (shapeOk 0x2B w) false false (fun _ =>
    let src := s.listAt (le d 0 8)
    let dst := s.listAt (le d 8 8)
    match s.listOwner src, s.listOwner dst with
    | none, some _ => .fail .illegalInState 0
    | a, b =>
      if b.isSome ∧ a ≠ b then .fail .illegalInState 0
      else if s.listReadOnly src ∨ s.listReadOnly dst then .fail .accessViolation 0
      else
        let ps := s.pagesAt src
        .ok ((s.emptyList src).appendPages dst ps)))

/-! ## Page sets -/

/-- A page put into a list sorted by page identifier, once. -/
def insertPage (p : Page) : List Page → List Page
  | [] => [p]
  | q :: qs => if p.loc < q.loc then p :: q :: qs else if p.loc = q.loc then q :: qs
    else q :: insertPage p qs
def sortPages (ps : List Page) : List Page := ps.foldl (fun acc p => insertPage p acc) []

/-- The descriptor of the set instructions (R255): inputs A and B, output, zero from byte 24. -/
def setShape (d : Bytes) : Bool := zeroAt d 24 8

/-- The descriptor of a set instruction is legal, and both inputs hold GDDR7 entries only (R255). -/
def State.preSet (s : State) (d : Bytes) : Pre :=
  if !setShape d ∨ (s.pagesAt (s.listAt (le d 0 8)) ++ s.pagesAt (s.listAt (le d 8 8))).any (fun p => p.tier != 0) then badOp
  else none

/-! ### Lists as they stand in GDDR7 (Tables 9.2, 9.3) -/

def Page.entry (p : Page) : Word := BitVec.ofNat 64 (2 ^ 62 * p.tier + 2 ^ 61 * b2n p.shared + 2 ^ 59 * p.ratio + p.loc)

/-- The entries of a list, its 64-byte root, and list block `k` with up to 510 entries. DESIGN CHOICE, log entry 21. -/
def listRoot (p : PList) (bound : Bool) (at_ : Nat) : Bytes :=
  let n := ceilDiv p.pages.length 510
  packLE [(4, p.pages.length), (1, 2 * b2n p.readOnly + b2n bound), (3, 0), (8, if n = 0 then 0 else Config.structAddr 12 (2 ^ 22 * at_)),
    (8, if n = 0 then 0 else Config.structAddr 12 (2 ^ 22 * at_ + n - 1)), (2, p.model), (2, p.adapter), (4, p.posStart)] ++ List.replicate 32 0
def listBlock (ps : List Page) (at_ k : Nat) : Bytes :=
  let here := (ps.drop (510 * k)).take 510
  packLE [(8, if 510 * (k + 1) < ps.length then Config.structAddr 12 (2 ^ 22 * at_ + k + 1) else 0), (4, here.length), (4, 0)] ++
    here.flatMap (fun p => leBytes 8 p.entry.toNat)

/-- A list's entries give way to others: it holds the shared pages among the new ones from now on (R257), and the pages that
it no longer holds leave it. DESIGN CHOICE, log entry 140. -/
def State.relist (s : State) (old new : List Page) : State :=
  let lost := old.filter (fun p => !new.any (fun q => q.loc == p.loc))
  let got := new.filter (fun p => p.shared && !old.any (fun q => q.loc == p.loc))
  (got.foldl (fun (s : State) p => s.setRef p.loc (s.refcount p.loc + 1)) s).dropPages lost

/-- A set instruction: the result replaces the output list in ascending page identifier order. A refcount that would pass
65,535 leaves no space (R257). -/
def State.setBody (s : State) (d : Bytes) (f : List Page → List Page → List Page) : IRes :=
  let ps := sortPages (f (s.pagesAt (s.listAt (le d 0 8))) (s.pagesAt (s.listAt (le d 8 8))))
  let out := s.listAt (le d 16 8)
  let old := s.pagesAt out
  afterPre (s.preSet d) (
    if s.listReadOnly out then .fail .accessViolation 0
    else if ps.any (fun p => p.shared && !old.any (fun q => q.loc == p.loc) && decide (65535 ≤ s.refcount p.loc)) then .fail .noSpace 0
    else .ok (((s.relist old ps).emptyList out).appendPages out ps))

def unionPages (a b : List Page) : List Page := a ++ b
def interPages (a b : List Page) : List Page := a.filter (fun p => b.any (fun q => q.loc == p.loc))
def diffPages (a b : List Page) : List Page := a.filter (fun p => !b.any (fun q => q.loc == p.loc))

def State.setUnionBody (s : State) (d : Bytes) : IRes := s.setBody d unionPages
def State.setIntersectBody (s : State) (d : Bytes) : IRes := s.setBody d interPages
def State.setDiffBody (s : State) (d : Bytes) : IRes := s.setBody d diffPages

def execSetUnion (c : Nat) (w : IWord) (d : Bytes) (s : State) : Out :=
  .next (s.runInstr c 0x2C w (.setUnion c w d) (shapeOk 0x2C w) true false (fun _ => s.setUnionBody d) (fun _ => s.preSet d))
def execSetIntersect (c : Nat) (w : IWord) (d : Bytes) (s : State) : Out :=
  .next (s.runInstr c 0x2D w (.setIntersect c w d) (shapeOk 0x2D w) true false (fun _ => s.setIntersectBody d) (fun _ => s.preSet d))
def execSetDiff (c : Nat) (w : IWord) (d : Bytes) (s : State) : Out :=
  .next (s.runInstr c 0x2E w (.setDiff c w d) (shapeOk 0x2E w) true false (fun _ => s.setDiffBody d) (fun _ => s.preSet d))

end Sys2Proof.Machine
end

