-- ==== Sys2Proof/Machine/Frames.lean ====
section
/-! DEFINITION. The fabric's transport: queues, sending and receiving frames, acknowledgements, the
choice of the next frame on a link, and the start of a join (R359 to R373, R393 to R400, R551). -/

namespace Sys2Proof.Machine

/-- Table 13.3: the code of a frame type. -/
def frameCode : FrameKind → Nat
  | .data => 1 | .openK => 2 | .commit => 3 | .nack => 4 | .ack => 5 | .read => 6 | .readResp => 7
  | .winSeal => 8 | .deed => 9 | .partialK => 10 | .collective => 11 | .beacon => 12 | .probe => 13
  | .hello => 14 | .join => 15 | .heartbeat => 16 | .leave => 17 | .mgmt => 18

/-- Table 13.3: which types the transport carries. -/
def transported : FrameKind → Bool
  | .ack | .beacon | .probe | .hello | .join | .heartbeat => false
  | _ => true

/-- Types handled whatever the state of the sender's entry (R551). -/
def alwaysHeard : FrameKind → Bool
  | .join | .hello | .probe | .beacon => true
  | _ => false

/-- The payload length of a frame of a type whose layout is not given. -/
def openLen (k : FrameKind) : Nat := Config.payloadLen (frameCode k) % 8193

/-! ## Queues -/

def State.link (s : State) (i : Nat) : Link := Tbl.get (fun _ => {}) s.fab.links i
def State.setLink (s : State) (i : Nat) (l : Link) : State :=
  s.mapFab (fun f => { f with links := Tbl.set (fun _ => {}) f.links i l })
def State.queue (s : State) (link tc : Nat) : List QItem := Tbl.get (fun _ => []) s.fab.queues (8 * link + tc)
def State.setQueue (s : State) (link tc : Nat) (q : List QItem) : State :=
  s.mapFab (fun f => { f with queues := Tbl.set (fun _ => []) f.queues (8 * link + tc) q })
def State.enqueue (s : State) (link tc : Nat) (q : QItem) : State :=
  s.setQueue link tc (s.queue link tc ++ [q])

/-- Every queued frame for a node that meets `p` is dropped. -/
def State.dropFrames (s : State) (p : OutFrame → Bool) : State :=
  let keep (q : QItem) : Bool := match q with
    | .frame g _ fwd _ _ _ => fwd || !p g
    | _ => true
  s.mapFab (fun f => { f with queues := (f.queues.map (fun e => (e.1, e.2.filter keep))).filter (fun e => !e.2.isEmpty) })

/-! ## Pins, waiting instructions, joins (R11, R370, Table 13.9) -/

/-- Pins of a partner: open windows naming it, deeds in transfer with it, field memberships shared. -/
def State.pins (s : State) (n : NodeId) : Nat :=
  s.fab.windows.count (fun w => w.state == 1 && w.peer == n && n != 0) +
  ((s.lore.movesOut.filter (·.dst == n)).map (·.deeds.length)).sum +
  ((s.lore.movesIn.filter (·.src == n)).map (·.refs.length)).sum +
  s.fld.count (fun f => f.state != 0 && f.members.any (·.node == n))

/-- An instruction here waits on the partner. -/
def State.waitsOn (s : State) (n : NodeId) : Bool :=
  s.lore.movesOut.any (·.dst == n) || s.fab.copies.any (·.dst == n) || s.fab.seals.any (·.node == n) ||
  s.lore.queries.any (·.dst == n) || s.eng.partials.any (·.dst == n) || s.fab.loads.any (·.dst == n) ||
  s.lore.decrees.any (·.dst == n)

/-- Fresh transport state for a node's entry. -/
def Partner.fresh (n : NodeId) (now link : Nat) (initiator : Bool) (nonce : Digest) : Partner :=
  { node := n, state := .joining, link := link, heard := now, sent := now, initiator := initiator,
    joinStart := now, joinStep := 1, joinSent := now, myNonce := nonce }

/-- The entry idle for the longest time among those that meet `p`. The spec does not say what idle counts from: here from the later
of the last frame heard and the last frame sent, heartbeats among them. DESIGN CHOICE, log entry 145. -/
def State.idlest (s : State) (p : Nat × Partner → Bool) : Option Nat :=
  ((s.fab.partners.filter p).foldl (fun (b : Option (Nat × Nat)) e =>
    let t := max e.2.heard e.2.sent
    match b with
    | none => some (e.1, t)
    | some (i, u) => if t < u then some (e.1, t) else some (i, u)) none).map (·.1)

/-- A frame for a node, as this Cucia makes it. -/
def State.mkFrame (s : State) (dst : NodeId) (kind : FrameKind) (tc len : Nat) (pl : Payload)
    (ref : Nat := 0) (win : Option Nat := none) (gen offset stamp : Nat := 0) (sealBit : Bool := false) : OutFrame :=
  { kind := kind, tc := tc, src := s.me, dst := dst, seq := 0, ack := none, retransmit := false,
    forwarded := false, sealBit := sealBit, hops := 0, len := len, window := win, generation := gen,
    routeEpoch := s.fab.epoch, ref := ref, offset := offset, stamp := stamp, payload := pl }

/-- A frame put into the class queue of its egress link; without a path it is dropped. -/
def State.queueFrame (s : State) (f : OutFrame) (promise : Option Nat := none) (svc : Nat := 0) : State :=
  match s.route f.dst with
  | none => s
  | some (l, _) => s.enqueue l f.tc (.frame f (f.kind == .read || f.kind == .readResp) false promise svc s.now)

/-- Step 1 of the handshake: the initiator's nonce. -/
def State.sendNonce (s : State) (n : NodeId) (d : Digest) : State :=
  s.queueFrame (s.mkFrame n .join 4 32 (.nonce d))

/-- `LEAVE` to a partner. -/
def State.sendLeave (s : State) (n : NodeId) (eviction : Bool) : State :=
  s.queueFrame (s.mkFrame n .leave 4 8 (.leave eviction))

/-- No partner has refused an eviction for the join under way any more. -/
def State.clearRefusals (s : State) : State :=
  s.mapFab (fun f => { f with partners := f.partners.mapVals (fun _ q => { q with evictRefused := false }) })

/-- An eviction for a join with `n` is under way. -/
def State.evictingFor (s : State) (n : NodeId) : Bool := s.fab.partners.any (fun e => e.2.evicting && e.2.forNode == n)

/-- An entry for a join with `n`: a free one, or one made free at once, or the start of an eviction by
agreement; the event of R11 when none qualifies. A join that waits for an eviction goes on waiting. -/
def State.entryFor (s : State) (n : NodeId) (initiator : Bool) : Option Nat × State :=
  match s.partnerOf n with
  | some i => (some i, s)
  | none => if s.evictingFor n then (none, s) else match s.fab.partners.lowestFree 0 4096 with
    | some i => (some i, s)
    | none =>
      match s.idlest (fun e => (e.2.state == .dead || e.2.state == .left) && s.pins e.2.node == 0) with
      | some i => (some i, s.setPartner i {})
      | none =>
        match s.idlest (fun e => e.2.state == .live && s.pins e.2.node == 0 && !s.waitsOn e.2.node && !e.2.evicting && !e.2.evictRefused) with
        | some i =>
          let p := s.partner i
          let p' := { p with evicting := true, forNode := n, initiator := initiator, joinStart := s.now }
          (none, (s.setPartner i p').sendLeave p.node true)
        | none => (none, s.clearRefusals.raise Ev.partnerTableFull n)

/-- A join starts with a node (R370); nothing happens when one is under way or the node is `LIVE`. DEDUCED, log entry 91. -/
def State.startJoin (s : State) (n : NodeId) : State :=
  if !NodeId.valid n ∨ n = s.me ∨ s.partnerState n = .joining ∨ s.partnerState n = .live ∨ s.evictingFor n then s
  else match s.entryFor n true with
    | (none, s) => s
    | (some i, s) =>
      let (v, s) := s.free
      let d : Digest := BitVec.ofNat 256 v
      let l := ((s.route n).map (·.1)).getD 0xFF
      (s.setPartner i (Partner.fresh n s.now l true d)).sendNonce n d

/-- A frame is sent to a partner; a node without a `LIVE` entry is joined first, and the frame waits. -/
def State.send (s : State) (dst : NodeId) (kind : FrameKind) (tc len : Nat) (pl : Payload)
    (ref : Nat := 0) (win : Option Nat := none) (gen offset stamp : Nat := 0) (sealBit : Bool := false)
    (promise : Option Nat := none) (svc : Nat := 0) : State :=
  let s := s.queueFrame (s.mkFrame dst kind tc len pl ref win gen offset stamp sealBit) promise svc
  if transported kind ∧ s.partnerState dst ≠ .live then s.startJoin dst else s

/-- A refusal of an arrived frame (Table 13.3). -/
def State.sendNack (s : State) (f : Frame) (kind : FrameKind) (code : Code) : State :=
  s.send f.src .nack 4 8 (.nack { code := code, kind := kind, ref := f.ref }) f.ref

/-- The generation of a partner's window that this Cucia last used, or an open value: neither an object descriptor
nor `SEAL` holds one. DESIGN CHOICE, log entry 72. -/
def State.knownGen (s : State) (node : NodeId) (win : Nat) : Nat × State :=
  match Tbl.find s.fab.gens (4096 * node.toNat + win) with
  | some g => (g, s)
  | none => let (v, s) := s.free; (v % 65536, s)

/-! ## Sequence numbers (R362, R363): modulo 2^32 with 0 skipped -/

def seqMod : Nat := 2 ^ 32 - 1
def nextSeq (n : Nat) : Nat := if n = 2 ^ 32 - 1 then 1 else n + 1
/-- How far `b` lies past `a`. -/
def seqDist (a b : Nat) : Nat := (b - 1 + seqMod - (a - 1) % seqMod) % seqMod

/-- Table 13.4. -/
inductive SeqClass where
  | fresh | duplicate | outside
deriving DecidableEq, Repr

def seqClass (e : Nat) (seen : List Nat) (seq : Nat) : SeqClass :=
  if seq = 0 ∨ 2 ^ 32 ≤ seq then .outside
  else
    let d := seqDist e seq
    if d < 65536 then (if seen.contains seq then .duplicate else .fresh)
    else if seqMod - 65536 ≤ d then .duplicate else .outside

/-- `e` moves past every number received. -/
def advanceSeq (e : Nat) (seen : List Nat) : Nat → Nat × List Nat
  | 0 => (e, seen)
  | n + 1 => if seen.contains e then advanceSeq (nextSeq e) (seen.filter (· != e)) n else (e, seen)

/-! ## Acknowledgements -/

/-- An eviction is agreed: the entry is freed, not marked dead, and the join it was for goes on. -/
def State.evicted (s : State) (i : Nat) : State :=
  let p := s.partner i
  let s := (s.setPartner i {}).dropFrames (fun g => g.dst == p.node && transported g.kind)
  if p.forNode ≠ 0 ∧ p.initiator then s.startJoin p.forNode else s

/-- Frames of a partner that an acknowledgement releases; a released `LEAVE` ends the departure or the eviction it announced, and
for a released `WIN_SEAL` the beat is kept. -/
def State.released (s : State) (i : Nat) (p : Nat → Bool) : State :=
  let x := s.partner i
  let gone := x.unacked.filter (fun u => p u.1)
  if gone.isEmpty then s else
    let s := s.setPartner i { x with unacked := x.unacked.filter (fun u => !p u.1) }
    gone.foldl (fun (s : State) u => match u.2.1.payload with
      | .sealW _ id => s.mapFab (fun f => { f with seals := f.seals.map (fun z => if z.id = id then { z with acked := some s.now } else z) })
      | .leave true => if (s.partner i).evicting then s.evicted i else s
      | .leave false => s.setPartner i { s.partner i with leaving := false }
      | _ => s) s

/-- A cumulative acknowledgement: every number up to `a`. -/
def State.ackUpTo (s : State) (i a : Nat) : State :=
  s.released i (fun q => decide (seqDist q a < 2 ^ 31))

/-! ## Receiving -/

/-- A path fault touches a promise (R83). -/
def State.pathFault (s : State) (p : Option Nat) : State := s.updPromise p (fun p => { p with path := true })

/-- A link leaves service: a path fault of the promised work whose partner is reached over it (R83). -/
def State.linkFault (s : State) (link : Nat) : State :=
  s.mapIo (fun io => { io with promises := io.promises.map (fun p =>
    if p.peer ≠ 0 ∧ (s.route p.peer).map (·.1) = some link then { p with path := true } else p) })

/-- R360, R391: what the receiving link checks; a sender that is no node identifier is a reserved encoding (R9). DEDUCED, log
entry 100. -/
def State.linkCheck (s : State) (f : Frame) : State × Bool :=
  let l := s.link f.link
  if l.state ≠ 2 then (s, false)
  else if f.encrypted ≠ l.encrypted ∨ 8192 < f.payloadLen ∨ !NodeId.valid f.src then (s.bump Reg.FRAME_DROPS, false)
  else if l.encrypted ∧ !f.tagOk then
    let s := (s.bump Reg.FRAME_DROPS).bump Reg.GCM_FAILURES
    let n := l.authFails + 1
    if 16 ≤ n then (((s.linkFault f.link).setLink f.link { l with authFails := 0, state := 1 }).raise Ev.linkAuthFail 0 f.link, false)
    else (s.setLink f.link { l with authFails := n }, false)
  else
    let s := s.setLink f.link { l with authFails := 0 }
    if !f.crcOk then (s.bump Reg.FRAME_DROPS, false) else (s, true)

/-- What an arrived frame acknowledges. -/
def State.acked (s : State) (f : Frame) : State :=
  match s.partnerOf f.src with
  | none => s
  | some i => if f.ackValid then s.ackUpTo i f.ack else s

/-- A frame for this Cucia arrives (R360, R363, R551): the checks, whether it is delivered, and the state that its
consumer sees or the frame leaves. -/
def State.arrival (s : State) (f : Frame) (kind : FrameKind) : Bool × State :=
  if !s.cdUp then (false, s) else
  match s.linkCheck f with
  | (s, false) => (false, s)
  | (s, true) =>
    if f.dst ≠ s.me ∧ kind ≠ .hello ∧ kind ≠ .probe ∧ kind ≠ .beacon then (false, s)
    else
      let st := s.partnerState f.src
      let leaving := match s.partnerOf f.src with | none => false | some i => (s.partner i).leaving
      if (st = .dead ∨ st = .left) ∧ !alwaysHeard kind ∧ !(kind == .ack && leaving) then (false, s.bump Reg.FRAME_DROPS)
      else
        let s := match s.partnerOf f.src with
          | none => s
          | some i => s.setPartner i { s.partner i with heard := s.now }
        if !transported kind then (true, s)
        else match s.partnerOf f.src with
          | none => (false, s)
          | some i =>
            let p := s.partner i
            if p.state ≠ .live then (false, s)
            else
              match seqClass p.rxNext p.rxSeen f.seq with
              | .outside => (false, (s.bump Reg.TP_OUT_OF_WINDOW).acked f)
              | .duplicate => (false, ((s.bump Reg.TP_DUPLICATES).setPartner i { p with ackOwed := true }).acked f)
              | .fresh =>
                let (e, seen) := advanceSeq p.rxNext (f.seq :: p.rxSeen) 65536
                (true, s.setPartner i { p with rxNext := e, rxSeen := seen, ackOwed := true })

/-! ### Frames that name a target (R209) -/

/-- What R209 makes of a frame that names a target. -/
inductive Placed where
  | accept | stub | stale | behind
deriving DecidableEq, Repr

/-- The node a target is placed at by the map in force. -/
def State.placedAt (s : State) (t : Nat) : Option NodeId :=
  match s.fab.map.targets.find? (·.1 == t) with
  | some (_, n) => n
  | none => none

/-- The stub that a frame under `epoch` meets here, when it names target `t` under the previous epoch in the drain. -/
def State.stubFor (s : State) (epoch t : Nat) : Option NodeId :=
  if epoch + 1 = s.fab.epoch ∧ s.now < s.fab.drainEnd then (s.fab.stubs.find? (·.1 == t)).map (·.2) else none

/-- R209 for a frame under `epoch` that names target `t`. DESIGN CHOICE, log entry 77. -/
def State.placed (s : State) (epoch t : Nat) : Placed :=
  let here := s.placedAt t == some s.me
  if epoch = s.fab.epoch then .accept
  else if epoch < s.fab.epoch then
    if epoch + 1 = s.fab.epoch ∧ s.now < s.fab.drainEnd ∧ here then .accept
    else if (s.stubFor epoch t).isSome then .stub else .stale
  else if here then .accept else .behind

/-- The target that a frame names: its ref, in the types whose ref is neither a transfer nor a load identifier nor a number
that the model puts there. DEDUCED, log entry 146. -/
def targetOf (f : Frame) (kind : FrameKind) : Option Nat :=
  match kind with
  | .partialK | .collective => if f.ref = 0 then none else some f.ref
  | _ => none

/-- A frame that names a target is checked against the route map epochs before its consumer; `FRAME_FORWARD` takes the one
that meets a stub. -/
def State.routed (s : State) (f : Frame) (kind : FrameKind) (effect : State → State) : State :=
  match targetOf f kind with
  | none => effect s
  | some t => match s.placed f.routeEpoch t with
    | .accept => effect s
    | .stub => s
    | .stale => (s.bump Reg.MAP_STALE).sendNack f kind .staleMap
    | .behind => ((s.bump Reg.MAP_STALE).sendNack f kind .staleMap).raise Ev.mapBehind f.src t f.routeEpoch

/-- The consumer's `effect` when the frame is delivered, then what it acknowledges. -/
def State.receive (s : State) (f : Frame) (kind : FrameKind) (effect : State → State) : State :=
  match s.arrival f kind with
  | (true, t) => (t.routed f kind effect).acked f
  | (false, t) => t

/-! ## Sending on a link (R395 to R400) -/

/-- Counted length of a frame (R395). -/
def State.counted (s : State) (link len : Nat) : Nat :=
  len + 64 + (if (s.link link).encrypted then 16 else 4) + bits (s.regN Reg.LEN_OVERHEAD) 7 0

/-- The guard band of a link of `l` lanes (R400). -/
def State.guardNs (s : State) (l : Nat) : Nat := ceilDiv (8272 + bits (s.regN Reg.LEN_OVERHEAD) 7 0) (25 * l)

/-- The entries of a gate list as (mask, start, end) within a beat of `b` ns. -/
def gateSpans (b : Nat) : Nat → List (Nat × Nat) → List (Nat × Nat × Nat)
  | _, [] => []
  | at_, (m, e) :: t =>
    let e' := if e = 0x1FFFF then b else e
    (m, at_, e') :: gateSpans b e' t

/-- The ns at which class `c` closes within a list: at the end of an entry that opens it, before one that does not (R400). -/
def closesOf (firstMask c : Nat) : List (Nat × Nat × Nat) → List Nat
  | [] => []
  | (m, _, e) :: t => (if bit m c && !bit ((t.head?.map (·.1)).getD firstMask) c then [e] else []) ++ closesOf firstMask c t

/-- Those of this beat and of the next. -/
def closeTimes (spans : List (Nat × Nat × Nat)) (c : Nat) : List Nat :=
  let es := closesOf ((spans.head?.map (·.1)).getD 0) c spans
  es ++ es.map (· + (spans.getLast?.map (·.2.2)).getD 0)

/-- Class `c` may start a frame at `ns` of the beat: its gate is open and no close falls within the guard band (R400). -/
def gateOpen (spans : List (Nat × Nat × Nat)) (guard_ c ns : Nat) : Bool :=
  spans.any (fun e => decide (e.2.1 ≤ ns ∧ ns < e.2.2) && bit e.1 c) &&
    (closeTimes spans c).all (fun e => decide (e ≤ ns ∨ ns + guard_ ≤ e))

/-- Usable open time of class `c` in a beat (R400). -/
def openTime (spans : List (Nat × Nat × Nat)) (guard_ c : Nat) : Nat :=
  let firstMask := (spans.head?.map (·.1)).getD 0
  let rec go : List (Nat × Nat × Nat) → Nat
    | [] => 0
    | (m, a, e) :: t =>
      let next := (t.head?.map (·.1)).getD firstMask
      (if bit m c then (e - a) - (if bit next c then 0 else guard_) else 0) + go t
  go spans

def State.credit (s : State) (link tc : Nat) : Int := Tbl.get (fun _ => 0) s.fab.credits (8 * link + tc)
def State.setCredit (s : State) (link tc : Nat) (v : Int) : State :=
  s.mapFab (fun f => { f with credits := Tbl.set (fun _ => 0) f.credits (8 * link + tc) v })

/-- A frame that may be sent now: its partner is `LIVE` with fewer than 65,536 frames unacknowledged, or
it is not transported, or it is forwarded, or a `LEAVE`. -/
def State.sendable (s : State) (f : OutFrame) (forwarded : Bool) : Bool :=
  forwarded || !transported f.kind || f.seq != 0 ||
    (match s.partnerOf f.dst with
     | none => false
     | some i => ((s.partner i).state == .live || f.kind == .leave) && decide ((s.partner i).unacked.length < 65536))

def State.moveOut (s : State) (id : Nat) : Option MoveOut := s.lore.movesOut.find? (·.id == id)
def State.setMove (s : State) (m : MoveOut) : State :=
  s.mapLore (fun l => { l with movesOut := l.movesOut.map (fun x => if x.id = m.id then m else x) })
def State.copyOut (s : State) (id : Nat) : Option CopyOut := s.fab.copies.find? (·.id == id)
def State.setCopy (s : State) (m : CopyOut) : State :=
  s.mapFab (fun l => { l with copies := l.copies.map (fun x => if x.id = m.id then m else x) })

/-- A queue item that can give a frame now. -/
def State.ready (s : State) (q : QItem) : Bool :=
  match q with
  | .frame f _ fwd _ _ _ => s.sendable f fwd
  | .moveStream m _ _ _ _ => match s.moveOut m with
    | none => false
    | some x => x.phase == 2 && s.sendable (s.mkFrame x.dst .data x.tc 0 .none) false
  | .copyStream m _ _ _ _ => match s.copyOut m with
    | none => false
    | some x => s.sendable (s.mkFrame x.dst .data x.tc 0 .none) false

/-- The meadow whose share of a link's TC0 gate time a frame uses (R407). -/
def shareOwner (f : OutFrame) (forwarded : Bool) : Option Nat :=
  match f.payload with
  | .contribution m _ _ _ _ => if forwarded then none else some m
  | _ => none

def State.tc0Used (s : State) (link m : Nat) : Nat := Tbl.get (fun _ => 0) s.fab.tc0Used (8 * link + m)
def State.setTc0Used (s : State) (link m n : Nat) : State :=
  s.mapFab (fun f => { f with tc0Used := Tbl.set (fun _ => 0) f.tc0Used (8 * link + m) n })

/-- A meadow's share of the TC0 gate time of a link in one beat, in ns. -/
def State.tc0Share (s : State) (link m : Nat) : Nat :=
  openTime (gateSpans s.clk.len 0 s.fab.gates) (s.guardNs (s.link link).lanes) 0 * (s.mdw m).portShares.getD (link / 4) 0 / 64

/-- A meadow's COLLECTIVE frame may start while its share of the beat is not used up; what the last one took beyond it counts against
the next beat. DESIGN CHOICE, log entry 167. -/
def State.tc0Room (s : State) (link : Nat) (q : QItem) : Bool :=
  match q with
  | .frame f _ fwd _ _ _ => match shareOwner f fwd with
    | none => true
    | some m => decide (s.tc0Used link m < s.tc0Share link m)
  | _ => true

/-- A queue item that can give a frame on this link now. -/
def State.canSend (s : State) (link : Nat) (q : QItem) : Bool := s.ready q && s.tc0Room link q

/-- A frame uses its meadow's share. -/
def State.useTc0 (s : State) (link : Nat) (f : OutFrame) (fwd : Bool) : State :=
  match shareOwner f fwd with
  | none => s
  | some m => s.setTc0Used link m (s.tc0Used link m + ceilDiv (s.counted link f.len) (25 * (s.link link).lanes))

/-- At a boundary each meadow has its share again. -/
def State.refillTc0 (s : State) : State :=
  s.fab.tc0Used.foldl (fun (s : State) e => s.setTc0Used (e.1 / 8) (e.1 % 8) (e.2 - s.tc0Share (e.1 / 8) (e.1 % 8))) s

/-- The rank of R397: reads, forwarded frames, promised bytes in admission order (promises are numbered by it), the rest. -/
def qRank (q : QItem) : Nat × Nat :=
  match q with
  | .frame _ true _ _ _ _ => (0, 0)
  | .frame _ false true _ _ _ => (1, 0)
  | .frame _ false false (some p) _ _ => (2, p)
  | .frame _ false false none _ _ => (3, 0)
  | .moveStream _ o _ _ true => (2, o)
  | .copyStream _ o _ _ true => (2, o)
  | .moveStream _ _ _ _ false => (3, 0)
  | .copyStream _ _ _ _ false => (3, 0)

def qSvc (q : QItem) : Nat :=
  match q with
  | .frame _ _ _ _ v _ => v
  | .moveStream _ _ v _ _ => v
  | .copyStream _ _ v _ _ => v

/-- The first item of the least rank. -/
def leastRank : List (Nat × QItem) → Option (Nat × QItem)
  | [] => none
  | x :: xs => match leastRank xs with
    | none => some x
    | some y =>
      let a := qRank x.2
      let b := qRank y.2
      if a.1 < b.1 ∨ (a.1 = b.1 ∧ a.2 ≤ b.2) then some x else some y

/-- Deficit round robin (R184): the class at the turn goes on while its deficit covers `need`; then each
next class in ascending number gains its weighted quantum as its turn comes, and one without waiting
work has its deficit set to 0. Answers the class, which holds the turn. `fuel` bounds the visits. -/
def drrVisit (quantum : Nat → Nat) (waits : Nat → Bool) (need : Nat → Nat) : Nat → Nat → Tbl Nat → Option (Nat × Tbl Nat)
  | 0, _, _ => none
  | n + 1, at_, d =>
    let c := at_ % 64
    if !waits c then drrVisit quantum waits need n (at_ + 1) (Tbl.set (fun _ => 0) d c 0)
    else
      let v := Tbl.get (fun _ => 0) d c + quantum c
      if need c ≤ v then some (c, Tbl.set (fun _ => 0) d c (v - need c))
      else drrVisit quantum waits need n (at_ + 1) (Tbl.set (fun _ => 0) d c v)

def drrPick (quantum : Nat → Nat) (waits : Nat → Bool) (need : Nat → Nat) (turn : Nat) (d : Tbl Nat) : Option (Nat × Tbl Nat) :=
  let v := Tbl.get (fun _ => 0) d turn
  if waits turn ∧ need turn ≤ v then some (turn, Tbl.set (fun _ => 0) d turn (v - need turn))
  else drrVisit quantum waits need 1024 (turn + 1) (if waits turn then d else Tbl.set (fun _ => 0) d turn 0)

/-- The port's deficits of one class queue are kept in `drr` under key 64 × queue + class. -/
def State.portDeficit (s : State) (k : Nat) : Tbl Nat :=
  s.fab.drr.filterMap (fun e => if e.1 / 64 = k then some (e.1 % 64, e.2.1) else none)
def State.portTurn (s : State) (k : Nat) : Nat :=
  match s.fab.drr.find? (fun e => decide (e.1 / 64 = k)) with | none => 0 | some e => e.2.2
def State.setPort (s : State) (k turn : Nat) (d : Tbl Nat) : State :=
  let mine := (List.range 64).filterMap (fun c =>
    let v := Tbl.get (fun _ => 0) d c
    if v = 0 ∧ turn = 0 then none else some (64 * k + c, v, turn))
  s.mapFab (fun f => { f with drr := f.drr.filter (fun e => decide (e.1 / 64 < k)) ++ mine ++ f.drr.filter (fun e => decide (k < e.1 / 64)) })

/-- Payload bytes of the frame that an item gives next. -/
def State.nextBytes (s : State) (q : QItem) : Nat :=
  match q with
  | .frame f _ _ _ _ _ => f.len
  | .moveStream m _ _ _ _ => match s.moveOut m with | none => 0 | some x => min 8192 (x.rate - x.sent)
  | .copyStream m _ _ _ _ => match s.copyOut m with | none => 0 | some x => min 8192 (x.len - x.sent)

/-- The item of a class queue that goes next, by position: what has no promise shares the class by R184. -/
def State.nextItem (s : State) (link tc : Nat) : Option (Nat × QItem) × State :=
  let q := (List.range (s.queue link tc).length).zip (s.queue link tc)
  let rdy := q.filter (fun x => s.canSend link x.2)
  match leastRank rdy with
  | none => (none, s)
  | some x =>
    if (qRank x.2).1 < 3 then (some x, s)
    else
      let k := 8 * link + tc
      let waits (c : Nat) : Bool := rdy.any (fun y => qSvc y.2 == c)
      let quantum (c : Nat) : Nat := 8192 * bits (s.regN (Reg.SC_WEIGHT c)) 7 0
      let need (c : Nat) : Nat := ((rdy.find? (fun y => qSvc y.2 == c)).map (fun y => s.nextBytes y.2)).getD 0
      match drrPick quantum waits need (s.portTurn k) (s.portDeficit k) with
      | none => (some x, s)
      | some (c, d) => (rdy.find? (fun y => qSvc y.2 == c), s.setPort k c d)

/-- The stored bytes of a deed's pages that travel at `[off, off + n)` of a move. -/
def pageStream (ps : List Page) (s : State) (off n : Nat) : Bytes :=
  let rec go : List Page → Nat → Nat → Bytes
    | [], _, _ => []
    | p :: t, o, m =>
      if m = 0 then [] else
      let len := p.bytes
      if len ≤ o then go t (o - len) m
      else
        let k := min m (len - o)
        Tbl.readBytes (s.bytesOf p.tier) (4096 * p.loc + o) k ++ go t 0 (m - k)
  go ps off n

/-- The pages a move carries, in the order of its deeds, then the shared pages of its lantern. -/
def State.movePages (s : State) (m : MoveOut) : List Page :=
  m.deeds.flatMap (fun r => (s.deed r).pages) ++
    (match m.lantern with | none => [] | some l => (s.lan l).shared)

/-- Bytes of a service class sent on the ports (R183). -/
def State.chargeLink (s : State) (svc n : Nat) : State :=
  s.mapLore (fun l => { l with scLink := Tbl.set (fun _ => 0) l.scLink svc ((Tbl.get (fun _ => 0) l.scLink svc + n) % 2 ^ 64) })

/-- A beacon leaves with the ns since the boundary as its send_offset (R35). -/
def OutFrame.sentAt (f : OutFrame) (ns : Nat) : OutFrame :=
  match f.payload with
  | .beacon b => { f with payload := .beacon { b with sendOffset := ns } }
  | _ => f

/-- The header's fields of an encrypted link (R389). -/
def OutFrame.onLink (f : OutFrame) (l : Link) : OutFrame :=
  if l.encrypted then { f with encrypted := true, keySel := l.slot, linkCtr := l.counter % 2 ^ 32 } else f

/-- A frame leaves on a link at `ns` of the beat: its sequence number, its acknowledgement and its credit. Until it is
acknowledged it is held with its service class and promise. DESIGN CHOICE, log entry 77. -/
def State.transmit (s : State) (link ns : Nat) (f : OutFrame) (fwd charged : Bool) (promise : Option Nat) (svc : Nat) : State :=
  let f := f.sentAt ns
  let n := s.counted link f.len
  let s := if charged then s.setCredit link f.tc (s.credit link f.tc - n) else s
  let l := s.link link
  let s := if l.encrypted then
      let s := s.setLink link { l with counter := l.counter + 1 }
      if l.counter + 1 = 2 ^ 63 then s.raise Ev.linkRekeyNeeded 0 link else s
    else s
  if fwd then s.emit (.frame link (f.onLink l))
  else match s.partnerOf f.dst with
    | none => s.emit (.frame link (f.onLink l))
    | some i =>
      let p := s.partner i
      let tr := transported f.kind
      let f := if tr ∧ f.seq = 0 then { f with seq := p.txNext } else f
      let f := if tr ∧ p.state = .live then { f with ack := some (if p.rxNext = 1 then 2 ^ 32 - 1 else p.rxNext - 1) } else f
      let g := { f with svc := svc, promise := promise }
      let held := if tr then
          (if p.unacked.any (fun u => u.1 == f.seq) then
            p.unacked.map (fun u => if u.1 = f.seq then (u.1, g, s.now, u.2.2.2) else u)
           else if f.retransmit then p.unacked else p.unacked ++ [(f.seq, g, s.now, 0)])
        else p.unacked
      let p := { p with unacked := held, sent := s.now, link := link,
                        txNext := if tr ∧ f.seq = p.txNext then nextSeq p.txNext else p.txNext,
                        ackOwed := if tr then false else p.ackOwed }
      let s := (s.setPartner i p).emit (.frame link (f.onLink l))
      s.chargeLink svc f.len

/-- The phases that the first and the last frame of a stream end. -/
def State.streamPhases (s : State) (promise : Option Nat) (first last : Bool) : State :=
  let s := if first then s.endPhase promise 2 s.now else s
  if last then s.endPhase promise 3 s.now else s

/-- The item at a place of a queue gives its next frame; a forwarded one of TC1 to TC3 that has waited longer than a beat is counted
(R402). -/
def State.sendItem (s : State) (link ns tc pos : Nat) (q : QItem) (charged : Bool) : State :=
  let rest := (s.queue link tc).eraseIdx pos
  match q with
  | .frame f _ fwd pr svc since =>
    let s := if fwd ∧ 1 ≤ tc ∧ tc ≤ 3 ∧ (since + 1 < s.now ∨ (since + 1 = s.now ∧ f.cameNs < ns)) then s.bump Reg.FWD_LATE else s
    ((s.setQueue link tc rest).useTc0 link f fwd).transmit link ns f fwd charged pr svc
  | .moveStream m o svc since pr =>
    match s.moveOut m with
    | none => s.setQueue link tc rest
    | some x =>
      let n := min 8192 (x.rate - x.sent)
      let last := decide (x.rate ≤ x.sent + n)
      let b := pageStream (s.movePages x) s x.sent n
      let f := s.mkFrame x.dst .data tc n (.bytes b) x.id none 0 x.sent 0 last
      let s := (s.subQueued tc n).streamPhases x.promise (x.sent == 0) last
      let s := if last then s.setQueue link tc rest
        else s.setQueue link tc (rest.insertIdx pos (.moveStream m o svc since pr))
      let s := s.setMove (if last then { x with sent := x.sent + n, phase := 3, sealBeat := s.now } else { x with sent := x.sent + n })
      s.transmit link ns f false charged x.promise svc
  | .copyStream m o svc since pr =>
    match s.copyOut m with
    | none => s.setQueue link tc rest
    | some x =>
      let n := min 8192 (x.len - x.sent)
      let last := decide (x.len ≤ x.sent + n)
      let b := Tbl.readBytes s.mem.gddr (x.src + x.sent) n
      let f := s.mkFrame x.dst .data tc n (.bytes b) x.id (some x.window) x.generation (x.dstOff + x.sent) 0 last
      let s := (s.subQueued tc n).streamPhases x.promise (x.sent == 0) last
      let s := if last then s.setQueue link tc rest
        else s.setQueue link tc (rest.insertIdx pos (.copyStream m o svc since pr))
      let s := s.setCopy { x with sent := x.sent + n }
      s.transmit link ns f false charged x.promise svc

/-- The counted length of what an item would send. -/
def State.itemLen (s : State) (link : Nat) (q : QItem) : Nat :=
  match q with
  | .frame f _ _ _ _ _ => s.counted link f.len
  | _ => s.counted link 8192

/-- A link is free to start a frame at `ns` of the beat (R397): the lowest open class with credit, else the
lowest open class with a frame ready, which charges nothing. -/
def execLinkTransmitSelect (link ns : Nat) (s : State) : Out :=
  .next (
    let l := s.link link
    if !s.cdUp ∨ l.state ≠ 2 ∨ 2 ^ 63 ≤ l.counter ∨ s.clk.len ≤ ns then s
    else
      let spans := gateSpans s.clk.len 0 s.fab.gates
      let g := s.guardNs l.lanes
      let opens := (List.range 8).filter (fun c => gateOpen spans g c ns &&
        (s.queue link c).any (fun q => s.canSend link q))
      let go (c : Nat) (charged : Bool) : State :=
        match s.nextItem link c with
        | (some (i, q), s1) => s1.sendItem link ns c i q charged
        | (none, s1) => s1
      match opens.find? (fun c => decide (0 < s.credit link c)) with
      | some c => go c true
      | none => match opens.head? with
        | some c => go c false
        | none => s)

/-- R77 bytes of a stream that will no longer be sent leave their class (R199). -/
def State.dropStream (s : State) (p : QItem → Bool) : State :=
  s.mapFab (fun f => { f with queues := (f.queues.map (fun e => (e.1, e.2.filter (fun q => !p q)))).filter (fun e => !e.2.isEmpty) })

end Sys2Proof.Machine
end

