-- ==== Sys2Proof/Machine/Deeds.lean ====
section
/-! DEFINITION. Deeds, moves, queries and decrees (R160 to R166, R187 to R207, R552 to R554). -/

namespace Sys2Proof.Machine

/-! ## Encodings of states -/

/-- Table 7.2. -/
def dCode : DState → Nat
  | .none => 0 | .home => 1 | .lent => 2 | .incoming => 3 | .remote => 4 | .orphaned => 5 | .ember => 6
/-- Table 6.2. -/
def lCode : LState → Nat
  | .closed => 0 | .idle => 1 | .active => 2 | .toolWait => 3 | .swapped => 4 | .hibernated => 5
  | .lent => 6 | .orphaned => 7
def lOf : Nat → LState
  | 1 => .idle | 2 => .active | 3 => .toolWait | 4 => .swapped | 5 => .hibernated | 6 => .lent
  | 7 => .orphaned | _ => .closed
/-- Table 6.6. -/
def rCode : RState → Nat
  | .free => 0 | .admitted => 1 | .running => 2 | .done => 3 | .overdue => 4 | .failed => 5 | .killed => 6

/-- A request is in flight (Table 6.6). -/
def RState.inFlight (r : RState) : Bool := r == .admitted || r == .running || r == .overdue

/-- The request of a lantern in flight, if any. -/
def State.inFlightOf (s : State) (l : Nat) : Option RState :=
  (s.lan l).request.bind (fun r => let st := (s.request r).state; if st.inFlight then some st else none)

/-! ## Deed records -/

/-- The name of a deed, from its record here (R187, R191). -/
def State.keyOf (s : State) (r : DRef) : DeedKey :=
  match r with
  | .own l d => { region := false, keeper := s.me, lantern := l, deed := d }
  | .hosted i => let d := s.deed (.hosted i)
    { region := d.region, keeper := d.keeper, lantern := d.keeperLantern, deed := d.deed }
  | .region w => { region := true, keeper := s.me, lantern := 0, deed := w }

/-- The record here of a named deed: an incoming one, the keeper's own, or a hosted one. -/
def State.findDeed (s : State) (k : DeedKey) : Option DRef :=
  let inc := s.lore.movesIn.findSome? (fun m =>
    (m.op.deeds.zip m.refs).findSome? (fun e => if e.1.key = k then some e.2 else none))
  match inc with
  | some r => some r
  | none =>
    if k.keeper = s.me then
      if k.region then (if (s.window k.deed).deed.state ≠ .none then some (.region k.deed) else none)
      else if s.keeps k.lantern ∧ k.deed < (s.lan k.lantern).deeds then some (.own k.lantern k.deed) else none
    else (s.lore.hosted.find? (fun e => e.2.state != .none && e.2.region == k.region && e.2.keeper == k.keeper &&
      (k.region || e.2.keeperLantern == k.lantern) && e.2.deed == k.deed)).map (fun e => .hosted e.1)

/-- Hosted entries in use or reserved. -/
def State.hostedUsed (s : State) : Nat := s.lore.hosted.length + s.lore.hostedReserved
def hostedMax : Nat := 262144
/-- The lowest free hosted index. -/
def State.hostedFree (s : State) : Option Nat := s.lore.hosted.lowestFree 0 hostedMax
def State.keepHosted (s : State) (n : Nat) : State := s.mapLore (fun l => { l with hostedReserved := l.hostedReserved + n })
def State.unkeepHosted (s : State) (n : Nat) : State := s.mapLore (fun l => { l with hostedReserved := l.hostedReserved - n })

def Deed.bytes (d : Deed) : Nat := pagesBytes d.pages

/-- A number for the place of a deed entry, by which the page list of its own has its address. -/
def DRef.place : DRef → Nat
  | .own l d => 1024 * l + d
  | .hosted i => 2 ^ 32 + i
  | .region w => 2 ^ 33 + w

/-- The deed entry as it stands in GDDR7 (Table 7.1). DESIGN CHOICE, log entry 21. -/
def State.deedBytes (s : State) (r : DRef) : Bytes :=
  let d := s.deed r
  let held := d.state == .home || d.state == .incoming
  let peer := if d.state == .lent || d.state == .incoming then d.peer.toNat else 0
  if d.state = .none then List.replicate 64 0 else
  packLE [(1, dCode d.state), (1, 8 * b2n d.region + 4 * b2n (match r with | .hosted _ => true | _ => false) + d.ratio), (2, d.partials),
    (4, if d.region then 0 else d.posStart), (4, if d.region then 0 else d.posCount), (2, d.deed), (2, 0), (8, d.home.toNat), (8, d.epoch),
    (8, if held then Config.structAddr 6 r.place else 0), (8, peer), (8, d.keeper.toNat), (4, d.keeperLantern), (4, d.npages)]

/-- The data of a deed here is freed. -/
def State.freeData (s : State) (r : DRef) : State :=
  let d := s.deed r
  (s.dropPages d.pages).setDeed r { d with pages := [], npages := 0 }

/-- A deed that is no longer held here: `REMOTE` at the keeper, else no record (Table 7.3). -/
def State.away (s : State) (r : DRef) (home : NodeId) (epoch : Nat) : State :=
  let s := s.freeData r
  match r with
  | .own _ _ => s.setDeed r { s.deed r with state := .remote, home := home, epoch := epoch, peer := 0 }
  | .hosted _ => s.setDeed r {}
  | .region _ => s.setDeed r {}

/-- An ember map entry, in ascending pos_start (R272). -/
def insertEmber (e : Nat × Nat × Nat × Nat) : List (Nat × Nat × Nat × Nat) → List (Nat × Nat × Nat × Nat)
  | [] => [e]
  | x :: xs => if e.2.2.1 < x.2.2.1 then e :: x :: xs else x :: insertEmber e xs

/-- The keeper's deed becomes an ember at an epoch, and its range enters the ember map. DEDUCED, log entry 44. -/
def State.toEmber (s : State) (l d epoch : Nat) : State :=
  let x := s.deed (.own l d)
  let s := s.setDeed (.own l d) { x with state := .ember, epoch := epoch, home := 0, peer := 0, pages := [], npages := 0 }
  s.setLan l { s.lan l with embers := insertEmber (d, epoch, x.posStart, x.posCount) (s.lan l).embers }

/-! ## The lantern entry's timer -/

/-- The idle timer starts now (Table 6.3). -/
def State.startTimer (s : State) (l : Nat) : State :=
  s.setLan l { s.lan l with timer := s.now + (s.lan l).idleTimeout }

/-- A lantern whose transfer ended without commit goes back to the state it had (Table 6.3). -/
def State.lanternBack (s : State) (l : Nat) : State :=
  s.setLan l { s.lan l with state := (s.lan l).prior, prior := .closed }

/-- A lantern entry is freed with all it names here: its pages, shared references, deeds and map. -/
def State.freeLantern (s : State) (l : Nat) : State :=
  let s := s.dropPages (s.lan l).shared
  let s := (List.range (s.lan l).deeds).foldl (fun s d => (s.freeData (.own l d)).setDeed (.own l d) {}) s
  s.setLan l {}

/-! ## Messages that touch a deed (R193, R205) -/

/-- A deed message shows a higher epoch (Table 7.3): serving stops, the data is freed. -/
def State.supersede (s : State) (r : DRef) (home : NodeId) (epoch : Nat) (conflict : Bool) : State :=
  let k := s.keyOf r
  let s := (s.away r home epoch).raise Ev.deedSuperseded home k.lantern k.deed
  if conflict then s.raise Ev.deedConflict home k.lantern k.deed else s

/-- The deed is `HOME` here and, at `epoch`, on the partner (R205). With equal epochs it is orphaned; its lantern keeps its state
(Table 6.3). -/
def State.settle205 (s : State) (r : DRef) (partner : NodeId) (epoch : Nat) : State :=
  let d := s.deed r
  let k := s.keyOf r
  if d.state ≠ .home then s
  else if epoch < d.epoch then s.raise Ev.deedConflict partner k.lantern k.deed
  else if d.epoch < epoch then s.supersede r partner epoch true
  else (s.setDeed r { d with state := .orphaned }).raise Ev.deedConflict partner k.lantern k.deed

/-- A query or an answer about a deed shows an epoch, and whether the sender holds the deed `HOME` at it (Table 7.3). -/
def State.deedMessage (s : State) (k : DeedKey) (src : NodeId) (epoch : Nat) (homeThere : Bool) : State :=
  match s.findDeed k with
  | none => s
  | some r =>
    if (s.deed r).state ≠ .home then s
    else if homeThere then s.settle205 r src epoch
    else if (s.deed r).epoch < epoch then s.supersede r src epoch false else s

/-! ## Sending deed messages -/

def State.sendDeed (s : State) (dst : NodeId) (p : Payload) : State :=
  s.send dst .deed 4 (openLen .deed) p

/-- The home notice of a new home to a keeper that was not the source (R198). -/
def State.homeNotice (s : State) (k : DeedKey) (epoch : Nat) : State :=
  s.sendDeed k.keeper (.home { key := k, home := s.me, epoch := epoch })

/-! ## Starting a move -/

/-- rflags of Table 6.5. -/
def Request.flagBits (q : Request) : Nat :=
  64 * b2n q.breached + 32 * b2n q.entryEnded + 16 * b2n q.noDeadline + 8 * b2n q.fullTurn + 4 * b2n q.follow + q.onOverdue

/-- The travelling fields of a lantern (R163, R166, R271). -/
def State.openLantern (s : State) (l : Nat) (moved : List DRef) : OpenLantern :=
  let x := s.lan l
  let rest := (s.deedsOf l).filter (fun e => !moved.contains e.1)
  { lanternAtSource := l, priorState := lCode x.prior, svcClass := x.svc, model := x.model,
    adapter := x.adapter, tokens := x.tokens, idleTimeout := x.idleTimeout, hintUs := x.hintUs,
    toolWait := x.toolWaitFlag, nearState := x.nearState, packed := x.packed, releaseBeat := x.release,
    cookie := x.cookie, createBeat := x.create, tokenLog := x.log, embers := x.embers,
    remote := rest.map (fun e => (e.2.deed, e.2.epoch, e.2.posStart, e.2.posCount,
      if e.2.state = .remote then e.2.home else if e.2.state = .ember ∨ e.2.state = .none then 0 else s.me,
      if e.2.state = .remote ∨ e.2.state = .ember ∨ e.2.state = .none then dCode e.2.state else 4)),
    shared := x.shared.map (·.ratio),
    request := x.request.map (fun r => let q := s.request r
      [(1, q.flagBits), (2, q.prio), (3, q.svc), (5, codeN (q.finalCode.getD .ok)), (12, q.adapter), (14, q.tag),
       (16, q.deadlineBeat), (24, q.promisedBeat), (60, q.ring), (61, q.slot), (32, q.pTokens), (36, q.prefilled), (40, q.gMax), (44, q.generated), (56, q.placement)]) }

/-- The deeds of a lantern that a move of deed 0 leaves here as hosted entries (R194). -/
def State.stays (s : State) (l : Nat) (moved : List DRef) : List (DRef × Deed) :=
  (s.deedsOf l).filter (fun e => !moved.contains e.1 &&
    (e.2.state == .home || e.2.state == .lent || e.2.state == .orphaned))

/-- What a `MOVE_STATE` moves. -/
structure MovePlan where
  lantern : Option Nat
  deeds : List DRef
  rate : Nat
  kept : Nat
deriving DecidableEq, Repr

/-- The deeds a move carries: every deed homed here with the lantern flag, else the one named. -/
def State.movePlan (s : State) (whole : Bool) (r : DRef) : MovePlan :=
  let l := match r with | .own l 0 => some l | .own l _ => if whole then some l else none | _ => none
  let deeds := match l with
    | some l => if whole then ((s.deedsOf l).filter (fun e => e.2.state == .home)).map (·.1) else [r]
    | none => [r]
  let shared := match l with | some l => pagesBytes (s.lan l).shared | none => 0
  { lantern := l, deeds := deeds, rate := (deeds.map (fun r => (s.deed r).bytes)).sum + shared,
    kept := match l with | some l => (s.stays l deeds).length | none => 0 }

/-- Phase 1 of a move (R195): `LENT` at e + 1, then the open and the stream are queued. DEDUCED, log entry 76. -/
def State.startMove (s : State) (o : Owner) (ring slot : Nat) (dst : NodeId) (p : MovePlan) (tc svc k n : Nat)
    (promise : Option Nat) (order : Nat) (parked : Bool) : State :=
  let id := s.lore.nextMove
  let h := match s.route dst with | some (_, _, h, _) => h | none => 0
  let s := s.endPhase promise 1 s.now
  let s := p.deeds.foldl (fun s r => let d := s.deed r
    s.setDeed r { d with state := .lent, epoch := d.epoch + 1, peer := dst }) s
  let s := match p.lantern with
    | none => s
    | some l => s.setLan l { s.lan l with prior := (s.lan l).state, state := .lent }
  let s := s.keepHosted p.kept
  let m : MoveOut := { id := id, owner := o, ring := ring, slot := slot, dst := dst, lantern := p.lantern, deeds := p.deeds, phase := 2, n := n, k := k, hops := h, promise := promise, rate := p.rate, sent := 0, sealBeat := 0, tc := tc, svc := svc, queried := 0, parked := parked, hostedKept := p.kept, gap := 0, tmo := 0 }
  let s := s.mapLore (fun x => { x with movesOut := x.movesOut ++ [m], nextMove := id + 1 })
  let opened := p.deeds.map (fun r => let d := s.deed r
    ({ key := s.keyOf r, epoch := d.epoch, posStart := d.posStart, posCount := d.posCount, pages := d.pages.map (·.ratio), ratio := d.ratio } : OpenDeed))
  let open_ : MoveOpen := { deeds := opened, lantern := p.lantern.map (fun l => s.openLantern l p.deeds), rateSize := p.rate, promised := k + n }
  let s := s.send dst .openK tc (openLen .openK) (.moveOpen open_) id none 0 0 0 false promise svc
  match s.route dst with
  | none => s
  | some (link, _) => (s.enqueue link tc (.moveStream id order svc k promise.isSome)).publish o 1 0 p.rate

/-- Bytes of a move that ends without commit leave their class (R199), and its stream its queue. -/
def State.dropMove (s : State) (m : MoveOut) : State :=
  let s := s.subQueued m.tc (m.rate - m.sent)
  let s := s.dropStream (fun q => match q with | .moveStream i _ _ _ _ => i == m.id | _ => false)
  (s.mapLore (fun l => { l with movesOut := l.movesOut.filter (fun x => x.id != m.id) })).unkeepHosted m.hostedKept

/-- After an engine's park to a cache node ends without commit it is tried again LTN_RETRY beats on; a node without space is
skipped (R171). -/
def State.retryPark (s : State) (m : MoveOut) (code : Code) : State :=
  match m.owner, m.lantern with
  | .engine, some l =>
    if code = .noSpace then s.setLan l { s.lan l with timer := s.now, cacheRefused := true }
    else s.setLan l { s.lan l with timer := s.now + bits (s.regN Reg.LTN_RETRY) 15 0 }
  | _, _ => s

/-- A move ends before its commit: every deed is `HOME` again at e + 2, the lantern in its prior
state, and the work ends with `code` (Table 7.3, R197). -/
def State.moveReturned (s : State) (m : MoveOut) (code : Code) (excused : Bool := false) : State :=
  let s := m.deeds.foldl (fun s r => let d := s.deed r
    s.setDeed r { d with state := .home, epoch := d.epoch + 1, peer := 0 }) s
  let s := match m.lantern with | none => s | some l => s.lanternBack l
  let s := ((s.dropMove m).retryPark m code).failPromise m.promise code excused
  s.finish m.owner code

/-- Every deed of the transfer becomes `ORPHANED`; the move ends `ORPHANED` with cause `PATH` (R200). -/
def State.moveOrphaned (s : State) (m : MoveOut) : State :=
  let s := m.deeds.foldl (fun s r =>
    let k := s.keyOf r
    (s.setDeed r { s.deed r with state := .orphaned, peer := 0 }).raise Ev.deedOrphaned m.dst k.lantern k.deed) s
  let s := match m.lantern with
    | none => s
    | some l => (s.setLan l { s.lan l with state := .orphaned, prior := .closed, timer := 0 }).raise Ev.lanternOrphaned m.dst l
  let s := s.updPromise m.promise (fun p => { p with path := true })
  let s := (s.dropMove m).failPromise m.promise .orphaned
  s.finish m.owner .orphaned

/-- A deed record has another place: the moves that name it follow. -/
def State.repoint (s : State) (old new : DRef) : State :=
  let f (r : DRef) : DRef := if r = old then new else r
  s.mapLore (fun x => { x with movesOut := x.movesOut.map (fun m => { m with deeds := m.deeds.map f }),
                               movesIn := x.movesIn.map (fun m => { m with refs := m.refs.map f }) })

/-- Deeds of a lantern become hosted entries that name a keeper. -/
def State.hostDeeds (s : State) (ds : List (DRef × Deed)) (keeper : NodeId) (keeperLantern : Nat) : State :=
  ds.foldl (fun s e => match s.hostedFree with
    | none => s
    | some i =>
      ((s.setDeed (.hosted i) { e.2 with keeper := keeper, keeperLantern := keeperLantern }).repoint e.1 (.hosted i)).setDeed e.1 {}) s

/-- The deeds that stay here when deed 0 leaves become hosted entries naming the new keeper (R194). -/
def State.leaveHosted (s : State) (l : Nat) (moved : List DRef) (keeper : NodeId) (keeperLantern : Nat) : State :=
  s.hostDeeds (s.stays l moved) keeper keeperLantern

/-- A request entry leaves the table without a further record. -/
def State.clearRequest (s : State) (r : Nat) : State := s.setRequest r {}

/-- The keys and epochs of the deeds that a move of this Cucia gave away are kept with their new home (R213). -/
def State.logReleased (s : State) (m : MoveOut) (lantern commit : Option Nat) : State :=
  let r : Receipt := { deeds := m.deeds.map (fun d => (s.keyOf d, (s.deed d).epoch)), commit := commit, home := m.dst, lantern := lantern, src := s.me, mv := m.id }
  s.mapLore (fun l => { l with released := (r :: l.released).take 16384 })

/-- Phase 4: the destination holds the deeds. The data is freed here, the entry ends in this beat, and
the promise is judged by the commit beat (R199). -/
def State.moveFreed (s : State) (m : MoveOut) (lantern : Option Nat) (commit : Option Nat) : State :=
  let s := s.logReleased m lantern commit
  let s := m.deeds.foldl (fun s r => s.away r m.dst (s.deed r).epoch) s
  let s := match m.lantern with
    | none => s
    | some l =>
      let s := match (s.lan l).request with | none => s | some r => s.clearRequest r
      let s := s.unkeepHosted m.hostedKept
      let s := s.leaveHosted l m.deeds m.dst (lantern.getD 0xFFFFFFFF)
      (s.keepHosted m.hostedKept).freeLantern l
  let s := s.dropMove m
  let s := s.setOut m.owner (fun x => match m.lantern with
    | none => x
    | some _ => { x with out0 := lantern.getD 0xFFFFFFFF })
  match commit with
  | some b =>
    let (s, code) := s.keepPromise m.promise b true
    s.finish m.owner code
  | none =>
    let s := s.updPromise m.promise (fun p => { p with path := true })
    let s := s.failPromise m.promise .ok
    s.finish m.owner .ok

/-! ## `MOVE_STATE` -/

/-- The deed a deed instruction names, with the operand tests of R124 and R142. -/
def State.deedOperand (s : State) (w : IWord) : Except (Code × Nat) DRef :=
  match deedRefOf w with
  | none => .error (.badOperand, 0)
  | some (.own l d) =>
    if !s.keeps l then .error (.staleMap, 0)
    else if (s.lan l).deeds ≤ d then .error (.badOperand, 0) else .ok (.own l d)
  | some (.hosted i) => if (s.deed (.hosted i)).state = .none then .error (.badOperand, 0) else .ok (.hosted i)
  | some (.region i) => .ok (.region i)

/-- What `MOVE_STATE` names: the whole lantern or one deed. -/
def State.moveOperand (s : State) (w : IWord) : Except (Code × Nat) DRef :=
  if w.flag 8 then
    if w.flag 9 ∨ w.flag 10 ∨ w.opa ≠ 0xFFFF then .error (.badOperand, 0)
    else if !s.keeps w.opb.toNat then .error (.staleMap, 0) else .ok (.own w.opb.toNat 0)
  else s.deedOperand w

/-- R552: the destination of a move or copy. -/
def State.destPre (s : State) (dst : NodeId) : Pre :=
  if (s.route dst).isNone then some (.staleMap, 0)
  else match s.partnerState dst with
    | .dead => some (.targetDead, 0)
    | .left => some (.targetDead, 0)
    | .live => none
    | _ => illegal 0 0

/-- A deed that moves must be `HOME` here, unread by an `ATTN_PARTIAL`, far enough below its top epoch for e + 2, and a
region's window closed (Table 5.11, R22, R189, R195). DEDUCED, log entry 147. -/
def State.deedPre (s : State) (r : DRef) : Pre :=
  let d := s.deed r
  let top := if d.region then 65535 else 2 ^ 32 - 1
  match r with
  | .region w => if (s.window w).state ≠ 0 then illegal 4 (s.window w).state
      else if d.state ≠ .home then illegal 3 (dCode d.state)
      else if top < d.epoch + 2 then some (.noSpace, 0) else none
  | _ => if d.state ≠ .home ∨ d.partials ≠ 0 then illegal 3 (dCode d.state)
      else if top < d.epoch + 2 then some (.noSpace, 0) else none

/-- Table 6.3: a lantern that may move. -/
def State.lanternMovePre (s : State) (l : Nat) : Pre :=
  let x := s.lan l
  match x.state with
  | .idle => none
  | .toolWait => none
  | .active => match x.request with
    | none => illegal 1 2
    | some r => let st := (s.request r).state
      if st = .done then none else illegal 2 (rCode st)
  | st => illegal 1 (lCode st)

/-- The first failing precondition of a list. -/
def firstPre : List Pre → Pre
  | [] => none
  | some p :: _ => some p
  | none :: t => firstPre t

def State.preMove (s : State) (w : IWord) : Pre :=
  match s.moveOperand w with
  | .error e => some e
  | .ok r =>
    let dst := w.opc
    if dst = s.me ∨ !NodeId.valid dst then badOp
    else
      let p := s.movePlan (w.flag 8) r
      let lan := match p.lantern with | none => none | some l => s.lanternMovePre l
      let ds := (if w.flag 8 then r :: p.deeds else [r]).map s.deedPre
      firstPre (lan :: ds ++ [s.destPre dst])

/-- The weighing of a `MOVE_STATE`: T_move in TC1, and the tables of R194 and R196. -/
def State.itemMove (s : State) (index : Nat) (w : IWord) : Item :=
  match s.moveOperand w with
  | .error _ => { index := index, terms := [], regs := [] }
  | .ok r =>
    let p := s.movePlan (w.flag 8) r
    { s.moveItem index 1 w.opc p.rate with
      noSpace := decide (256 ≤ s.lore.movesOut.length) || decide (hostedMax < s.hostedUsed + p.kept),
      lantern := match r with | .own l _ => some l | _ => none }

def State.bodyMove (s : State) (c : Nat) (w : IWord) (x : Ctx) : IRes :=
  afterPre (s.preMove w) (match s.moveOperand w with
    | .error e => .fail e.1 e.2
    | .ok r => match s.admitAt c x (s.itemMove x.pc w) with
      | .no r => r
      | .go s1 id n =>
        let p := s1.movePlan (w.flag 8) r
        let k := ((id.bind s1.promise).map (·.k)).getD s1.now
        let nn := ((id.bind s1.promise).map (·.n)).getD n
        .wait (s1.startMove (w.owner c x.pc) x.entry.ring x.entry.slot w.opc p 1 x.entry.svc k nn id (id.getD 0) false) .op)

def execMoveState (c : Nat) (w : IWord) (s : State) : Out :=
  .next (s.runInstr c 0x38 w (.moveState c w) (shapeOk 0x38 w) false false (s.bodyMove c w))

/-! ## The destination -/

/-- A lantern entry that is `CLOSED` and not reserved, the lowest (R163). -/
def State.closedEntry (s : State) : Option Nat := s.lore.lanterns.lowestFree 0 4194304
/-- A free request entry, the lowest. -/
def State.freeRequest (s : State) : Option Nat := s.lore.requests.lowestFree 0 262144

/-- Pages for a list of ratios. -/
def State.takeRatios (s : State) : List Nat → Option (List Page × State)
  | [] => some ([], s)
  | r :: t => match s.takeUnits 0 (pageUnits r) with
    | none => none
    | some (a, s1) => (State.takeRatios s1 t).map (fun q =>
        ({ tier := 0, shared := false, ratio := r, loc := a } :: q.1, q.2))

/-- A record that an arriving deed may take: none here, or the keeper's record of a deed homed elsewhere. Every other record
stays (Table 7.3, R202). DEDUCED, log entry 44. -/
def DState.vacant (d : DState) : Bool := d == .none || d == .remote

/-- Where an arriving deed is recorded: the reserved lantern's table, the keeper's own table, or a
hosted entry. -/
def State.placeDeed (s : State) (lantern : Option Nat) (k : DeedKey) : Option DRef :=
  match lantern with
  | some l => some (.own l k.deed)
  | none =>
    if k.keeper = s.me then
      let r : DRef := if k.region then .region k.deed else .own k.lantern k.deed
      if (k.region ∨ (s.keeps k.lantern ∧ k.deed < (s.lan k.lantern).deeds)) ∧ (s.deed r).state.vacant then some r else none
    else if s.hostedUsed < hostedMax ∧ (s.findDeed k).isNone then s.hostedFree.map DRef.hosted else none

/-- The deeds of an open enter `INCOMING` one by one; `none` when space or an entry lacks. DEDUCED, log entry 44. -/
def State.takeDeeds (s : State) (src : NodeId) (lantern : Option Nat) : List OpenDeed → Option (List DRef × State)
  | [] => some ([], s)
  | d :: t => match s.placeDeed lantern d.key with
    | none => none
    | some r => match s.takeRatios d.pages with
      | none => none
      | some (ps, s1) =>
        let old := s1.deed r
        let e : Deed := { old with state := .incoming, ratio := d.ratio, partials := 0, posStart := d.posStart, posCount := d.posCount, region := d.key.region, deed := d.key.deed, home := src, epoch := d.epoch, peer := src, keeper := (match lantern with | some _ => s1.me | none => d.key.keeper), keeperLantern := (match r with | .hosted _ => d.key.lantern | _ => 0xFFFFFFFF), pages := ps, npages := ps.length }
        (State.takeDeeds (s1.setDeed r e) src lantern t).map (fun q => (r :: q.1, q.2))

/-- The receipt of a committed transfer enters the log of the last 16,384 (R198). -/
def State.logReceipt (s : State) (r : Receipt) : State :=
  s.mapLore (fun l => { l with receipts := (r :: l.receipts).take 16384 })
/-- The deed keys and epochs of a transfer. -/
def openNames (o : MoveOpen) : List (DeedKey × Nat) := o.deeds.map (fun d => (d.key, d.epoch))
def Receipt.has (r : Receipt) (k : DeedKey) (epoch : Nat) : Bool := r.deeds.contains (k, epoch)
/-- The epochs of a transfer are logged as abandoned (R201). They have a log of their own. DESIGN CHOICE, log entry 148. -/
def State.logAbandoned (s : State) (m : MoveIn) : State :=
  let r : Receipt := { deeds := openNames m.op, commit := none, home := m.src, lantern := none, src := m.src, mv := m.id }
  s.mapLore (fun l => { l with abandoned := (r :: l.abandoned).take 16384 })

/-- The destination gives a transfer up: nothing of it is held, e + 1 is logged as abandoned. -/
def State.abandon (s : State) (m : MoveIn) : State :=
  let s := (m.op.deeds.zip m.refs).foldl (fun s e =>
    let s := s.dropPages (s.deed e.2).pages
    match e.2 with
    | .own l d => if m.lantern.isSome then s.setDeed e.2 {} else
        s.setDeed (.own l d) { s.deed e.2 with state := .remote, epoch := e.1.epoch - 1, home := m.src, peer := 0, pages := [], npages := 0 }
    | _ => s.setDeed e.2 {}) s
  let s := s.logAbandoned m
  let s := match m.lantern with
    | none => s
    | some l => (s.dropPages (s.lan l).shared).setLan l {}
  let s := match m.request with | none => s | some r => s.clearRequest r
  s.mapLore (fun l => { l with movesIn := l.movesIn.filter (fun x => x.id != m.id || x.src != m.src) })

/-- The open of a move arrives (R193, R196): reserved and `INCOMING`, or refused. -/
def execMoveOpenReceive (f : Frame) (o : MoveOpen) (s : State) : Out :=
  .next (s.receive f .openK (fun s =>
    let s := s.mapLore (fun l => { l with opensSeen := true })
    let held := o.deeds.findSome? (fun d => match s.findDeed d.key with
      | some r => if (s.deed r).state = .home ∧ d.epoch ≤ (s.deed r).epoch then some r else none
      | none => none)
    match held with
    | some _ => s.sendNack f .openK .staleEpoch
    | none =>
      let s := o.deeds.foldl (fun s d => match s.findDeed d.key with
        | some r => if (s.deed r).state = DState.home then s.supersede r f.src d.epoch false else s
        | none => s) s
      let lan := if o.lantern.isSome then s.closedEntry else none
      let req := match o.lantern with | some l => if l.request.isSome then s.freeRequest else none | none => none
      let lack := decide (256 ≤ s.lore.movesIn.length) || (o.lantern.isSome && lan.isNone) ||
        ((o.lantern.bind (·.request)).isSome && req.isNone)
      if lack then s.sendNack f .openK .noSpace
      else match s.takeDeeds f.src lan o.deeds with
        | none => s.sendNack f .openK .noSpace
        | some (refs, s1) =>
          match s1.takeRatios ((o.lantern.map (·.shared)).getD []) with
          | none => s.sendNack f .openK .noSpace
          | some (shared, s2) =>
            let s3 := match lan with | none => s2 | some l => s2.setLan l { s2.lan l with reserved := true, shared := shared }
            let s4 := match req with | none => s3 | some r => s3.setRequest r { s3.request r with reserved := true }
            let m : MoveIn := { id := f.ref, src := f.src, op := o, refs := refs, lantern := lan, request := req, got := 0, till := o.promised + bits (s.regN Reg.DEED_TIMEOUT) 23 0, badCheck := false, parked := f.tc == 3 }
            s4.mapLore (fun l => { l with movesIn := l.movesIn ++ [m] })))

/-- Bytes of a stream written into reserved pages from a place in the stream on. -/
def State.writeStream (s : State) : List Page → Nat → Bytes → State
  | [], _, _ => s
  | p :: t, off, b =>
    if p.bytes ≤ off then State.writeStream s t (off - p.bytes) b
    else
      let n := p.bytes - off
      let s := s.setBytes p.tier (Tbl.writeBytes (s.bytesOf p.tier) (4096 * p.loc + off) (b.take n))
      if b.length ≤ n then s else State.writeStream s t 0 (b.drop n)

/-- A value of Table 6.5 that travelled with a request. -/
def reqField (fs : List (Nat × Nat)) (off : Nat) : Nat := ((fs.find? (·.1 == off)).map (·.2)).getD 0

/-- Final codes by number. -/
def codeOf (n : Nat) : Code :=
  ([Code.ok, .overdue, .refusedBound, .illegalInState, .badOperand, .killed, .sizeExceeded, .sizeShort,
    .checkFail, .accessRevoked, .accessViolation, .staleWindow, .staleMap, .staleEpoch, .targetDead,
    .isolated, .mediaReadOnly, .noSpace, .orphaned, .writeCollided, .shadowMismatch, .notResident,
    .derated, .fieldChanged][n]?).getD .ok

/-- The hosted entry of deed `d` of a lantern that arrives: by its keeper and lantern index there, or, where the index was never
learnt, by the deed's epoch and first position. DEDUCED, log entry 44. -/
def State.hostedOf (s : State) (keeper : NodeId) (lantern d epoch posStart : Nat) : Option (Nat × Deed) :=
  let mine (h : Deed) : Bool := !h.region && h.keeper == keeper && h.deed == d
  (s.lore.hosted.find? (fun e => mine e.2 && e.2.keeperLantern == lantern)).or
    (s.lore.hosted.find? (fun e => mine e.2 && e.2.keeperLantern == 0xFFFFFFFF && e.2.epoch == epoch && e.2.posStart == posStart))

/-- The lantern that a committed transfer brought (Table 6.3, R163, R166, R211). What it holds stands in the tier it arrives
in: packed, or the cache node (Table 6.1). The request's meadow and row are the source's and do not travel. DEDUCED, log entry 44. -/
def State.arriveLantern (s : State) (m : MoveIn) (l : Nat) (o : OpenLantern) : State :=
  let prior := lOf o.priorState
  let n := m.op.deeds.length + o.remote.length
  let held := ((m.refs.map (fun r => pagesBytes ((s.deed r).pages.filter (fun p => !p.shared)))).sum)
  let tier := if m.parked then 3 else if o.packed then 1 else 0
  let x : Lantern :=
    { state := prior, toolWaitFlag := o.toolWait, nearState := o.nearState, packed := o.packed, svc := o.svcClass, meadow := 0xFF,
      model := o.model, adapter := o.adapter, request := m.request, deeds := n, parkTier := tier, parkedBytes := if tier = 0 then 0 else held,
      tokens := o.tokens, idleTimeout := o.idleTimeout, hintUs := o.hintUs, release := o.releaseBeat, cookie := o.cookie,
      create := o.createBeat, log := o.tokenLog, embers := o.embers, shared := (s.lan l).shared,
      timer := if prior = .active then 0 else s.now + o.idleTimeout }
  let s := s.setLan l x
  let s := o.remote.foldl (fun s e =>
    let (d, ep, ps, pc, home, st) := e
    let base : Deed := { deed := d, epoch := ep, posStart := ps, posCount := pc, keeper := s.me, keeperLantern := 0xFFFFFFFF, home := home, state := (if st = 6 then .ember else if st = 0 then .none else .remote) }
    -- deeds this Cucia already hosts become entries of the lantern's own table (R194)
    match s.hostedOf m.src o.lanternAtSource d ep ps with
    | some (i, h) =>
      ((s.setDeed (.own l d) { h with keeper := s.me, keeperLantern := 0xFFFFFFFF }).repoint (.hosted i) (.own l d)).setDeed (.hosted i) {}
    | none => s.setDeed (.own l d) base) s
  match m.request, o.request with
  | some r, some fs =>
    let fl := reqField fs 1
    s.setRequest r
      { state := .done, lantern := l, breached := bit fl 6, entryEnded := bit fl 5, noDeadline := bit fl 4, fullTurn := bit fl 3,
        follow := bit fl 2, onOverdue := fl % 4, prio := reqField fs 2, svc := reqField fs 3, meadow := 0xFF,
        finalCode := some (codeOf (reqField fs 5)), adapter := reqField fs 12, tag := reqField fs 14, deadlineBeat := reqField fs 16,
        promisedBeat := reqField fs 24, pTokens := reqField fs 32, prefilled := reqField fs 36, gMax := reqField fs 40,
        generated := reqField fs 44, placement := reqField fs 56 + 1, ring := reqField fs 60, slot := reqField fs 61,
        doneBeat := s.now, completed := true }
  | _, _ => s

/-- The commit of a transfer: every deed `HOME` here at e + 1 in one step, logged, and the receipt sent
in this beat; a keeper that was not the source gets a home notice (R197, R198). -/
def State.moveCommit (s : State) (m : MoveIn) : State :=
  let s := m.refs.foldl (fun s r => let d := s.deed r
    s.setDeed r { d with state := .home, home := s.me, peer := 0, laid := s.headsOf (match m.op.lantern, r with
      | some o, _ => o.model
      | none, .own l _ => (s.lan l).model
      | none, _ => 0) }) s
  let s := match m.lantern, m.op.lantern with
    | some l, some o => s.arriveLantern m l o
    | _, _ => s
  let s := s.logReceipt { deeds := openNames m.op, commit := some s.now, home := s.me, lantern := m.lantern, src := m.src, mv := m.id }
  let s := m.op.deeds.foldl (fun s d => if d.key.keeper ≠ m.src ∧ d.key.keeper ≠ s.me then s.homeNotice d.key d.epoch else s) s
  let s := s.mapLore (fun l => { l with movesIn := l.movesIn.filter (fun x => x.id != m.id || x.src != m.src) })
  s.send m.src .commit 4 (openLen .commit) (.receipt { commitBeat := s.now, lantern := m.lantern }) m.id

/-- A data frame of a move arrives; with the last one the destination commits or refuses (R197). A
transfer it has abandoned gets `STALE_EPOCH` at its `SEAL` (R201). -/
def execMoveDataReceive (f : Frame) (data : Bytes) (checkOk : Bool) (s : State) : Out :=
  .next (s.receive f .data (fun s =>
    match s.lore.movesIn.find? (fun m => m.id == f.ref && m.src == f.src) with
    | none =>
      if f.sealBit ∧ s.lore.abandoned.any (fun r => r.src == f.src && r.mv == f.ref) then
        s.sendNack f .data .staleEpoch
      else s
    | some m =>
      let pages := m.refs.flatMap (fun r => (s.deed r).pages) ++ (match m.lantern with | none => [] | some l => (s.lan l).shared)
      let s := s.writeStream pages f.offset data
      let m := { m with got := m.got + data.length, badCheck := m.badCheck || !checkOk }
      let s := s.mapLore (fun l => { l with movesIn := l.movesIn.map (fun x => if x.id = m.id ∧ x.src = m.src then m else x) })
      if !f.sealBit then s
      else if m.got ≠ m.op.rateSize ∨ m.badCheck then (s.abandon m).sendNack f .data .checkFail
      else s.moveCommit m))

/-! ## What the source learns -/

def execMoveReceiptReceive (f : Frame) (r : MoveReceipt) (s : State) : Out :=
  .next (s.receive f .commit (fun s =>
    match s.lore.movesOut.find? (fun m => m.id == f.ref && m.dst == f.src) with
    | none => s
    | some m => s.moveFreed m r.lantern (some r.commitBeat)))

/-- An abort of the source before its `SEAL` (R206). DEDUCED, log entry 76. -/
def execMoveAbortReceive (f : Frame) (s : State) : Out :=
  .next (s.receive f .deed (fun s =>
    match s.lore.movesIn.find? (fun m => m.id == f.ref && m.src == f.src) with
    | none => s
    | some m => s.abandon m))

/-- MOVE_KILL names the move by ring and result slot (R206, Table 7.6). -/
def execMoveKill (ring slot : Nat) (s : State) : Out :=
  .next (if !s.cdUp then s else
    match s.lore.movesOut.find? (fun m => m.ring == ring && m.slot == slot && !m.parked && m.phase == 2) with
    | none => s
    | some m => (s.send m.dst .deed 4 (openLen .deed) .moveAbort m.id).moveReturned m .killed true)

/-- Receipt deadline r (R200). -/
def MoveOut.deadline (m : MoveOut) : Nat := max (m.k + m.n) m.sealBeat + m.hops + 1

/-- The query about the deeds of a move. -/
def State.queryMove (s : State) (m : MoveOut) : State :=
  match m.deeds.head? with
  | none => s
  | some r =>
    if s.partnerState m.dst = .dead ∨ s.partnerState m.dst = .left then s
    else s.sendDeed m.dst (.query { key := s.keyOf r, epoch := (s.deed r).epoch, query := m.id, homeAtSender := none })

def execReceiptDeadlineExpiry (mv : Nat) (s : State) : Out :=
  .next (match s.moveOut mv with
    | none => s
    | some m =>
      if m.phase = 3 ∧ m.queried = 0 ∧ m.deadline < s.now then
        let m := { m with queried := s.now, gap := bits (s.regN Reg.DEED_QUERY_GAP) 15 0, tmo := bits (s.regN Reg.DEED_TIMEOUT) 23 0 }
        (s.setMove m).queryMove m
      else s)

/-- A query is repeated every DEED_QUERY_GAP beats: of a move, or of a software `DEED_QUERY`. -/
def execDeedQueryRepeat (mv : Nat) (s : State) : Out :=
  .next (match s.moveOut mv with
    | some m =>
      if m.phase = 3 ∧ m.queried ≠ 0 ∧ m.queried + m.gap ≤ s.now then
        let m := { m with queried := s.now }
        (s.setMove m).queryMove m
      else s
    | none => match s.lore.queries.find? (·.id == mv) with
      | none => s
      | some q =>
        if q.sentBeat + q.gap ≤ s.now then
          let s := s.mapLore (fun l => { l with queries := l.queries.map (fun y => if y.id = mv then { y with sentBeat := s.now } else y) })
          let home := (s.findDeed q.key).bind (fun r => let d := s.deed r; if d.state = .home then some d.epoch else none)
          s.sendDeed q.dst (.query { key := q.key, epoch := q.localView % 2 ^ 32, query := q.id, homeAtSender := home })
        else s)

def execDeedTimeoutOrphan (mv : Nat) (s : State) : Out :=
  .next (match s.moveOut mv with
    | none => s
    | some m =>
      let tmo := if m.queried = 0 then bits (s.regN Reg.DEED_TIMEOUT) 23 0 else m.tmo
      if m.phase = 3 ∧ m.deadline + tmo < s.now then s.moveOrphaned m else s)

/-- The `mv`-th move in flight as destination is past its timer (R201). -/
def execIncomingAbandon (mv : Nat) (s : State) : Out :=
  .next (match s.lore.movesIn[mv]? with
    | none => s
    | some m => if m.till < s.now then s.abandon m else s)

/-! ## Queries -/

/-- The answer of this Cucia to a deed query (R198, Table 7.5): its receipt log first, then its present
record. DEDUCED, log entry 76. -/
def State.answerFor (s : State) (q : DeedQuery) : DeedAnswer :=
  match s.lore.receipts.find? (fun r => r.has q.key q.epoch), s.lore.abandoned.find? (fun r => r.has q.key q.epoch) with
  | some r, _ => { key := q.key, query := q.query, code := 1, epoch := q.epoch, home := s.me, commitBeat := r.commit, fromLog := true, lantern := r.lantern }
  | none, some r => { key := q.key, query := q.query, code := 8, epoch := q.epoch, home := r.src, commitBeat := none, fromLog := true }
  | none, none => match s.findDeed q.key with
    | some r => let d := s.deed r
      { key := q.key, query := q.query, code := dCode d.state, epoch := d.epoch, home := d.home, commitBeat := none, fromLog := false }
    | none => { key := q.key, query := q.query, code := if s.lore.opensSeen then 0 else 9, epoch := 0, home := 0, commitBeat := none, fromLog := false }

/-- The epoch that a query shows: the one the sender holds the deed `HOME` at, else the one it asks about. -/
def shownEpoch (q : DeedQuery) : Nat := q.homeAtSender.getD q.epoch

def execDeedQueryReceive (f : Frame) (q : DeedQuery) (s : State) : Out :=
  .next (s.receive f .deed (fun s =>
    (s.sendDeed f.src (.answer (s.answerFor q))).deedMessage q.key f.src (shownEpoch q) q.homeAtSender.isSome))

/-- The 8-byte view word of a deed. -/
def State.viewWord (s : State) (code : Nat) (home : NodeId) (epoch : Nat) : Nat :=
  let i := (s.partnerOf home).getD 0xFFF
  code * 2 ^ 60 + i * 2 ^ 48 + epoch % 2 ^ 32

/-- The local view of a deed. -/
def State.localView (s : State) (r : DRef) : Nat :=
  let d := s.deed r
  s.viewWord (dCode d.state) d.home d.epoch

/-- What the source of a move does on an answer (Table 7.5). -/
inductive Verdict75 where
  | free (commit : Option Nat) | again | back | orphan
deriving DecidableEq, Repr

/-- The first row of Table 7.5 that an answer matches, for a move at epoch `e1`. -/
def table75 (a : DeedAnswer) (e1 : Nat) : Verdict75 :=
  if a.code = 1 ∧ a.epoch = e1 ∧ a.commitBeat.isSome then .free a.commitBeat
  else if [1, 2, 4, 5, 6].contains a.code ∧ (e1 < a.epoch ∨ (a.fromLog ∧ a.epoch = e1)) then .free a.commitBeat
  else if a.code = 3 ∧ a.epoch = e1 then .again
  else if a.code = 8 then .back
  else if [9, 0, 1, 2, 4, 5, 6].contains a.code then .orphan
  else .again

/-- The move that an answer decides: past its `SEAL`, with a query in flight. -/
def State.askedMove (s : State) (src : NodeId) (query : Nat) : Option MoveOut :=
  s.lore.movesOut.find? (fun m => m.id == query && m.dst == src && m.phase == 3 && m.queried != 0)

/-- The source of a transfer answers a query of its destination: no longer `LENT` to it, the destination gives the transfer
up (R201). -/
def State.answerIn (s : State) (m : MoveIn) (a : DeedAnswer) : State :=
  let e1 := ((m.op.deeds.find? (fun d => d.key == a.key)).map (·.epoch)).getD 0
  if a.code = 2 ∧ a.epoch = e1 then s else s.abandon m

def execDeedAnswerReceive (f : Frame) (a : DeedAnswer) (s : State) : Out :=
  .next (s.receive f .deed (fun s =>
    match s.askedMove f.src a.query with
    | some m =>
      let e1 := ((m.deeds.head?).map (fun r => (s.deed r).epoch)).getD 0
      match table75 a e1 with
      | .free c => s.moveFreed m a.lantern c
      | .again => s
      | .back => s.moveReturned m .staleEpoch
      | .orphan => s.moveOrphaned m
    | none =>
      let s := s.deedMessage a.key f.src a.epoch (a.code == 1 && a.home == f.src)
      match s.lore.queries.find? (fun q => q.id == a.query && q.dst == f.src) with
      | some q =>
        let s := s.mapLore (fun l => { l with queries := l.queries.filter (fun y => y.id != q.id) })
        (s.setOut (.instr q.c) (fun x => { x with out0 := s.viewWord a.code a.home a.epoch, out1 := q.localView })).finish (.instr q.c) .ok
      | none => match s.lore.movesIn.find? (fun m => m.query != 0 && m.query == a.query && m.src == f.src) with
        | none => s
        | some m => s.answerIn m a))

/-- A destination asks the source about a transfer whose promised beat has ended without a `SEAL`, and again every
DEED_QUERY_GAP beats (R201). DESIGN CHOICE, log entry 149. -/
def State.queryIn (s : State) (m : MoveIn) : State :=
  let late := s.now - m.op.promised
  match m.op.deeds.head? with
  | none => s
  | some d =>
    if s.now ≤ m.op.promised ∨ (late - 1) % max 1 (bits (s.regN Reg.DEED_QUERY_GAP) 15 0) ≠ 0 then s
    else
      let id := if m.query = 0 then s.lore.nextMove else m.query
      let s := s.mapLore (fun l => { l with nextMove := max l.nextMove (id + 1), movesIn := l.movesIn.map (fun x => if x.id = m.id ∧ x.src = m.src then { x with query := id } else x) })
      s.sendDeed m.src (.query { key := d.key, epoch := d.epoch, query := id, homeAtSender := none })

def State.queryIncoming (s : State) : State := s.lore.movesIn.foldl State.queryIn s

def State.bodyQuery (s : State) (c : Nat) (w : IWord) : IRes :=
  match s.deedOperand w with
  | .error e => .fail e.1 e.2
  | .ok r =>
    if !NodeId.valid w.opc then .fail .badOperand 0
    else
      let k := s.keyOf r
      let view := s.localView r
      let q : DeedQuery := { key := k, epoch := (s.deed r).epoch, query := s.lore.nextMove, homeAtSender := if (s.deed r).state = .home then some (s.deed r).epoch else none }
      if w.opc = s.me then
        let a := s.answerFor q
        .ok (s.setOut (.instr c) (fun x => { x with out0 := s.viewWord a.code a.home a.epoch, out1 := view }))
      else
        let o : QueryOut := { id := q.query, c := c, dst := w.opc, key := k, gap := bits (s.regN Reg.DEED_QUERY_GAP) 15 0, till := s.now + bits (s.regN Reg.DEED_TIMEOUT) 23 0, sentBeat := s.now, localView := view }
        let s := s.mapLore (fun l => { l with queries := l.queries ++ [o], nextMove := l.nextMove + 1 })
        .wait (s.sendDeed w.opc (.query q)) .op

def execDeedQuery (c : Nat) (w : IWord) (s : State) : Out :=
  .next (s.runInstr c 0x39 w (.deedQuery c w) (shapeOk 0x39 w) false false (fun _ => s.bodyQuery c w))

/-- No answer to the query of context `c` in DEED_TIMEOUT beats. -/
def execDeedQueryTimeout (c : Nat) (s : State) : Out :=
  .next (match s.lore.queries.find? (·.c == c) with
    | none => s
    | some q =>
      if q.till < s.now then
        (s.mapLore (fun l => { l with queries := l.queries.filter (fun y => y.id != q.id) })).finish (.instr c) .targetDead
      else s)

/-! ## Notices -/

/-- A home or ember notice, by the state of the record it concerns (Tables 7.3, 7.7, R205). -/
def State.notice (s : State) (n : DeedNotice) (src : NodeId) (ember : Bool) : State :=
  match s.findDeed n.key with
  | none => s
  | some r =>
    let d := s.deed r
    match d.state, r with
    | .remote, .own l i =>
      if n.epoch ≤ d.epoch then s
      else if ember then s.toEmber l i n.epoch
      else s.setDeed r { d with home := n.home, epoch := n.epoch }
    | .home, _ =>
      if ember then (if d.epoch < n.epoch then s.supersede r n.home n.epoch false else s)
      else if n.epoch ≤ d.epoch ∧ d.keeper = s.me then s
      else s.settle205 r src n.epoch
    | _, _ => s

def execHomeNoticeReceive (f : Frame) (n : DeedNotice) (s : State) : Out :=
  .next (s.receive f .deed (fun s => s.notice n f.src false))
def execEmberNoticeReceive (f : Frame) (n : DeedNotice) (s : State) : Out :=
  .next (s.receive f .deed (fun s => s.notice n f.src true))

/-! ## Decree (R203, R204) -/

/-- The record here of a deed whose lantern arrived under its old key. -/
def State.arrivedDeed (s : State) (k : DeedKey) : Option DRef :=
  if k.region then none
  else (s.lore.receipts.find? (fun e => e.lantern.isSome && e.deeds.any (fun d => d.1.keeper == k.keeper && d.1.lantern == k.lantern && !d.1.region))).bind
    (fun e => e.lantern.bind (fun l => if s.keeps l ∧ k.deed < (s.lan l).deeds then some (.own l k.deed) else none))

/-- The record that a decree notice concerns. -/
def State.decreed (s : State) (k : DeedKey) : Option DRef := (s.findDeed k).or (s.arrivedDeed k)

def execDecreeNoticeReceive (f : Frame) (n : DecreeNotice) (s : State) : Out :=
  .next (s.receive f .deed (fun s =>
    let r := s.decreed n.key
    let lan := match r with
      | some (.own l 0) => l
      | _ => 0xFFFFFFFF
    let s := match r with
      | some r => let d := s.deed r
        if d.state = DState.home ∧ d.epoch < n.epoch then s.setDeed r { d with epoch := n.epoch }
        else s.raise Ev.deedConflict f.src n.key.lantern n.key.deed
      | none => s.raise Ev.deedConflict f.src n.key.lantern n.key.deed
    s.sendDeed f.src (.decreeAck { id := n.id, lantern := lan })))

/-- The named node of a decree is gone: its repetition stops with the event (R204). -/
def State.endDecrees (s : State) (n : NodeId) : State :=
  let gone := s.lore.decrees.filter (fun d => d.dst == n)
  let s := s.mapLore (fun l => { l with decrees := l.decrees.filter (fun d => d.dst != n) })
  gone.foldl (fun (s : State) d => s.raise Ev.deedConflict n d.key.lantern d.key.deed) s

/-- The deeds that a logged transfer between this Cucia and a node named, and the hosted deeds of lanterns that it keeps. -/
def State.sharedKeys (s : State) (n : NodeId) : List DeedKey :=
  ((s.lore.receipts.filter (fun r => r.src == n)).flatMap (fun r => r.deeds.map (·.1)) ++
   (s.lore.released.filter (fun r => r.home == n)).flatMap (fun r => r.deeds.map (·.1)) ++
   (s.lore.hosted.filter (fun e => e.2.keeper == n)).map (fun e => s.keyOf (.hosted e.1))).eraseDups

/-- A node that is a partner again is asked about every deed `HOME` here that it may hold too (R205). DESIGN CHOICE, log entry 150. -/
def State.reconnect (s : State) (n : NodeId) : State :=
  (s.sharedKeys n).foldl (fun (s : State) k => match s.findDeed k with
    | none => s
    | some r => if (s.deed r).state ≠ .home then s
      else s.sendDeed n (.query { key := k, epoch := (s.deed r).epoch, query := 0, homeAtSender := some (s.deed r).epoch })) s

def execDecreeNoticeRepeat (id : Nat) (s : State) : Out :=
  .next (match s.lore.decrees.find? (·.id == id) with
    | none => s
    | some d =>
      if d.sentBeat + d.gap ≤ s.now then
        let s := s.mapLore (fun l => { l with decrees := l.decrees.map (fun y => if y.id = id then { y with sentBeat := s.now } else y) })
        s.sendDeed d.dst (.decree { key := d.key, epoch := d.epoch, id := d.id })
      else s)

/-- The acknowledgement stops the repetition; for deed 0 it names the lantern index that hosted entries
left here record (R204). -/
def execDecreeAckReceive (f : Frame) (a : DecreeAck) (s : State) : Out :=
  .next (s.receive f .deed (fun s =>
    match s.lore.decrees.find? (fun d => d.id == a.id && d.dst == f.src) with
    | none => s
    | some d =>
      let s := s.mapLore (fun l => { l with decrees := l.decrees.filter (fun y => y.id != d.id) })
      if a.lantern = 0xFFFFFFFF then s
      else d.kept.foldl (fun s i => let h := s.deed (.hosted i)
        if h.keeper = f.src ∧ h.keeperLantern = 0xFFFFFFFF then s.setDeed (.hosted i) { h with keeperLantern := a.lantern } else s) s))

/-- The decree descriptor: new home, epoch, zero from byte 12. -/
def State.preDecree (s : State) (w : IWord) (d : Bytes) : Pre :=
  match s.deedOperand w with
  | .error e => some e
  | .ok r =>
    let x := s.deed r
    let home : NodeId := BitVec.ofNat 64 (le d 0 8)
    let e := le d 8 4
    if !NodeId.valid home ∨ !zeroAt d 12 4 then badOp
    else if x.state ≠ .orphaned then illegal 3 (dCode x.state)
    else if e ≤ x.epoch then badOp
    else if x.region ∧ 65535 < e then some (.noSpace, 0)
    else match r with
      | .own l 0 => if home ≠ s.me ∧ hostedMax < s.hostedUsed + (s.stays l [r]).length then some (.noSpace, 0) else none
      | _ => none

/-- `DEED_DECREE` (Tables 5.11, 6.3, 7.3; R194, R204). -/
def State.bodyDecree (s : State) (w : IWord) (d : Bytes) : IRes :=
  afterPre (s.preDecree w d) (match s.deedOperand w with
    | .error e => .fail e.1 e.2
    | .ok r =>
      let x := s.deed r
      let home : NodeId := BitVec.ofNat 64 (le d 0 8)
      let e := le d 8 4
      if home = s.me then
        let s := s.setDeed r { x with state := .home, epoch := e, home := s.me, peer := 0 }
        .ok (match r with
          | .own l 0 => if (s.lan l).state = .orphaned then (s.setLan l { s.lan l with state := .idle, prior := .closed }).startTimer l else s
          | _ => s)
      else
        let k := s.keyOf r
        let before := s.lore.hosted.map (·.1)
        let s := match r with
          | .own l 0 => (s.leaveHosted l [r] home 0xFFFFFFFF).freeLantern l
          | _ => s.away r home e
        let kept := (s.lore.hosted.map (·.1)).filter (fun i => !before.contains i)
        let id := s.lore.nextMove
        let dc : Decree := { id := id, key := k, epoch := e, dst := home, kept := kept, gap := bits (s.regN Reg.DEED_QUERY_GAP) 15 0, sentBeat := s.now }
        let s := s.mapLore (fun y => { y with decrees := y.decrees ++ [dc], nextMove := id + 1 })
        .ok (s.sendDeed home (.decree { key := k, epoch := e, id := id })))

def execDeedDecree (c : Nat) (w : IWord) (d : Bytes) (s : State) : Out :=
  .next (s.runInstr c 0x3A w (.deedDecree c w d) (shapeOk 0x3A w) false false (fun _ => s.bodyDecree w d))

/-- The lantern whose own deed is named. -/
def DRef.lantern? : DRef → Option Nat
  | .own l _ => some l
  | _ => none

/-- A started step carries the request of the lantern. -/
def State.stepReads (s : State) (l : Nat) : Bool := s.listBusy (.lantern l) && (s.lan l).state != .lent

/-- What `DEED_RELEASE` and `EMBER` share: not deed 0, `HOME` here, no partial on it (R161, R207). -/
def State.heldPre (s : State) (r : DRef) : Pre :=
  let d := s.deed r
  if !d.region ∧ d.deed = 0 then badOp
  else if d.state ≠ .home then illegal 3 (dCode d.state)
  else if d.partials ≠ 0 then illegal 3 1 else none

/-- A posted codec instruction that has not completed works on a list. -/
def State.codecOn (s : State) (x : ListAt) : Bool :=
  s.io.ctxs.any (fun e => e.2.posted.any (fun p => p.done.isNone && (match p.cmd with
    | .pack _ w d _ _ => !w.flag 8 && s.listAt (le d 0 8) == x
    | .unpack _ w d _ _ => !w.flag 8 && s.listAt (le d 0 8) == x
    | _ => false)))

/-- A `COPY` from here reads the pages of a deed. -/
def State.copiedFrom (s : State) (ps : List Page) : Bool :=
  s.fab.copies.any (fun c => ps.any (fun p => p.tier == 0 && decide (4096 * p.loc < c.src + c.len ∧ c.src < 4096 * p.loc + p.bytes)))

/-- An uncommitted instruction works on the deed: a park, a resume, a `REKINDLE`, a step, a codec, or a copy out of it. -/
def State.deedBusy (s : State) (r : DRef) : Bool :=
  s.copiedFrom (s.deed r).pages || (match r with
    | .own l _ => s.lore.parks.any (·.lantern == l) || s.lore.resumes.any (·.lantern == l) || s.eng.rekindles.any (·.lantern == l) ||
        s.stepReads l || s.codecOn (.lantern l)
    | .hosted _ => false
    | .region w => s.codecOn (.region w))

def State.preRelease (s : State) (w : IWord) : Pre :=
  match s.deedOperand w with
  | .error e => some e
  | .ok r => match r with
    | .region i => if (s.window i).state ≠ 0 then illegal 4 (s.window i).state
        else if (s.deed r).state ≠ .home then illegal 3 (dCode (s.deed r).state)
        else if s.deedBusy r then illegal 3 1 else none
    | _ => firstPre [s.heldPre r, match r.lantern?.bind s.inFlightOf with
        | some st => illegal 2 (rCode st)
        | none => none, if s.deedBusy r then illegal 3 1 else none]

def State.bodyRelease (s : State) (w : IWord) : IRes :=
  afterPre (s.preRelease w) (match s.deedOperand w with
    | .error e => .fail e.1 e.2
    | .ok r =>
      let s := s.freeData r
      .ok (match r with
        | .own _ _ => s.setDeed r { s.deed r with state := .none, home := 0, epoch := 0 }
        | _ => s.setDeed r {}))

def execDeedRelease (c : Nat) (w : IWord) (s : State) : Out :=
  .next (s.runInstr c 0x3B w (.deedRelease c w) (shapeOk 0x3B w) false false (fun _ => s.bodyRelease w))

end Sys2Proof.Machine
end

