-- ==== Sys2Proof/Machine/Flags.lean ====
section
/-! DEFINITION. Number formats and arithmetic of the wick tiles: the twelve element formats,
rounding, saturation and the flags they count, block scaling, and the accumulators
(R218 to R231, Table 8.9). -/

namespace Sys2Proof.Machine

/-- The exact value of an element: a NaN, an infinity, or ± m × 2^e. -/
inductive FVal where
  | nan
  | inf (neg : Bool)
  | fin (neg : Bool) (m : Nat) (e : Int)
deriving DecidableEq, Repr

/-- Shape of a floating format (Table 8.2): exponent and mantissa bits, bias, whether an all-ones
exponent is set aside (infinity and NaN), whether only S.1111.111 is NaN. -/
structure FFmt where
  ebits : Nat
  mbits : Nat
  bias : Nat
  ieee : Bool
  onlyNan : Bool
deriving DecidableEq, Repr

/-- The floating formats by code. -/
def ffmt : Nat → Option FFmt
  | 0x0 => some ⟨8, 23, 127, true, false⟩
  | 0x1 => some ⟨8, 7, 127, true, false⟩
  | 0x2 => some ⟨5, 10, 15, true, false⟩
  | 0x3 => some ⟨4, 3, 7, false, true⟩
  | 0x4 => some ⟨5, 2, 15, true, false⟩
  | 0x5 => some ⟨3, 2, 3, false, false⟩
  | 0x6 => some ⟨2, 3, 1, false, false⟩
  | 0x7 => some ⟨2, 1, 1, false, false⟩
  | _ => none

/-- Width of an integer format by code. -/
def ifmt : Nat → Option Nat
  | 0x8 => some 16
  | 0x9 => some 8
  | 0xA => some 4
  | _ => none

/-- Bits of one element. -/
def fmtBits (code : Nat) : Nat :=
  match ffmt code with
  | some f => 1 + f.ebits + f.mbits
  | none => (ifmt code).getD 8

def FFmt.width (f : FFmt) : Nat := 1 + f.ebits + f.mbits
/-- Highest exponent field of a finite number. -/
def FFmt.maxField (f : FFmt) : Nat := 2 ^ f.ebits - 1 - (if f.ieee then 1 else 0)
/-- Highest mantissa at the highest exponent. -/
def FFmt.maxMant (f : FFmt) : Nat := 2 ^ f.mbits - 1 - (if f.onlyNan then 1 else 0)

/-- The value that element bits encode (R218, R219). -/
def FFmt.decode (f : FFmt) (v : Nat) : FVal :=
  let neg := bit v (f.ebits + f.mbits)
  let ex := (v / 2 ^ f.mbits) % 2 ^ f.ebits
  let m := v % 2 ^ f.mbits
  if f.ieee ∧ ex = 2 ^ f.ebits - 1 then (if m = 0 then .inf neg else .nan)
  else if f.onlyNan ∧ ex = 2 ^ f.ebits - 1 ∧ m = 2 ^ f.mbits - 1 then .nan
  else if ex = 0 then .fin neg m (1 - (f.bias : Int) - f.mbits)
  else .fin neg (2 ^ f.mbits + m) ((ex : Int) - f.bias - f.mbits)

/-- `m × 2^e` at quantum `2^q`, to nearest with ties to even (R224). -/
def roundTo (m : Nat) (e q : Int) : Nat :=
  if q ≤ e then m * 2 ^ (e - q).toNat
  else
    let k := (q - e).toNat
    let d := m / 2 ^ k
    let r := m % 2 ^ k
    let half := 2 ^ (k - 1)
    if half < r ∨ (r = half ∧ d % 2 = 1) then d + 1 else d

/-- Exponent of the leading bit of `m × 2^e`. -/
def leadExp (m : Nat) (e : Int) : Int := (Nat.log2 m : Int) + e

/-- The bits of a rounded magnitude, `none` past the largest finite value. -/
def FFmt.pack (f : FFmt) (m : Nat) (e : Int) : Option Nat :=
  if m = 0 then some 0
  else
    let emin : Int := 1 - (f.bias : Int)
    let q := max (leadExp m e) emin - f.mbits
    let r := roundTo m e q
    -- a carry moves to the next exponent
    let (r, q) := if r = 2 ^ (f.mbits + 1) then (2 ^ f.mbits, q + 1) else (r, q)
    if r < 2 ^ f.mbits then some r
    else
      let field := (q + f.mbits + f.bias).toNat
      if f.maxField < field ∨ (field = f.maxField ∧ f.maxMant < r - 2 ^ f.mbits) then none
      else some (field * 2 ^ f.mbits + (r - 2 ^ f.mbits))

/-- The canonical NaN of a format (R220). -/
def canonNan (code : Nat) : Nat :=
  match code with
  | 0x0 => 0x7FC00000 | 0x1 => 0x7FC0 | 0x2 => 0x7E00 | 0x3 => 0x7F | 0x4 => 0x7F | 0xB => 0xFF | _ => 0

/-- What a conversion counts: saturations and NaNs written (R226). -/
structure FCount where
  sat : Nat := 0
  nan : Nat := 0
deriving DecidableEq, Repr

def FCount.add (a b : FCount) : FCount := { sat := a.sat + b.sat, nan := a.nan + b.nan }

/-- The bits of an overflow (Table 8.3). -/
def FFmt.overflow (f : FFmt) (code : Nat) (neg sat1 : Bool) : Nat :=
  let sign := if neg then 2 ^ (f.ebits + f.mbits) else 0
  let largest := f.maxField * 2 ^ f.mbits + f.maxMant
  if !sat1 then sign + largest
  else if code = 0x3 then canonNan 0x3
  else if f.ieee then sign + (2 ^ f.ebits - 1) * 2 ^ f.mbits
  else sign + largest

/-- `m × 2^e` is above `n × 2^f`. -/
def magGt (m : Nat) (e : Int) (n : Nat) (f : Int) : Bool :=
  let q := min e f
  decide (n * 2 ^ (f - q).toNat < m * 2 ^ (e - q).toNat)

/-- The magnitude exceeds the format's largest finite value, before it is rounded (R225). DEDUCED, log entry 28. -/
def FFmt.exceeds (f : FFmt) (m : Nat) (e : Int) : Bool :=
  magGt m e (2 ^ f.mbits + f.maxMant) ((f.maxField : Int) - f.bias - f.mbits)

/-- Conversion to UE8M0: the nearest power of two, the even code on a tie; the format has no sign, no zero, and Table 8.3
no overflow for it. DESIGN CHOICE, log entry 139. -/
def encodeScale (v : FVal) : Nat × FCount :=
  match v with
  | .nan => (0xFF, { nan := 1 })
  | .inf neg => (Config.scaleCode neg true 0 0 % 256, {})
  | .fin neg m e =>
    let x := leadExp m e
    let up := magGt m e 3 (x - 1) || (!magGt 3 (x - 1) m e && decide (x % 2 = 0))
    let k := x + 127 + (b2n up : Nat)
    if neg ∨ m = 0 ∨ 254 < k then (Config.scaleCode neg false m e % 256, {}) else (k.toNat, {})

/-- Conversion of a value to a format, rounded and saturated (R224 to R226). DEDUCED, log entry 28. -/
def encodeF (code : Nat) (sat1 : Bool) (v : FVal) : Nat × FCount :=
  match ffmt code with
  | some f =>
    match v with
    | .nan => if f.ieee ∨ f.onlyNan then (canonNan code, { nan := 1 }) else (0, {})
    | .inf neg => (f.overflow code neg sat1, if sat1 ∧ code = 0x3 then { sat := 1, nan := 1 } else { sat := 1 })
    | .fin neg m e =>
      let sign := if neg then 2 ^ (f.ebits + f.mbits) else 0
      match (if f.exceeds m e then none else f.pack m e) with
      | some b => (sign + b, {})
      | none => (f.overflow code neg sat1, if sat1 ∧ code = 0x3 then { sat := 1, nan := 1 } else { sat := 1 })
  | none => match ifmt code with
    | none => encodeScale v
    | some w =>
      let top := 2 ^ (w - 1)
      match v with
      | .nan => (0, {})
      | .inf neg => if neg then (top, { sat := 1 }) else (top - 1, { sat := 1 })
      | .fin true m e => if magGt m e top 0 then (top, { sat := 1 }) else ((2 ^ w - roundTo m e 0) % 2 ^ w, {})
      | .fin false m e => if magGt m e (top - 1) 0 then (top - 1, { sat := 1 }) else (roundTo m e 0, {})

/-- The value of element bits of a format; an unscaled integer is read as it stands. -/
def decodeE (code v : Nat) : FVal :=
  match ffmt code with
  | some f => f.decode v
  | none => match ifmt code with
    | none => if v % 256 = 255 then .nan else .fin false 1 ((v % 256 : Nat) - 127)
    | some w => let n := signed w v; .fin (n < 0) n.natAbs 0

/-- An element of a scaled block: INT8 with 6 and INT4 with 2 fraction bits, times 2^(E − 127); a scale
of 0xFF makes it NaN (R221 to R223). -/
def decodeScaled (code v scale : Nat) : FVal :=
  if scale % 256 = 255 then .nan
  else
    let s : Int := (scale % 256 : Nat) - 127
    let frac : Int := if code = 0x9 then 6 else if code = 0xA then 2 else 0
    match decodeE code v with
    | .fin neg m e => .fin neg m (e - frac + s)
    | x => x

/-! ## Exact arithmetic and one rounding to FP32 -/

/-- A finite value as an integer at exponent `q` (at or below its own). -/
def atExp (neg : Bool) (m : Nat) (e q : Int) : Int :=
  let n : Int := (m * 2 ^ (e - q).toNat : Nat)
  if neg then -n else n

/-- Exact sum; opposite infinities give NaN; a zero sum of unlike signs is +0. PRESUMED, log entry 27. -/
def FVal.add : FVal → FVal → FVal
  | .nan, _ => .nan
  | _, .nan => .nan
  | .inf a, .inf b => if a = b then .inf a else .nan
  | .inf a, _ => .inf a
  | _, .inf b => .inf b
  | .fin a m e, .fin b n f =>
    let q := min e f
    let x := atExp a m e q + atExp b n f q
    if x = 0 then .fin (a && b && (m == 0 && n == 0)) 0 q else .fin (decide (x < 0)) x.natAbs q

/-- Exact product. -/
def FVal.mul : FVal → FVal → FVal
  | .nan, _ => .nan
  | _, .nan => .nan
  | .inf a, .inf b => .inf (a != b)
  | .inf a, .fin b m _ => if m = 0 then .nan else .inf (a != b)
  | .fin a m _, .inf b => if m = 0 then .nan else .inf (a != b)
  | .fin a m e, .fin b n f => .fin (a != b) (m * n) (e + f)

def FVal.neg : FVal → FVal
  | .nan => .nan
  | .inf a => .inf (!a)
  | .fin a m e => .fin (!a) m e

/-- `a ≤ b` for values that are no NaN. -/
def FVal.le : FVal → FVal → Bool
  | .nan, _ => false
  | _, .nan => false
  | .inf a, .inf b => a || !b
  | .inf a, .fin _ _ _ => a
  | .fin _ _ _, .inf b => !b
  | .fin a m e, .fin b n f => let q := min e f; decide (atExp a m e q ≤ atExp b n f q)

abbrev F32 := BitVec 32

def f32Val (x : F32) : FVal := decodeE 0 x.toNat

/-- A value rounded once to FP32; an overflow of arithmetic gives the infinity. PRESUMED, log entry 27. -/
def roundF32 (v : FVal) : F32 :=
  match v with
  | .nan => 0x7FC00000#32
  | .inf neg => if neg then 0xFF800000#32 else 0x7F800000#32
  | .fin neg m e => match (⟨8, 23, 127, true, false⟩ : FFmt).pack m e with
    | some b => BitVec.ofNat 32 ((if neg then 2 ^ 31 else 0) + b)
    | none => if neg then 0xFF800000#32 else 0x7F800000#32

def F32.add (a b : F32) : F32 := roundF32 ((f32Val a).add (f32Val b))
def F32.mul (a b : F32) : F32 := roundF32 ((f32Val a).mul (f32Val b))
def F32.fma (a b c : F32) : F32 := roundF32 (((f32Val a).mul (f32Val b)).add (f32Val c))
def F32.neg (a : F32) : F32 := a ^^^ 0x80000000#32
def F32.sub (a b : F32) : F32 := F32.add a (F32.neg b)
/-- The larger; NaN when either is NaN. PRESUMED, log entry 27. -/
def F32.max (a b : F32) : F32 :=
  match f32Val a, f32Val b with
  | .nan, _ => 0x7FC00000#32
  | _, .nan => 0x7FC00000#32
  | x, y => if x.le y then b else a

/-- Quotient rounded once to FP32: enough quotient bits, then a sticky bit. -/
def F32.div (a b : F32) : F32 :=
  match f32Val a, f32Val b with
  | .nan, _ => 0x7FC00000#32
  | _, .nan => 0x7FC00000#32
  | .inf _, .inf _ => 0x7FC00000#32
  | .inf x, .fin y _ _ => roundF32 (.inf (x != y))
  | .fin x _ _, .inf y => roundF32 (.fin (x != y) 0 0)
  | .fin x m e, .fin y n f =>
    if n = 0 then (if m = 0 then 0x7FC00000#32 else roundF32 (.inf (x != y)))
    else
      let t := m * 2 ^ 64
      let d := t / n
      let sticky := if t % n = 0 then 0 else 1
      roundF32 (.fin (x != y) (2 * d + sticky) (e - f - 65))

/-! ## Blocks (R227 to R230) -/

/-- emax of R227. -/
def blockEmax : Nat → Int
  | 0x3 => 8 | 0x4 => 15 | 0x5 => 4 | 0x6 => 2 | 0x7 => 2 | _ => 0

/-- The largest leading exponent among the finite non-zero elements. -/
def topExp (vs : List FVal) : Option Int :=
  vs.foldl (fun b v => match v with
    | .fin _ m e => if m = 0 then b else
        let x := leadExp m e
        match b with
        | none => some x
        | some y => some (max x y)
    | _ => b) none

/-- The shared exponent X of a block, clamped. -/
def sharedExp (emax : Int) (vs : List FVal) : Int :=
  match topExp vs with
  | none => -127
  | some x => max (-127) (min 127 (x - emax))

/-- Formats that hold no NaN: a NaN in their block sets its scale to 0xFF (R226). -/
def noNan (code : Nat) : Bool := [0x5, 0x6, 0x7, 0x9, 0xA].contains code

/-- FP32 values quantised into one scaled block: scale byte, element bits, counts (R227). -/
def quantBlock (code : Nat) (sat1 : Bool) (xs : List F32) : Nat × List Nat × FCount :=
  let vs := xs.map f32Val
  let nan := noNan code && vs.any (· == .nan)
  let big := vs.any (fun v => match v with | .inf _ => true | _ => false)
  let x := if big then 127 else sharedExp (blockEmax code) vs
  let frac : Int := if code = 0x9 then 6 else if code = 0xA then 2 else 0
  let enc := vs.map (fun v => encodeF code sat1 (match v with
    | .fin n m e => .fin n m (e - x + frac)
    | y => y))
  let c := enc.foldl (fun a p => a.add p.2) {}
  if nan then (255, enc.map (·.1), { c with nan := c.nan + 1 })
  else ((x + 127).toNat, enc.map (·.1), c)

/-- One MMA output element (R228, R229): per block the exact sum of its products, scaled, rounded to FP32,
then added to the accumulator. -/
def mmaFloat (fa fb : Nat) (sa sb : Bool) (acc : F32)
    (blocks : List (List (BitVec 32 × BitVec 32) × Byte × Byte)) : F32 :=
  blocks.foldl (fun acc b =>
    let (pairs, ea, eb) := b
    let sum := (pairs.map (fun p =>
      let x := if sa then decodeScaled fa p.1.toNat ea.toNat else decodeE fa p.1.toNat
      let y := if sb then decodeScaled fb p.2.toNat eb.toNat else decodeE fb p.2.toNat
      x.mul y)).foldl FVal.add (.fin false 0 0)
    F32.add acc (roundF32 sum)) acc

/-- Unscaled integer operands accumulate in INT32, saturating (R228). -/
def mmaInt (fa fb : Nat) (acc : BitVec 32) (blocks : List (List (BitVec 32 × BitVec 32) × Byte × Byte)) :
    BitVec 32 × FCount :=
  let w (f : Nat) : Nat := (ifmt f).getD 8
  blocks.foldl (fun r b =>
    let sum := (b.1.map (fun p => signed (w fa) p.1.toNat * signed (w fb) p.2.toNat)).foldl (· + ·) r.1.toInt
    if (2 : Int) ^ 31 ≤ sum then (0x7FFFFFFF#32, { r.2 with sat := r.2.sat + 1 })
    else if sum < -(2 : Int) ^ 31 then (0x80000000#32, { r.2 with sat := r.2.sat + 1 })
    else (BitVec.ofInt 32 sum, r.2)) (acc, {})

/-- R217, R223: the operand pairs that the array multiplies. -/
def mmaLegal (fa fb : Nat) (sa sb : Bool) : Bool :=
  let arr (f : Nat) : Bool := [0x1, 0x2, 0x3, 0x4, 0x5, 0x6, 0x7, 0x9, 0xA].contains f
  let needs (f : Nat) : Bool := [0x5, 0x6, 0x7, 0xA].contains f
  let flt (f : Nat) : Bool := (ffmt f).isSome
  let scal (f : Nat) : Bool := [0x3, 0x4, 0x5, 0x6, 0x7, 0x9, 0xA].contains f
  arr fa && arr fb && (fa == fb || (flt fa && flt fb)) && (sa || !needs fa) && (sb || !needs fb) &&
    (!sa || scal fa) && (!sb || scal fb)

/-- A left fold of partials in ascending order (R230). -/
def foldF32 : List F32 → F32
  | [] => 0
  | x :: xs => xs.foldl F32.add x

/-! ## The bounded functions (R231) -/

/-- The FP32 magnitude just at or below `m × 2^e`; the next one up is its successor. -/
def truncF32 (m : Nat) (e : Int) : Nat :=
  if m = 0 then 0
  else
    let q := max (leadExp m e) (-126) - 23
    let r := if q ≤ e then m * 2 ^ (e - q).toNat else m / 2 ^ (q - e).toNat
    if r < 2 ^ 23 then r else (q + 150).toNat * 2 ^ 23 + (r - 2 ^ 23)

/-- What a function is known to within one unit of: its sign, a magnitude `m × 2^e` just below it, and whether that is it. -/
structure Near where
  neg : Bool
  m : Nat
  e : Int
  exact : Bool

/-- The value taken is within one unit in the last place of the one that is near. -/
def Near.allows (n : Near) (c : F32) : Bool :=
  let t := truncF32 n.m n.e
  let k := c.toNat % 2 ^ 31
  (c.getLsbD 31 == n.neg || k == 0) && (k == t || k == t + 1 || (n.exact && k + 1 == t))

/-- A function's result: the value the tile computes, which its bound holds. -/
def Near.hold (n : Near) (c : F32) : F32 :=
  if n.allows c then c else BitVec.ofNat 32 ((if n.neg then 2 ^ 31 else 0) + truncF32 n.m n.e)

/-- The largest finite magnitude has not been passed. -/
def Near.fits (n : Near) : Bool := decide (truncF32 n.m n.e < 0x7F800000)

/-- 1 / (m × 2^e). -/
def nearRecip (neg : Bool) (m : Nat) (e : Int) : Near :=
  let k := Nat.log2 m + 64
  { neg := neg, m := 2 ^ k / m, e := -e - k, exact := decide (2 ^ k % m = 0) }

/-- 1 / √(m × 2^e). -/
def nearRsqrt (m : Nat) (e : Int) : Near :=
  let (m, e) := if e % 2 = 0 then (m, e) else (2 * m, e - 1)
  let k := Nat.log2 m + 64
  let r := Nat.sqrt (2 ^ (2 * k) / m)
  { neg := false, m := r, e := -(e / 2) - k, exact := decide (r * r * m = 2 ^ (2 * k)) }

/-- 2^(i / 2^n) in units of 2^-128, bit by bit of `i` from the highest; `c` is 2^(2^-j) for the bit at hand. -/
def powFrac (i : Nat) : Nat → Nat → Nat → Nat
  | 0, _, p => p
  | n + 1, c, p =>
    let c := Nat.sqrt (c * 2 ^ 128)
    powFrac i n c (if bit i n then p * c / 2 ^ 128 else p)

/-- 2^(± m × 2^e), for arguments that leave the result in range. -/
def nearExp2 (neg : Bool) (m : Nat) (e : Int) : Near :=
  let whole := if 0 ≤ e then m * 2 ^ e.toNat else m / 2 ^ (-e).toNat
  let frac := if 0 ≤ e then 0 else m % 2 ^ (-e).toNat
  let w := (-e).toNat
  let (n, f) : Int × Nat := if !neg then (whole, frac) else if frac = 0 then (-(whole : Int), 0) else (-(whole : Int) - 1, 2 ^ w - frac)
  let f80 := if 80 ≤ w then f / 2 ^ (w - 80) else f * 2 ^ (80 - w)
  { neg := false, m := powFrac f80 80 (2 * 2 ^ 128) (2 ^ 128), e := n - 128, exact := decide (frac = 0) }

/-- The first `n` fraction bits of log₂ of `y` in units of 2^-256, 1 ≤ y < 2. -/
def logBits : Nat → Nat → Nat → Nat
  | 0, _, a => a
  | n + 1, y, a =>
    let y := y * y / 2 ^ 256
    if 2 ^ 257 ≤ y then logBits n (y / 2) (2 * a + 1) else logBits n y (2 * a)

/-- log₂ (m × 2^e). -/
def nearLog2 (m : Nat) (e : Int) : Near :=
  let k := Nat.log2 m
  let f := logBits 96 (m * 2 ^ 256 / 2 ^ k) 0
  let v : Int := ((k : Int) + e) * 2 ^ 96 + f
  { neg := decide (v < 0), m := v.natAbs, e := -96, exact := decide (m = 2 ^ k) }

/-- π in units of 2^-160. -/
def piFix : Int := 0x3243F6A8885A308D313198A2E03707344A4093822

/-- The terms of the sine or cosine series from `t` on, in units of 2^-160; `j` counts down and `i` is the term's power. -/
def trigTerms (x2 : Int) : Nat → Nat → Int → Int
  | 0, _, t => t
  | j + 1, i, t => t - trigTerms x2 j (i + 2) (t * x2 / 2 ^ 160 / ((i + 1) * (i + 2)))

/-- sin (or cos) of m × 2^e, in units of 2^-160. -/
def trigFix (cosine neg : Bool) (m : Nat) (e : Int) : Int :=
  let a : Int := if 0 ≤ e + 160 then m * 2 ^ (e + 160).toNat else m / 2 ^ (-(e + 160)).toNat
  let x := (if neg then -a else a) % (2 * piFix)
  let x := if piFix < x then x - 2 * piFix else x
  let x2 := x * x / 2 ^ 160
  if cosine then trigTerms x2 30 0 (2 ^ 160) else trigTerms x2 30 1 x

/-- A sine or cosine: the value the tile computes, held to 2^-22. -/
def holdTrig (v : Int) (c : F32) : F32 :=
  let near := match f32Val c with
    | .fin n m e => decide (e ≤ 160 ∧ (atExp n m (e + 160) 0 - v).natAbs ≤ 2 ^ 138)
    | _ => false
  if near then c else roundF32 (.fin (decide (v < 0)) v.natAbs (-160))

/-- A function of one operand, the value it computes held to R231 where the rule bounds it: for a finite argument of its
domain whose result is in range. DESIGN CHOICE, log entry 22. -/
def unaryF32 (fn : Nat) (a : F32) : F32 :=
  let held (n : Near) (c : F32) : F32 := if n.fits then n.hold c else c
  match fn, f32Val a with
  | 0x10, .fin neg m e =>
    if leadExp m e < 10 then held (nearExp2 neg m e) (Config.exp2 a)
    else if neg then ({ neg := false, m := 0, e := 0, exact := false } : Near).hold (Config.exp2 a)
    else Config.exp2 a
  | 0x10, _ => Config.exp2 a
  | 0x11, .fin false m e => if m = 0 then Config.log2 a else held (nearLog2 m e) (Config.log2 a)
  | 0x11, _ => Config.log2 a
  | 0x12, .fin neg m e => if m = 0 then Config.recip a else held (nearRecip neg m e) (Config.recip a)
  | 0x12, _ => Config.recip a
  | 0x13, .fin false m e => if m = 0 then Config.rsqrt a else held (nearRsqrt m e) (Config.rsqrt a)
  | 0x13, _ => Config.rsqrt a
  | 0x14, .fin neg m e => if magGt m e 1 20 then Config.sin a else holdTrig (trigFix false neg m e) (Config.sin a)
  | 0x14, _ => Config.sin a
  | _, .fin neg m e => if magGt m e 1 20 then Config.cos a else holdTrig (trigFix true neg m e) (Config.cos a)
  | _, _ => Config.cos a

/-- An elementwise function of Table 8.9 in FP32. -/
def vopF32 (fn : Nat) (a b c : F32) : Option F32 :=
  match fn with
  | 0x01 => some (F32.add a b)
  | 0x02 => some (F32.mul a b)
  | 0x03 => some (F32.fma a b c)
  | 0x04 => some (F32.max a b)
  | 0x10 | 0x11 | 0x12 | 0x13 | 0x14 | 0x15 => some (unaryF32 fn a)
  | _ => none

end Sys2Proof.Machine
end

