-- ==== Sys2Proof/Machine/Codec.lean ====
section
/-! DEFINITION. Check sums, the fixed-rate and the exact codec (R284 to R302, R306, R307), objects in
the HDM range (R309 to R312), and `PACK` and `UNPACK` (R149, R294, R295). -/

namespace Sys2Proof.Machine

/-! ## Cyclic checks -/

/-- `n` steps of a reflected CRC register. -/
def crcSteps (poly : Nat) : Nat → Nat → Nat
  | 0, r => r
  | n + 1, r => crcSteps poly n (if r % 2 = 1 then (r / 2) ^^^ poly else r / 2)
def crcBytes (poly : Nat) (b : Bytes) (r : Nat) : Nat := b.foldl (fun r x => crcSteps poly 8 (r ^^^ x.toNat)) r
/-- CRC-32C (Castagnoli), reflected, initial and final value all ones. PRESUMED, log entry 26. -/
def crc32c (b : Bytes) : Nat := (crcBytes 0x82F63B78 b 0xFFFFFFFF) ^^^ 0xFFFFFFFF

/-! ## The fixed-rate codec -/

/-- Element width of a kv_fmt (R252). -/
def kvWidth (fmt : Nat) : Nat := if fmt = 0x1 then 2 else 1
/-- Table 10.2: qmax, emax_q, quad width. -/
def quantiser (fmt ratio : Nat) : Nat × Int × Nat :=
  if fmt = 0x1 then (match ratio with | 1 => (107, 6, 31) | 2 => (26, 4, 23) | _ => (6, 2, 15))
  else (match ratio with | 1 => (6, 2, 15) | 2 => (2, 1, 11) | _ => (1, 0, 7))
/-- Stored bytes of a group (Table 10.1); ratio 0 is uncompressed. -/
def groupBytes (fmt ratio : Nat) : Nat :=
  match ratio with | 0 => 32 * kvWidth fmt | r => 1 + (quantiser fmt r).2.2

/-- What encodes and decodes count. -/
structure FrCount where
  sat : Nat := 0
  nan : Nat := 0
  bad : Nat := 0
deriving DecidableEq, Repr
def FrCount.add (a b : FrCount) : FrCount := { sat := a.sat + b.sat, nan := a.nan + b.nan, bad := a.bad + b.bad }

/-- The elements of a group's logical bytes. -/
def elements (w : Nat) (b : Bytes) : List Nat := (List.range (b.length / w)).map (fun i => le b (w * i) w)

/-- Quads of a list. -/
def quadCode (l qmax : Int) (qs : List Int) : Nat :=
  (qs.foldr (fun q acc => (q + qmax) + l * acc) 0).toNat

/-- R286, R287: one group encoded. -/
def encodeGroup (fmt ratio : Nat) (b : Bytes) : Bytes × FrCount :=
  let (qmax, emaxq, bw) := quantiser fmt ratio
  let vs := (elements (kvWidth fmt) b).map (decodeE fmt)
  let n := groupBytes fmt ratio
  if vs.any (fun v => match v with | .nan => true | .inf _ => true | _ => false) then
    (leBytes n 255, { nan := 1 })
  else
    let x := sharedExp emaxq vs
    let qs := vs.map (fun v => match v with
      | .fin neg m e =>
        let r := roundTo m (e - x) 0
        let q := min r qmax
        ((if neg then -(q : Int) else (q : Int)), if qmax < r then 1 else 0)
      | _ => ((0 : Int), 0))
    let l : Int := 2 * qmax + 1
    let digits := qs.map (·.1)
    let code := (List.range 8).foldl (fun acc j =>
      acc + quadCode l qmax ((digits.drop (4 * j)).take 4) * 2 ^ (8 + j * bw)) (x + 127).toNat
    (leBytes n code, { sat := (qs.map (·.2)).sum })

/-- R288: one group decoded. -/
def decodeGroup (fmt ratio : Nat) (b : Bytes) : Bytes × FrCount :=
  let (qmax, _, bw) := quantiser fmt ratio
  let w := kvWidth fmt
  let v := leVal b
  let scale := v % 256
  if scale = 255 then ((List.range 32).flatMap (fun _ => leBytes w (canonNan fmt)), {})
  else
    let x : Int := (scale : Int) - 127
    let l := 2 * qmax + 1
    let quads := (List.range 8).map (fun j => (v / 2 ^ (8 + j * bw)) % 2 ^ bw)
    let bad := (quads.filter (fun c => decide (l ^ 4 ≤ c))).length
    let bytes := quads.flatMap (fun c =>
      (List.range 4).flatMap (fun i =>
        if l ^ 4 ≤ c then leBytes w 0 else
        let q : Int := ((c / l ^ i) % l : Nat) - (qmax : Int)
        leBytes w (encodeF fmt false (.fin (decide (q < 0)) q.natAbs x)).1))
    (bytes, { bad := bad })

/-- Groups of `n` bytes. -/
def chunksOf (n : Nat) : Nat → Bytes → List Bytes
  | 0, _ => []
  | k + 1, b => if b.isEmpty then [] else b.take n :: chunksOf n k (b.drop n)

/-- A stored page decoded to its 65,536 logical bytes. -/
def unpackPage (fmt ratio : Nat) (b : Bytes) : Bytes × FrCount :=
  if ratio = 0 then (b, {}) else
    (chunksOf (groupBytes fmt ratio) 2048 b).foldl (fun (a : Bytes × FrCount) g =>
      let r := decodeGroup fmt ratio g
      (a.1 ++ r.1, a.2.add r.2)) ([], {})
/-- Logical bytes encoded at a ratio. -/
def packPage (fmt ratio : Nat) (b : Bytes) : Bytes × FrCount :=
  if ratio = 0 then (b, {}) else
    (chunksOf (32 * kvWidth fmt) 2048 b).foldl (fun (a : Bytes × FrCount) g =>
      let r := encodeGroup fmt ratio g
      (a.1 ++ r.1, a.2.add r.2)) ([], {})

def State.countFr (s : State) (c : FrCount) : State :=
  ((s.bump Reg.FR_SAT c.sat).bump Reg.FR_NAN_GROUPS c.nan).bump Reg.FR_BADQUAD c.bad

/-- The element format of a model's pages. -/
def State.kvFmt (s : State) (id : Nat) : Nat := ((s.modelOf id).map (·.kvFmt)).getD 0x3

/-- A GDDR7 page re-encoded at a ratio into fresh units: the new page, the old one still held. -/
def State.recode (s : State) (fmt ratio : Nat) (p : Page) : Option (Page × State) :=
  match s.takeUnits 0 (pageUnits ratio) with
  | none => none
  | some (a, s1) =>
    let (plain, c1) := unpackPage fmt p.ratio (Tbl.readBytes (s.bytesOf p.tier) (4096 * p.loc) p.bytes)
    let (stored, c2) := packPage fmt ratio plain
    let s2 := s1.setBytes 0 (Tbl.writeBytes s1.mem.gddr (4096 * a) stored)
    some ({ tier := 0, shared := false, ratio := ratio, loc := a }, s2.countFr (c1.add c2))

/-- R295 on the pages of one list: owned pages of another ratio are re-encoded, the rest left; the space
for all is taken before any old space is freed. -/
def State.recodeList (s : State) (fmt ratio : Nat) : List Page → Option (List Page × State)
  | [] => some ([], s)
  | p :: t =>
    if p.shared ∨ p.ratio = ratio then (State.recodeList s fmt ratio t).map (fun r => (p :: r.1, r.2))
    else match s.recode fmt ratio p with
      | none => none
      | some (q, s1) => (State.recodeList s1 fmt ratio t).map (fun r => (q :: r.1, r.2))

/-- The old pages that a re-encoding replaced are freed. -/
def State.freeOld (s : State) (old new : List Page) : State :=
  (old.zip new).foldl (fun s e => if e.1 = e.2 then s else s.dropPage e.1) s

/-! ## The exact codec -/

/-- Element width of a format (R296). -/
def exactWidth (fmt : Nat) : Nat :=
  if fmt = 0x0 then 4 else if fmt = 0x1 ∨ fmt = 0x2 ∨ fmt = 0x8 then 2 else 1
/-- Plane 0 of these formats is rotated left by one (R298). -/
def rotated (fmt : Nat) : Bool := [0x0, 0x1, 0x2, 0x3, 0x4].contains fmt
def rotl8 (b : Nat) : Nat := (2 * b) % 256 + b / 128
def rotr8 (b : Nat) : Nat := b / 2 + (b % 2) * 128

/-- Byte plane `p` of `n` elements, plane 0 the most significant. -/
def plane (fmt : Nat) (b : Bytes) (p n : Nat) : List Nat :=
  let w := exactWidth fmt
  (List.range n).map (fun i =>
    let v := ((b[w * i + (w - 1 - p)]?).getD 0).toNat
    if p = 0 ∧ rotated fmt then rotl8 v else v)

/-- Bit length. -/
def bitLen (n : Nat) : Nat := if n = 0 then 0 else Nat.log2 n + 1

/-- One run of 128 slots (R297, R299). -/
def codeRun (vs : List Nat) : Bytes :=
  let base := vs.foldl min 255
  let w := bitLen ((vs.map (· - base)).foldl max 0)
  let packed := (vs.map (· - base)).foldr (fun v acc => v + 2 ^ w * acc) 0
  leBytes 1 base ++ leBytes 1 w ++ leBytes (16 * w) packed

def runsOf : Nat → List Nat → List (List Nat)
  | 0, _ => []
  | k + 1, vs => if vs.isEmpty then [] else vs.take 128 :: runsOf k (vs.drop 128)

/-- A coded payload, unpadded. -/
def codePayload (fmt : Nat) (b : Bytes) : Bytes :=
  let n := b.length / exactWidth fmt
  (List.range (exactWidth fmt)).flatMap (fun p => (runsOf 512 (plane fmt b p n)).flatMap codeRun)

def padTo (n : Nat) (b : Bytes) : Bytes := b ++ List.replicate (n - b.length) 0

/-- One block of the exact compressor (R296 to R299). -/
def exactBlock (fmt index : Nat) (last padded : Bool) (b : Bytes) : Bytes × Bool :=
  let coded := codePayload fmt b
  let raw := decide (7 * b.length / 8 < coded.length)
  let size := if raw then 32 * ceilDiv b.length 32
    else max (32 * ceilDiv coded.length 32) (32 * ceilDiv b.length 64)
  let payload := padTo size (if raw then b else coded)
  let hdr := packLE [(4, 0x58434B42), (1, if raw then 0 else 1), (1, fmt), (1, b2n last + 2 * b2n padded), (1, 0),
    (4, b.length), (4, size), (4, if raw then 0 else b.length / exactWidth fmt), (4, crc32c b), (4, index)]
  (hdr ++ leBytes 4 (crc32c hdr) ++ payload, raw)

/-- Logical data compressed into blocks; answers the bytes and how many blocks are raw. -/
def exactPack (fmt : Nat) (padded : Bool) (b : Bytes) : Bytes × Nat :=
  let parts := chunksOf 65536 (b.length / 65536 + 1) b
  ((List.range parts.length).zip parts).foldl (fun (a : Bytes × Nat) e =>
    let last := decide (e.1 + 1 = parts.length)
    let r := exactBlock fmt e.1 last (last && padded) e.2
    (a.1 ++ r.1, a.2 + b2n r.2)) ([], 0)

/-- `n` slots of a run of `w` bits. -/
def runSlots (base w n : Nat) (b : Bytes) : List Nat :=
  let v := leVal b
  (List.range n).map (fun i => (base + (v / 2 ^ (w * i)) % 2 ^ w) % 256)

/-- The runs of one plane from the head of a payload; `none` when it is cut short or a width is reserved. -/
def decodePlane : Nat → Nat → Bytes → Option (List Nat × Bytes)
  | 0, _, b => some ([], b)
  | k + 1, n, b =>
    if n = 0 then some ([], b) else
    let base := le b 0 1
    let w := le b 1 1
    if b.length < 2 ∨ 8 < w ∨ b.length < 2 + 16 * w then none
    else
      let m := min n 128
      (decodePlane k (n - m) (b.drop (2 + 16 * w))).map (fun r => (runSlots base w m ((b.drop 2).take (16 * w)) ++ r.1, r.2))

def decodePlanes (n : Nat) : Nat → Bytes → Option (List (List Nat) × Bytes)
  | 0, b => some ([], b)
  | k + 1, b => match decodePlane 513 n b with
    | none => none
    | some (p, rest) => (decodePlanes n k rest).map (fun r => (p :: r.1, r.2))

/-- The element bytes of decoded planes. -/
def joinPlanes (fmt n : Nat) (ps : List (List Nat)) : Bytes :=
  let w := exactWidth fmt
  (List.range n).flatMap (fun i => (List.range w).map (fun j =>
    let p := w - 1 - j
    let v := ((ps[p]?.getD [])[i]?).getD 0
    BitVec.ofNat 8 (if p = 0 ∧ rotated fmt then rotr8 v else v)))

/-- A block header without a reserved value (Table 10.4). -/
def blockShape (hdr : Bytes) : Bool :=
  let fmt := le hdr 5 1
  let logical := le hdr 8 4
  decide (le hdr 0 4 = 0x58434B42 ∧ le hdr 4 1 ≤ 1 ∧ fmt ≤ 0xB ∧ le hdr 6 1 ≤ 3 ∧ le hdr 7 1 = 0 ∧ 1 ≤ logical ∧ logical ≤ 65536 ∧
    logical % exactWidth fmt = 0 ∧ le hdr 12 4 % 32 = 0 ∧ (le hdr 4 1 = 0 → le hdr 16 4 = 0))

/-- An expander's result for the block at the head of `b` (R300): its logical bytes, whether it is the last, and
the rest. DESIGN CHOICE, log entry 169. -/
def expandBlock (b : Bytes) : Except Code (Bytes × Bool × Bytes) :=
  let hdr := b.take 32
  let size := le hdr 12 4
  let logical := le hdr 8 4
  let method := le hdr 4 1
  let fmt := le hdr 5 1
  let flags := le hdr 6 1
  if b.length < 32 ∨ le hdr 28 4 ≠ crc32c (hdr.take 28) ∨ b.length < 32 + size then .error .checkFail
  else if !blockShape hdr then .error .checkFail
  else
    let payload := (b.drop 32).take size
    let rest := b.drop (32 + size)
    let padded := bit flags 1
    let last := bit flags 0
    let judge (out fill : Bytes) : Except Code (Bytes × Bool × Bytes) :=
      if logical < out.length then .error .sizeExceeded
      else if out.length < logical ∧ !padded then .error .sizeShort
      else
        let out := padTo logical out
        if crc32c out ≠ le hdr 20 4 ∨ fill.any (· != 0) then .error .checkFail else .ok (out, last, rest)
    if method = 0 then
      if size < logical ∧ !padded then .error .sizeShort else judge (payload.take logical) (payload.drop logical)
    else
      let n := le hdr 16 4
      match decodePlanes n (exactWidth fmt) payload with
      | none => .error .checkFail
      | some (ps, fill) => judge (joinPlanes fmt n ps) fill

/-- Blocks expanded until the last one or the end of the data (R301); the first failing block decides. -/
def expandAll (cap : Nat) : Nat → Bytes → Bytes → Except Code Bytes
  | 0, _, _ => .error .checkFail
  | k + 1, acc, b =>
    if b.isEmpty then .error .checkFail else
    match expandBlock b with
    | .error e => .error e
    | .ok (out, last, rest) =>
      let acc := acc ++ out
      if cap < acc.length then .error .sizeExceeded
      else if last then .ok acc else expandAll cap k acc rest

/-- Charged size of an exact object (R307). -/
def chargedSize (n : Nat) : Nat := n + 64 * ceilDiv n 65536

/-! ## Objects of the HDM range -/

def State.obj (s : State) (i : Nat) : Obj := Tbl.get (fun _ => {}) s.mem.objs i
def State.setObj (s : State) (i : Nat) (o : Obj) : State :=
  s.mapMem (fun m => { m with objs := Tbl.set (fun _ => {}) m.objs i o })
/-- The object that an instruction names by its hdm_base. -/
def State.objByBase (s : State) (base : Nat) : Option Nat :=
  (s.mem.objs.find? (fun e => e.2.state != 0 && e.2.base == base)).map (·.1)
/-- The object that holds an HDM offset. -/
def State.objAt (s : State) (off : Nat) : Option Nat :=
  (s.mem.objs.find? (fun e => e.2.state != 0 && decide (e.2.base ≤ off ∧ off < e.2.base + e.2.size))).map (·.1)

/-- The address lies in the range of the committed decoder. -/
def State.inHdm (s : State) (addr : Nat) : Bool :=
  match s.cxl.decoder with
  | none => false
  | some (base, size) => decide (base ≤ addr ∧ addr < base + size)

/-- Logical data presented as the object's own bytes: uncompressed, or exact blocks in stored form (R311). -/
def Obj.plain (o : Obj) : Bool := decide (o.ratio = 0) || o.exact

/-- The groups of a fixed-rate object that hold a range of it, decoded (R288, R289). -/
def readGroups (o : Obj) (stored : Nat → Nat → Bytes) (rel n : Nat) : List (Bytes × FrCount) :=
  if o.plain then [] else
    let e := 32 * kvWidth o.fmt
    let gb := groupBytes o.fmt o.ratio
    (List.range ((rel + n - 1) / e + 1 - rel / e)).map (fun i => decodeGroup o.fmt o.ratio (stored ((rel / e + i) * gb) gb))

/-- Bytes presented at an offset of an object whose stored form is given (R288, R289, R311). -/
def objRead (o : Obj) (stored : Nat → Nat → Bytes) (rel n : Nat) : Bytes :=
  if o.plain then stored rel n
  else (((readGroups o stored rel n).flatMap (·.1)).drop (rel % (32 * kvWidth o.fmt))).take n

/-- A write that covers part of a group (R291). -/
def Obj.splits (o : Obj) (rel n : Nat) : Bool :=
  !o.plain && (decide (rel % (32 * kvWidth o.fmt) ≠ 0) || decide (n % (32 * kvWidth o.fmt) ≠ 0))

/-- Bytes written into an object homed in GDDR7, whole groups of them encoded (R289, R290). -/
def State.objPut (s : State) (o : Obj) (rel : Nat) (data : Bytes) : State :=
  if o.plain then s.setBytes 0 (Tbl.writeBytes s.mem.gddr (4096 * o.loc + rel) data)
  else
    let e := 32 * kvWidth o.fmt
    let gb := groupBytes o.fmt o.ratio
    (List.range (data.length / e)).foldl (fun (s : State) i =>
      let r := encodeGroup o.fmt o.ratio ((data.drop (i * e)).take e)
      (s.setBytes 0 (Tbl.writeBytes s.mem.gddr (4096 * o.loc + (rel / e + i) * gb) r.1)).countFr r.2) s

/-- The object of GDDR7 that an address lies in, and the offset in it. -/
def State.gddrObj (s : State) (addr : Nat) : Option (Obj × Nat) :=
  match s.cxl.decoder with
  | none => none
  | some (base, size) =>
    if base ≤ addr ∧ addr < base + size then
      ((s.objAt (addr - base)).map s.obj).bind (fun o => if o.home = 0 then some (o, addr - base - o.base) else none)
    else none

/-! ### Lines that the host holds (R439, R440) -/

def State.mapCxl (s : State) (f : Cxl → Cxl) : State := { s with cxl := f s.cxl }

def lineOf (off : Nat) : Nat := off - off % 64

/-- A snoop goes to the host for a tracked line. -/
def State.snoop (s : State) (line : Nat) (inv : Bool := true) : State :=
  if s.cxl.lines.contains line ∧ !s.cxl.snoops.contains line then
    (s.mapCxl (fun c => { c with snoops := c.snoops ++ [line] })).emit (.snoop line inv)
  else s

/-- A range of HDM offsets (first, length) holds part of a line. -/
def spanHas (r : Nat × Nat) (line : Nat) : Bool := decide (r.1 < line + 64 ∧ line < r.1 + r.2)

/-- The tracked lines in ranges. -/
def State.tracked (s : State) (rs : List (Nat × Nat)) : List Nat := s.cxl.lines.filter (fun l => rs.any (spanHas · l))

/-- The HDM offsets of bytes at a host address. -/
def State.hdmSpan (s : State) (addr n : Nat) : List (Nat × Nat) :=
  match s.cxl.decoder with
  | none => []
  | some (base, size) => if base ≤ addr ∧ addr < base + size then [(addr - base, n)] else []

/-- The HDM offsets of bytes at a GDDR7 address: in an object as it is stored; of a fixed-rate object all of it. -/
def State.gddrSpan (s : State) (addr n : Nat) : List (Nat × Nat) :=
  s.mem.objs.filterMap (fun e =>
    let o := e.2
    let lo := 4096 * o.loc
    if o.state = 0 ∨ o.home ≠ 0 ∨ addr + n ≤ lo ∨ lo + o.stored ≤ addr then none
    else if o.plain then some (o.base + (max addr lo - lo), min (addr + n) (lo + o.stored) - max addr lo)
    else some (o.base, o.size))

/-- What the Cucia is about to read and to write is called back from the host: BISnpData, and BISnpInv (R440). -/
def State.callBack (s : State) (reads writes : List (Nat × Nat)) : State :=
  (s.tracked reads).foldl (fun s l => s.snoop l false) ((s.tracked writes).foldl (fun s l => s.snoop l) s)

/-- Context `c` runs and stands at this very word, which passes R124's tests. -/
def State.turnOf (s : State) (c op : Nat) (w : IWord) : Bool :=
  match s.ctx c with
  | none => false
  | some x => decide (x.phase = .running ∧ x.wait = .none ∧ x.entry.prog[x.pc]? = some (w.encode op) ∧ !s.sys.paused ∧ !s.opHeld op ∧
      shapeOk op w ∧ !(w.posted && !mayPost op) ∧ !(x.entry.meadow == 0xFF && actsOnMeadow op))

/-- An instruction that reads and writes lines in host caches calls them back as its turn comes, and starts once the host has
answered (R440, R441). -/
def State.coherent (s : State) (c op : Nat) (w : IWord) (ok : Bool) (reads writes : List (Nat × Nat)) (go : State → State) : State :=
  if s.turnOf c op w ∧ ok ∧ s.tracked (reads ++ writes) ≠ [] then
    (s.callBack reads writes).mapCxl (fun x => { x with snoopFor := (x.snoopFor ++ (s.tracked (reads ++ writes)).map (·, c)).eraseDups })
  else go s

/-- Where in GDDR7 an address lies: through the decoder, in an object homed there as it is stored, and for a store writable. -/
def State.gddrPlace (s : State) (store : Bool) (addr : Nat) : Option Nat :=
  (s.gddrObj addr).bind (fun e => if e.1.ratio = 0 ∧ !(store && e.1.readOnly) then some (4096 * e.1.loc + e.2) else none)

/-- Where a store goes. -/
def State.storePlace (s : State) (addr : Nat) : Option Nat := s.gddrPlace true addr

/-! ### The commons (R452, R454, R455) -/

def State.commonsWord (s : State) (k : Nat) : Word := Tbl.get (fun _ => 0) s.sys.commons k
/-- A word written is stored with fresh check bits. -/
def State.setCommons (s : State) (k : Nat) (v : Word) : State :=
  { s with sys := { s.sys with commons := Tbl.set (fun _ => 0) s.sys.commons k v, upsets := Tbl.drop s.sys.upsets k } }

/-- A commons word as its consumer reads it (R453): with one bit in error it is corrected, written back and counted, with two
it is counted and gives nothing. The bits in error stand for the check bits. DESIGN CHOICE, log entry 158. -/
def State.readWord (s : State) (k : Nat) : Option Word × State :=
  match Tbl.find s.sys.upsets k with
  | none => (some (s.commonsWord k), s)
  | some 1 => (some (s.commonsWord k), (s.setCommons k (s.commonsWord k)).bump Reg.SRAM_CE)
  | some _ => (none, s.bump Reg.SRAM_UE)

/-- Words read one after the other; nothing when one of them is uncorrectable. -/
def State.readWords (s : State) : List Nat → Option (List Word) × State
  | [] => (some [], s)
  | k :: ks =>
    let a := s.readWord k
    let b := State.readWords a.2 ks
    (a.1.bind (fun v => b.1.map (fun vs => v :: vs)), b.2)

/-- `n` bytes of the commons from an offset on. -/
def State.readCommons (s : State) (off n : Nat) : Option Bytes × State :=
  let r := s.readWords ((List.range ((off % 8 + n + 7) / 8)).map (· + off / 8))
  (r.1.map (fun ws => ((ws.flatMap (fun w => leBytes 8 w.toNat)).drop (off % 8)).take n), r.2)

/-- First byte offset of the host region. -/
def State.hostRegion (s : State) : Nat := (64 - bits (s.regN Reg.COMMONS_HOST) 3 0) * 2 ^ 20

/-- The commons offset of a host-region address: a service program names it as the host does, through the plain view of BAR2.
DESIGN CHOICE, log entry 151. -/
def State.commonsAt (s : State) (addr : Nat) : Option Nat :=
  match s.cxl.bar2 with
  | none => none
  | some base => if base + s.hostRegion ≤ addr ∧ addr < base + 2 ^ 26 then some (addr - base) else none

def State.commonsByte (s : State) (off : Nat) : Byte := BitVec.ofNat 8 ((s.commonsWord (off / 8)).toNat / 2 ^ (8 * (off % 8)))
/-- Bytes written to the commons from an offset on, up to its end. -/
def State.putCommons (s : State) (off : Nat) : Bytes → State
  | [] => s
  | b :: t =>
    let k := 8 * (off % 8)
    let s := if off < 2 ^ 26 then s.setCommons (off / 8) (BitVec.ofNat 64 (setBits (s.commonsWord (off / 8)).toNat (k + 7) k b.toNat)) else s
    State.putCommons s (off + 1) t

/-- Data written to an address: to GDDR7, to the host region of the commons, or to host memory outside the decoder's range.
DESIGN CHOICE, log entry 94. -/
def State.writeAt (s : State) (addr : Nat) (b : Bytes) : State :=
  match s.storePlace addr, s.commonsAt addr with
  | some a, _ => s.setBytes 0 (Tbl.writeBytes s.mem.gddr a b)
  | none, some off => s.putCommons off b
  | none, none => match s.gddrObj addr with
    | some (o, rel) => if o.readOnly ∨ o.splits rel b.length then s else s.objPut o rel b
    | none => if s.inHdm addr then s else s.emit (.hostWrite addr b)

/-- The data would cover part of a group of a packed object (R291). -/
def State.splitsAt (s : State) (addr n : Nat) : Bool :=
  match s.gddrObj addr with
  | some (o, rel) => !o.readOnly && o.splits rel n
  | none => false

/-- An instruction's output, and what follows it. -/
def State.writeOut (s : State) (addr : Nat) (b : Bytes) (k : State → State) : IRes :=
  if s.splitsAt addr b.length then .failAs s .badOperand 0 else .ok (k (s.writeAt addr b))

/-- The source of a codec is read in an object of GDDR7 or in the host region of the commons; any other is the operand. -/
def State.sourceAt (s : State) (addr len : Nat) (given : Bytes) : Option Bytes × State :=
  match s.gddrObj addr, s.commonsAt addr with
  | some (o, rel), _ => (some (objRead o (fun a k => Tbl.readBytes s.mem.gddr (4096 * o.loc + a) k) rel len), s)
  | none, some off => s.readCommons off len
  | none, none => (some given, s)

/-! ## `PACK` and `UNPACK` -/

/-- The codec descriptor (Table 10.3) with the fields its mode uses. -/
def codecShape (exact pack : Bool) (d : Bytes) : Bool :=
  let src := le d 0 8
  let dst := le d 8 8
  let len := le d 16 8
  let cap := le d 24 8
  if exact then
    zeroAt d 34 30 && decide (1 ≤ len) && decide (src + len ≤ dst ∨ dst + cap ≤ src) &&
      (if pack then decide (le d 32 1 ≤ 0xB ∧ le d 33 1 ≤ 1 ∧ len % exactWidth (le d 32 1) = 0) else zeroAt d 32 2)
  else zeroAt d 8 56

/-- A list that an uncommitted step, move, partial or tier move reads (R295). -/
def State.listRead (s : State) (x : ListAt) : Bool :=
  s.listBusy x || (match x with
    | .lantern l => (s.deedsOf l).any (fun e => e.2.partials != 0 || e.2.state == .lent)
    | .region w => (s.deed (.region w)).state == .lent || s.fab.copiesIn.any (·.window == w)
    | .user _ | .held _ => false)

/-- New pages of a list put in place of the old ones. -/
def State.replaceList (s : State) (x : ListAt) (new : List Page) : State :=
  match x with
  | .user r => s.setPlist r { s.plist r with pages := new }
  | .region w => s.setDeed (.region w) { s.deed (.region w) with pages := new, npages := new.length }
  | .lantern l =>
    ((s.deedsOf l).filter (fun e => e.2.state == .home)).foldl (fun (a : State × List Page) (e : DRef × Deed) =>
      let n := e.2.pages.length
      (a.1.setDeed e.1 { e.2 with pages := a.2.take n, ratio := ((a.2.head?).map (·.ratio)).getD e.2.ratio }, a.2.drop n)) (s, new) |>.1
  | .held _ => s

/-- A list re-encoded at a ratio, in one step. -/
def State.recodeAt (s : State) (x : ListAt) (model ratio : Nat) : Option State :=
  let old := s.pagesAt x
  (s.recodeList (s.kvFmt model) ratio old).map (fun r => (r.2.freeOld old r.1).replaceList x r.1)

def State.modelOfList (s : State) (x : ListAt) : Nat :=
  match x with | .user r => (s.plist r).model | .lantern l => (s.lan l).model | .region w => (s.plist (s.window w).root).model | .held _ => 0

/-- The fixed-rate mode's preconditions (R294, R295). -/
def State.preFixed (s : State) (d : Bytes) : Pre :=
  let x := s.listAt (le d 0 8)
  if !codecShape false true d then badOp
  else if s.listRead x then illegal 3 2 else none

/-- The ratio that the flags of a fixed-rate instruction name, 0 a reserved value (R149). -/
def fixedRatio (w : IWord) : Nat := b2n (w.flag 9) + 2 * b2n (w.flag 10)

/-- What a codec instruction is checked for at its start (R128, R149, R294, R295). -/
def State.preCodec (s : State) (pack : Bool) (w : IWord) (d : Bytes) : Pre :=
  if !w.flag 8 then (if fixedRatio w = 0 then badOp else s.preFixed d)
  else if w.flag 9 ∨ w.flag 10 ∨ !codecShape true pack d then badOp
  else if pack ∧ le d 24 8 < chargedSize (le d 16 8) then some (.noSpace, 0) else none

/-- A failure on the way that only the run can show (Table 5.15): an uncorrectable read, or a lost commons write, which is
counted (R150, R458). Any other code is none that the instruction can end with. -/
def codecFault (fail : Option Code) : Option Code :=
  onlyCodes [.checkFail, .writeCollided] fail
def State.codecFails (s : State) (code : Code) : IRes :=
  .failAs (if code = .writeCollided then s.bump Reg.COMMONS_COLLISIONS else s) code 0

/-- The fixed-rate mode of both instructions. -/
def State.fixedBody (s : State) (d : Bytes) (ratio : Nat) (fail : Option Code) : IRes :=
  match codecFault fail with
  | some code => s.codecFails code
  | none => let x := s.listAt (le d 0 8)
    match s.recodeAt x (s.modelOfList x) ratio with
    | none => .fail .noSpace 0
    | some s' => .ok s'

def State.packBody (s : State) (c pc : Nat) (w : IWord) (d src : Bytes) (fail : Option Code) : IRes :=
  afterPre (s.preCodec true w d) (
    if !w.flag 8 then s.fixedBody d (fixedRatio w) fail
    else match codecFault fail with
      | some code => s.codecFails code
      | none => match s.sourceAt (le d 0 8) (le d 16 8) src with
      | (none, s) => .failAs s .checkFail 0
      | (some src, s) =>
        let (out, raw) := exactPack (le d 32 1) (bit (le d 33 1) 0) src
        s.writeOut (le d 8 8) out (fun s => (s.bump Reg.EXACT_RAW_BLOCKS raw).setOut (w.owner c pc) (fun x => { x with outLen := out.length })))

/-- The expander of a meadow's streams and of `UNPACK`; expander 0 for meadow 0xFF (R304). DESIGN CHOICE, log entry 169. -/
def State.expanderOf (s : State) (meadow : Nat) : Option Nat :=
  if meadow = 0xFF then some 0
  else (List.range 8).find? (fun i => bits (s.regN Reg.EXP_ASSIGN) (4 * i + 3) (4 * i) == meadow)

def State.countExpand (s : State) (i input output : Nat) (r : Option Code) : State :=
  let s := s.setRegN (Reg.EXP_IN_BYTES i) ((s.regN (Reg.EXP_IN_BYTES i) + input) % 2 ^ 64)
  let s := s.setRegN (Reg.EXP_OUT_BYTES i) ((s.regN (Reg.EXP_OUT_BYTES i) + output) % 2 ^ 64)
  match r with
  | some .sizeExceeded => s.bump Reg.EXACT_SIZE_ERRORS
  | some .sizeShort => s.bump Reg.EXACT_SIZE_ERRORS
  | some .checkFail => s.bump Reg.EXACT_CRC_ERRORS
  | _ => s

def State.unpackBody (s : State) (c pc meadow : Nat) (w : IWord) (d src : Bytes) (fail : Option Code) : IRes :=
  afterPre (s.preCodec false w d) (
    if !w.flag 8 then s.fixedBody d 0 fail
    else match codecFault fail with
      | some code => s.codecFails code
      | none => match s.sourceAt (le d 0 8) (le d 16 8) src with
      | (none, s) => .failAs s .checkFail 0
      | (some src, s) =>
        let i := (s.expanderOf meadow).getD 0
        match expandAll (le d 24 8) (src.length / 32 + 1) [] src with
        | .error code => .failAs (s.countExpand i src.length 0 (some code)) code 0
        | .ok out => (s.countExpand i src.length out.length none).writeOut (le d 8 8) out (fun s => s.setOut (w.owner c pc)
            (fun x => { x with outLen := out.length })))

/-- What the exact mode reads and writes in the HDM range. -/
def State.codecReads (s : State) (w : IWord) (d : Bytes) : List (Nat × Nat) := if w.flag 8 then s.hdmSpan (le d 0 8) (le d 16 8) else []
def State.codecWrites (s : State) (w : IWord) (d : Bytes) : List (Nat × Nat) := if w.flag 8 then s.hdmSpan (le d 8 8) (le d 24 8) else []

/-- DESIGN CHOICE, log entry 7. -/
def execPack (c : Nat) (w : IWord) (d src : Bytes) (fail : Option Code) (s : State) : Out :=
  .next (s.coherent c 0x58 w (s.preCodec true w d).isNone (s.codecReads w d) (s.codecWrites w d) (fun s =>
    s.runInstr c 0x58 w (.pack c w d src fail) (shapeOk 0x58 w) true false (fun x => s.packBody c x.pc w d src fail) (fun _ => s.preCodec true w d)))
def execUnpack (c : Nat) (w : IWord) (d src : Bytes) (fail : Option Code) (s : State) : Out :=
  .next (s.coherent c 0x59 w (s.preCodec false w d).isNone (s.codecReads w d) (s.codecWrites w d) (fun s =>
    s.runInstr c 0x59 w (.unpack c w d src fail) (shapeOk 0x59 w) true false (fun x => s.unpackBody c x.pc x.entry.meadow w d src fail)
      (fun _ => s.preCodec false w d)))

end Sys2Proof.Machine
end

