-- ==== Sys2Proof/Machine/Headers.lean ====
section
/-! DEFINITION. Step program headers and tile words as they stand in GDDR7 (R232 to R236), model
residency (R251), and the model descriptor (R251, R252). -/

namespace Sys2Proof.Machine

/-- A legal beat length (R30). -/
def beatLegal (v : Nat) : Bool := decide (500 ≤ v ∧ v ≤ 65500 ∧ v % 50 = 0)

/-- A header in the layout of Table 8.4; `none` when it holds a reserved encoding or a wrong check. -/
def parseHdr (addr : Nat) (b : Bytes) : Option Hdr :=
  let kind := le b 6 1
  let flags := le b 7 1
  let chunk := le b 20 2
  let merges := bit flags 2
  let generic := bit flags 0
  let chunkOk := match kind with
    | 1 => decide (1 ≤ chunk ∧ chunk ≤ 8192)
    | 2 => [0, 256, 512].contains chunk
    | _ => decide (chunk = 0)
  let members := le b 30 2
  let ok := decide (addr % 128 = 0) && decide (le b 0 4 = 0x4B434957) && decide (le b 4 2 = 1) &&
    decide (1 ≤ kind ∧ kind ≤ 3) && decide (flags < 8) && beatLegal (le b 8 4) && decide (1 ≤ le b 12 4) &&
    chunkOk && decide (1 ≤ le b 22 2 ∧ le b 22 2 ≤ 2048) && decide (1 ≤ le b 24 2 ∧ le b 24 2 ≤ 128) &&
    (merges || decide (le b 26 2 = 0)) && decide (le b 28 1 < 16) && zeroAt b 29 1 &&
    (if generic then decide (members = 0) else decide (1 ≤ members ∧ members ≤ 512)) &&
    zeroAt b 38 2 && decide (le b 40 8 % 16 = 0) && decide (1 ≤ le b 48 4) && decide (le b 80 4 % 32 = 0) &&
    decide (le b 84 4 % 32 = 0) && zeroAt b 88 36 && decide (le b 124 4 = crc32c (b.take 124))
  if ok then
    some { addr := addr, kind := kind, merges := merges, sat := bit flags 1, generic := generic,
           beatNs := le b 8 4, pLen := le b 12 4, energy := le b 16 4, chunk := chunk, rows := le b 22 2,
           tiles := le b 24 2, allow := le b 26 2, pattern := le b 28 1, members := members,
           shardEpoch := le b 32 4, model := le b 36 2, bodyAddr := le b 40 8, bodyWords := le b 48 4,
           capture := le b 52 4, shardTable := le b 56 8, reduceTable := le b 64 8, weights := le b 72 8, crc := le b 124 4, len4 := le b 80 4 / 4, seg4 := le b 84 4 / 4 }
  else none

/-- The header at a GDDR7 address. -/
def State.hdrAt (s : State) (addr : Nat) : Option Hdr := parseHdr addr (Tbl.readBytes s.mem.gddr addr 128)

/-- An operand's format with its scaled flag: FP6, FP4 and INT4 are used only scaled, and only the formats of R221 and R222
can be (R223). -/
def operandOk (fmt : Nat) (scaled : Bool) : Bool :=
  if scaled then [0x3, 0x4, 0x5, 0x6, 0x7, 0x9, 0xA].contains fmt else !([0x5, 0x6, 0x7, 0xA].contains fmt)

/-- A tile word without a reserved encoding (Tables 8.5, 8.6, 8.9; R217, R223). Operand c of a fused multiply-add stands in
the output format. DEDUCED, log entry 141. -/
def tileWordOk (v : Nat) : Bool :=
  let op := bits v 7 0
  let fn := bits v 47 40
  let fmtA := bits v 19 16
  let fmtB := bits v 23 20
  let out := bits v 27 24
  let unary := [0x10, 0x11, 0x12, 0x13, 0x14, 0x15, 0x20, 0x21].contains fn
  [0x01, 0x02, 0x03, 0x10, 0x11, 0x20, 0x21, 0x22, 0x30, 0x3F].contains op &&
    decide (bits v 39 32 = 0 ∧ bits v 31 28 = 0 ∧ bits v 15 12 = 0) &&
    decide (fmtA ≤ 0xB ∧ fmtB ≤ 0xB ∧ out ≤ 0xB) &&
    (if op = 0x02 then ([0x01, 0x02, 0x03, 0x04].contains fn || (unary && decide (bits v 79 64 = 0)))
     else decide (fn = 0)) &&
    (if op = 0x01 then mmaLegal fmtA fmtB (bit v 9) (bit v 10)
     else if op = 0x02 then operandOk fmtA (bit v 9) && (unary || operandOk fmtB (bit v 10)) && (fn != 0x03 || operandOk out false)
     else if op = 0x03 then operandOk fmtA (bit v 9) else true)

/-- R235: every tile word of the body is checked. -/
def State.bodyOk (s : State) (h : Hdr) : Bool :=
  (List.range (h.tiles * h.bodyWords)).all (fun i => tileWordOk (leVal (Tbl.readBytes s.mem.gddr (h.bodyAddr + 16 * i) 16)))

/-- R251: the model is resident on the meadow. -/
def State.residentOn (s : State) (m model : Nat) : Bool :=
  let x := s.mdw m
  match s.modelOf model with
  | none => false
  | some d => x.role == 2 || (match x.window with | none => false | some (o, _, _) => o == d.weights)

/-- R233: the kind of program that a role runs. -/
def kindRuns (role kind : Nat) : Bool :=
  match role with
  | 0 => kind == 1
  | 1 => kind == 2
  | 2 => kind == 3
  | _ => kind == 2

/-- A model descriptor in the layout of Table 9.1, refused with error 0x01 when a field is reserved, the
check fails, or page_tokens is not the value of R252. -/
def parseModel (b : Bytes) : Option Model :=
  let kv := le b 6 2
  let q := le b 4 2
  let hd := le b 8 2
  let hl := le b 10 2
  let fmt := le b 12 1
  let fl := le b 13 1
  let byPos := bit fl 0
  let per := 2 * hl * hd * (if fmt = 1 then 2 else 1)
  let ok := decide (1 ≤ le b 0 2 ∧ le b 0 2 ≤ 65534) && decide (1 ≤ le b 2 2 ∧ le b 2 2 ≤ 256) &&
    decide (1 ≤ q ∧ q ≤ 1024) && decide (1 ≤ kv ∧ kv ≤ 256 ∧ q % kv = 0) && [64, 128, 256].contains hd &&
    decide (1 ≤ hl) && (if byPos then decide (hl = kv) else decide (kv % hl = 0)) && [1, 3, 4].contains fmt &&
    decide (fl < 8) && decide (65536 % per = 0 ∧ le b 14 2 = 65536 / per) && zeroAt b 18 2 &&
    decide (1 ≤ le b 20 4) && zeroAt b 40 84 && decide (le b 124 4 = crc32c (b.take 124))
  if ok then
    some { model := le b 0 2, layers := le b 2 2, qHeads := q, kvHeads := kv, headDim := hd, headsLocal := hl,
           kvFmt := fmt, ratio := bits fl 2 1, byPosition := byPos, pageTokens := le b 14 2, eos := le b 16 2,
           maxPositions := le b 20 4, weights := le b 24 8, partialProg := le b 32 8 }
  else none

end Sys2Proof.Machine
end

