-- ==== Sys2Proof/Machine/Lanterns.lean ====
section
/-! DEFINITION. Lanterns: creation, closing, parks, resumes and idle timers (R136 to R138, R159 to
R172, R276, R277), and the adapter references they hold (R279, R280). -/

namespace Sys2Proof.Machine

/-! ## Adapter references -/

def State.adapter (s : State) (v : Nat) : Adapter := Tbl.get (fun _ => {}) s.mem.adapters v
def noAdapter : Nat := 0xFFFF
/-- A version that a new session may name. -/
def State.adapterFit (s : State) (v : Nat) : Bool := v == noAdapter || (s.adapter v).state == 1
/-- R279: lanterns and requests that name a version. -/
def State.adapterRefs (s : State) (v : Nat) : Nat :=
  s.lore.lanterns.count (fun x => x.state != .closed && x.adapter == v) +
  s.lore.requests.count (fun q => q.state != .free && q.adapter == v)

/-- A version is freed: its number, the links to it, and the trie nodes keyed on it go (R280). -/
def State.freeAdapter (s : State) (v : Nat) : State :=
  let gone := s.mem.trie.filter (fun e => e.2.adapter == v)
  let s := gone.foldl (fun s e => s.dropPages e.2.pages) s
  (s.mapMem (fun m => { m with trie := m.trie.filter (fun e => e.2.adapter != v),
                               adapters := (Tbl.drop m.adapters v).mapVals (fun _ a => if a.successor = some v then { a with successor := none } else a) })).bump
    Reg.PREFIX_EVICTED gone.length

/-- Every retired version without references is freed. -/
def State.reapAdapters (s : State) : State :=
  (s.mem.adapters.filter (fun e => e.2.state == 2 && s.adapterRefs e.1 == 0)).foldl (fun s e => s.freeAdapter e.1) s

/-- The last version of a successor chain. -/
def State.lastVersion (s : State) : Nat → Nat → Nat
  | 0, v => v
  | n + 1, v => match (s.adapter v).successor with
    | none => v
    | some w => State.lastVersion s n w

/-! ## The entry as software sees it (Table 6.1) -/

/-- DESIGN CHOICE, log entry 21. DEDUCED, log entry 40. -/
def State.lanternBytes (s : State) (l : Nat) : Bytes :=
  let x := s.lan l
  if x.state = .closed then List.replicate 128 0
  else
    let flags := 8 * b2n x.toolWaitFlag + 4 * b2n (!x.embers.isEmpty) + 2 * b2n x.nearState + b2n x.packed
    packLE [(1, lCode x.state), (1, flags), (1, x.svc), (1, x.meadow), (2, x.model), (2, x.adapter),
      (4, x.request.getD 0xFFFFFFFF), (2, x.deeds), (1, lCode x.prior), (1, x.parkTier),
      (8, Config.structAddr 1 l), (8, Config.structAddr 0 l), (8, Config.structAddr 2 l), (8, Config.structAddr 3 l),
      (4, x.tokens), (4, x.idleTimeout), (4, x.hintUs), (4, 0), (8, x.timer), (8, x.release),
      (8, (s.deed (.own l 0)).epoch), (8, x.parkedBytes), (8, x.cookie), (8, x.create), (8, 0), (8, 0)]

/-! ## Creation and closing -/

/-- R162: the bytes that a creation descriptor does not use. -/
def createZero (d : Bytes) : Bool :=
  zeroAt d 0 2 && zeroAt d 3 1 && zeroAt d 8 44 && zeroAt d 56 40 && zeroAt d 104 24

/-- The entry a creation takes: the named one, or the lowest that is free. -/
def State.createEntry (s : State) (w : IWord) : Except (Code × Nat) Nat :=
  if w.opb = 0xFFFFFFFF#32 then
    match s.closedEntry with
    | none => .error (.noSpace, 0)
    | some l => .ok l
  else
    let l := w.opb.toNat
    if 4194304 ≤ l then .error (.badOperand, 0)
    else if (s.lan l).state ≠ .closed then .error (.illegalInState, obsOf 1 (lCode (s.lan l).state))
    else if (s.lan l).reserved then .error (.noSpace, 0) else .ok l

/-- DEDUCED, log entry 42. -/
def State.bodyCreate (s : State) (c : Nat) (w : IWord) (d : Bytes) : IRes :=
  let model := le d 4 2
  let adp := le d 6 2
  if !createZero d ∨ 63 < le d 2 1 then .fail .badOperand 0
  else match s.createEntry w with
    | .error e => .fail e.1 e.2
    | .ok l =>
      if (s.modelOf model).isNone ∨ !s.adapterFit adp then .fail .notResident 0
      else
        let idle := if le d 52 4 = 0 then s.regN Reg.LTN_IDLE_DEFAULT else le d 52 4
        let x : Lantern := { state := .idle, svc := le d 2 1, meadow := 0xFF, model := model, adapter := adp, deeds := 1, idleTimeout := idle, cookie := le d 96 8, create := s.now }
        let s := (s.setLan l x).startTimer l
        let s := s.setDeed (.own l 0) { state := .home, home := s.me, epoch := 1, keeper := s.me, keeperLantern := 0xFFFFFFFF }
        .ok (s.setOut (.instr c) (fun y => { y with lantern := some l }))

def execLtnCreate (c : Nat) (w : IWord) (d : Bytes) (s : State) : Out :=
  .next (s.runInstr c 0x18 w (.ltnCreate c w d) (shapeOk 0x18 w) false false (fun _ => s.bodyCreate c w d))

/-- A resume of the lantern in move mode is under way. -/
def State.resuming (s : State) (l : Nat) : Bool := s.lore.resumes.any (·.lantern == l)

/-- DEDUCED, log entry 41. -/
def State.preClose (s : State) (l : Nat) : Pre :=
  let st := (s.lan l).state
  if !s.keeps l then some (.staleMap, 0)
  else if !([LState.idle, .toolWait, .swapped, .hibernated, .orphaned].contains st) ∨ s.resuming l then illegal 1 (lCode st)
  else none

/-- The lantern closes (Table 5.7). A deed of it that a transfer holds is not homed here: its record goes on in the hosted table
until the transfer ends. DESIGN CHOICE, log entry 154. -/
def State.closeLantern (s : State) (l : Nat) : State :=
  ((s.hostDeeds ((s.deedsOf l).filter (fun e => e.2.state == .lent || e.2.state == .incoming)) s.me l).freeLantern l).reapAdapters

def execLtnClose (c : Nat) (w : IWord) (s : State) : Out :=
  .next (s.runInstr c 0x19 w (.ltnClose c w) (shapeOk 0x19 w) false false (fun _ =>
    let l := w.opb.toNat
    afterPre (s.preClose l) (.ok (s.closeLantern l))))

/-- An open entry of a lantern whose keeper is another node is no answer (Table 5.7). -/
def State.preQueryLantern (s : State) (l : Nat) : Pre :=
  if (s.lan l).state ≠ .closed ∧ !s.keeps l then some (.staleMap, 0) else none

def execLtnQuery (c : Nat) (w : IWord) (s : State) : Out :=
  .next (s.coherent c 0x1C w (shapeOk 0x1C w) [] (s.hdmSpan w.opc.toNat 128) (fun s => s.runInstr c 0x1C w (.ltnQuery c w) (shapeOk 0x1C w) false false (fun _ =>
    afterPre (s.preQueryLantern w.opb.toNat) <| s.writeOut w.opc.toNat (s.lanternBytes w.opb.toNat) (fun s => s.setOut (.instr c) (fun y => { y with outLen := 128 })))))

/-! ## The choice of a tier (R168 to R171) -/

/-- The effective wait in µs (R168). The release_beat of a lantern that has never been released is 0, so that its elapsed wait
counts from beat 0: the spec gives no other. DESIGN CHOICE, log entry 153. -/
def State.effWait (s : State) (l : Nat) : Nat :=
  let x := s.lan l
  let hint := if x.hintUs = 0 then s.regN Reg.LTN_TOOL_DEFAULT else x.hintUs
  max hint ((s.now - x.release) * s.clk.len / 1000)

/-- LTN_PARK_NODE may serve: it names a node, and no meadow here has the role `CACHE`. -/
def State.cacheOpen (s : State) : Bool :=
  s.regN Reg.LTN_PARK_NODE != 0 && !s.eng.meadows.any (fun e => e.2.state != .free && e.2.role == 2)

/-- Table 6.4, by its order: 1 packed, 2 host memory, 3 cache node, 4 flash. -/
def State.chosenTier (s : State) (l : Nat) : Nat :=
  let w := s.effWait l
  if w < s.regN Reg.PARK_T_PACK then 1
  else if w < s.regN Reg.PARK_T_HOST then 2
  else if w < s.regN Reg.PARK_T_CACHE ∧ s.cacheOpen then 3 else 4

/-- The tier in which a lantern already sits: packed or host memory. -/
def sitsIn (x : Lantern) : Nat := if x.state = .swapped then 2 else if x.packed then 1 else 0

/-- R170: the timer at the first threshold from `i` on (0 packed, 1 host, 2 cache) that has not passed;
LTN_RETRY beats ahead past the last. DEDUCED, log entry 48. -/
def State.rearm (s : State) (l i : Nat) : State :=
  let ts := ([Reg.PARK_T_PACK, Reg.PARK_T_HOST, Reg.PARK_T_CACHE].drop i).map (fun r =>
    (s.lan l).release + ceilDiv (s.regN r * 1000) s.clk.len)
  let t := (ts.find? (fun t => decide (s.now ≤ t))).getD (s.now + bits (s.regN Reg.LTN_RETRY) 15 0)
  s.setLan l { s.lan l with timer := t }

def State.retryTimer (s : State) (l : Nat) : State :=
  s.setLan l { s.lan l with timer := s.now + bits (s.regN Reg.LTN_RETRY) 15 0 }

/-- The ratio of the packed tier: the model's default, or 4:1 where that is uncompressed. -/
def State.packRatio (s : State) (model : Nat) : Nat :=
  let r := ((s.modelOf model).map (·.ratio)).getD 0
  if r = 0 then 3 else r

/-- The pages of every deed `HOME` here; a park moves those that are not shared (R276). -/
def State.parkList (s : State) (l : Nat) : List Page := s.pagesAt (.lantern l)
def ownedPages (ps : List Page) : List Page := ps.filter (fun p => !p.shared)
/-- Rate size of what a park writes. -/
def ownedBytes (ps : List Page) : Nat := pagesBytes (ownedPages ps)

/-- Table 11.3, R322: the tier holds the park above its reserve. -/
def State.canHold (s : State) (l tier : Nat) : Bool :=
  let ps := ownedPages (s.parkList l)
  match tier with
  | 1 => decide (ps.length * pageUnits (s.packRatio (s.lan l).model) + s.regN Reg.KV_EMBER_LOW ≤ s.kvFree)
  | 2 => s.regN Reg.SWAP_SIZE != 0 && decide (pagesBytes ps + s.regN Reg.SWAP_RESERVE ≤ s.swapFree)
  | 3 => s.cacheOpen && !(s.lan l).cacheRefused
  | _ => s.fls.state == .ready && decide (pagesBytes ps + s.regN Reg.FLASH_PARK_RESERVE ≤ s.flashFree)

/-- R171: the first tier from the chosen one on that can hold the lantern; flash that is read-only falls
back to host memory. -/
def State.tierFrom (s : State) (l t : Nat) : Option Nat :=
  match ([1, 2, 3, 4].filter (fun i => decide (t ≤ i))).find? (s.canHold l) with
  | some i => some i
  | none => if s.fls.state = .readOnly ∧ s.canHold l 2 ∧ sitsIn (s.lan l) ≠ 2 then some 2 else none

/-! ## Parks -/

/-- Places for the pages of a park: one run for each page in host memory, one run in all on flash. -/
def State.parkPlaces (s : State) (tier : Nat) (ps : List Page) : Option (List Page × State) :=
  match tier with
  | 1 => some ([], s)
  | 2 =>
    ps.foldlM (fun (a : List Page × State) p => if p.shared then some (a.1 ++ [p], a.2) else
      (a.2.takeUnits 1 (pageUnits p.ratio)).map (fun r => (a.1 ++ [{ p with tier := 1, loc := r.1 }], r.2))) ([], s)
  | _ =>
    let n := ((ownedPages ps).map (fun p => pageUnits p.ratio)).sum
    if n = 0 then some (ps, s)
    else (s.flTake n).map (fun r =>
      ((ps.foldl (fun (a : List Page × Nat) p => if p.shared then (a.1 ++ [p], a.2) else (a.1 ++ [{ p with tier := 2, loc := a.2 }], a.2 + pageUnits p.ratio)) ([], r.1)).1, r.2))

/-- A park to flash publishes its progress (R118). -/
def State.publishPark (s : State) (tier : Nat) (o : Owner) (position total : Nat) : State :=
  if tier = 4 then s.publish o 1 position total else s

/-- A park to a tier of this Cucia starts: `LENT` with its prior state recorded. -/
def State.startPark (s : State) (l tier : Nat) (o : Owner) (waiting : Option Owner := none) : Option State :=
  let ps := s.parkList l
  (s.parkPlaces tier ps).map (fun r =>
    let n := if tier = 1 then 0 else ownedBytes ps
    let s := r.2.setLan l { s.lan l with state := .lent, prior := (s.lan l).state }
    let p : Park := { lantern := l, tier := tier, owner := o, pages := r.1, bytes := n, waiting := waiting }
    ((s.mapLore (fun y => { y with parks := y.parks ++ [p] })).addQueued 3 n).publishPark tier o 0 (ownedBytes ps))

/-- A park to the cache node: a whole-lantern move in TC3 and the lantern's service class (R172). -/
def State.startCachePark (s : State) (l : Nat) (o : Owner) (ring slot : Nat) : Except (Code × Nat) State :=
  let dst := s.reg Reg.LTN_PARK_NODE
  let p := s.movePlan true (.own l 0)
  match firstPre ((s.lanternMovePre l) :: (DRef.own l 0 :: p.deeds).map s.deedPre ++ [s.destPre dst]) with
  | some e => .error e
  | none =>
    if dst = s.me ∨ 256 ≤ s.lore.movesOut.length ∨ hostedMax < s.hostedUsed + p.kept then .error (.noSpace, 0)
    else
      let n := (s.moveItem 0 3 dst p.rate).n
      let n := if (s.moveBeats 3 1 1).isNone then 0 else n
      .ok ((s.addQueued 3 p.rate).startMove o ring slot dst p 3 (s.lan l).svc s.now n none 0 true)

/-- While TC3 has no room an unpacked lantern waits in the packed tier (R18): the engine packs it, if that tier holds it. -/
def State.waitPacked (s : State) (l : Nat) (o : Owner) : State :=
  if (s.lan l).packed ∨ !s.canHold l 1 then s else (s.startPark l 1 .engine (some o)).getD s

/-- The lantern is being packed while this instruction waits for room. -/
def State.packsFor (s : State) (l : Nat) (o : Owner) : Bool := s.lore.parks.any (fun p => p.lantern == l && p.waiting == some o)

/-- `LTN_PARK` (Table 5.7, R137, R172). -/
def State.bodyPark (s : State) (c : Nat) (w : IWord) (x : Ctx) : IRes :=
  let l := w.opb.toNat
  let st := (s.lan l).state
  let f := w.flags.toNat % 4
  let sits := sitsIn (s.lan l)
  if !s.keeps l then .fail .staleMap 0
  else if s.packsFor l (.instr c) then .wait s (.room 3 s.now)
  else if (st ≠ .idle ∧ st ≠ .toolWait) ∨ s.resuming l then .fail .illegalInState (obsOf 1 (lCode st))
  else
    let go (s : State) (tier : Nat) : IRes :=
      if tier ≠ 1 ∧ !s.classRoom 3 then .wait (s.waitPacked l (.instr c)) (.room 3 s.now)
      else if tier = 3 then match s.startCachePark l (.instr c) x.entry.ring x.entry.slot with
        | .error e => .fail e.1 e.2
        | .ok s' => .wait s' .op
      else match s.startPark l tier (.instr c) with
        | none => .fail .noSpace 0
        | some s' => .wait s' .op
    match f with
    | 0 => if s.canHold l 1 then go s 1 else .fail .noSpace 0
    | 1 => if s.canHold l 2 then go s 2 else .fail .noSpace 0
    | 2 => if s.fls.state = .readOnly then .fail .mediaReadOnly 0
        else if s.canHold l 4 then go s 4 else .fail .noSpace 0
    | _ =>
      let t := s.chosenTier l
      if t = sits then .ok (s.rearm l (t - 1))
      else match s.tierFrom l t with
        | none => .fail .noSpace 0
        | some i => go s i

def execLtnPark (c : Nat) (w : IWord) (s : State) : Out :=
  .next (s.runInstr c 0x1A w (.ltnPark c w) (shapeOk 0x1A w) false false (s.bodyPark c w))

/-- Stored bytes copied page by page from one list to another. -/
def State.copyPages (s : State) (old new : List Page) : State :=
  (old.zip new).foldl (fun s e => if e.1 = e.2 then s else s.copyStored e.1.tier (4096 * e.1.loc) e.2.tier (4096 * e.2.loc) e.1.bytes) s

/-- A park ends without commit: the state stays where it was (Table 6.3). -/
def State.parkFailed (s : State) (p : Park) (code : Code) : State :=
  let s := (s.dropPages (ownedPages p.pages)).lanternBack p.lantern
  let s := match p.owner with | .engine => s.retryTimer p.lantern | _ => s
  s.finish p.owner code

/-- A resume reads from flash, or a read-through does: it comes ahead of garbage collection and of hibernate writes (R71, R341). -/
def State.flashReads (s : State) : Bool :=
  s.lore.resumes.any (fun r => r.tier == 4 && !r.read) || s.mem.rts.any (·.tier == 4)

/-- A park commits (Table 6.3, R170, R276): with a failure code it ends without commit. A flash park
commits with its map records durable. -/
def execParkCommit (lantern : Nat) (fail : Option Code) (s : State) : Out :=
  .next (match s.lore.parks.find? (·.lantern == lantern) with
    | none => s
    | some p =>
      if p.tier = 4 ∧ (s.fls.state = .restoring ∨ s.flashReads) then s
      else
        let s := (s.mapLore (fun y => { y with parks := y.parks.filter (·.lantern != lantern) })).subQueued 3 p.bytes
        let old := s.parkList lantern
        let fail := if p.tier = 4 ∧ s.fls.state = .readOnly then some .mediaReadOnly else onlyCodes [.noSpace, .mediaReadOnly, .checkFail] fail
        match fail with
        | some code => s.parkFailed p code
        | none =>
          let done : Option State :=
            if p.tier = 1 then s.recodeAt (.lantern lantern) (s.lan lantern).model (s.packRatio (s.lan lantern).model)
            else if p.tier = 4 ∧ s.fls.state ≠ .ready then none
            else
              let s := s.copyPages old p.pages
              let s := (s.freeOld old p.pages).replaceList (.lantern lantern) p.pages
              some (if p.tier = 4 then s.journalAll else s)
          match done with
          | none => s.parkFailed p (if p.tier = 1 then .noSpace else .checkFail)
          | some s =>
            let n := ownedBytes (s.parkList lantern)
            let x := s.lan lantern
            let s := match p.tier with
              | 1 =>
                let s := s.setLan lantern { x with state := x.prior, prior := .closed, packed := true, parkTier := 1, parkedBytes := n, timer := s.now }
                if p.waiting.isSome then s else s.rearm lantern 0
              | 2 => (s.setLan lantern { x with state := .swapped, prior := .closed, packed := false, parkTier := 2, parkedBytes := n }).rearm lantern 1
              | _ => s.setLan lantern { x with state := .hibernated, prior := .closed, packed := false, parkTier := 4, parkedBytes := n, timer := 0, cacheRefused := false }
            (s.publishPark p.tier p.owner n n).finish p.owner .ok)

/-! ## The idle timer (R168 to R172) -/

/-- No tier has space (R171). -/
def State.noTier (s : State) (l : Nat) : State :=
  let s := (s.raise Ev.parkNoSpace 0 l 0 none 6).retryTimer l
  s.setLan l { s.lan l with cacheRefused := false }

/-- The engine starts a park of a lantern to a tier of this Cucia, or tries again later. DEDUCED, log entry 40. -/
def State.engineParkHere (s : State) (l tier : Nat) : State :=
  if tier ≠ 1 ∧ !s.classRoom 3 then s.waitPacked l .engine
  else match s.startPark l tier .engine with
    | none => s.retryTimer l
    | some s' => s'

/-- The engine's park; a cache node that cannot be used is skipped (R171). -/
def State.enginePark (s : State) (l tier : Nat) : State :=
  if tier = 3 ∧ s.classRoom 3 then match s.startCachePark l .engine 0 0 with
    | .ok s' => s'
    | .error _ => match s.tierFrom l 4 with
      | some i => s.engineParkHere l i
      | none => s.noTier l
  else s.engineParkHere l tier

/-- The scan finds the timer of a lantern expired (R168 to R171). A `SWAPPED` lantern only ever goes on to flash: for another
chosen tier its timer is set anew, and while flash is read-only it is tried again without an event. DESIGN CHOICE, log entry 152. -/
def State.idleScan (s : State) (l : Nat) : State :=
    let x := s.lan l
    if x.timer = 0 ∨ s.now < x.timer ∨ s.resuming l then s
    else
      let t := s.chosenTier l
      match x.state with
      | .swapped =>
        if t ≤ 3 then s.rearm l 1
        else if s.canHold l 4 then s.enginePark l 4
        else if s.fls.state = .readOnly then s.retryTimer l else s.noTier l
      | .idle | .toolWait =>
        if t = sitsIn x then s.rearm l (t - 1)
        else match s.tierFrom l t with
          | some i => s.enginePark l i
          | none => s.noTier l
      | _ => s

/-! ## Resumes -/

/-- The state from which context `c` resumes a lantern: that before its own group's admission. -/
def State.resumeFrom (s : State) (l c : Nat) : LState :=
  let x := s.lan l
  match x.state, x.request with
  | .active, some r =>
    let q := s.request r
    if q.ctx = some c ∧ q.resuming then (if x.prior = .closed then .idle else x.prior) else .active
  | st, _ => st

/-- Homes of the deeds held elsewhere. -/
def State.homesAway (s : State) (l : Nat) : List NodeId :=
  ((s.deedsOf l).filter (fun e => e.2.state == .remote)).map (·.2.home)

/-- DEDUCED, log entry 41. -/
def State.preResume (s : State) (w : IWord) (c : Nat) : Pre :=
  let l := w.opb.toNat
  let st := s.resumeFrom l c
  if !s.keeps l then some (.staleMap, 0)
  else if !((if w.flag 8 then [LState.idle, .toolWait] else [LState.idle, .toolWait, .swapped, .hibernated]).contains st) ∨ s.resuming l then
    illegal 1 (lCode st)
  else if w.flag 8 then
    (if (s.homesAway l).any (fun h => s.partnerState h == .dead || s.partnerState h == .left) then some (.targetDead, 0) else none)
  else if (s.deedsOf l).any (fun e => e.2.state == .remote || e.2.state == .orphaned || e.2.state == .lent) then some (.notResident, 0)
  else none

/-- Tier of Table 3.3 that a resume reads. -/
def resumeTier (st : LState) : Nat := match st with | .swapped => 2 | .hibernated => 4 | _ => 0

/-- The weighing of a resume (R65, R69, R76). DESIGN CHOICE, log entry 39. -/
def State.itemResume (s : State) (index : Nat) (w : IWord) (c m : Nat) : Item :=
  let l := w.opb.toNat
  if w.flag 8 then
    let h := (s.mdw m).program
    let pAttn := (((s.modelOf (s.lan l).model).bind (fun d => s.hdrAt d.partialProg)).map (·.pLen)).getD 0
    let tight := match h with
      | none => false
      | some h => h.merges && (s.homesAway l).any (fun n => match s.route n with
        | none => true
        | some (_, _, hop, _) => decide (h.allow < 2 * hop + pAttn + 1))
    { index := index, terms := [], regs := [], fails := if tight then [0x15] else [], lantern := some l }
  else { s.resumeItem index (resumeTier (s.resumeFrom l c)) (s.lan l).parkedBytes with lantern := some l }

/-- A resume commits at once or has read its pages: the lantern's fields (Table 6.3). -/
def State.resumed (s : State) (l : Nat) (near : Bool) : State :=
  let x := { s.lan l with packed := false, nearState := near, parkTier := 0, parkedBytes := 0, prior := .closed, cacheRefused := false }
  match x.state, x.request with
  | .active, some r => (s.setLan l x).setRequest r { s.request r with resuming := false }
  | _, _ => (s.setLan l { x with state := .idle }).startTimer l

/-- The pages of a packed lantern back at the model's default ratio (Table 5.7); `none` while the KV pool has no room. -/
def State.unpacked (s : State) (l : Nat) : Option State :=
  let x := s.lan l
  if x.packed then s.recodeAt (.lantern l) x.model (((s.modelOf x.model).map (·.ratio)).getD 0) else some s

/-- An `ADMITTED` request fails with the resume of its admission group (Table 6.6). -/
def State.failAdmitted (s : State) (req : Option Nat) (code : Code) : State :=
  match req with
  | none => s
  | some q => if (s.request q).state = RState.admitted then
      let s := s.endRequest q .failed code
      s.setRequest q { s.request q with row := none, promise := none }
    else s

/-- The request that context `c` has admitted together with the resume of a lantern. -/
def State.groupRequest (s : State) (l c : Nat) : Option Nat :=
  (s.lan l).request.filter (fun r => (s.request r).ctx == some c && (s.request r).resuming)

/-- A resume that ends without commit at its start takes the request of its group with it. -/
def State.resumeRefused (s : State) (l c : Nat) (r : IRes) : IRes :=
  match r with
  | .fail code obs => .failAs (s.failAdmitted (s.groupRequest l c) code) code obs
  | .failAs s' code obs => .failAs (s'.failAdmitted (s'.groupRequest l c) code) code obs
  | r => r

def State.bodyResume (s : State) (c : Nat) (w : IWord) (x : Ctx) : IRes :=
  let l := w.opb.toNat
  s.resumeRefused l c (afterPre (s.preResume w c) (match s.admitAt c x (s.itemResume x.pc w c x.entry.meadow) with
    | .no r => r
    | .go s id _ =>
      let tier := if w.flag 8 then 0 else resumeTier (s.resumeFrom l c)
      let s := s.setOut (.instr c) (fun y => { y with lantern := some l })
      let req := if (s.lan l).state = .active then (s.lan l).request else none
      let r : Resume := { lantern := l, tier := tier, owner := .instr c, request := req, promise := id }
      let s := s.endPhase id 1 s.now
      let waits (s : State) : IRes := .wait (s.mapLore (fun y => { y with resumes := y.resumes ++ [r] })) .op
      if tier ≠ 0 then waits s
      else match (if w.flag 8 then some s else s.unpacked l) with
        | none => waits s
        | some s =>
          let (s, code) := (s.resumed l (w.flag 8)).keepPromise id s.now
          if code = .ok then .ok s else .failAs s code 0))

def execLtnResume (c : Nat) (w : IWord) (s : State) : Out :=
  .next (s.runInstr c 0x1B w (.ltnResume c w) (shapeOk 0x1B w) false false (s.bodyResume c w))

/-- A resume ends without commit: the state stays parked, and a request admitted with it fails (Table 6.6). A lantern whose
request was freed on the way stands in its tier again. DEDUCED, log entry 41. -/
def State.resumeFailed (s : State) (r : Resume) (code : Code) (media : Bool) : State :=
  let s := s.updPromise r.promise (fun p => { p with media := p.media || media })
  let s := (s.failPromise r.promise code).failAdmitted r.request code
  let x := s.lan r.lantern
  let s := if r.request.isSome ∧ (x.state = .idle ∨ x.state = .toolWait) then
      (if r.tier = 2 then (s.setLan r.lantern { x with state := .swapped }).rearm r.lantern 1
       else if r.tier = 4 then s.setLan r.lantern { x with state := .hibernated, timer := 0 } else s)
    else s
  s.finish r.owner code

/-- Places in GDDR7 for pages parked elsewhere, at their recorded ratios (R277). DEDUCED, log entry 40. -/
def State.backPlaces (s : State) (ps : List Page) : Option (List Page × State) :=
  ps.foldlM (fun (a : List Page × State) p => if p.shared ∨ p.tier = 0 then some (a.1 ++ [p], a.2) else
    (a.2.takeUnits 0 (pageUnits p.ratio)).map (fun r => (a.1 ++ [{ p with tier := 0, loc := r.1 }], r.2))) ([], s)

/-- Reads of pages that lie in lost units. -/
def State.readFaults (s : State) (ps : List Page) : State :=
  ps.foldl (fun (s : State) p => if p.tier = 2 then s.flFault p.loc (pageUnits p.ratio) else s) s

/-- A third retry or a rebuild from parity is a media fault (R71, R83). -/
def mediaRead (r : ReadReport) : Bool := decide (2 < r.retries) || r.rebuilt

/-- What a read from host memory or flash tells of the phases of its bound (R82); the last phase ends with the whole read. -/
def State.readPhases (s : State) (id : Option Nat) (tier : Nat) (r : ReadReport) (whole : Bool) : State :=
  let s := s.updPromise id (fun p => { p with media := p.media || mediaRead r })
  let s := if tier = 4 then s.endPhase id 5 r.first else s
  if whole ∧ tier ≠ 0 then s.endPhase id (if tier = 4 then 6 else 4) s.now else s

/-- A move-mode resume has read its pages (R277), or met an uncorrectable one. It waits while the flash steward restores its
map and while the KV pool has no room. -/
def execResumeCommit (lantern : Nat) (reads : ReadEnd) (s : State) : Out :=
  let fail := reads.fail
  let read := reads.report
  .next (match s.lore.resumes.find? (·.lantern == lantern) with
    | none => s
    | some r =>
      if r.tier = 4 ∧ s.fls.state = .restoring then s
      else
        let old := s.parkList lantern
        let lost := old.any (fun p => p.tier == 2 && (s.flLost p.loc (pageUnits p.ratio) || s.fls.state == .failed))
        let done (s : State) : State := s.mapLore (fun y => { y with resumes := y.resumes.filter (·.lantern != lantern) })
        if fail = some .checkFail then ((done s).readPhases r.promise r.tier read false).resumeFailed r .checkFail true
        else if lost then (((done s).readFaults old).readPhases r.promise r.tier read false).resumeFailed r .checkFail true
        else
          let room := if r.tier = 0 then s.unpacked lantern
            else (s.backPlaces old).map (fun p => (((done p.2).copyPages old p.1).freeOld old p.1).replaceList (.lantern lantern) p.1)
          match room with
          | none => s.mapLore (fun y => { y with resumes := y.resumes.map (fun q => if q.lantern = lantern then { q with read := true } else q) })
          | some s =>
            let s := ((done s).readPhases r.promise r.tier read true).resumed lantern false
            let (s, code) := s.keepPromise r.promise s.now
            s.finish r.owner code)

end Sys2Proof.Machine
end

