-- ==== Sys2Proof/Machine/Requests.lean ====
section
/-! DEFINITION. Requests: admission, kill, priority, deadline and release (R79, R80, R112, R139, R140,
R173 to R181, R211), and the entry as software sees it (Table 6.5). -/

namespace Sys2Proof.Machine

def allOnes64 : Nat := 0xFFFFFFFFFFFFFFFF

/-- Table 6.5. -/
def State.requestBytes (s : State) (r : Nat) : Bytes :=
  let q := s.request r
  if q.state = .free then List.replicate 64 0
  else
    packLE [(1, rCode q.state), (1, q.flagBits), (1, q.prio), (1, q.svc), (1, q.meadow), (1, codeN (q.finalCode.getD .ok)),
      (2, q.row.getD 0xFFFF), (4, q.lantern), (2, q.adapter), (2, q.tag), (8, q.deadlineBeat), (8, q.promisedBeat),
      (4, q.pTokens), (4, q.prefilled), (4, q.gMax), (4, q.generated), (8, Config.structAddr 5 r), (4, q.placement),
      (1, q.ring), (2, q.slot), (1, 0)]

/-! ## The end of a request entry (Table 6.3) -/

/-- A request entry is freed: `tool` is the hint of a release with the tool-wait flag. The first row of
Table 6.3 that applies decides where its lantern goes. -/
def State.freeEntry (s : State) (r : Nat) (tool : Option Nat) : State :=
  let q := s.request r
  let l := q.lantern
  let x := s.lan l
  let s := s.setRequest r {}
  let noted (x : Lantern) : Lantern := match tool with
    | some h => { x with toolWaitFlag := true, hintUs := h, release := s.now }
    | none => { x with toolWaitFlag := false, hintUs := s.regN Reg.LTN_IDLE_HINT, release := s.now }
  let s :=
    if x.state ≠ .active ∨ x.request ≠ some r then (if x.state = .active then s.setLan l (noted x) else s)
    else if q.resuming ∧ !s.resuming l ∧ (x.prior = .swapped ∨ x.prior = .hibernated) then
      let s := s.setLan l { x with state := x.prior, prior := .closed, request := none }
      if x.prior = .swapped then s.rearm l 1 else s
    else
      let y := noted x
      (s.setLan l { y with request := none, prior := .closed, state := if tool.isSome then .toolWait else .idle }).startTimer l
  s.reapAdapters

/-- A live request ends with a code; its row goes with it when it ends `KILLED` or `FAILED` (R174). -/
def State.dropRequest (s : State) (r : Nat) (st : RState) (code : Code) (excused : Bool) : State :=
  let s := s.failPromise (s.request r).promise code excused
  let s := s.setRequest r { s.request r with promise := none }
  let s := s.endRequest r st code
  s.setRequest r { s.request r with row := none }

/-! ## `REQ_ADMIT` -/

/-- The descriptor of `REQ_ADMIT` (Table 5.9) without a reserved value. -/
def admitShape (d : Bytes) : Bool :=
  decide (1 ≤ le d 4 4) && decide (le d 18 1 < 16) && decide (le d 19 1 < 8) && decide (le d 19 1 % 4 ≠ 3) && zeroAt d 20 4

/-- Table 15.2's meadow states, in the encoding of observed_state. -/
def mCode : MState → Nat
  | .free => 0 | .running => 1 | .draining => 2 | .drained => 3

/-- A deed that keeps the session's state from being resident (Table 5.8). -/
def State.deedAway (s : State) (l : Nat) : Option DState :=
  let near := (s.lan l).nearState
  ((s.deedsOf l).find? (fun e => match e.2.state with
    | .home => e.2.pages.any (fun p => p.tier != 0)
    | .none => false
    | .remote => !near
    | _ => true)).map (·.2.state)

/-- The precondition of `REQ_ADMIT` on the state that the group's earlier instructions leave. -/
def State.preAdmit (s : State) (w : IWord) (d : Bytes) (m : Nat) (resumed : Bool) : Pre :=
  let l := w.opb.toNat
  let x := s.lan l
  let g := s.mdw m
  let adp := le d 16 2
  if !admitShape d then badOp
  else if !s.keeps l then some (.staleMap, 0)
  else if !x.embers.isEmpty then illegal 3 6
  else if x.state ≠ .idle ∧ x.state ≠ .toolWait then illegal 1 (lCode x.state)
  else if !resumed ∧ s.resuming l then illegal 1 (lCode x.state)
  else match (if resumed then none else s.deedAway l) with
    | some st => illegal 3 (dCode st)
    | none =>
      if g.state ≠ .running ∨ g.role = 2 ∨ g.program.isNone then illegal 6 (mCode g.state)
      else if !s.residentOn m x.model ∨ !s.adapterFit adp then some (.notResident, 0)
      else none

/-- The weighing of `REQ_ADMIT` (R73 to R75). -/
def State.itemAdmit (s : State) (index : Nat) (w : IWord) (d : Bytes) (m : Nat) (turn : Bool) : Item :=
  match (s.mdw m).program with
  | none => { index := index, terms := [], regs := [] }
  | some h =>
    let i := s.firstItem index m h (le d 0 4) (le d 4 4) turn
    let noRow := (s.freeRow m h.rows).isNone
    { i with fails := (if noRow then [0x13] else []) ++ (if s.regN (Reg.ADMIT_STEPS m) < s.queuedSteps m then [0x16] else []),
             noSpace := s.freeRequest.isNone, lantern := some w.opb.toNat, request := s.freeRequest }

/-- `REQ_ADMIT` takes effect: the entry is filled, its row reserved, the lantern `ACTIVE` (Tables 6.3, 6.6;
R174, R279). `resumed` says that an `LTN_RESUME` of the group is to commit first. DEDUCED, log entry 48. -/
def State.admitRequest (s : State) (c : Nat) (x : Ctx) (w : IWord) (d : Bytes) (resumed : Bool) (promise : Option Nat)
    (promised : Nat) : Option State :=
  let m := x.entry.meadow
  let l := w.opb.toNat
  let y := s.lan l
  match (s.mdw m).program, s.freeRequest with
  | some h, some r => match s.freeRow m h.rows with
    | none => none
    | some row =>
      let none_ := decide (x.entry.deadline = noDeadline)
      let adp := if le d 16 2 = noAdapter then noAdapter else s.lastVersion 4096 (le d 16 2)
      let opts := le d 19 1
      let q : Request := { state := .admitted, noDeadline := none_, ahead := !none_, fullTurn := x.entry.fullTurn, follow := bit opts 2, onOverdue := opts % 4, prio := le d 18 1, svc := x.entry.svc, meadow := m, row := some row, lantern := l, adapter := adp, tag := x.entry.tag, deadlineBeat := (if none_ then allOnes64 else s.deadlineBeat x.entry.deadline), promisedBeat := (if none_ then allOnes64 else promised), pTokens := le d 0 4, gMax := le d 4 4, placement := 1, ring := x.entry.ring, slot := x.entry.slot, order := s.lore.nextOrder, resuming := resumed, promise := promise, ctx := some c, tokensAddr := le d 8 8, outAddr := le d 24 8 }
      let keepPrior := resumed && (y.state == .swapped || y.state == .hibernated)
      let y' : Lantern := { y with state := .active, prior := (if keepPrior then y.state else .closed), timer := 0, request := some r, meadow := m, adapter := adp, packed := false, parkTier := (if keepPrior then y.parkTier else 0), parkedBytes := (if keepPrior then y.parkedBytes else 0) }
      let s := ((s.setRequest r q).setLan l y').mapLore (fun z => { z with nextOrder := z.nextOrder + 1 })
      some (s.setOut (.instr c) (fun z => { z with request := some r, lantern := some l, reqCode := none }))
  | _, _ => none

/-- A request admitted with its group stays so; one that its group's admission left to this instruction, and one reached
on its own, is admitted now (R57, R108). -/
def State.bodyAdmit (s : State) (c : Nat) (w : IWord) (d : Bytes) (x : Ctx) : IRes :=
  if x.grants.any (fun g => g.index == x.pc && g.code == some .ok) ∧ x.pc < x.group then .ok s
  else afterPre (s.preAdmit w d x.entry.meadow false)
    (match s.admitAt c x (s.itemAdmit x.pc w d x.entry.meadow x.entry.fullTurn) with
      | .no r => r
      | .go s id n => match s.admitRequest c x w d false id ((if x.pc < x.group then x.admitBeat else s.now) + n) with
        | none => .fail .noSpace 0
        | some s' => .ok s')

def execReqAdmit (c : Nat) (w : IWord) (d : Bytes) (s : State) : Out :=
  .next (s.runInstr c 0x20 w (.reqAdmit c w d) (shapeOk 0x20 w) false false (s.bodyAdmit c w d))

/-! ## The other request instructions -/

/-- A request that is `ADMITTED` or `RUNNING`. -/
def State.livePre (s : State) (r : Nat) : Pre :=
  let st := (s.request r).state
  if st.live then none else illegal 2 (rCode st)

def execReqKill (c : Nat) (w : IWord) (s : State) : Out :=
  .next (s.runInstr c 0x21 w (.reqKill c w) (shapeOk 0x21 w) false false (fun _ =>
    let r := w.opb.toNat
    afterPre (s.livePre r) (.ok (s.dropRequest r .killed .killed true))))

def execReqSetprio (c : Nat) (w : IWord) (s : State) : Out :=
  .next (s.runInstr c 0x22 w (.reqSetprio c w) (shapeOk 0x22 w) false false (fun _ =>
    let r := w.opb.toNat
    afterPre (s.livePre r) (.ok (s.setRequest r { s.request r with prio := w.opa.toNat }))))

/-- The deadline beat of a deadline that may lie in the past (R58). -/
def State.deadlineOf (s : State) (deadline : Nat) : Nat :=
  if deadline = noDeadline then allOnes64
  else if s.clk.time ≤ deadline then s.deadlineBeat deadline
  else s.now - ceilDiv (s.clk.time - deadline) s.boundB

/-- R79. A request admitted without a deadline has no promised beat that a finite deadline could hold, so that one is refused.
DESIGN CHOICE, log entry 155. -/
def State.bodySetDeadline (s : State) (r deadline : Nat) : IRes :=
  let q := s.request r
  let d := s.deadlineOf deadline
  if q.noDeadline then (if d = allOnes64 then .ok s else .fail .refusedBound 0)
  else if d < q.deadlineBeat ∧ d < q.promisedBeat then .fail .refusedBound 0
  else
    let s := s.setRequest r { q with deadlineBeat := d }
    .ok (s.updPromise q.promise (fun p => { p with d := d }))

def execReqSetdeadline (c : Nat) (w : IWord) (s : State) : Out :=
  .next (s.runInstr c 0x23 w (.reqSetdeadline c w) (shapeOk 0x23 w) false false (fun _ =>
    afterPre (s.livePre w.opb.toNat) (s.bodySetDeadline w.opb.toNat w.opc.toNat)))

/-- DESIGN CHOICE, log entry 43. -/
def State.preReqRelease (s : State) (r : Nat) : Pre :=
  let st := (s.request r).state
  if st ≠ .running ∧ st ≠ .done then illegal 2 (rCode st)
  else if (s.lan (s.request r).lantern).state = .lent then illegal 1 6 else none

/-- A `RUNNING` request completes at its next commit; a `DONE` one is freed. -/
def State.releaseRequest (s : State) (r : Nat) (tool : Bool) (hint : Nat) : State :=
  let q := s.request r
  if q.state = .running then s.setRequest r { q with releasing := some (tool, hint) }
  else s.freeEntry r (if tool then some hint else none)

def execReqRelease (c : Nat) (w : IWord) (s : State) : Out :=
  .next (s.runInstr c 0x24 w (.reqRelease c w) (shapeOk 0x24 w) false false (fun _ =>
    let r := w.opb.toNat
    afterPre (s.preReqRelease r) (.ok (s.releaseRequest r (w.flag 8) w.opc.toNat))))

def execReqReleaseTimeout (r : Nat) (s : State) : Out :=
  .next (
    let q := s.request r
    if s.cdUp ∧ q.state = .done ∧ q.doneBeat + s.regN Reg.REQ_RELEASE_TIMEOUT ≤ s.now ∧ (s.lan q.lantern).state ≠ .lent then s.freeEntry r none else s)

end Sys2Proof.Machine
end

