-- ==== Sys2Proof/Machine/Tile.lean ====
section
/-! DEFINITION. What a wick tile computes: the element operations of tile words, the words of a body run over tile SRAM,
the stores they stage, and the CRC-64 over what a tile sends and stores (R51, R217 to R231, R236, R239, R243, Tables 8.5,
8.6, 8.9). -/

namespace Sys2Proof.Machine

/-! ## Element operations -/

/-- An element as a tile reads it; `scale` is its block's scale byte when the operand is scaled (R221). -/
structure Elem where
  fmt : Nat
  bits : Nat
  scale : Option Nat
deriving DecidableEq, Repr

def Elem.val (x : Elem) : FVal :=
  match x.scale with
  | none => decodeE x.fmt x.bits
  | some e => decodeScaled x.fmt x.bits e

/-- The operand of the vector unit (R236). -/
def Elem.f32 (x : Elem) : F32 := roundF32 x.val

/-- One element operation with the operands as the tile read them. -/
inductive TileOp where
  /-- MMA: format codes and scaled flags of a and b, prior accumulator, and per block the 32
  element pairs and the two scale bytes (R229) -/
  | mma (fmtA fmtB : Nat) (scaledA scaledB : Bool) (acc : BitVec 32)
      (blocks : List (List (BitVec 32 × BitVec 32) × Byte × Byte))
  /-- VOP function `fn` over operands a, b and c, converted to format `out` (R236) -/
  | vop (fn out : Nat) (a b c : Elem)
  /-- row sum (`max` false) or row max of one row of elements -/
  | row (max : Bool) (vals : List Elem)
  /-- CVT to unscaled elements (R224 to R226) -/
  | cvt (out : Nat) (vals : List Elem)
  /-- CVT of one block of 32 values to a scaled block (R227) -/
  | quant (out : Nat) (vals : List Elem)
  /-- FOLD of received partials onto P0, in ascending order (R230) -/
  | fold (vals : List F32)
deriving DecidableEq, Repr

/-- An FP32 word as an operation writes it: a NaN in its one form, counted (R220, R226). -/
def outF32 (v : F32) : Nat × FCount :=
  match f32Val v with
  | .nan => (canonNan 0x0, { nan := 1 })
  | _ => (v.toNat, {})

/-- A vector result converted to the output format (R236). -/
def vopOut (out : Nat) (sat : Bool) (v : F32) : Nat × FCount := encodeF out sat (f32Val v)

/-- The elements written, the scale byte of a quantised block, and what is counted. A combination that the check of the body
refuses (R235) writes nothing. -/
def TileOp.eval (sat : Bool) : TileOp → List Nat × Option Nat × FCount
  | .mma fa fb sa sb acc blocks =>
    if !mmaLegal fa fb sa sb then ([], none, {})
    else if (ffmt fa).isSome ∨ sa ∨ sb then let r := outF32 (mmaFloat fa fb sa sb acc blocks); ([r.1], none, r.2)
    else let r := mmaInt fa fb acc blocks; ([r.1.toNat], none, r.2)
  | .vop fn out a b c => match vopF32 fn a.f32 b.f32 c.f32 with
    | none => ([], none, {})
    | some v => let r := vopOut out sat v; ([r.1], none, r.2)
  | .row mx vals =>
    let r := outF32 (match vals.map Elem.f32 with | [] => (0 : F32) | x :: xs => if mx then xs.foldl F32.max x else xs.foldl F32.add x)
    ([r.1], none, r.2)
  | .cvt out vals =>
    let rs := vals.map (fun v => encodeF out sat v.val)
    (rs.map (·.1), none, rs.foldl (fun a p => a.add p.2) {})
  | .quant out vals => let r := quantBlock out sat (vals.map Elem.f32); (r.2.1, some r.1, r.2.2)
  | .fold vals => let r := outF32 (foldF32 vals); ([r.1], none, r.2)

/-! ## Tile SRAM -/

/-- Word places of a tile begin at 2^20 × its number. -/
abbrev Sram := Tbl (BitVec 32)

def Sram.word (t : Sram) (at_ : Nat) : Nat := (Tbl.get (fun _ => (0 : BitVec 32)) t at_).toNat

/-- Words put into a tile's SRAM from a word place on. -/
def writeSram (t : Sram) (at_ : Nat) : List Nat → Sram
  | [] => t
  | w :: ws => writeSram (Tbl.set (fun _ => 0) t at_ (BitVec.ofNat 32 w)) (at_ + 1) ws

/-- `w` bits at bit offset `off` behind a word place. -/
def Sram.getBits (t : Sram) (at_ off w : Nat) : Nat :=
  (t.word (at_ + off / 32) + 2 ^ 32 * t.word (at_ + off / 32 + 1)) / 2 ^ (off % 32) % 2 ^ w
def Sram.putBits (t : Sram) (at_ off w v : Nat) : Sram :=
  let p := at_ + off / 32
  let two := t.word p + 2 ^ 32 * t.word (p + 1)
  let two := setBits two (off % 32 + w - 1) (off % 32) v
  writeSram t p [two % 2 ^ 32, two / 2 ^ 32]

/-- Elements in order, packed without gaps. DESIGN CHOICE, log entry 143. -/
def Sram.putElems (t : Sram) (at_ w : Nat) : Nat → List Nat → Sram
  | _, [] => t
  | i, v :: vs => Sram.putElems (t.putBits at_ (w * i) w v) at_ w (i + 1) vs

/-- The word place of the scale array of `n` elements of `w` bits: the next 32-byte unit behind them. DESIGN CHOICE, log entry 143. -/
def scalePlace (at_ w n : Nat) : Nat := at_ + 8 * ceilDiv (w * n) 256

/-- Element `i` of an operand of `n` elements at a word place. -/
def Sram.elem (t : Sram) (at_ fmt : Nat) (scaled : Bool) (n i : Nat) : Elem :=
  { fmt := fmt, bits := t.getBits at_ (fmtBits fmt * i) (fmtBits fmt),
    scale := if scaled then some (t.getBits (scalePlace at_ (fmtBits fmt) n) (8 * (i / 32)) 8) else none }

def Sram.bytes (t : Sram) (at_ n : Nat) : Bytes := (List.range n).map (fun i => BitVec.ofNat 8 (t.getBits at_ (8 * i) 8))

/-! ## The words of a body -/

/-- A store that waits for the commit: batch row, GDDR7 address, bytes (R111). -/
structure Staged where
  row : Nat
  addr : Nat
  data : Bytes
deriving DecidableEq, Repr

/-- What the tiles of a step have done so far: tile SRAM and its words in error (R453), saturations and NaNs, staged stores, and
the bytes that the tile at hand has sent and stored, in schedule order. -/
structure TileRun where
  sram : Sram
  bad : Tbl Nat
  count : FCount
  stores : List Staged
  sent : Bytes
  /-- partials by the accumulator they are folded onto: position in the fold, and words (R230) -/
  folds : List (Nat × List (Nat × List Nat)) := []
  /-- what SEND words have sent: reduce-table entry, batch row, bytes -/
  outgoing : List (Nat × Nat × Bytes) := []
  /-- words corrected, and words read that could not be -/
  corrected : Nat := 0
  lost : Nat := 0
deriving DecidableEq, Repr

/-- Tile SRAM words of 8 bytes are numbered behind those of the commons: 2^19 for each tile (R453). -/
def sramKey (place : Nat) : Nat := 2 ^ 24 + place / 2

/-- Words in error that an access of `n` 4-byte words from a place on meets. -/
def inRange (p : Nat × Nat) (key : Nat) : Bool := decide (sramKey p.1 ≤ key ∧ key < sramKey (p.1 + p.2 + 1)) && decide (p.2 ≠ 0)

/-- Reads correct single errors, and are counted; writes leave fresh check bits. -/
def TileRun.touch (r : TileRun) (reads writes : List (Nat × Nat)) : TileRun :=
  let hit := r.bad.filter (fun e => reads.any (fun p => inRange p e.1))
  let ce := (hit.filter (·.2 == 1)).length
  { r with bad := r.bad.filter (fun e => !(e.2 == 1 && reads.any (fun p => inRange p e.1)) && !writes.any (fun p => inRange p e.1)),
           corrected := r.corrected + ce, lost := r.lost + (hit.length - ce) }

/-- A step as its tiles see it: its inputs, sat_mode, and what has work (R239): slot positions, and 8,192 + batch rows. -/
structure TileEnv where
  key : List Nat
  sat : Bool
  live : List Nat

/-- The rows of a 64-row operation that are computed. -/
def TileEnv.rows (e : TileEnv) (tile i : Nat) (skip : Bool) : List Nat :=
  if skip then (List.range 64).filter (fun r => e.live.contains (Config.stepFirst e.key tile i + r)) else List.range 64

/-- An operation's elements written at element `i` of an operand of `w` bits. -/
def TileRun.put (r : TileRun) (at_ w i : Nat) (x : List Nat × Option Nat × FCount) : TileRun :=
  { r with sram := r.sram.putElems at_ w i x.1, count := r.count.add x.2.2 }

/-- A tile word's fields (Table 8.5). -/
structure TileWord where
  op : Nat
  keep : Bool
  scaledA : Bool
  scaledB : Bool
  skip : Bool
  fmtA : Nat
  fmtB : Nat
  out : Nat
  fn : Nat
  a : Nat
  b : Nat
  c : Nat
  imm : Nat

def tileWord (v : Nat) : TileWord :=
  { op := bits v 7 0, keep := bit v 8, scaledA := bit v 9, scaledB := bit v 10, skip := bit v 11, fmtA := bits v 19 16,
    fmtB := bits v 23 20, out := bits v 27 24, fn := bits v 47 40, a := 8 * bits v 63 48, b := 8 * bits v 79 64,
    c := 8 * bits v 95 80, imm := bits v 127 96 }

/-- The words that an operand of `n` elements takes, its scale array included. -/
def operandRange (at_ fmt : Nat) (scaled : Bool) (n : Nat) : List (Nat × Nat) :=
  (at_, ceilDiv (fmtBits fmt * n) 32) :: (if scaled then [(scalePlace at_ (fmtBits fmt) n, ceilDiv (ceilDiv n 32) 4)] else [])

/-- Places that a word reads, and places that it writes whole. -/
def TileWord.reads (w : TileWord) (base : Nat) : List (Nat × Nat) :=
  let a (n : Nat) := operandRange (base + w.a) w.fmtA w.scaledA n
  match w.op with
  | 0x01 => a (2048 * w.imm) ++ operandRange (base + w.b) w.fmtB w.scaledB (2048 * w.imm) ++ (if w.keep then [(base + w.c, 4096)] else [])
  | 0x02 => if w.fn = 0x20 ∨ w.fn = 0x21 then a (64 * w.imm)
    else a w.imm ++ (if w.fn ≤ 0x04 then operandRange (base + w.b) w.fmtB w.scaledB w.imm else []) ++
      (if w.fn = 0x03 then operandRange (base + w.c) w.out false w.imm else [])
  | 0x03 => a w.imm
  | 0x11 | 0x20 => [(base + w.a, ceilDiv w.imm 4)]
  | 0x22 => [(base + w.a, w.imm), (base + w.b, w.imm)]
  | _ => []
def TileWord.writes (w : TileWord) (base : Nat) : List (Nat × Nat) :=
  match w.op with
  | 0x01 => [(base + w.c, 4096)]
  | 0x02 => if w.fn = 0x20 ∨ w.fn = 0x21 then [(base + w.c, 64)] else operandRange (base + w.c) w.out false w.imm
  | 0x03 => operandRange (base + w.c) w.out (w.scaledB || !operandOk w.out false) w.imm
  | 0x10 | 0x21 => [(base + w.c, ceilDiv w.imm 4)]
  | 0x22 => [(base + w.a, w.imm)]
  | _ => []

/-- MMA: 64 rows of a times 64 columns of b, each `imm` blocks of 32 long, into the accumulators at c (R229). Rows of a,
columns of b and the rows of the accumulator stand one behind the other. DESIGN CHOICE, log entry 143. -/
def TileRun.mma (r : TileRun) (base : Nat) (w : TileWord) (rows : List Nat) : TileRun :=
  let n := 32 * w.imm
  let src := r.sram
  let at_ (p fmt : Nat) (scaled : Bool) (i : Nat) : Elem := src.elem (base + p) fmt scaled (64 * n) i
  rows.foldl (fun (r : TileRun) i => (List.range 64).foldl (fun (r : TileRun) j =>
    let block (k : Nat) : List (BitVec 32 × BitVec 32) × Byte × Byte :=
      let x (l : Nat) : Elem := at_ w.a w.fmtA w.scaledA (i * n + 32 * k + l)
      let y (l : Nat) : Elem := at_ w.b w.fmtB w.scaledB (j * n + 32 * k + l)
      ((List.range 32).map (fun l => (BitVec.ofNat 32 (x l).bits, BitVec.ofNat 32 (y l).bits)),
        BitVec.ofNat 8 ((x 0).scale.getD 0), BitVec.ofNat 8 ((y 0).scale.getD 0))
    let acc : BitVec 32 := if w.keep then BitVec.ofNat 32 (src.word (base + w.c + 64 * i + j)) else 0
    r.put (base + w.c) 32 (64 * i + j) ((TileOp.mma w.fmtA w.fmtB w.scaledA w.scaledB acc ((List.range w.imm).map block)).eval true)) r) r

/-- VOP (R236, Table 8.9). -/
def TileRun.vop (r : TileRun) (e : TileEnv) (base : Nat) (w : TileWord) (rows : List Nat) : TileRun :=
  let src := r.sram
  if w.fn = 0x20 ∨ w.fn = 0x21 then
    rows.foldl (fun (r : TileRun) i =>
      r.put (base + w.c) 32 i ((TileOp.row (w.fn == 0x21) ((List.range w.imm).map (fun k => src.elem (base + w.a) w.fmtA w.scaledA (64 * w.imm) (i * w.imm + k)))).eval e.sat)) r
  else
    (List.range w.imm).foldl (fun (r : TileRun) i =>
      r.put (base + w.c) (fmtBits w.out) i ((TileOp.vop w.fn w.out (src.elem (base + w.a) w.fmtA w.scaledA w.imm i)
        (src.elem (base + w.b) w.fmtB w.scaledB w.imm i) (src.elem (base + w.c) w.out false w.imm i)).eval e.sat)) r

/-- CVT: scaled output where the format is used only scaled, or where the word's scaled_b, which no operand of it uses, is set
(R223, R227). DESIGN CHOICE, log entry 143. -/
def TileRun.cvt (r : TileRun) (e : TileEnv) (base : Nat) (w : TileWord) : TileRun :=
  let src := r.sram
  let x (i : Nat) : Elem := if i < w.imm then src.elem (base + w.a) w.fmtA w.scaledA w.imm i else { fmt := 0, bits := 0, scale := none }
  let width := fmtBits w.out
  if w.scaledB ∨ !operandOk w.out false then
    (List.range (ceilDiv w.imm 32)).foldl (fun (r : TileRun) k =>
      let q := (TileOp.quant w.out ((List.range 32).map (fun l => x (32 * k + l)))).eval e.sat
      let r := r.put (base + w.c) width (32 * k) q
      { r with sram := r.sram.putBits (scalePlace (base + w.c) width w.imm) (8 * k) 8 (q.2.1.getD 0) }) r
  else r.put (base + w.c) width 0 ((TileOp.cvt w.out ((List.range w.imm).map x)).eval e.sat)

/-- Inserted in ascending key. -/
def insertBy {α : Type} (key : α → Nat) (x : α) : List α → List α
  | [] => [x]
  | y :: ys => if key x < key y then x :: y :: ys else y :: insertBy key x ys
def sortBy {α : Type} (key : α → Nat) (xs : List α) : List α := xs.foldl (fun a x => insertBy key x a) []

/-- FOLD (R230): the received partial at b takes the position of the reduce-table entry that addr_c names, and what stands at a is
the left fold of P0 and the partials so far in ascending position. DESIGN CHOICE, log entry 143. -/
def TileRun.fold (r : TileRun) (e : TileEnv) (base : Nat) (w : TileWord) : TileRun :=
  let at_ := base + w.a
  let words (p : Nat) : List Nat := (List.range w.imm).map (fun i => r.sram.word (p + i))
  let parts := insertBy (·.1) (w.c / 8 + 1, words (base + w.b)) (((r.folds.find? (·.1 == at_)).map (·.2)).getD [(0, words at_)])
  let r := { r with folds := (at_, parts) :: r.folds.filter (·.1 != at_) }
  (List.range w.imm).foldl (fun (r : TileRun) i =>
    r.put at_ 32 i ((TileOp.fold (parts.map (fun x => BitVec.ofNat 32 (x.2.getD i 0)))).eval e.sat)) r

/-- Word `i` of a tile's sequence (Table 8.6); answers whether the tile goes on. -/
def TileRun.step (r : TileRun) (e : TileEnv) (tile base i v : Nat) : TileRun × Bool :=
  let w := tileWord v
  let r := r.touch (w.reads base) (w.writes base)
  let r := if w.op = 0x22 then r else { r with folds := r.folds.filter (fun x => !(w.writes base).any (fun p => decide (p.1 ≤ x.1 ∧ x.1 < p.1 + p.2))) }
  match w.op with
  | 0x01 => (r.mma base w (e.rows tile i w.skip), true)
  | 0x02 => (r.vop e base w (e.rows tile i w.skip), true)
  | 0x03 => (r.cvt e base w, true)
  | 0x10 | 0x21 => ({ r with sram := r.sram.putElems (base + w.c) 8 0 ((List.range w.imm).map (fun k => Config.stepByte e.key tile i k % 256)) }, true)
  | 0x11 =>
    let d := r.sram.bytes (base + w.a) w.imm
    let p := Config.stepPlace e.key tile i
    ({ r with stores := r.stores ++ [{ row := p.1, addr := p.2, data := d }], sent := r.sent ++ d }, true)
  | 0x20 =>
    let d := r.sram.bytes (base + w.a) w.imm
    ({ r with outgoing := r.outgoing ++ [(w.c / 8, (Config.stepPlace e.key tile i).1, d)], sent := r.sent ++ d }, true)
  | 0x22 => (r.fold e base w, true)
  | 0x3F => (r, false)
  | _ => (r, true)

/-- A tile's words in order, up to `END`. -/
def TileRun.words (e : TileEnv) (tile base : Nat) : Nat → List Nat → TileRun → TileRun
  | _, [], r => r
  | i, v :: vs, r => match r.step e tile base i v with
    | (r, true) => TileRun.words e tile base (i + 1) vs r
    | (r, false) => r

/-! ## Checksums (R243) -/

/-- `n` steps of the CRC-64 register with the ECMA-182 polynomial, highest bit first. -/
def crc64Steps : Nat → Nat → Nat
  | 0, r => r
  | n + 1, r => crc64Steps n (if 2 ^ 63 ≤ r then (2 * r % 2 ^ 64) ^^^ 0x42F0E1EBA9EA3693 else 2 * r)
/-- The register starts at 0 and is taken as it stands. DESIGN CHOICE, log entry 144. -/
def crc64 (b : Bytes) : Word := BitVec.ofNat 64 (b.foldl (fun r x => crc64Steps 8 (r ^^^ (x.toNat * 2 ^ 56))) 0)

/-- The combined CRC of replayed virtual tiles: the CRC-64 over their CRCs as 8-byte values, in the order of the replay.
DESIGN CHOICE, log entry 144. -/
def combinedCrc (crcs : List Word) : Word := crc64 (crcs.flatMap (fun c => leBytes 8 c.toNat))

/-! ## A step's tiles -/

/-- What the pages of a list hold. -/
def State.pageData (s : State) (ps : List Page) : List Nat :=
  ps.flatMap (fun p => (Tbl.readBytes (s.bytesOf p.tier) (4096 * p.loc) p.bytes).map (·.toNat))

/-- The program as an input: header without shard_epoch and check, and body (R51). -/
def State.programKey (s : State) (h : Hdr) : List Nat :=
  let b := Tbl.readBytes s.mem.gddr h.addr 124
  ((b.take 32 ++ b.drop 36) ++ Tbl.readBytes s.mem.gddr h.bodyAddr (16 * h.tiles * h.bodyWords)).map (·.toNat)

/-- The words of virtual tile `t`. -/
def State.bodyWords (s : State) (h : Hdr) (t : Nat) : List Nat :=
  (List.range h.bodyWords).map (fun i => leVal (Tbl.readBytes s.mem.gddr (h.bodyAddr + 16 * (t * h.bodyWords + i)) 16))

/-- The virtual tiles of a meadow run one after the other; answers their CRCs too. -/
def State.runTiles (s : State) (e : TileEnv) (h : Hdr) : Nat → List Nat → TileRun → TileRun × List Word
  | _, [], r => (r, [])
  | t, i :: is, r =>
    let r := TileRun.words e t (2 ^ 20 * i) 0 (s.bodyWords h t) { r with sent := [] }
    let q := State.runTiles s e h (t + 1) is r
    (q.1, crc64 r.sent :: q.2)

end Sys2Proof.Machine
end

