-- ==== Sys2Proof/Machine/Steps.lean ====
section
/-! DEFINITION. Steps: admission, start boundary, chunk slot, tile work and commit (R34, R48 to R53, R73,
R111, R112, R144, R145, R174 to R184, R190, R233 to R240, R253). -/

namespace Sys2Proof.Machine

/-! ## `STEP_RUN` -/

/-- R235: what the check of a body found, now or on its first use. -/
def State.bodyKnown (s : State) (h : Hdr) : Bool :=
  match s.eng.checked.find? (fun e => e.1 == h.addr && e.2.1 == h.crc) with
  | some e => e.2.2
  | none => s.bodyOk h

/-- The result of that check is recorded against the address and hdr_crc. -/
def State.noteBody (s : State) (h : Hdr) : State :=
  if s.eng.checked.any (fun e => e.1 == h.addr && e.2.1 == h.crc) then s
  else s.mapEng (fun e => { e with checked := (h.addr, h.crc, s.bodyOk h) :: e.checked })

/-- A meadow that belongs to a running or held field (Table 15.5). -/
def State.fielded (s : State) (m : Nat) : Bool := (s.field m).state == 2 || (s.field m).state == 3
/-- The membership epoch that a step of a meadow runs under, 0 outside a field. -/
def State.fieldEpoch (s : State) (m : Nat) : Nat := if s.fielded m then (s.field m).epoch else 0

/-- R256: a lantern holds pages laid out by head for another heads_local than a model has. DEDUCED, log entry 172. -/
def State.laidOtherwise (s : State) (l model : Nat) : Bool :=
  !(((s.modelOf model).map (·.byPosition)).getD true) && (List.range (s.lan l).deeds).any (fun i =>
    let d := s.deed (.own l i)
    d.laid != 0 && d.laid != s.headsOf model && !d.pages.isEmpty)

/-- Tables 1.1, 5.12; R28, R174, R233, R235, R247, R256. -/
def State.preStep (s : State) (addr m : Nat) : Pre :=
  match s.hdrAt addr with
  | none => badOp
  | some h =>
    let x := s.mdw m
    if !s.bodyKnown h then badOp
    else if !(x.state == .running || x.state == .draining || (x.state == .drained && s.fielded m)) then
      illegal 6 (mCode x.state)
    else if h.tiles ≠ x.tiles.length ∨ !kindRuns x.role h.kind ∨ !s.residentOn m h.model ∨ x.stuck ∨
        (s.rowsUsed m).any (fun r => decide (h.rows ≤ r)) then illegal 6 (mCode x.state)
    else if h.beatNs ≠ s.clk.len then illegal 0 0
    else if s.fielded m ∧ (s.field m).epoch ≠ h.shardEpoch then some (.fieldChanged, 0)
    else if s.fielded m ∧ s.lore.requests.any (fun e => e.2.meadow == m && e.2.state.live && s.laidOtherwise e.2.lantern h.model) then
      some (.fieldChanged, 0)
    else none

/-- A step is admitted: it becomes the meadow's last program and is scheduled behind the steps already
admitted (R34, R53, R174, R549): `due` is reckoned without overruns, `start` with those that are known (R50). -/
def State.scheduleStep (s : State) (m : Nat) (h : Hdr) (o : Owner) (promise : Option Nat) (index : Nat)
    (rek : Option (Nat × Nat × Nat × Nat)) : State × Nat :=
  let x := s.mdw m
  let id := s.eng.nextStep
  let planned := s.now + s.stepW m + 1
  let start := match x.steps.getLast? with | none => planned | some t => max planned (t.commit + 1)
  let t : Step := { id := id, owner := o, hdr := h, rekindle := rek, start := start, commit := start + h.pLen, due := planned + h.pLen, used := none, started := false, watts := h.watts, promise := promise, epoch := s.fieldEpoch m, index := index, rows := [] }
  let s := s.setMdw m { x with program := some h, steps := x.steps ++ [t] }
  (s.mapEng (fun e => { e with nextStep := id + 1 }), id)

/-- A step owned by its admission group is handed to the instruction that reaches it (R108, R128). -/
def State.takeStep (s : State) (m id : Nat) (o : Owner) : State :=
  let x := s.mdw m
  s.setMdw m { x with steps := x.steps.map (fun t => if t.id = id then { t with owner := o } else t) }

def State.bodyStepRun (s : State) (c : Nat) (w : IWord) (x : Ctx) : IRes :=
  let m := x.entry.meadow
  match x.grants.find? (fun g => g.index == x.pc && (g.step.isSome || g.code.isSome)) with
  | some g => match g.code with
    | some .ok => .ok s
    | some code => .fail code 0
    | none => .wait (s.takeStep m (g.step.getD 0) (.instr c)) .op
  | none => match s.preStep w.opc.toNat m, s.hdrAt w.opc.toNat with
    | some (code, obs), some h => .failAs (s.noteBody h) code obs
    | some (code, obs), none => .fail code obs
    | none, none => .fail .badOperand 0
    | none, some h =>
      match (s.noteBody h).admitAt c x ((s.noteBody h).stepItem x.pc m h false) with
      | .no r => r
      | .go s id _ => .wait (s.scheduleStep m h (.instr c) id x.pc none).1 .op

def execStepRun (c : Nat) (w : IWord) (s : State) : Out :=
  .next (s.runInstr c 0x40 w (.stepRun c w) (shapeOk 0x40 w) false false (s.bodyStepRun c w))

/-- A step ends with a code: whoever waits for it learns it; a step that its instruction has not reached
yet leaves the code with the group's grant. -/
def State.stepDone (s : State) (t : Step) (code : Code) (obs : Nat := 0) : State :=
  match t.owner with
  | .engine => s.mapIo (fun io => { io with ctxs := io.ctxs.mapVals (fun _ x =>
      { x with grants := x.grants.map (fun g => if g.step = some t.id then { g with code := some code } else g) }) })
  | o => s.finish o code obs

/-- The steps behind one that has just ended start at the following boundary at the earliest (R50). -/
def restep (at_ : Nat) : List Step → List Step
  | [] => []
  | t :: ts =>
    let start := max t.start (at_ + 1)
    { t with start := start, commit := start + t.hdr.pLen } :: restep (start + t.hdr.pLen) ts

/-- The head step leaves its meadow; the rest are scheduled anew. -/
def State.popStep (s : State) (m at_ : Nat) : State :=
  let x := s.mdw m
  s.setMdw m { x with steps := restep at_ x.steps.tail }

/-- A step ends without commit: its promise fails with it. -/
def State.abortStep (s : State) (m : Nat) (t : Step) (code : Code) (obs : Nat := 0) (excused : Bool := false) : State :=
  let s := s.popStep m (if t.started then s.now else s.now - 1)
  (s.failPromise t.promise code excused).stepDone t code obs

/-- A `REKINDLE` ends. -/
def State.endRekindle (s : State) (r : Rekindle) (code : Code) : State :=
  let s := s.mapEng (fun e => { e with rekindles := e.rekindles.filter (fun x => x.lantern != r.lantern || x.first != r.first),
                                       meadows := e.meadows.mapVals (fun _ m => { m with steps := m.steps.filter (fun t => t.started || t.rekindle.isNone || (t.rekindle.map (fun k => (k.1, k.2.1))) != some (r.lantern, r.first)) }) })
  if code = .ok then
    let (s, code) := s.keepPromise r.promise s.now
    s.finish r.owner code
  else (s.failPromise r.promise code).finish r.owner code

/-- A failed step takes the `REKINDLE` that it carried with it. -/
def State.failRekindle (s : State) (part : Option (Nat × Nat × Nat × Nat)) (code : Code) : State :=
  match part with
  | none => s
  | some (l, a, _, _) => match s.eng.rekindles.find? (fun r => r.lantern == l && r.first == a) with
    | none => s
    | some r => s.endRekindle r code

/-! ## The start boundary -/

/-- The rows of Table 6.6 that a meadow's next step boundary takes. -/
def State.boundaryRequest (s : State) (r : Nat) : State :=
  let q := s.request r
  match q.state with
  | .killed => s.freeEntry r none
  | .failed => s.freeEntry r none
  | .overdue =>
    if q.completed then
      let s := s.setRequest r { q with state := .done, doneBeat := s.now }
      if q.entryEnded then s.raise Ev.requestEnded 0 r q.lantern (some q.meadow) 1 else s
    else match q.onOverdue with
      | 0 => s.setRequest r { q with state := (if q.carried then .running else .admitted), deadlineBeat := allOnes64, promisedBeat := allOnes64, finalCode := none, ahead := false }
      | 1 =>
        let s := s.freeEntry r none
        let x := s.lan q.lantern
        if x.state = .idle then s.setLan q.lantern { x with timer := s.now } else s
      | _ =>
        let s := s.setRequest r { q with state := .killed, row := none }
        if q.entryEnded then s.raise Ev.requestEnded 0 r q.lantern (some q.meadow) 1 else s
  | _ => s

/-- Indices of the requests of a meadow. -/
def State.requestsOn (s : State) (m : Nat) : List Nat :=
  s.lore.requests.keys (fun q => q.meadow == m && q.state != .free)

/-- R181: a request with follow rebinds to the newest version. -/
def State.followRequest (s : State) (r : Nat) : State :=
  let q := s.request r
  if q.follow ∧ q.state.live ∧ q.adapter ≠ noAdapter then s.setRequest r { q with adapter := s.lastVersion 4096 q.adapter } else s

/-- What waits in the prefill queue (R180): a request, or the range of a `REKINDLE`. -/
structure QWant where
  req : Option Nat
  order : Nat
  svc : Nat
  prio : Nat
  promised : Bool
  want : Nat
deriving DecidableEq, Repr

/-- Requests that a step of the meadow may carry, in admission order (Table 6.6). -/
def State.carriable (s : State) (m : Nat) : List (Nat × Request) :=
  sortBy (fun e => e.2.order) (s.lore.requests.filter (fun e => e.2.meadow == m && e.2.state.live && !e.2.resuming && e.2.row.isSome))

/-- The meadow's `REKINDLE` that has tokens left for a chunk slot. -/
def State.rekindleOn (s : State) (m : Nat) : Option Rekindle :=
  s.eng.rekindles.find? (fun r => r.meadow == m && decide (r.taken < r.total))

/-- The prefill queue. DEDUCED, log entry 54. -/
def State.prefillQueue (s : State) (m : Nat) : List QWant :=
  let rs : List QWant := ((s.carriable m).filter (fun e => decide (e.2.prefilled < e.2.pTokens))).map (fun e =>
    { req := some e.1, order := e.2.order, svc := e.2.svc, prio := e.2.prio, promised := e.2.ahead, want := e.2.pTokens - e.2.prefilled })
  match s.rekindleOn m with
  | some r => if (s.mdw m).role = 3 then sortBy (·.order) ({ req := none, order := r.order, svc := (s.lan r.lantern).svc, prio := 0, promised := r.promised, want := r.total - r.taken } :: rs) else rs
  | none => rs

/-- Greedy filling of `room` positions, in order (R240): what was taken, and the room left. -/
def fillRoom : Nat → List QWant → List (QWant × Nat) × Nat
  | room, [] => ([], room)
  | room, q :: qs =>
    let t := min room q.want
    if t = 0 then fillRoom room qs
    else let r := fillRoom (room - t) qs; ((q, t) :: r.1, r.2)

/-- The classes passed over between the rotation's place and the class served lose their deficit. -/
def dropPassed (at_ c : Nat) (d : Tbl Nat) : Tbl Nat :=
  d.filter (fun e => !(if at_ ≤ c then decide (at_ ≤ e.1 ∧ e.1 < c) else decide (at_ ≤ e.1 ∨ e.1 < c)))

/-- Deficit round robin over chunk-slot tokens (R184). `rot` is twice the class at which the next turn
begins, plus 1 when that class's turn was cut short by a full slot. -/
def drrTokens (weight : Nat → Nat) : Nat → Nat → Tbl Nat → Tbl Nat → Nat → Tbl Nat → Tbl Nat × Tbl Nat × Nat
  | 0, _, _, d, rot, g => (g, d, rot)
  | n + 1, room, left, d, rot, g =>
    if room = 0 then (g, d, rot)
    else
      let at_ := rot / 2
      match ((left.find? (fun e => decide (at_ ≤ e.1))).or left.head?) with
      | none => (g, d, rot)
      | some (c, want) =>
        let mid := decide (rot % 2 = 1 ∧ c = at_)
        let d := if mid then d else dropPassed at_ c d
        let v := Tbl.get (fun _ => 0) d c + (if mid then 0 else weight c)
        let take := min v (min room want)
        let g := Tbl.set (fun _ => 0) g c (Tbl.get (fun _ => 0) g c + take)
        let done := decide (take = want)
        let left := if done then left.drop c else Tbl.put (left.drop c) c (want - take)
        let d := Tbl.set (fun _ => 0) d c (v - take)
        let cut := decide (room = take ∧ take < v) && !done
        drrTokens weight n (room - take) left d (if cut then 2 * c + 1 else 2 * ((c + 1) % 64)) g

/-- One class's tokens shared out: higher prio first, then admission order (R180). -/
def shareClass (qs : List QWant) (n : Nat) : List (QWant × Nat) :=
  (fillRoom n (sortBy (fun q => 15 - q.prio) qs)).1

/-- R180, R240: the slot of `room` positions, and the meadow's deficits and rotation afterwards. -/
def State.fillSlot (s : State) (m room : Nat) : List (QWant × Nat) × Tbl Nat × Nat :=
  let x := s.mdw m
  let q := s.prefillQueue m
  let (first, room) := fillRoom room (q.filter (·.promised))
  let rest := q.filter (fun w => !w.promised)
  let left : Tbl Nat := rest.foldl (fun t w => Tbl.set (fun _ => 0) t w.svc (Tbl.get (fun _ => 0) t w.svc + w.want)) []
  let (g, d, rot) := drrTokens (fun c => bits (s.regN (Reg.SC_WEIGHT c)) 7 0) (room + 1) room left x.deficits x.rotation []
  (first ++ g.flatMap (fun e => shareClass (rest.filter (·.svc == e.1)) e.2), d, rot)

/-- Segments are numbered from 1 in slot order (R238, R240). -/
def numberSegs : Nat → List (QWant × Nat) → List (QWant × Nat × Nat)
  | _, [] => []
  | k, (q, n) :: t => (q, n, k) :: numberSegs (k + 1) t

/-- What each row does in the step that starts (R73, R74, R237): prompt rows with their segments, then one
token for every row whose prompt is complete; and the part of a `REKINDLE`. -/
def State.rowsFor (s : State) (m : Nat) (h : Hdr) : List RowUse × Option (Nat × Nat) × Tbl Nat × Nat :=
  let x := s.mdw m
  let slot := decide (h.kind = 1 ∨ (x.role = 3 ∧ h.chunk ≠ 0))
  let (taken, d, rot) := if slot then s.fillSlot m h.chunk
    else ((s.prefillQueue m).map (fun q => (q, 1)), x.deficits, x.rotation)
  let segs := numberSegs 1 taken
  let prompts := segs.filterMap (fun e => e.1.req.map (fun r =>
    let q := s.request r
    ({ row := q.row.getD 0, request := r, tokens := e.2.1, segment := (if slot then e.2.2 else 0), kvLen := (s.lan q.lantern).tokens, prompt := true, emits := decide (q.pTokens ≤ q.prefilled + e.2.1) } : RowUse)))
  let gens := ((s.carriable m).filter (fun e => decide (e.2.pTokens ≤ e.2.prefilled))).map (fun e =>
    ({ row := e.2.row.getD 0, request := e.1, tokens := 1, segment := 0, kvLen := (s.lan e.2.lantern).tokens, prompt := false, emits := true } : RowUse))
  (prompts ++ gens, (segs.find? (fun e => e.1.req.isNone)).map (fun e => (e.2.1, e.2.2)), d, rot)

/-- Two INT16 in one word. -/
def pairWords : List Nat → List Nat
  | [] => []
  | [a] => [a % 65536]
  | a :: b :: t => (a % 65536 + 65536 * (b % 65536)) :: pairWords t

/-- The length and segment tables of a step (R237, R238); `waiting` are rows whose request takes no token in it, with kv_len. -/
def stepTables (h : Hdr) (rows : List RowUse) (rek : Option (Nat × Nat)) (waiting : List (Nat × Nat)) : List Nat × List Nat :=
  let len := (List.range h.rows).flatMap (fun r => match rows.find? (·.row == r) with
    | none => [0, ((waiting.find? (·.1 == r)).map (·.2)).getD 0]
    | some u => [u.tokens * 65536 + u.segment, u.kvLen])
  let segs := sortBy (·.2) ((rows.filter (fun u => u.segment != 0)).map (fun u => (u.tokens, u.segment)) ++ rek.toList)
  let pos := segs.flatMap (fun e => List.replicate e.1 e.2)
  (len, pairWords (pos ++ List.replicate (h.chunk - pos.length) 0))

def State.writeTables (s : State) (m : Nat) (h : Hdr) (rows : List RowUse) (rek : Option (Nat × Nat)) : State :=
  let waiting := ((s.carriable m).filter (fun e => !rows.any (·.request == e.1))).map (fun e => (e.2.row.getD 0, (s.lan e.2.lantern).tokens))
  let (len, seg) := stepTables h rows rek waiting
  let fresh (i : Nat) : List (Nat × Nat) := [(2 ^ 20 * i + h.len4, len.length), (2 ^ 20 * i + h.seg4, seg.length)]
  let s := s.mapEng (fun e => { e with sram := (s.mdw m).tiles.foldl (fun t i =>
    writeSram (writeSram t (2 ^ 20 * i + h.len4) len) (2 ^ 20 * i + h.seg4) seg) e.sram })
  { s with sys := { s.sys with upsets := s.sys.upsets.filter (fun e => !(s.mdw m).tiles.any (fun i => (fresh i).any (fun p => inRange p e.1))) } }

/-- A request that a step carries for the first time has left the queue (Table 6.6, R82). -/
def State.carry (s : State) (u : RowUse) : State :=
  let q := s.request u.request
  let s := if q.carried then s else s.endPhase q.promise 7 (s.now - 1)
  s.setRequest u.request { q with carried := true, state := .running }

/-- A role change that waited for the boundary takes effect (R409). -/
def State.applyRole (s : State) (m : Nat) : State :=
  let x := s.mdw m
  match x.pendingRole with
  | none => s
  | some r =>
    let s := s.setMdw m { x with role := r, pendingRole := none, roleOwner := none }
    match x.roleOwner with | none => s | some c => s.finish (.instr c) .ok

/-! ### Quarantined tiles leave (R247) -/

/-- The state of a tile; unlisted tiles stand as after reset (Table 8.8). -/
def State.tile (s : State) (i : Nat) : TileSt :=
  Tbl.get (fun j => if 124 ≤ j ∧ j < 128 then { state := 2 } else {}) s.eng.tiles i
def State.setTile (s : State) (i : Nat) (t : TileSt) : State :=
  s.mapEng (fun e => { e with tiles := Tbl.set (fun j => if 124 ≤ j ∧ j < 128 then { state := 2 } else {}) e.tiles i t })
/-- The tiles in `SHADOW`, in ascending number; the lower half is the shadow half, the upper the referee
half (R241). -/
def State.shadowList (s : State) : List Nat := (List.range 128).filter (fun i => (s.tile i).state == 2)
def State.refereeHalf (s : State) : List Nat := s.shadowList.drop (s.shadowList.length / 2)
def State.shadowHalf (s : State) : List Nat := s.shadowList.take (s.shadowList.length / 2)

/-- One quarantined tile leaves: the highest-numbered shadow tile takes its virtual tile, or the meadow
stands still. -/
def State.leaveTile (s : State) (m i : Nat) : State :=
  let x := s.mdw m
  let x := { x with quarantined := x.quarantined.filter (· != i) }
  let cand := if s.refereeHalf.isEmpty then s.shadowHalf else s.refereeHalf
  match cand.getLast? with
  | none => (s.setMdw m { x with tiles := x.tiles.filter (· != i), stuck := true }).raise Ev.shadowSetEmpty 0 i 0 (some m)
  | some j =>
    let s := s.setMdw m { x with tiles := x.tiles.map (fun k => if k = i then j else k) }
    s.setTile j { s.tile j with state := 1, meadow := m }

def State.leaveTiles (s : State) (m : Nat) : State :=
  (s.mdw m).quarantined.foldl (fun s i => s.leaveTile m i) s

/-- At the meadow's next step boundary; no step of it is running. -/
def execTileQuarantineLeave (m : Nat) (s : State) : Out :=
  .next (if (s.mdw m).steps.any (·.started) then s else s.leaveTiles m)

/-! ### The start -/

/-- Everything a meadow's step boundary does before its next step. -/
def State.stepBoundary (s : State) (m : Nat) : State :=
  let s := (s.applyRole m).leaveTiles m
  let s := (s.requestsOn m).foldl State.boundaryRequest s
  ((s.requestsOn m).foldl State.followRequest s).reapAdapters

/-- The step starts: its rows and tables. -/
def State.beginStep (s : State) (m : Nat) (t : Step) : State :=
  let own := t.rekindle.isSome
  let (rows, rek, d, rot) := if own then (([] : List RowUse), t.rekindle.map (fun r => (r.2.2.2, 1)), (s.mdw m).deficits, (s.mdw m).rotation) else s.rowsFor m t.hdr
  let part := if own then t.rekindle else match rek, s.rekindleOn m with
    | some (n, _), some r => some (r.lantern, r.first, r.last, n)
    | _, _ => none
  let s := s.writeTables m t.hdr rows rek
  let s := rows.foldl State.carry s
  let s := match part with
    | none => s
    | some (l, a, _, n) =>
      let s := if s.eng.rekindles.any (fun r => r.lantern == l && r.first == a && r.taken == 0) then
          (s.eng.rekindles.filter (fun (r : Rekindle) => r.lantern == l && r.first == a)).foldl (fun (s : State) (r : Rekindle) => s.endPhase r.promise 7 (s.now - 1)) s
        else s
      s.mapEng (fun e => { e with rekindles := e.rekindles.map (fun (r : Rekindle) => if r.lantern = l ∧ r.first = a then { r with taken := r.taken + n } else r) })
  let x := s.mdw m
  let t' := { t with started := true, start := s.now, commit := s.now + t.hdr.pLen, rows := rows, rekindle := part }
  let ran := if x.ran.contains t.hdr.addr then x.ran else x.ran ++ [t.hdr.addr]
  s.setMdw m { x with steps := t' :: restep t'.commit x.steps.tail, deficits := d, rotation := rot, ran := ran }

/-- In the pause of an activation (R516) a step starts only for an instruction that had started before it, which completes (R158).
DEDUCED, log entry 160. -/
def State.heldStep (s : State) (t : Step) : Bool := s.sys.paused && decide (t.owner = .engine) && t.rekindle.isNone

/-- A new membership of the meadow's field takes effect at this boundary. -/
def State.changeDue (s : State) (m : Nat) : Bool :=
  (s.field m).changes.any (fun k => match k.commitAt with | none => false | some b => decide (b ≤ s.now)) ||
    (s.field m).announced.any (fun a => match a.commitAt with | none => false | some b => decide (b ≤ s.now))

/-- A step stands at its boundary and may start: not in a meadow that is being formed into a field (R414), nor in one whose new
definition or membership takes effect at this boundary (R408, R414). -/
def State.mayStart (s : State) (m : Nat) (t : Step) : Bool :=
  s.cdUp && decide ((s.field m).state ≠ 1) && (s.mdw m).pendingDef.isNone && !s.changeDue m && !t.started && decide (t.start ≤ s.now) && !s.heldStep t

/-- HDM offsets that a step reads and writes: its program, its weights and the tokens of its rows (R440). -/
def State.stepSpans (s : State) (t : Step) : List (Nat × Nat) × List (Nat × Nat) :=
  let weights := match s.objByBase t.hdr.weights with | none => [] | some i => [((s.obj i).base, (s.obj i).size)]
  let reads := t.rows.flatMap (fun u => if u.prompt then s.hdmSpan ((s.request u.request).tokensAddr + 2 * (s.request u.request).prefilled) (2 * u.tokens) else [])
  let writes := t.rows.flatMap (fun u => if u.emits then s.hdmSpan ((s.request u.request).outAddr + 2 * (s.request u.request).generated) 2 else [])
  (s.gddrSpan t.hdr.addr 128 ++ s.gddrSpan t.hdr.bodyAddr (16 * t.hdr.tiles * t.hdr.bodyWords) ++ weights ++ reads, writes)

/-- A snoop that a running step needs is unanswered: it stalls (R441). -/
def State.stepSnooped (s : State) (t : Step) : Bool := s.cxl.snoops.any (fun l => ((s.stepSpans t).1 ++ (s.stepSpans t).2).any (spanHas · l))

/-- The first step of a meadow starts at its boundary (R34, R145, R427), and what it uses is called back from the host. -/
def execStepStart (m : Nat) (s : State) : Out :=
  .next (
    match (s.mdw m).steps with
      | [] => s
      | t :: _ =>
        if !s.mayStart m t then s
        else
          let s := s.stepBoundary m
          if t.epoch ≠ s.fieldEpoch m then (s.abortStep m t .fieldChanged).failRekindle t.rekindle .fieldChanged
          else if (s.field m).halted then (s.abortStep m t .targetDead).failRekindle t.rekindle .targetDead
          else if (s.mdw m).stuck then s.abortStep m t .illegalInState (obsOf 6 (mCode (s.mdw m).state))
          else
            let s := s.beginStep m t
            match (s.mdw m).steps.head? with
            | none => s
            | some t => s.callBack (s.stepSpans t).1 (s.stepSpans t).2)

/-! ## Tile work -/

/-- The membership that a step's tables hold (R230, R234): the members in rank order and the tiles in shard order. -/
def State.membership (s : State) (m : Nat) (h : Hdr) : List NodeId × List Nat :=
  match Tbl.find s.eng.tables h.reduceTable with
  | some x => x
  | none => ((s.field m).members.map (·.node), List.range (s.mdw m).tiles.length)

/-- The program and the membership that a step runs under (R51, R52). -/
def State.stepProgram (s : State) (m : Nat) (h : Hdr) : List Nat :=
  let x := s.membership m h
  s.programKey h ++ x.1.map (·.toNat) ++ x.2

/-- What a row brings into a step: its place, its request's lantern with tokens, KV pages and adapter, and the tokens that enter. -/
def State.rowInputs (s : State) (u : RowUse) (ids : List (BitVec 16)) : List Nat :=
  let q := s.request u.request
  let x := s.lan q.lantern
  [u.row, u.tokens, u.segment, u.kvLen, b2n u.prompt, x.model, q.adapter] ++ ((s.adapter q.adapter).payload.map (·.toNat)) ++
    ((x.log ++ ids).map (·.toNat)) ++ s.pageData x.shared ++ (s.deedsOf q.lantern).flatMap (fun e => s.pageData e.2.pages)

/-- The weights of a step's model, and what the members have sent, in ascending rank. -/
def State.sharedInputs (s : State) (m : Nat) (h : Hdr) : List Nat :=
  let weights := match s.objByBase h.weights with
    | none => []
    | some i => Tbl.readBytes s.mem.gddr (4096 * (s.obj i).loc) (s.obj i).size
  let x := s.field m
  (weights ++ (s.membership m h).1.flatMap (fun n => (x.data.filter (fun d => d.1 == n)).flatMap (·.2.2))).map (·.toNat)

/-- All inputs of a step. -/
def State.stepInputs (s : State) (m : Nat) (h : Hdr) (rows : List (RowUse × List (BitVec 16))) : List Nat :=
  s.stepProgram m h ++ rows.flatMap (fun e => s.rowInputs e.1 e.2) ++ s.sharedInputs m h

/-- Slot positions and rows with work (R239). -/
def liveRows (t : Step) : List Nat :=
  let slot := ((t.rows.filter (fun u => u.segment != 0)).map (·.tokens)).sum + (match t.rekindle with | none => 0 | some r => r.2.2.2)
  List.range slot ++ t.rows.map (fun u => 8192 + u.row)

/-- The tiles of a meadow run a step's body: a function of the program, its inputs, the membership and the tile count, and of
what tile SRAM holds (R51, R52). -/
def State.runStep (s : State) (m : Nat) (t : Step) (rows : List (RowUse × List (BitVec 16))) : TileRun × List Word :=
  s.runTiles { key := s.stepInputs m t.hdr rows, sat := t.hdr.sat, live := liveRows t } t.hdr 0 (s.mdw m).tiles
    { sram := s.eng.sram, bad := s.sys.upsets, count := {}, stores := [], sent := [] }

/-- What the tiles leave behind: tile SRAM, and the counts of R226, R228 and R453. -/
def State.tilesRan (s : State) (m : Nat) (r : TileRun) : State :=
  let s := ((s.bump (Reg.FMT_SAT m) r.count.sat).bump (Reg.FMT_NAN m) r.count.nan).mapEng (fun e => { e with sram := r.sram })
  let s := (s.bump Reg.SRAM_CE r.corrected).bump Reg.SRAM_UE r.lost
  { s with sys := { s.sys with upsets := r.bad } }

/-- What a step's tiles send to other members goes out in TC0 with the stamps of R212: the placement epoch of the row's request
in the header, and the epochs of the deeds that it read. Entries of the reduction table behind those of the tiles name the
members in rank order. DESIGN CHOICE, log entry 143. -/
def State.sendContributions (s : State) (m : Nat) (t : Step) (out : List (Nat × Nat × Bytes)) : State :=
  if !s.fielded m then s else
  let x := s.membership m t.hdr
  out.foldl (fun s e => match x.1[e.1 - x.2.length]?, decide (x.2.length ≤ e.1) with
    | some n, true =>
      if n = s.me then s else
      let q := s.request (((t.rows.find? (·.row == e.2.1)).map (·.request)).getD (2 ^ 32))
      let deeds := (s.deedsOf q.lantern).map (fun d => (d.2.deed, d.2.epoch))
      let deeds := if t.rows.any (·.row == e.2.1) then deeds else []
      s.send n .collective 0 e.2.2.length (.contribution m (s.regN (Reg.STEP_SEQ m) + 1) e.2.1 deeds e.2.2) 0 none 0 0 q.placement false t.promise q.svc
    | _, _ => s) s

/-- Staged stores become visible; the row of a request that has ended stays unwritten (R112). -/
def State.commitStore (s : State) (rows : List RowUse) (w : Staged) : State :=
  let live := match rows.find? (·.row == w.row) with
    | none => true
    | some u => (s.request u.request).state.live
  if live then s.setBytes 0 (Tbl.writeBytes s.mem.gddr w.addr w.data) else s

/-! ## Committed tokens -/

/-- A page group for a lantern's top deed, at the model's default ratio. -/
def State.openGroup (s : State) (r : DRef) (d : Model) : Option State :=
  (s.takePages 0 d.ratio d.layers).map (fun q =>
    let x := q.2.deed r
    q.2.setDeed r { x with pages := x.pages ++ q.1, npages := x.npages + q.1.length, ratio := d.ratio, laid := d.headsLocal })

/-- `n` positions commit in a lantern's deeds, group by group (R190, R253). A deed takes one group at least, also where
DEED_PAGES is less than the pages of a group. DESIGN CHOICE, log entry 159. Positions for which the KV pool has
no group are counted without pages. -/
def State.commitTokens (s : State) (l : Nat) (d : Model) : Nat → Nat → State
  | 0, _ => s
  | fuel + 1, n =>
    if n = 0 then s
    else
      let lan := s.lan l
      let top := lan.deeds - 1
      let r : DRef := .own l top
      let x := s.deed r
      let grow (s : State) (k : Nat) : State :=
        let y := s.deed r
        (s.setDeed r { y with posCount := y.posCount + k }).setLan l { s.lan l with tokens := (s.lan l).tokens + k }
      let groups := if d.layers = 0 then 0 else x.pages.length / d.layers
      let room := groups * d.pageTokens - x.posCount
      let full := decide (s.regN Reg.DEED_PAGES < x.pages.length + d.layers) && !x.pages.isEmpty
      if (top = 0 ∨ x.state ≠ .home ∨ (room = 0 ∧ full)) ∧ lan.deeds < 1024 then
        let s := s.setDeed (.own l lan.deeds) { state := .home, home := s.me, epoch := 1, keeper := s.me, keeperLantern := 0xFFFFFFFF, deed := lan.deeds, posStart := lan.tokens, ratio := d.ratio }
        State.commitTokens (s.setLan l { lan with deeds := lan.deeds + 1 }) l d fuel n
      else if 0 < room then State.commitTokens (grow s (min n room)) l d fuel (n - min n room)
      else match s.openGroup r d with
        | some s => State.commitTokens s l d fuel n
        | none => grow s n

/-- Tokens commit: into the deeds and the token log (R271). -/
def State.appendTokens (s : State) (l : Nat) (ids : List (BitVec 16)) : State :=
  let s := match s.modelOf (s.lan l).model with
    | none => s.setLan l { s.lan l with tokens := (s.lan l).tokens + ids.length }
    | some d => s.commitTokens l d (3 * ids.length + 4) ids.length
  s.setLan l { s.lan l with log := (s.lan l).log ++ ids }

/-- Bytes read at an address: an object of the committed HDM window homed in GDDR7 as it is presented, the host region of the commons, else host
memory, whose contents are open; none where a commons word is uncorrectable. DESIGN CHOICE, log entry 2. -/
def State.readAt (s : State) (addr n : Nat) : Option Bytes × State :=
  let open_ (s : State) : Option Bytes × State := let r := s.free; (some (leBytes n r.1), r.2)
  match s.gddrPlace false addr, s.commonsAt addr with
  | some a, _ => (some (Tbl.readBytes s.mem.gddr a n), s)
  | none, some off => s.readCommons off n
  | none, none => match s.gddrObj addr with
    | some (o, rel) => (some (objRead o (fun a k => Tbl.readBytes s.mem.gddr (4096 * o.loc + a) k) rel n), s)
    | none => open_ s

/-- INT16 token identifiers at an address. DESIGN CHOICE, log entry 49. -/
def State.tokensAt (s : State) (addr n : Nat) : Option (List (BitVec 16)) × State :=
  let r := s.readAt addr (2 * n)
  (r.1.map (fun b => (List.range n).map (fun i => BitVec.ofNat 16 (le b (2 * i) 2))), r.2)

/-- The input of a generation row: the last token generated, else the last one in the log. -/
def State.lastToken (s : State) (q : Request) : BitVec 16 × State :=
  match q.lastTok.or (s.lan q.lantern).log.getLast? with
  | some t => (t, s)
  | none => let r := s.free; (BitVec.ofNat 16 r.1, r.2)

/-- The tokens that a row takes in. -/
def State.rowTokens (s : State) (u : RowUse) : Option (List (BitVec 16)) × State :=
  let q := s.request u.request
  if u.prompt then s.tokensAt (q.tokensAddr + 2 * q.prefilled) u.tokens else let r := s.lastToken q; (some [r.1], r.2)

/-- Those of every row, taken before anything commits. -/
def State.stepTokens (s : State) : List RowUse → Option (List (RowUse × List (BitVec 16))) × State
  | [] => (some [], s)
  | u :: us =>
    let a := s.rowTokens u
    let b := State.stepTokens a.2 us
    (a.1.bind (fun ids => b.1.map (fun es => (u, ids) :: es)), b.2)

/-- The new token of a row (R73, Table 6.6's completion test, R84 for the deadline token). DESIGN CHOICE, log entry 49. -/
def State.emitToken (s : State) (m : Nat) (u : RowUse) (t : BitVec 16) : State :=
  let q := s.request u.request
  let eos := match s.modelOf (s.lan q.lantern).model with | none => false | some d => t.toNat == d.eos
  let n := q.generated + 1
  let complete := decide (q.gMax ≤ n) || eos || (s.mdw m).role == 0 || q.releasing.isSome
  let s := s.writeAt (q.outAddr + 2 * q.generated) (leBytes 2 t.toNat)
  let s := if n = 1 then s.endPhase q.promise 8 s.now else s
  let s := if complete then s.endPhase q.promise 10 s.now else s
  let q := { q with generated := n, lastTok := some t, completed := q.completed || complete }
  if q.dt.isNone ∧ (!q.fullTurn ∨ complete) then
    let (s, _) := s.keepPromise q.promise s.now
    let b := (s.request u.request).breached
    s.setRequest u.request { q with dt := some s.now, promise := none, breached := b }
  else s.setRequest u.request q

/-- The token that a row produces: from the program, the membership, and this row's own inputs, since attention never crosses
segments (R51, R52, R238). DESIGN CHOICE, log entry 142. -/
def State.rowToken (s : State) (m : Nat) (h : Hdr) (e : RowUse × List (BitVec 16)) : BitVec 16 :=
  BitVec.ofNat 16 (Config.stepToken (s.stepProgram m h ++ s.rowInputs e.1 e.2))

/-- One row of a committed step with its new token; a request that has ended takes nothing (R112), and one that waits for its
release is complete (R140). -/
def State.commitRow (s : State) (m : Nat) (u : RowUse) (ids : List (BitVec 16)) (t : BitVec 16) : State :=
  let q := s.request u.request
  if !q.state.live then s
  else
    let s := s.appendTokens q.lantern ids
    let s := s.setRequest u.request { q with prefilled := if u.prompt then q.prefilled + u.tokens else q.prefilled, completed := q.completed || q.releasing.isSome }
    if u.emits then s.emitToken m u t else s

/-- After a commit, a request of the meadow may be overdue (R176, before the completion test), complete, or go
with a pending release (R179, Table 5.8). -/
def State.judgeRequest (s : State) (r : Nat) : State :=
  let q := s.request r
  let release (s : State) : State := match q.releasing with
    | some (tool, hint) => if q.completed then s.freeEntry r (if tool then some hint else none) else s
    | none => s
  if !q.state.live then s
  else if q.deadlineBeat ≠ allOnes64 ∧ q.deadlineBeat < s.now ∧ (q.dt.map (fun t => decide (q.deadlineBeat < t))).getD true then
    let s := s.failPromise q.promise .overdue
    let s := s.setRequest r { s.request r with promise := none }
    release (s.endRequest r .overdue .overdue)
  else if q.completed then release (s.endRequest r .done .ok)
  else s

/-! ## Charges (R183) -/

def State.chargeTile (s : State) (svc n : Nat) : State :=
  s.mapLore (fun l => { l with scTile := Tbl.set (fun _ => 0) l.scTile svc ((Tbl.get (fun _ => 0) l.scTile svc + n) % 2 ^ 64) })

/-- The meadow's tiles × P_len charged to the classes of the rows in use, by tokens; the remainder to the
lowest row. -/
def State.chargeStep (s : State) (t : Step) : State :=
  let total := (t.rows.map (·.tokens)).sum
  let work := t.hdr.tiles * t.hdr.pLen
  if total = 0 then s
  else
    let part (u : RowUse) : Nat := work * u.tokens / total
    let rem := work - (t.rows.map part).sum
    let low := t.rows.foldl (fun (b : Option RowUse) u => match b with
      | none => some u
      | some v => if u.row < v.row then some u else some v) none
    let s := t.rows.foldl (fun s u => s.chargeTile (s.request u.request).svc (part u)) s
    match low with | none => s | some u => s.chargeTile (s.request u.request).svc rem

/-! ## The commit -/

/-- A committed `REKINDLE` range (R275): each deed `HOME` at its ember epoch + 1; its map entry goes. -/
def State.rekindleDeed (s : State) (m l i : Nat) : Option State :=
  match (s.lan l).embers.find? (fun e => e.1 == i), s.modelOf (s.lan l).model with
  | some (_, ep, ps, pc), some d =>
    let n := d.layers * ceilDiv pc d.pageTokens
    let heads := if s.fielded m then s.headsOf (s.field m).model else d.headsLocal
    (s.takePages 0 d.ratio n).map (fun r =>
      let s := r.2.setDeed (.own l i) { r.2.deed (.own l i) with state := .home, epoch := ep + 1, home := s.me, peer := 0, posStart := ps, posCount := pc, pages := r.1, npages := r.1.length, ratio := d.ratio, laid := heads }
      s.setLan l { s.lan l with embers := (s.lan l).embers.filter (fun e => e.1 != i) })
  | _, _ => some s

def State.rekindleAll (s : State) (m l : Nat) : List Nat → Option State
  | [] => some s
  | i :: t => (s.rekindleDeed m l i).bind (fun s => State.rekindleAll s m l t)

/-- The part of a range that a step carried commits. -/
def State.commitRekindle (s : State) (part : Option (Nat × Nat × Nat × Nat)) : State :=
  match part with
  | none => s
  | some (l, a, _, n) => match s.eng.rekindles.find? (fun r => r.lantern == l && r.first == a) with
    | none => s
    | some r =>
      if r.done + n < r.total then
        s.mapEng (fun e => { e with rekindles := e.rekindles.map (fun (x : Rekindle) => if x.lantern = l ∧ x.first = a then { x with done := x.done + n } else x) })
      else
        let s := s.endPhase r.promise 8 s.now
        match s.rekindleAll r.meadow l ((List.range (r.last + 1 - r.first)).map (· + r.first)) with
        | none => s.endRekindle r .noSpace
        | some s => s.endRekindle r .ok

/-- Codes with which a step fails the requests it carries (R178). -/
def failsRequests (c : Code) : Bool :=
  c == .checkFail || c == .sizeExceeded || c == .sizeShort || c == .notResident || c == .isolated

/-- A running step ends without commit (R178). -/
def State.failStep (s : State) (m : Nat) (t : Step) (code : Code) (excused : Bool := false) : State :=
  let s := s.chargeStep t
  let s := if failsRequests code then t.rows.foldl (fun s u =>
      if (s.request u.request).state = RState.running then s.dropRequest u.request .failed code excused else s) s
    else s
  (s.abortStep m t code 0 excused).failRekindle t.rekindle code

/-- The CRCs of a step's virtual tiles, those that a faulty tile formed in place of its own among them. -/
def tileCrcs (found : List Word) (faults : List (Nat × Word)) : List Word :=
  (List.range found.length).map (fun i => ((faults.find? (·.1 == i)).map (·.2)).getD (found.getD i 0))

/-- The step's inputs and received data are held, for the last 64 steps (R242). -/
def State.capture (s : State) (m : Nat) (t : Step) (truth crcs : List Word) : State :=
  let x := s.mdw m
  let k : Capture := { seq := s.regN (Reg.STEP_SEQ m), hdr := t.hdr, tiles := x.tiles, crcs := crcs, truth := truth, rows := t.rows.map (·.row), requests := t.rows.map (·.request), lost := 0 }
  s.setMdw m { x with captures := (k :: x.captures).take 64 }

/-- The SHADOW_EVERY-th commit queues an automatic shadow run (R244). -/
def State.countShadow (s : State) (m : Nat) : State :=
  let x := s.mdw m
  let every := bits (s.regN Reg.SHADOW_EVERY) 15 0
  let n := x.sinceShadow + 1
  if every ≠ 0 ∧ every ≤ n then
    (s.setMdw m { x with sinceShadow := 0 }).mapEng (fun e => { e with shadowPending := e.shadowPending ++ [(m, s.regN (Reg.STEP_SEQ m))] })
  else s.setMdw m { x with sinceShadow := n }

def State.setField (s : State) (m : Nat) (f : FieldSt) : State :=
  { s with fld := Tbl.set (fun _ => {}) s.fld m f }

/-- The member's report of a committed field step goes to the root (R421). -/
def State.reportStep (s : State) (m : Nat) (slack : Int) : State :=
  let f := s.field m
  if !s.fielded m then s
  else
    let r : StepReport := { fieldId := f.id, stepSeq := s.regN (Reg.STEP_SEQ m), slack := slack, derated := f.derated, quarantined := f.quar, retx := f.retx }
    let s := s.setField m { f with derated := decide (s.clk.timing = .derated), quar := 0, retx := 0 }
    if f.root = s.me then
      s.setField m { s.field m with reports := (s.field m).reports ++ [(s.me, r)], evalSeq := some ((s.field m).evalSeq.getD r.stepSeq), reportBeat := s.now }
    else s.send f.root .mgmt 4 (openLen .mgmt) (.stepReport r)

/-- Slack, stalls and the overrun of a step whose tiles used `used` beats (R48, R50). DEDUCED, log entry 51. -/
def State.noteSlack (s : State) (m : Nat) (t : Step) (used stalls : Nat) : State :=
  let slack : Int := (t.hdr.pLen : Int) - used
  let s := if t.hdr.pLen < used then s.raise Ev.beatOverrun 0 0 0 (some m) 4 else s
  let x := s.mdw m
  let s := s.setMdw m { x with lastSlack := slack, slackMin := some (match x.slackMin with | none => slack | some v => min v slack), slackMax := max x.slackMax slack, overruns := x.overruns + (if t.hdr.pLen < used then 1 else 0), stalls := x.stalls + stalls }
  s.bump Reg.EXACT_STALL_BEATS stalls

/-- A step commits: the outputs of every row together, then every request's deadline and completion. DEDUCED, log entry 51. -/
def State.commitStep (s : State) (m : Nat) (t : Step) (used : Nat) (truth crcs : List Word) (stores : List Staged)
    (rows : List (RowUse × List (BitVec 16) × BitVec 16)) : State :=
  let s := s.chargeStep t
  let s := s.setRegN (Reg.STEP_SEQ m) ((s.regN (Reg.STEP_SEQ m) + 1) % 2 ^ 64)
  let s := stores.foldl (fun s w => s.commitStore t.rows w) s
  let s := (s.capture m t truth crcs).countShadow m
  let s := rows.foldl (fun s e => s.commitRow m e.1 e.2.1 e.2.2) s
  let s := (s.requestsOn m).foldl State.judgeRequest s
  let s := (s.popStep m s.now).commitRekindle t.rekindle
  let s := s.reportStep m ((t.hdr.pLen : Int) - used)
  let s := s.endPhase t.promise 9 s.now
  let (s, code) := s.keepPromise t.promise s.now
  s.stepDone t code

/-- A member of the meadow's field is marked dead (R427). -/
def State.deadMember (s : State) (m : Nat) : Bool :=
  s.fielded m && (s.field m).members.any (fun e => e.node != s.me && (s.partnerState e.node == .dead || s.partnerState e.node == .left))

/-- Path and media faults that a step met concern its promise and those of its rows' requests (R83). -/
def State.markStep (s : State) (t : Step) (r : StepResult) : State :=
  let mark (p : Promise) : Promise := { p with path := p.path || r.path, media := p.media || r.media }
  t.rows.foldl (fun s u => s.updPromise (s.request u.request).promise mark) (s.updPromise t.promise mark)

/-- The end of a step that is due: its rows' tokens are read, its tiles run, and it commits, or fails with the code that was
reported, with `CHECK_FAIL` on a word that could not be corrected, or with `BAD_OPERAND` where a token would be written into a
packed object (R178, R291, R453). -/
def State.endStep (s : State) (m : Nat) (t : Step) (used : Nat) (r : StepResult) : State :=
  let (ids, s) := (s.markStep t r).stepTokens t.rows
  let rows := ids.getD []
  let run := s.runStep m t rows
  let done := rows.map (fun e => (e.1, e.2, s.rowToken m t.hdr e))
  let s := ((s.tilesRan m run.1).sendContributions m t run.1.outgoing).noteSlack m t used r.stallBeats
  let split := t.rows.any (fun u => u.emits && s.splitsAt ((s.request u.request).outAddr + 2 * (s.request u.request).generated) 2)
  match (r.fail.filter failsRequests).or (if ids.isNone ∨ 0 < run.1.lost then some Code.checkFail
      else if split then some .badOperand else none) with
  | some code => s.failStep m t code (code == .isolated)
  | none => s.commitStep m t used run.2 (tileCrcs run.2 r.faults) run.1.stores done

/-- The tiles of a started step are known to have used their beats, and P_len has passed: it commits in this beat (R34, R50). -/
def State.commitDue (s : State) (m : Nat) (t : Step) : Bool :=
  t.started && !s.deadMember m && !s.stepSnooped t && (match t.used with | none => false | some u => decide (t.start + max t.hdr.pLen u ≤ s.now))

/-- Work of orders 1 and 4 that has not been done yet in this beat: a step that is to start or to commit (Table 2.1). DEDUCED, log
entry 162. -/
def State.stepsWait (s : State) : Bool :=
  s.eng.meadows.any (fun e => match e.2.steps with | [] => false | t :: _ => s.mayStart e.1 t || s.commitDue e.1 t)

/-- The first step of the meadow that holds a tile. -/
def State.headStep (s : State) (tile : Nat) : Option Step :=
  (s.eng.meadows.find? (fun e => e.2.tiles.contains tile)).bind (fun e => e.2.steps.head?)

/-- The tile stages of a step have ended, and P_len leaves it these beats (R48). -/
def Step.slack (t : Step) (now : Nat) : Nat := if t.started ∧ t.used.isSome then t.start + t.hdr.pLen - now else 0

/-- Beats that a tile has before its meadow's next step boundary needs it; `none` where no step does: those before the step's start,
or its slack (R48). -/
def State.slackLeft (s : State) (tile : Nat) : Option Nat :=
  (s.headStep tile).map (fun t => if t.started then t.slack s.now else t.start - s.now)

/-- The tile has a beat for background work. -/
def State.tileFree (s : State) (tile : Nat) : Bool := s.slackLeft tile != some 0

/-- A step is due when its tiles have used their beats and P_len has passed (R34, R50). A field step whose
collective data comes from a dead member waits (R427), and so does one that needs a line the host still holds (R441). DESIGN CHOICE, log entry 7. DESIGN CHOICE, log entry 86. -/
def execStepCommit (m : Nat) (r : StepResult) (s : State) : Out :=
  .next (match (s.mdw m).steps with
    | [] => s
    | t :: _ =>
      let used := t.used.getD r.usedBeats
      if !s.cdUp ∨ !t.started ∨ s.now < t.start + max t.hdr.pLen used ∨ s.deadMember m ∨ s.stepSnooped t then s
      else s.atCommit.endStep m t used r)

end Sys2Proof.Machine
end

