-- ==== Sys2Proof/Machine/Shadows.lean ====
section
/-! DEFINITION. Shadow steps, the referee, quarantine, canaries and the shadow set (R146, R241 to R249). -/

namespace Sys2Proof.Machine

/-! ## Shadow runs -/

/-- The virtual tiles that a run replays, one per tile of the shadow half (R243, R245). -/
def State.virtuals (s : State) (m : Nat) : List (Nat × Nat) :=
  let x := s.mdw m
  let n := x.tiles.length
  if n = 0 then [] else
    let vs := (List.range s.shadowHalf.length).map (fun i => (x.shadowNext + i) % n)
    let vs := match x.resplit, vs with
      | some v, _ :: t => v :: t
      | _, _ => vs
    vs.zip s.shadowHalf

/-- The CRCs that the replay of virtual tiles forms from the captured inputs, those of faulty shadow tiles among them (R243). -/
def replayed (k : Capture) (vs : List (Nat × Nat)) (faults : List (Nat × Word)) : List Word :=
  vs.map (fun e => ((faults.find? (·.1 == e.1)).map (·.2)).getD (k.truth.getD e.1 0))

/-- The first replayed virtual tile whose CRC differs from the original's: virtual tile, original tile, shadow
tile and both CRCs. -/
def mismatchOf (k : Capture) : List (Nat × Nat) → List Word → Option (Nat × Nat × Nat × Word × Word)
  | (v, j) :: t, c :: cs =>
    match k.crcs[v]? with
    | none => mismatchOf k t cs
    | some o => if o = c then mismatchOf k t cs else some (v, k.tiles[v]?.getD 0, j, o, c)
  | _, _ => none

def State.captureOf (s : State) (m low : Nat) : Option Capture :=
  (s.mdw m).captures.find? (fun k => decide (k.seq % 2 ^ 32 = low))

/-- What the replay of `n` virtual tiles on tiles `on` needs of the counted resources: P_len beats of each tile, and the captured
data, which lies evenly over the GDDR7 channels (R242, R243). -/
def State.replayNeed (s : State) (h : Hdr) (on : List Nat) : List (Nat × Nat) :=
  on.map (fun i => (resTile i, h.pLen * s.clk.len)) ++ (List.range 24).map (fun c => (c, ceilDiv (h.capture * on.length) 24))

/-- A run takes the shadow set until its P_len beats have passed; an automatic one has them within the background share alone
(R48, R244). DEDUCED, log entry 52. -/
def State.startShadow (s : State) (m : Nat) (k : Capture) (owner : Option Nat) (promise : Option Nat) (watts : Nat)
    (faults : List (Nat × Word)) : State :=
  let vs := s.virtuals m
  let crcs := replayed k vs faults
  let bad := mismatchOf k vs crcs
  let r : ShadowRun := { meadow := m, seq := k.seq, owner := owner, promise := promise, watts := watts, mismatch := bad, hdr := k.hdr, due := s.now + 1 + k.hdr.pLen, crcs := crcs, truth := (bad.map (fun b => k.truth.getD b.1 0)).getD 0, replaces := s.eng.shadow.any (·.owner.isNone), requests := k.requests }
  let x := s.mdw m
  let s := s.setMdw m { x with shadowNext := (x.shadowNext + vs.length) % max 1 x.tiles.length, resplit := none }
  let s := if owner.isSome then s else s.addJob 3 0 (s.replayNeed k.hdr (vs.map (·.2)))
  s.mapEng (fun e => { e with shadow := some r })

/-- An automatic run that gave way to software's is abandoned at the boundary, and counted (R244). -/
def State.abandonAuto (s : State) : State :=
  match s.eng.shadow with
  | some r => if r.replaces then ((s.mapEng (fun e => { e with shadow := some { r with replaces := false } })).dropJob 3 0).bump Reg.SHADOW_ABANDONED else s
  | none => s

/-- Table 5.12, R28, R232, R235, R242, R244, R247. DEDUCED, log entry 52. -/
def State.preShadow (s : State) (addr low m : Nat) : Pre :=
  let x := s.mdw m
  let here := illegal 6 (mCode x.state)
  match s.hdrAt addr with
  | none => badOp
  | some h =>
    if !s.bodyKnown h then badOp
    else if h.beatNs ≠ s.clk.len then illegal 0 0
    else match s.captureOf m low with
      | none => here
      | some k =>
        if k.lost = 2 then some (.fieldChanged, 0)
        else if k.lost ≠ 0 ∨ k.hdr.addr ≠ addr ∨ s.shadowList.length < 2 then here
        else match s.eng.shadow with
          | some r => if r.owner.isSome then here else none
          | none => none

def State.bodyShadow (s : State) (c : Nat) (w : IWord) (faults : List (Nat × Word)) (x : Ctx) : IRes :=
  let m := x.entry.meadow
  let addr := w.opc.toNat
  match s.preShadow addr w.opb.toNat m, s.hdrAt addr, s.captureOf m w.opb.toNat with
  | some (code, obs), some h, _ => .failAs (s.noteBody h) code obs
  | some (code, obs), none, _ => .fail code obs
  | none, some h, some k =>
    match (s.noteBody h).admitAt c x ((s.noteBody h).stepItem x.pc m h true) with
    | .no r => r
    | .go s id _ => .wait (s.startShadow m k (some c) id h.watts faults) .op
  | none, _, _ => .fail .badOperand 0

/-- `faults` are the CRCs that faulty shadow tiles form, by virtual tile. -/
def execShadow (c : Nat) (w : IWord) (faults : List (Nat × BitVec 64)) (s : State) : Out :=
  .next (s.runInstr c 0x41 w (.shadow c w faults) (shapeOk 0x41 w) false false (s.bodyShadow c w faults))

/-- A pending automatic run starts as background work (R244). Runs stop while the set holds fewer than 2 tiles (R247). -/
def execAutoShadowRun (m : Nat) (faulty : List Nat) (crcs : List Word) (s : State) : Out :=
  .next (match s.eng.shadowPending.find? (·.1 == m) with
    | none => s
    | some (_, seq) =>
      if !s.cdUp ∨ s.shadowList.length < 2 ∨ s.eng.shadow.isSome then s
      else
        let s := s.mapEng (fun e => { e with shadowPending := e.shadowPending.erase (m, seq) })
        match (s.mdw m).captures.find? (fun k => k.seq == seq && k.lost == 0) with
          | none => s
          | some k => s.startShadow m k none none 0 (faulty.zip crcs))

/-- The referee half has a run to replay: one virtual tile on its first tile. -/
def State.queueReferee (s : State) : State :=
  match s.eng.referee with
  | [] => s
  | r :: _ => if s.hasJob 3 1 then s else s.addJob 3 1 (s.replayNeed r.hdr (s.refereeHalf.take 1))

/-- A run has used its beats: it is counted; a mismatch goes to the referee half; out0 takes the combined CRC
of the replayed virtual tiles (R243, R245). DEDUCED, log entry 52. -/
def State.endShadow (s : State) (r : ShadowRun) : State :=
  let s := ((s.mapEng (fun e => { e with shadow := none })).dropJob 3 0).bump Reg.SHADOW_RUNS
  let s := s.setMdw r.meadow { s.mdw r.meadow with shadowRuns := (s.mdw r.meadow).shadowRuns + 1 }
  let s := if r.mismatch.isSome then
      ((s.bump Reg.SHADOW_MISMATCHES).mapEng (fun e => { e with referee := e.referee ++ [r] })).queueReferee
    else s
  match r.owner with
  | none => s
  | some c =>
    let s := s.setOut (.instr c) (fun x => { x with out0 := (combinedCrc r.crcs).toNat })
    if r.mismatch.isSome then (s.failPromise r.promise .shadowMismatch).finish (.instr c) .shadowMismatch
    else
      let s := s.endPhase r.promise 9 s.now
      let (s, code) := s.keepPromise r.promise s.now
      s.finish (.instr c) code

/-- Software's run ends in its due beat, an automatic one once it has had its beats. -/
def State.dueShadow (s : State) : State :=
  let s := s.abandonAuto
  match s.eng.shadow with
  | some r => if (if r.owner.isSome then decide (r.due ≤ s.now) else s.jobDone 3 0) then s.endShadow r else s
  | none => s

/-! ## Quarantine -/

/-- R246: bands of 10 °C. -/
def tempBand (t : Int) : Nat := if t < 45 then 0 else if 105 ≤ t then 7 else 1 + (t - 45).toNat / 10

/-- The band that a tile stands in: of the last sample of the junction sensor beside it, one for every four tiles (R478). -/
def State.bandOf (s : State) (tile : Nat) : Nat := tempBand ((s.sys.samples.head?.bind (·.junction[tile / 4]?)).getD 0)

/-- FIELD_READY loses ready when it stands for this meadow (R430). -/
def State.unready (s : State) (m : Nat) : State :=
  let v := s.regN Reg.FIELD_READY
  if bits v 10 8 = m then s.setRegN Reg.FIELD_READY (v % 2 ^ 31) else s

/-- A tile is quarantined (R246, R247): a meadow tile leaves at the meadow's next step boundary. -/
def State.quarantine (s : State) (i band cls : Nat) : State :=
  let t := s.tile i
  let s := s.setTile i { t with state := 3, band := band, cls := cls, passes := 0, fails := 0 }
  let s := (s.bump (Reg.QUAR_HIST (16 * band + cls))).raise Ev.tileQuarantined 0 i
  if t.state ≠ 1 then s
  else
    let m := t.meadow
    let x := s.mdw m
    let s := (s.setMdw m { x with quarantined := x.quarantined ++ [i] }).unready m
    if s.fielded m then s.setField m { s.field m with quar := (s.field m).quar + 1 } else s

/-- The referee half has re-run the disputed virtual tile within the background share: the majority of the three CRCs decides
(R146, R245). A step that lost is named with each request of its rows. -/
def execRefereeRun (faulty : Bool) (formed : Word) (s : State) : Out :=
  .next (match s.eng.referee with
    | [] => s
    | r :: rest =>
      if !s.cdUp ∨ !s.jobDone 3 1 then s else
      let s := ((s.mapEng (fun e => { e with referee := rest })).dropJob 3 1).queueReferee
      match r.mismatch with
      | none => s
      | some (v, orig, shadow, a, b) =>
        let crc := if faulty then formed else r.truth
        if crc = a then s.quarantine shadow (s.bandOf shadow) r.hdr.pattern
        else if crc = b then
          let s := s.quarantine orig (s.bandOf orig) r.hdr.pattern
          if r.requests.isEmpty then s.raise Ev.shadowOriginalLost 0 r.seq 0 (some r.meadow)
          else r.requests.foldl (fun s q => s.raise Ev.shadowOriginalLost 0 r.seq q (some r.meadow)) s
        else (s.setMdw r.meadow { s.mdw r.meadow with resplit := some v }).raise Ev.shadowSplit 0 r.seq v (some r.meadow))

/-- A ROM canary ran on a quarantined tile in its recorded band (R248). It takes a beat of the tile within the background share.
DESIGN CHOICE, log entries 130 and 171. -/
def execCanaryRun (tile : Nat) (got want : Word) (s : State) : Out :=
  .next (
    let t := s.tile tile
    if !s.cdUp ∨ t.state ≠ 3 ∨ s.bandOf tile ≠ t.band ∨ !s.bgRoom (resTile tile) s.clk.len then s
    else
    let s := s.bgUse (resTile tile) s.clk.len
    if got = want then
      (if bits (s.regN Reg.CANARY_PASSES) 7 0 ≤ t.passes + 1 then
        (s.setTile tile { t with state := 2, passes := t.passes + 1 }).raise Ev.tileReadmitted 0 tile
       else s.setTile tile { t with passes := t.passes + 1 })
    else s.setTile tile { t with passes := 0, fails := t.fails + 1, state := if 3 ≤ t.fails + 1 then 4 else 3 })

/-- DEDUCED, log entry 53. -/
def execTileClear (tile : Nat) (s : State) : Out :=
  .next (if s.cdUp ∧ (s.tile tile).state = 4 then s.setTile tile {} else s)

/-! ## The shadow set (R241, R249) -/

/-- The tiles that the four words name, with one word replaced. -/
def State.shadowNamed (s : State) (word v : Nat) : List Nat :=
  (List.range 128).filter (fun i => bit (if i / 32 = word then v else s.regN (Reg.SHADOW_SET (i / 32))) (i % 32))

/-- The tiles that a definition which has started takes (R406). -/
def State.claimedTiles (s : State) : List Nat :=
  s.eng.meadows.flatMap (fun e => match e.2.pendingDef with | some (d, _) => (List.range 128).filter (fun i => bit (le d 0 16) i) | none => [])

/-- A legal set holds an even number of tiles from 2 to 16, none of them a meadow's or about to be (R13). DEDUCED, log entry 53. -/
def State.shadowLegal (s : State) (l : List Nat) : Bool :=
  decide (l.length % 2 = 0 ∧ 2 ≤ l.length ∧ l.length ≤ 16) && l.all (fun i => (s.tile i).state != 1 && !s.claimedTiles.contains i)

def execShadowSetWrite (word : Nat) (v : BitVec 32) (s : State) : Out :=
  .next (
    let l := s.shadowNamed word v.toNat
    if !s.cdUp then s
    else if 4 ≤ word ∨ !s.shadowLegal l then s.configReject (Reg.SHADOW_SET word) v.toNat
    else (s.setRegN (Reg.SHADOW_SET word) v.toNat).mapEng (fun e => { e with shadowSet := some l }))

/-- A pending set takes effect while no shadow or referee run is in progress. -/
def execShadowSetEffect (s : State) : Out :=
  .next (match s.eng.shadowSet with
    | none => s
    | some l =>
      if !s.cdUp ∨ s.eng.shadow.isSome ∨ !s.eng.referee.isEmpty then s
      else
        let s := s.mapEng (fun e => { e with shadowSet := none })
        (List.range 128).foldl (fun s i =>
          let t := s.tile i
          if t.state = 2 ∧ !l.contains i then s.setTile i { t with state := 0 }
          else if t.state = 0 ∧ l.contains i ∧ !s.claimedTiles.contains i then s.setTile i { t with state := 2 } else s) s)

end Sys2Proof.Machine
end

