-- ==== Sys2Proof/Machine/Models.lean ====
section
/-! DEFINITION. Model descriptors, adapters and weight windows (R251 to R254, R278 to R282). -/

namespace Sys2Proof.Machine

/-! ## The model table (R251, R252, R254) -/

/-- MODEL_STATUS after a command (Table 9.11). -/
def State.modelDone (s : State) (slot error : Nat) : State := s.setRegN Reg.MODEL_STATUS (256 * error + slot)

def execModelCmdInstall (slot : Nat) (d : Bytes) (s : State) : Out :=
  .next (
    if !s.cdUp then s
    else s.whileFree Reg.MODEL_CMD (2 ^ 31 + slot) (fun s => match parseModel d with
      | none => s.modelDone slot 0x01
      | some m =>
        if (s.mem.models.find slot).isSome ∨ (s.modelOf m.model).isSome then s.modelDone slot 0x02
        else (s.mapMem (fun x => { x with models := Tbl.put (Tbl.drop x.models slot) slot m })).modelDone slot 0x00))

/-- A lantern, request, meadow, trie node or adapter version names the model. -/
def State.modelUsed (s : State) (m : Model) : Bool :=
  s.lore.lanterns.any (fun e => e.2.state != .closed && e.2.model == m.model) ||
  s.lore.requests.any (fun e => e.2.state != .free && (s.lan e.2.lantern).model == m.model) ||
  s.eng.meadows.any (fun e => e.2.state != .free && ((e.2.program.map (·.model)) == some m.model || (e.2.window.map (·.1)) == some m.weights)) ||
  s.mem.trie.any (fun e => e.2.model == m.model) ||
  s.mem.adapters.any (fun e => e.2.state != 0 && e.2.model == m.model)

def execModelCmdRemove (slot : Nat) (s : State) : Out :=
  .next (
    if !s.cdUp then s
    else s.whileFree Reg.MODEL_CMD (2 ^ 31 + 2 ^ 30 + slot) (fun s => match s.mem.models.find slot with
      | none => s.modelDone slot 0x04
      | some m =>
        if s.modelUsed m then s.modelDone slot 0x03
        else (s.mapMem (fun x => { x with models := Tbl.drop x.models slot })).modelDone slot 0x00))

/-! ## Adapters (R152, R278 to R280) -/

/-- The header of an adapter object without a reserved encoding. -/
def adapterShape (d : Bytes) : Bool :=
  decide (le d 0 4 = 0x50444157) && decide (1 ≤ le d 6 2 ∧ le d 6 2 ≤ 256) &&
    (le d 8 1 == 1 || le d 8 1 == 3) && zeroAt d 9 7 && zeroAt d 32 8

/-- A version verified and made resident (the object named by its hdm_base, R312): its number, or the code with which the instruction ends. -/
def State.newAdapter (s : State) (d payload : Bytes) (object : Nat) : Except Code (Nat × State) :=
  if (s.objByBase object).isNone ∨ !adapterShape d then .error .badOperand
  else if le d 16 8 ≠ payload.length ∨ (digestBytes (sha256 payload)).take 24 ≠ (d.drop 40).take 24 then .error .checkFail
  else match s.mem.adapters.lowestFree 0 4096 with
    | none => .error .noSpace
    | some v =>
      let a : Adapter := { state := 1, model := le d 4 2, payload := payload, object := object }
      .ok (v, s.mapMem (fun m => { m with adapters := Tbl.put (Tbl.drop m.adapters v) v a }))

def execAdpLoad (c : Nat) (w : IWord) (d payload : Bytes) (s : State) : Out :=
  .next (s.runInstr c 0x68 w (.adpLoad c w d payload) (shapeOk 0x68 w) false false (fun _ =>
    match s.newAdapter d payload w.opc.toNat with
    | .error code => .fail code 0
    | .ok (v, s) => .ok (s.setOut (.instr c) (fun x => { x with out0 := v }))))

def execAdpReplace (c : Nat) (w : IWord) (d payload : Bytes) (s : State) : Out :=
  .next (s.runInstr c 0x69 w (.adpReplace c w d payload) (shapeOk 0x69 w) false false (fun _ =>
    let old := w.opa.toNat
    if (s.objByBase w.opc.toNat).isNone ∨ !adapterShape d then .fail .badOperand 0
    else if (s.adapter old).state ≠ 1 then .fail .illegalInState 0
    else match s.newAdapter d payload w.opc.toNat with
      | .error code => .fail code 0
      | .ok (v, s) =>
        let s := s.mapMem (fun m => { m with adapters := Tbl.put (Tbl.drop m.adapters old) old { s.adapter old with successor := some v } })
        .ok (s.setOut (.instr c) (fun x => { x with out0 := v }))))

def execAdpRetire (c : Nat) (w : IWord) (s : State) : Out :=
  .next (s.runInstr c 0x6A w (.adpRetire c w) (shapeOk 0x6A w) false false (fun _ =>
    let v := w.opa.toNat
    if (s.adapter v).state ≠ 1 then .fail .illegalInState 0
    else .ok (s.mapMem (fun m => { m with adapters := Tbl.put (Tbl.drop m.adapters v) v { s.adapter v with state := 2 } })).reapAdapters))

/-! ## Weight windows (R281, R282) -/

/-- The header and extents of a weight object without a reserved encoding. -/
def weightShape (d : Bytes) : Bool :=
  decide (le d 0 4 = 0x54474957) && decide (le d 8 1 ≤ 7) && zeroAt d 9 55 &&
    (List.range (le d 6 2)).all (fun i => decide (le d (64 + 32 * i) 1 ≤ 3) && zeroAt d (65 + 32 * i) 7)

/-- `STREAM_WEIGHTS` commits when the first W layers are resident, or ends with what reading them met. DEDUCED, log entry 64. -/
def execStreamWeights (c : Nat) (w : IWord) (d : Bytes) (fail : Option Code) (s : State) : Out :=
  .next (s.runInstr c 0x62 w (.streamWeights c w d fail) (shapeOk 0x62 w) false false (fun x =>
    let m := x.entry.meadow
    let g := s.mdw m
    if w.opb = 0 ∨ (s.objByBase w.opc.toNat).isNone ∨ !weightShape d then .fail .badOperand 0
    else if g.state = .free ∨ g.role = 2 ∨ g.steps.any (·.started) then .fail .illegalInState (obsOf 6 (mCode g.state))
    else if (s.objByBase w.opc.toNat).any (fun i => (s.obj i).exact) ∧ (s.expanderOf m).isNone then .fail .notResident 0
    else match onlyCodes [.noSpace, .notResident, .sizeExceeded, .sizeShort, .checkFail] fail with
      | some code => .fail code 0
      | none => .ok (s.setMdw m { g with window := some (w.opc.toNat, w.opb.toNat, le d 6 2) })))

end Sys2Proof.Machine
end

