-- ==== Sys2Proof/Machine/Attention.lean ====
section
/-! DEFINITION. Near-state attention at the keeper and at the home, the merge of partials, and `REKINDLE`
(R147, R148, R212, R213, R265 to R270, R275). -/

namespace Sys2Proof.Machine

/-! ## `ATTN_PARTIAL` at the keeper -/

/-- Table 9.6 without a reserved value. -/
def partialShape (d : Bytes) : Bool :=
  decide (le d 38 1 ≤ 1) && zeroAt d 39 1 && zeroAt d 48 16 && decide (1 ≤ le d 34 2 ∧ 1 ≤ le d 36 2) &&
    (le d 24 8 == 2 ^ 64 - 1 || le d 0 8 == 0)

/-- The home that a deed's partial asks: the recorded one, or this Cucia. -/
def State.partialHome (s : State) (l i : Nat) : NodeId :=
  let d := s.deed (.own l i)
  if d.state = .remote then d.home else s.me

/-- Hops to a home, 0 here. -/
def State.hopsTo (s : State) (n : NodeId) : Option Nat :=
  if n = s.me then some 0 else (s.route n).map (fun r => r.2.2.1)

/-- Table 5.13, R23, R161, R189. DEDUCED, log entry 57. -/
def State.prePartial (s : State) (w : IWord) (d : Bytes) : Pre :=
  let l := w.opb.toNat
  let i := w.opa.toNat
  let x := s.lan l
  let st := (s.deed (.own l i)).state
  if i = 0 ∨ !partialShape d then badOp
  else if !s.keeps l then some (.staleMap, 0)
  else if x.deeds ≤ i ∨ ((s.modelOf x.model).map (·.layers)).getD 0 < le d 32 2 + le d 34 2 then badOp
  else if !x.nearState then illegal 1 (lCode x.state)
  else if st = .ember then some (.notResident, 0)
  else if st ≠ .remote ∧ st ≠ .home then illegal 3 (dCode st)
  else
    let n := s.partialHome l i
    if s.partnerState n = .dead ∨ s.partnerState n = .left then some (.targetDead, 0)
    else if (s.hopsTo n).isNone then some (.staleMap, 0) else none

def State.setPartialOp (s : State) (p : PartialOp) : State :=
  s.mapEng (fun e => { e with partials := e.partials.map (fun q => if q.id = p.id then p else q) })

/-- A deed counts the accepted partials that have not committed (Table 7.1). -/
def State.addPartials (s : State) (r : DRef) (up : Bool) : State :=
  let d := s.deed r
  s.setDeed r { d with partials := if up then d.partials + 1 else d.partials - 1 }

/-- The `RUNNING` request that an `ATTN_PARTIAL` was for fails with it (Table 6.6). -/
def State.failRunning (s : State) (r : Option Nat) (code : Code) : State :=
  match r with
  | some r => if (s.request r).state = RState.running then s.dropRequest r .failed code false else s
  | none => s

/-- An `ATTN_PARTIAL` ends: a code other than `OK` fails the running request it was for (Table 6.6). -/
def State.endPartial (s : State) (p : PartialOp) (code : Code) : State :=
  let s := (s.mapEng (fun e => { e with partials := e.partials.filter (fun q => q.id != p.id) })).addPartials (.own p.lantern p.deed) false
  if code = .ok then
    let (s, code) := s.keepPromise p.promise s.now
    s.finish p.owner code
  else
    let s := s.failPromise p.promise code
    (s.failRunning p.request code).finish p.owner code

/-! ## A home's answers -/

/-- The round's partial counts at the home while it runs. -/
def State.homeRound (s : State) (src : NodeId) (q : PartialQuery) (r : DRef) (m : Nat) : State :=
  let x : Round := { id := q.id, src := src, query := q, meadow := m, row := none, due := 0, arrived := s.now }
  (s.addPartials r true).mapEng (fun e => { e with rounds := e.rounds ++ [x] })

/-- The lowest-numbered `CACHE` meadow, if the model is in the table (R267). -/
def State.cacheMeadow (s : State) (model : Nat) : Option Nat :=
  if (s.modelOf model).isNone then none
  else (s.eng.meadows.find? (fun e => e.2.role == 2 && (e.2.state == .running || e.2.state == .draining))).map (·.1)

/-- Where a former home's logs say a deed went: the latest of the transfers that it gave away and received (R198, R213). -/
def State.loggedHome (s : State) (k : DeedKey) : NodeId × Nat :=
  (s.lore.released ++ s.lore.receipts).foldl (fun b r => match r.deeds.find? (fun e => e.1 == k) with
    | some e => if b.2 < e.2 then (r.home, e.2) else b
    | none => b) (0, 0)

/-- A home takes a query or refuses it (R213, R266, R267). -/
def State.takeQuery (s : State) (src : NodeId) (q : PartialQuery) : Except PartialAnswer State :=
  match s.findDeed q.key with
  | none => let h := s.loggedHome q.key; .error (.refused q.id .staleEpoch h.1 h.2)
  | some r =>
    let d := s.deed r
    if d.state = .ember then .error (.refused q.id .notResident s.me d.epoch)
    else if d.state ≠ .home ∨ d.epoch ≠ q.epoch then
      .error (.refused q.id .staleEpoch (if d.state = .home then s.me else if d.state = .remote then d.home else d.peer) d.epoch)
    else if d.pages.any (fun p => p.tier != 0) then .error (.refused q.id .notResident s.me d.epoch)
    else match s.cacheMeadow q.model, s.hdrAt q.program with
      | none, _ => .error (.refused q.id .notResident s.me d.epoch)
      | some _, none => .error (.refused q.id .badOperand s.me d.epoch)
      | some m, some h =>
        if h.kind ≠ 3 ∨ h.pLen ≠ q.pAttn ∨ !s.bodyKnown h then .error (.refused q.id .badOperand s.me d.epoch)
        else .ok ((s.noteBody h).homeRound src q r m)

/-! ## What the keeper makes of an answer -/

/-- The stored form of a record (Table 9.7, R268). -/
def recordBytes (r : PartialRec) : Bytes :=
  packLE [(4, r.lantern), (2, r.deed), (2, r.rows), (4, r.epoch), (4, r.placement), (4, r.posStart), (4, r.posCount),
    (2, r.layerFirst), (2, r.layerCount), (2, r.headDim), (2, 0)] ++
  r.blocks.flatMap (fun b => leBytes 4 b.lse.toNat ++ leBytes 4 b.max.toNat ++ b.o.flatMap (fun v => leBytes 4 v.toNat))

/-- The placement epoch that a partial for a request is stamped with; 0 without a request. -/
def State.placementOf (s : State) (r : Option Nat) : Nat := match r with | none => 0 | some i => (s.request i).placement

/-- The commit guard (R213): the record's stamps against the present epochs. -/
def State.guardOk (s : State) (p : PartialOp) (r : PartialRec) : Bool :=
  let d := s.deed (.own p.lantern p.deed)
  decide (r.epoch = d.epoch ∧ r.epoch = p.epoch ∧ r.placement = s.placementOf p.request)

/-- A round came back: late rounds are noted on the one breach record, the last commits the instruction
(R266). A round of another home that is late has met a path fault (R267). -/
def State.takeRecord (s : State) (p : PartialOp) (r : PartialRec) : State :=
  let done := p.doneLayers + r.layerCount
  let p := { p with blocks := p.blocks ++ r.blocks, doneLayers := done }
  let s := (s.setPartialOp p).endPhase p.promise 12 s.now
  let s := if p.dst = s.me then s else s.updPromise p.promise (fun q => { q with path := q.path || decide (q.k + q.n < s.now) })
  if done < p.layers then
    match p.promise.bind s.promise with
    | some q => if q.k + q.n < s.now then s.writeBreach q (q.known s.now) (s.now - q.k) else s
    | none => s
  else
    let whole : PartialRec := { r with layerFirst := p.layerFirst, layerCount := p.layers, blocks := p.blocks }
    if s.splitsAt p.outAddr (recordBytes whole).length then s.endPartial p .badOperand
    else (s.writeAt p.outAddr (recordBytes whole)).endPartial p .ok

/-- An answer reaches the keeper; `true` says that it was discarded by the guard. -/
def State.takeAnswer (s : State) (a : PartialAnswer) : State × Bool :=
  match a with
  | .refused id code home epoch =>
    match s.eng.partials.find? (·.id == id) with
    | none => (s, false)
    | some p =>
      let r := DRef.own p.lantern p.deed
      let d := s.deed r
      let s := if code = .staleEpoch ∧ home ≠ 0 ∧ d.state = .remote ∧ d.epoch < epoch then
          s.setDeed r { d with home := home, epoch := epoch } else s
      (s.endPartial p code, false)
  | .record r =>
    match s.eng.partials.find? (·.id == r.id) with
    | none => (s.bump Reg.STALE_DISCARDS, true)
    | some p =>
      if s.guardOk p r then (s.takeRecord p r, false)
      else ((s.bump Reg.STALE_DISCARDS).endPartial p .staleEpoch, true)

/-- An answer goes to the keeper, which may be this Cucia. -/
def State.answerPartial (s : State) (dst : NodeId) (a : PartialAnswer) : State :=
  if dst = s.me then (s.takeAnswer a).1
  else s.send dst .partialK 2 (match a with | .record r => (recordBytes r).length | _ => openLen .partialK) (.partialA a)

/-- The service class that a program's work is charged to (R183). -/
def State.ownerSvc (s : State) (o : Owner) : Nat :=
  match (match o with | .instr c => some c | .posted c _ => some c | .engine => none).bind s.ctx with
  | none => 0
  | some x => x.entry.svc

/-- The query rows of `count` layers: for an unbound partial from its query address, `none` where they cannot be read; what a step's
tiles hand over is an open value. DESIGN CHOICE, log entry 165. -/
def State.queryRows (s : State) (p : PartialOp) (first count : Nat) : Option (List F32) × State :=
  let w := if p.bf16 then 2 else 4
  let per := p.rows * ((s.modelOf p.model).map (·.headDim)).getD 0
  if p.stepSeq.isSome then
    let r := s.free
    (some ((List.range (count * per)).map (fun i => BitVec.ofNat 32 (r.1 / 2 ^ (32 * i)))), r.2)
  else
    let r := s.readAt (p.queryAddr + w * per * (first - p.layerFirst)) (w * per * count)
    (r.1.map (fun b => (List.range (count * per)).map (fun i => roundF32 (decodeE (if p.bf16 then 1 else 0) (le b (w * i) w)))), r.2)

/-- A query goes to the home, which may be this Cucia. -/
def State.sendQuery (s : State) (p : PartialOp) (first count : Nat) : State :=
  match s.queryRows p first count with
  | (none, s) => s.endPartial p .checkFail
  | (some rows, s) =>
  let q : PartialQuery := { query := rows, id := p.id, key := s.keyOf (.own p.lantern p.deed), epoch := p.epoch, placement := p.placement, model := p.model, program := p.program, pAttn := p.pAttn, layerFirst := first, layerCount := count, rows := p.rows }
  let s := s.setPartialOp { p with sentLayers := p.sentLayers + count, roundBeats := p.roundBeats ++ [s.now] }
  if p.dst = s.me then
    match s.takeQuery s.me q with
    | .error a => s.answerPartial s.me a
    | .ok s => s
  else s.send p.dst .partialK 2 (openLen .partialK) (.partialQ q) 0 none 0 0 0 false p.promise (s.ownerSvc p.owner)

/-- The partial as the keeper records it. -/
def State.makePartial (s : State) (o : Owner) (w : IWord) (d : Bytes) (promise : Option Nat) (deadline : Nat) : PartialOp :=
  let l := w.opb.toNat
  let i := w.opa.toNat
  let n := s.partialHome l i
  { id := s.eng.nextPartial, owner := o, lantern := l, deed := i, epoch := (s.deed (.own l i)).epoch,
    placement := s.placementOf (s.lan l).request, dst := n, outAddr := le d 8 8, queryAddr := le d 0 8, bf16 := le d 38 1 == 1, program := le d 16 8, model := (s.lan l).model,
    stepSeq := (if le d 24 8 = 2 ^ 64 - 1 then none else some (le d 24 8)), layerFirst := le d 32 2, layers := le d 34 2,
    rows := le d 36 2, pAttn := le d 40 4, hops := (s.hopsTo n).getD 0, request := (s.lan l).request, promise := promise,
    doneLayers := 0, sentLayers := 0, roundBeats := [], missed := none, blocks := [], deadline := deadline }

def State.addPartial (s : State) (p : PartialOp) : State :=
  (s.mapEng (fun e => { e with partials := e.partials ++ [p], nextPartial := p.id + 1 })).addPartials (.own p.lantern p.deed) true

/-- An unbound partial is admitted and asks at once; a step-bound one is held until the step's tiles hand over
the query of its first layer (R265). -/
def State.bodyPartial (s : State) (c : Nat) (w : IWord) (d : Bytes) (x : Ctx) : IRes :=
  match s.prePartial w d with
  | some (code, obs) => .failAs (if s.keeps w.opb.toNat then s.failRunning (s.lan w.opb.toNat).request code else s) code obs
  | none =>
    let p := s.makePartial (w.owner c x.pc) w d none x.entry.deadline
    if p.stepSeq.isSome then .wait (s.addPartial p) .op
    else match s.admitAt c x (attnItem x.pc p.dst p.hops p.pAttn (2 ^ 40)) with
      | .no (.failAs s code obs) => .failAs (s.failRunning p.request code) code obs
      | .no r => r
      | .go s id _ =>
        let p := { p with promise := id }
        .wait ((s.addPartial p).sendQuery p p.layerFirst p.layers) .op

def execAttnPartial (c : Nat) (w : IWord) (d : Bytes) (s : State) : Out :=
  .next (s.runInstr c 0x48 w (.attnPartial c w d) (shapeOk 0x48 w) true true (s.bodyPartial c w d))

/-- The running step that supplies a partial's queries. -/
def State.stepOf (s : State) (seq : Nat) : Option Step :=
  s.eng.meadows.findSome? (fun e => if s.regN (Reg.STEP_SEQ e.1) + 1 = seq then e.2.steps.find? (·.started) else none)

/-- The query beat of a step-bound partial's next layer (R265, R266): the round is bounded by T_attn from here. -/
def execAttnPartialRoundAdmit (id : Nat) (s : State) : Out :=
  .next (match s.eng.partials.find? (·.id == id) with
    | none => s
    | some p => match p.stepSeq.bind s.stepOf with
      | none => s
      | some t =>
        if !s.cdUp ∨ p.sentLayers ≠ p.doneLayers ∨ p.layers ≤ p.sentLayers then s
        else
          let c := match p.owner with | .instr c => some c | .posted c _ => some c | .engine => none
          let item := attnItem t.index p.dst p.hops p.pAttn t.hdr.allow
          match s.weigh p.deadline [item], c.bind s.ctx with
          | .refuse code _ _ _, _ => s.endPartial p code
          | .accept _, none => s
          | .accept n, some x =>
            let (s, pr) := if p.promise.isSome then (s.updPromise p.promise (fun q => { q with k := s.now, terms := item.terms, ends := [] }), p.promise)
              else s.grant x p.deadline n [item]
            let p := { p with promise := pr }
            s.sendQuery p (p.layerFirst + p.sentLayers) 1)

/-! ## Frames -/

def execPartialQueryReceive (f : Frame) (q : PartialQuery) (s : State) : Out :=
  .next (s.receive f .partialK (fun s => match s.takeQuery f.src q with
    | .error a => s.answerPartial f.src a
    | .ok s => s))

/-- The guard's refusal is told to the sender (R213). An answer that took the way round of a stub has met a path fault (R210). -/
def execPartialResultReceive (f : Frame) (a : PartialAnswer) (s : State) : Out :=
  let id := match a with | .record r => r.id | .refused id _ _ _ => id
  let hop (s : State) : State := if !f.forwarded then s else
    match s.eng.partials.find? (·.id == id) with
    | none => s
    | some p => s.updPromise p.promise (fun q => { q with path := true })
  .next (s.receive f .partialK (fun s => match (hop s).takeAnswer a with
    | (s, true) => s.sendNack f .partialK .staleEpoch
    | (s, false) => s))

/-! ## Rounds on a `CACHE` meadow (R267, R268) -/

/-- The lowest row of a program free on the meadow. -/
def State.roundRow (s : State) (m program rows : Nat) : Option Nat :=
  let used := s.eng.rounds.filterMap (fun r => if r.meadow = m ∧ r.query.program = program then r.row else none)
  (List.range rows).find? (fun i => !used.contains i)

/-- A late start at the keeper itself has cause `PATH` (R267). -/
def State.lateHere (s : State) (r : Round) : State :=
  if r.src ≠ s.me then s
  else match s.eng.partials.find? (·.id == r.id) with
    | none => s
    | some p => s.updPromise p.promise (fun q => { q with path := true })

/-- One waiting round starts if its program has a free row. -/
def State.startRound (s : State) (m : Nat) (r : Round) : State :=
  match s.hdrAt r.query.program with
  | none => s
  | some h => match s.roundRow m r.query.program h.rows with
    | none => s
    | some row =>
      let s := if r.arrived + 1 < s.now then (s.bump Reg.PARTIAL_LATE).lateHere r else s
      s.mapEng (fun e => { e with rounds := e.rounds.map (fun x => if x.id = r.id ∧ x.src = r.src ∧ x.row.isNone then { x with row := some row, due := s.now + h.pLen } else x) })

def execPartialRoundStart (m : Nat) (s : State) : Out :=
  .next (if !s.cdUp then s
    else (s.eng.rounds.filter (fun r => r.meadow == m && r.row.isNone && decide (r.arrived < s.now))).foldl (fun s r => s.startRound m r) s)

/-! ### Attention over a deed's range (R268) -/

def negInf : F32 := 0xFF800000#32

/-- The empty range's block. -/
def emptyBlock (dim : Nat) : PartialBlock := { lse := negInf, max := negInf, o := List.replicate dim 0 }

/-- One row of keys or values of a page's logical bytes: the keys, then the values, of the member's heads in head-major order (R252). -/
def pageRow (k : Model) (b : Bytes) (value : Bool) (head pos : Nat) : List F32 :=
  let w := kvWidth k.kvFmt
  let at_ := ((if value then k.headsLocal else 0) + head) * k.pageTokens + pos
  (List.range k.headDim).map (fun d => roundF32 (decodeE k.kvFmt (le b ((at_ * k.headDim + d) * w) w)))

/-- log₂(e), and √head_dim for 64, 128 and 256, in FP32. -/
def log2e : F32 := 0x3FB8AA3B#32
def rootDim (dim : Nat) : F32 := if dim = 64 then 0x41000000#32 else if dim = 128 then 0x413504F3#32 else 0x41800000#32

/-- s = (q · k) × log₂(e) / √head_dim, the products added in ascending place. DEDUCED, log entry 166. -/
def attnScore (dim : Nat) (q k : List F32) : F32 :=
  F32.div (F32.mul ((q.zip k).foldl (fun a e => F32.add a (F32.mul e.1 e.2)) 0) log2e) (rootDim dim)

/-- One row's block over the keys and values of a range, in ascending position. -/
def attnBlock (dim : Nat) (q : List F32) (kv : List (List F32 × List F32)) : PartialBlock :=
  if kv.isEmpty then emptyBlock dim
  else
    let scores := kv.map (fun e => attnScore dim q e.1)
    let mx := scores.foldl F32.max negInf
    let ws := scores.map (fun x => unaryF32 0x10 (F32.sub x mx))
    let sum := ws.foldl F32.add 0
    { lse := F32.add mx (unaryF32 0x11 sum), max := mx,
      o := (List.range dim).map (fun d => F32.div ((ws.zip kv).foldl (fun a e => F32.add a (F32.mul e.1 (e.2.2.getD d 0))) 0) sum) }

/-- The keys and values that a deed holds of one layer and head. -/
def State.rangeKv (s : State) (k : Model) (d : Deed) (layer head : Nat) : List (List F32 × List F32) :=
  (List.range (ceilDiv d.posCount k.pageTokens)).flatMap (fun g => match d.pages[g * k.layers + layer]? with
    | none => []
    | some p =>
      let b := (unpackPage k.kvFmt p.ratio (Tbl.readBytes (s.bytesOf p.tier) (4096 * p.loc) p.bytes)).1
      (List.range (min k.pageTokens (d.posCount - g * k.pageTokens))).map (fun t => (pageRow k b false head t, pageRow k b true head t)))

/-- The blocks of a query, layer-major. Its rows are the query heads in ascending order, one position after another; consecutive query
heads share a key and value head. DEDUCED, log entry 166. -/
def State.rangeBlocks (s : State) (d : Deed) (q : PartialQuery) : List PartialBlock :=
  match s.modelOf q.model with
  | none => []
  | some k => (List.range q.layerCount).flatMap (fun l => (List.range q.rows).map (fun r =>
      attnBlock k.headDim ((q.query.drop ((l * q.rows + r) * k.headDim)).take k.headDim)
        (s.rangeKv k d (q.layerFirst + l) (r % k.qHeads / (k.qHeads / k.kvHeads) % k.headsLocal))))

/-- The round has had its P_attn beats: the home stamps the record and sends it; a page that could not be read refuses it with
`CHECK_FAIL` (Table 5.13). -/
def execPartialRoundEnd (m : Nat) (id : Nat) (bad : Bool) (s : State) : Out :=
  .next (match s.eng.rounds.find? (fun r => r.meadow == m && r.id == id && r.row.isSome && decide (r.due ≤ s.now)) with
    | none => s
    | some r =>
      if !s.cdUp then s else
      let q := r.query
      let s := s.mapEng (fun e => { e with rounds := e.rounds.erase r })
      match s.findDeed q.key with
      | none => let h := s.loggedHome q.key; s.answerPartial r.src (.refused id .staleEpoch h.1 h.2)
      | some ref =>
        let s := s.addPartials ref false
        let d := s.deed ref
        if bad then s.answerPartial r.src (.refused id .checkFail s.me d.epoch) else
        let dim := ((s.modelOf q.model).map (·.headDim)).getD 0
        let blocks := s.rangeBlocks d q
        s.answerPartial r.src (.record { id := id, lantern := q.key.lantern, deed := q.key.deed, rows := q.rows, epoch := d.epoch, placement := q.placement, posStart := d.posStart, posCount := d.posCount, layerFirst := q.layerFirst, layerCount := q.layerCount, headDim := dim, stepSeq := 0, blocks := blocks }))

/-! ## `ATTN_MERGE` (R269, R270) -/

/-- Two partials of adjacent ranges. -/
def mergeBlock (a b : PartialBlock) : PartialBlock :=
  let m := F32.max a.lse b.lse
  let mx := F32.max a.max b.max
  if m = negInf then { lse := negInf, max := mx, o := a.o.map (fun _ => 0) }
  else
    let wa := unaryF32 0x10 (F32.sub a.lse m)
    let wb := unaryF32 0x10 (F32.sub b.lse m)
    let w := F32.add wa wb
    { lse := F32.add m (unaryF32 0x11 w), max := mx,
      o := (a.o.zip b.o).map (fun e => F32.div (F32.add (F32.mul e.1 wa) (F32.mul e.2 wb)) w) }

/-- Records folded left to right in range order, block by block. -/
def mergeRecs : List PartialRec → List PartialBlock
  | [] => []
  | r :: rs => rs.foldl (fun bs q => (bs.zip q.blocks).map (fun e => mergeBlock e.1 e.2)) r.blocks

/-- Ranges contiguous and ascending. -/
def contiguous : List PartialRec → Bool
  | a :: b :: t => decide (a.posStart + a.posCount = b.posStart) && contiguous (b :: t)
  | _ => true

/-- Every partial was made for one query: step, rows and layers agree. -/
def oneQuery : List PartialRec → Bool
  | a :: t => t.all (fun b => b.stepSeq == a.stepSeq && b.rows == a.rows && b.layerFirst == a.layerFirst && b.layerCount == a.layerCount && b.headDim == a.headDim)
  | [] => false

/-- DEDUCED, log entry 57. -/
def mergeOut (bf16 : Bool) (bs : List PartialBlock) : Bytes :=
  bs.flatMap (fun b => leBytes 4 b.lse.toNat ++ b.o.flatMap (fun v =>
    if bf16 then leBytes 2 (encodeF 0x1 false (f32Val v)).1 else leBytes 4 v.toNat))

/-- The `ATTN_MERGE` descriptor has no reserved encoding (R270). -/
def mergeShape (d : Bytes) : Bool := decide (1 ≤ le d 0 2 ∧ le d 0 2 ≤ 64 ∧ le d 2 1 ≤ 1) && zeroAt d 3 5

/-- Table 5.13 and R270: a reserved value of the descriptor, ranges that are not contiguous and ascending among them, comes first
(R5). -/
def preMerge (d : Bytes) (recs : List PartialRec) : Pre :=
  let n := le d 0 2
  if !mergeShape d ∨ !contiguous recs then badOp
  else if recs.length ≠ n ∨ !oneQuery recs then some (.illegalInState, 0) else none

/-- Records in the host region of the commons are read there (R453). -/
def State.readRecords (s : State) (d : Bytes) : List PartialRec → Nat → Bool × State
  | [], _ => (true, s)
  | r :: rs, i => match s.commonsAt (le d (16 + 8 * i) 8) with
    | none => State.readRecords s d rs (i + 1)
    | some off =>
      let a := s.readCommons off (recordBytes r).length
      let b := State.readRecords a.2 d rs (i + 1)
      (a.1.isSome && b.1, b.2)

def State.bodyMerge (s : State) (d : Bytes) (m : MergeRecs) : IRes :=
  afterPre (preMerge d m.recs) (
    let (read, s) := s.readRecords d m.recs 0
    if m.bad ∨ !read then .failAs s .checkFail 0
    else s.writeOut (le d 8 8) (mergeOut (le d 2 1 == 1) (mergeRecs m.recs)) id)

def execAttnMerge (c : Nat) (w : IWord) (d : Bytes) (m : MergeRecs) (s : State) : Out :=
  let out := s.hdmSpan (le d 8 8) (mergeOut (le d 2 1 == 1) (mergeRecs m.recs)).length
  .next (s.coherent c 0x49 w (preMerge d m.recs).isNone [] out (fun s =>
    s.runInstr c 0x49 w (.attnMerge c w d m) (shapeOk 0x49 w) false false (fun _ => s.bodyMerge d m)))

/-! ## `REKINDLE` (R275) -/

/-- Tokens of a range in the ember map; `none` when a deed of it is not there. -/
def State.emberTokens (s : State) (l first last : Nat) : Option Nat :=
  ((List.range (last + 1 - first)).map (· + first)).foldlM (fun a i =>
    ((s.lan l).embers.find? (fun e => e.1 == i)).map (fun e => a + e.2.2.2)) 0

/-- DEDUCED, log entry 54. -/
def State.preRekindle (s : State) (w : IWord) (d : Bytes) (m : Nat) : Pre :=
  let l := w.opb.toNat
  let a := le d 0 2
  let b := le d 2 2
  let g := s.mdw m
  if !zeroAt d 4 12 ∨ b < a ∨ 1023 < b then badOp
  else if !s.keeps l then some (.staleMap, 0)
  else match ((s.deedsOf l).take a).find? (fun e => e.2.state != .home) with
    | some e => illegal 3 (dCode e.2.state)
    | none =>
      if (s.emberTokens l a b).isNone ∨ s.eng.rekindles.any (·.lantern == l) then illegal 3 (dCode (s.deed (.own l a)).state)
      else if g.state ≠ .running ∨ (g.role ≠ 0 ∧ g.role ≠ 3) ∨ g.program.isNone then illegal 6 (mCode g.state)
      else if !s.residentOn m (s.lan l).model then some (.notResident, 0)
      else if s.fielded m ∧ ((g.program.map (·.shardEpoch)).getD 0) ≠ (s.field m).epoch then some (.fieldChanged, 0)
      else none

/-- T_first with T_resume 0 (Table 5.14); the pages of the range must fit. -/
def State.itemRekindle (s : State) (index : Nat) (w : IWord) (d : Bytes) (m : Nat) : Item :=
  let l := w.opb.toNat
  match (s.mdw m).program, s.modelOf (s.lan l).model with
  | some h, some k =>
    let p := (s.emberTokens l (le d 0 2) (le d 2 2)).getD 0
    let i := s.firstItem index m h p 1 false
    let full := s.regN (Reg.ADMIT_STEPS m) < s.queuedSteps m
    let units := k.layers * ceilDiv p (max 1 k.pageTokens) * pageUnits k.ratio
    { i with fails := if full then [0x16] else [], noSpace := decide (s.kvFree < units), lantern := some l }
  | _, _ => { index := index, terms := [], regs := [] }

/-- On a `PROMPT` meadow whole prefill steps are scheduled; on a `MIXED` one the range waits for chunk slots. -/
def State.startRekindle (s : State) (o : Owner) (l a b m total : Nat) (promised : Bool) (promise : Option Nat) : State :=
  let r : Rekindle := { owner := o, meadow := m, lantern := l, first := a, last := b, total := total, taken := 0, done := 0, order := s.lore.nextOrder, promised := promised, promise := promise, placement := 1 }
  let s := (s.mapEng (fun e => { e with rekindles := e.rekindles ++ [r] })).mapLore (fun z => { z with nextOrder := z.nextOrder + 1 })
  match (s.mdw m).program with
  | none => s
  | some h =>
    if (s.mdw m).role ≠ 0 then s
    else
      let c := chunkOf 0 h
      (List.range (max 1 (ceilDiv total c))).foldl (fun s i => (s.scheduleStep m h .engine none 0 (some (l, a, b, min c (total - c * i)))).1) s

def State.bodyRekindle (s : State) (c : Nat) (w : IWord) (d : Bytes) (x : Ctx) : IRes :=
  let m := x.entry.meadow
  afterPre (s.preRekindle w d m) (match s.admitAt c x (s.itemRekindle x.pc w d m) with
    | .no r => r
    | .go s id _ =>
      let l := w.opb.toNat
      let a := le d 0 2
      let b := le d 2 2
      .wait (s.startRekindle (.instr c) l a b m ((s.emberTokens l a b).getD 0) (x.entry.deadline ≠ noDeadline) id) .op)

def execRekindle (c : Nat) (w : IWord) (d : Bytes) (s : State) : Out :=
  .next (s.runInstr c 0x51 w (.rekindle c w d) (shapeOk 0x51 w) false false (s.bodyRekindle c w d))

end Sys2Proof.Machine
end

