-- ==== Sys2Proof/Machine/Prefix.lean ====
section
/-! DEFINITION. Prefix hashes and the prefix trie (R257 to R263), and embers (R148, R161, R271 to
R273). -/

namespace Sys2Proof.Machine

/-! ## Prefix hashes -/

/-- Table 9.4's input for one group. -/
def hashInput (prev : Digest) (first : Bool) (model adapter head pt : Nat) (toks : List (BitVec 16)) : Bytes :=
  (if first then List.replicate 32 0 else digestBytes prev) ++ packLE [(2, model), (2, adapter), (2, head), (2, pt)] ++
    toks.flatMap (fun t => leBytes 2 t.toNat)

/-- The chained hashes of `n` groups, as far as the tokens go. -/
def groupHashes (model adapter head pt : Nat) : Nat → Bool → Digest → List (BitVec 16) → List Digest
  | 0, _, _, _ => []
  | n + 1, first, prev, toks =>
    if toks.length < pt then []
    else
      let h := sha256 (hashInput prev first model adapter head pt (toks.take pt))
      h :: groupHashes model adapter head pt n false h (toks.drop pt)

/-- Full page groups at the start of a list: every deed of a lantern counts its own groups, and the
first group that is not full stops the count. -/
def State.fullGroups (s : State) (x : ListAt) (layers pt : Nat) : Nat :=
  match x with
  | .user r => (s.plist r).pages.length / layers
  | .region w => (s.deed (.region w)).pages.length / layers
  | .held ps => ps.length / layers
  | .lantern l =>
    let ds := (s.deedsOf l).filter (fun e => e.2.state == .home && !e.2.pages.isEmpty)
    let rec go : List (DRef × Deed) → Nat
      | [] => 0
      | e :: t => let full := e.2.posCount / pt
        if full < e.2.pages.length / layers then full else full + go t
    go ds

/-- The pages of group `g` of a list. -/
def groupPages (ps : List Page) (layers g : Nat) : List Page := (ps.drop (layers * g)).take layers

/-- The trie node with a hash under a model and adapter. -/
def State.trieFind (s : State) (h : Digest) (model adapter : Nat) : Option Nat :=
  (s.mem.trie.find? (fun e => e.2.hash == h && e.2.model == model && e.2.adapter == adapter)).map (·.1)

/-- Entries of a lantern's owned list at these locations become shared. -/
def State.markShared (s : State) (l : Nat) (ps : List Page) : State :=
  (s.deedsOf l).foldl (fun (s : State) (e : DRef × Deed) =>
    if e.2.pages.any (fun p => ps.any (·.loc == p.loc)) then
      s.setDeed e.1 { e.2 with pages := e.2.pages.map (fun p => if ps.any (·.loc == p.loc) then { p with shared := true } else p) }
    else s) s

def trieMax : Nat := 1048576

/-- A node as it stands in GDDR7 (Table 9.5): a group's children are linked in ascending index. DESIGN CHOICE, log entry 21. -/
def State.trieNodeBytes (s : State) (i : Nat) : Bytes :=
  match s.mem.trie.find i with
  | none => List.replicate 64 0
  | some n =>
    let index (x : Option Nat) : Nat := x.getD 0xFFFFFFFF
    let alike (e : Nat × TrieNode) : Bool := e.2.parent == n.parent && e.2.model == n.model && e.2.adapter == n.adapter
    digestBytes n.hash ++ packLE [(4, index n.parent), (4, index ((s.mem.trie.find? (fun e => e.2.parent == some i)).map (·.1))),
      (4, index ((s.mem.trie.find? (fun e => alike e && decide (i < e.1))).map (·.1))), (4, n.depth), (8, Config.structAddr 9 i),
      (2, n.model), (2, n.adapter), (4, n.lastUse)]

/-- Groups published in position order: a group whose hash the trie holds stays owned (R260). -/
def State.publishGroups (s : State) (l model adapter layers pt : Nat) (ps : List Page) : Nat → Option Nat → List Digest → State
  | _, _, [] => s
  | g, parent, h :: hs =>
    match s.trieFind h model adapter with
    | some i => State.publishGroups s l model adapter layers pt ps (g + 1) (some i) hs
    | none => match s.mem.trie.lowestFree 0 trieMax with
      | none => s
      | some i =>
        let grp := (groupPages ps layers g).map (fun p => { p with shared := true })
        let n : TrieNode := { hash := h, parent := parent, depth := g + 1, pages := grp, posStart := g * pt, model := model, adapter := adapter, lastUse := s.now % 2 ^ 32 }
        let s := s.markShared l grp
        let s := grp.foldl (fun s p => s.setRef p.loc 2) s
        let s := s.mapMem (fun m => { m with trie := Tbl.put (Tbl.drop m.trie i) i n })
        State.publishGroups s l model adapter layers pt ps (g + 1) (some i) hs

/-- A list whose groups may be published: the owned list of a lantern kept here, all of its deeds `HOME` here (R260). -/
def State.publishable (s : State) (x : ListAt) : Bool :=
  match x with
  | .lantern l => s.keeps l && ((s.deedsOf l).drop 1).all (fun e => e.2.state == .home)
  | _ => false

/-- What `SET_HASH` needs of its descriptor and list (Table 5.10, R259, R260). DEDUCED, log entry 42. -/
def State.preHash (s : State) (d : Bytes) : Pre :=
  let flags := le d 30 1
  if 1 < flags ∨ !zeroAt d 31 1 ∨ (s.modelOf (le d 24 2)).isNone then badOp
  else if bit flags 0 && !s.publishable (s.listAt (le d 0 8)) then some (.illegalInState, 0)
  else none

/-- `SET_HASH` (R258 to R260); `tokens` are the identifiers read at the descriptor's token address, `bad` says
that one of them or a page was uncorrectable. DEDUCED, log entry 42. -/
def State.setHashBody (s : State) (o : Owner) (d : Bytes) (tokens : List (BitVec 16)) (bad : Bool) : IRes :=
  afterPre (s.preHash d) (
    let x := s.listAt (le d 0 8)
    match s.modelOf (le d 24 2) with
    | none => .fail .badOperand 0
    | some m =>
      let pub := bit (le d 30 1) 0
      let owner := match x with | .lantern l => some l | _ => none
      if bad then .fail .checkFail 0
      else
        let hs := groupHashes m.model (le d 26 2) (le d 28 2) m.pageTokens (s.fullGroups x m.layers m.pageTokens) true 0 tokens
        s.writeOut (le d 16 8) (hs.flatMap digestBytes) (fun s =>
          let s := match pub, owner with
            | true, some l => s.publishGroups l m.model (le d 26 2) m.layers m.pageTokens (s.pagesAt x) 0 none hs
            | _, _ => s
          s.setOut o (fun y => { y with outLen := hs.length })))

/-- The lines that the hashes are written to. -/
def State.hashWrites (s : State) (d : Bytes) (tokens : List (BitVec 16)) : List (Nat × Nat) :=
  match s.modelOf (le d 24 2) with
  | none => []
  | some m => s.hdmSpan (le d 16 8) (32 * min (s.fullGroups (s.listAt (le d 0 8)) m.layers m.pageTokens) (tokens.length / m.pageTokens))

def execSetHash (c : Nat) (w : IWord) (d : Bytes) (tokens : List (BitVec 16)) (bad : Bool) (s : State) : Out :=
  .next (s.coherent c 0x2F w (s.preHash d).isNone [] (s.hashWrites d tokens) (fun s =>
    s.runInstr c 0x2F w (.setHash c w d tokens bad) (shapeOk 0x2F w) true false
      (fun x => s.setHashBody (w.owner c x.pc) d tokens bad) (fun _ => s.preHash d)))

/-! ## The trie -/

/-- The chain of nodes that hashes match from the root of a model and adapter (R262). -/
def State.matchChain (s : State) (model adapter : Nat) : Option Nat → List Digest → List (Nat × TrieNode)
  | _, [] => []
  | parent, h :: hs =>
    match s.mem.trie.find? (fun e => e.2.hash == h && e.2.model == model && e.2.adapter == adapter && e.2.parent == parent) with
    | none => []
    | some e => e :: State.matchChain s model adapter (some e.1) hs

def execPrefixMatch (c : Nat) (w : IWord) (d : Bytes) (hashes : List Digest) (s : State) : Out :=
  .next (s.runInstr c 0x30 w (.prefixMatch c w d hashes) (shapeOk 0x30 w) false false (fun _ =>
    if !zeroAt d 18 14 then .fail .badOperand 0
    else
      let chain := s.matchChain (le d 12 2) (le d 14 2) none (hashes.take (le d 8 4))
      let s := chain.foldl (fun s e => s.mapMem (fun m => { m with trie := Tbl.put (Tbl.drop m.trie e.1) e.1 { e.2 with lastUse := s.now % 2 ^ 32 } })) s
      let ps := chain.flatMap (fun e => e.2.pages)
      let at_ := Config.structAddr 7 s.mem.setDescs.length
      let start := ((chain.head?).map (fun e => e.2.posStart)).getD 0
      let s := s.mapMem (fun m => { m with setDescs := Tbl.put (Tbl.drop m.setDescs at_) at_ (ps, start, chain.length) })
      .ok (s.setOut (.instr c) (fun y => { y with out0 := at_, outLen := ps.length }))))

/-- A leaf whose group the trie alone holds, the least recently matched (R263). -/
def State.evictable (s : State) : Option (Nat × TrieNode) :=
  (s.mem.trie.filter (fun e => !s.mem.trie.any (fun f => f.2.parent == some e.1) &&
    e.2.pages.all (fun p => s.refcount p.loc == 1))).foldl (fun (b : Option (Nat × TrieNode)) e =>
      match b with
      | none => some e
      | some x => if e.2.lastUse < x.2.lastUse then some e else some x) none

/-- Free KV space is below KV_EMBER_LOW; 0 disables. -/
def State.kvLow (s : State) : Bool := decide (s.kvFree < s.regN Reg.KV_EMBER_LOW)

/-- The background charge of freeing a page list: one unit on the channel of its first page. DESIGN CHOICE, log
entry 130. -/
def freeCost (ps : List Page) : List (Nat × Nat) := (ps.take 1).map (fun p => (p.loc % 24, 4096))

def execTrieEviction (s : State) : Out :=
  .next (if !s.cdUp ∨ !s.kvLow then s else
    match s.evictable with
    | none => s
    | some (i, n) =>
      if !s.bgRooms (freeCost n.pages) then s
      else (((s.bgUses (freeCost n.pages)).dropPages n.pages).mapMem (fun m => { m with trie := Tbl.drop m.trie i })).bump Reg.PREFIX_EVICTED)

/-! ## Embers -/

/-- A map of `n` entries is in whole blocks: 28 in the header block, 255 in each extension block (R272, Table 9.8). -/
def emberFull (n : Nat) : Bool := decide (28 ≤ n ∧ (n - 28) % 255 = 0)

/-- Table 5.14: what `EMBER` needs of a deed, and of the ember map: a further extension block takes a free 4 KiB unit
of the KV pool. DESIGN CHOICE, log entry 43. -/
def State.emberPre (s : State) (r : DRef) : Pre :=
  let d := s.deed r
  let reads := match r.lantern? with
    | none => none
    | some l => if s.stepReads l then illegal 3 1 else none
  let room := match r with
    | .own l _ => if emberFull (s.lan l).embers.length && s.kvFree == 0 then some (Code.noSpace, 0) else none
    | _ => none
  firstPre [s.heldPre r, reads, if d.pages.any (·.shared) then illegal 3 (dCode d.state) else none, room]

/-- The deed becomes an ember: at the keeper its range enters the map; a host sends the ember notice with
the deed's next epoch and holds nothing (Table 7.3). -/
def State.emberDeed (s : State) (r : DRef) : State :=
  let d := s.deed r
  match r with
  | .own l i => (s.freeData r).toEmber l i d.epoch
  | _ =>
    let k := s.keyOf r
    ((s.freeData r).setDeed r {}).sendDeed k.keeper (.emberNote { key := k, home := 0, epoch := d.epoch + 1 })

/-- DESIGN CHOICE, log entry 43. -/
def State.preEmber (s : State) (w : IWord) : Pre :=
  if w.flag 9 then badOp else
  match s.deedOperand w with
  | .error e => some e
  | .ok r => s.emberPre r

def execEmber (c : Nat) (w : IWord) (s : State) : Out :=
  .next (s.runInstr c 0x50 w (.ember c w) (shapeOk 0x50 w) false false (fun _ =>
    afterPre (s.preEmber w) (match s.deedOperand w with
      | .error e => .fail e.1 e.2
      | .ok r => .ok (s.emberDeed r))))

/-- The lantern engine's choice (R273): the lantern waiting longest, its highest deed that may be embered. -/
def State.emberChoice (s : State) : Option (Nat × DRef) :=
  let cands := s.lore.lanterns.filterMap (fun e =>
    if e.2.state = .idle ∨ e.2.state = .toolWait then
      (((s.deedsOf e.1).reverse.find? (fun d => (s.emberPre d.1).isNone)).map (fun d => (e.2.release, e.1, d.1)))
    else none)
  (cands.foldl (fun (b : Option (Nat × Nat × DRef)) x => match b with
    | none => some x
    | some y => if x.1 < y.1 then some x else some y) none).map (fun x => x.2)

/-- The header block of a lantern's ember map (Table 9.8), and its extension blocks (R272). DESIGN CHOICE, log entry 21. -/
def emberEntry (e : Nat × Nat × Nat × Nat) : Bytes := packLE [(2, e.1), (2, 0), (4, e.2.1), (4, e.2.2.1), (4, e.2.2.2)]
def State.emberHeader (s : State) (l : Nat) : Bytes :=
  let x := s.lan l
  let n := x.embers.length
  padTo 512 (padTo 64 (packLE [(8, Config.structAddr 10 (256 * l)), (4, x.log.length), (2, n), (2, 0), (8, if 28 < n then Config.structAddr 11 (8 * l) else 0)]) ++
    (x.embers.take 28).flatMap emberEntry)
def State.emberBlock (s : State) (l k : Nat) : Bytes :=
  let rest := (s.lan l).embers.drop (28 + 255 * k)
  padTo 4096 (packLE [(8, if 255 < rest.length then Config.structAddr 11 (8 * l + k + 1) else 0), (8, 0)] ++ (rest.take 255).flatMap emberEntry)

/-- Block `k` of a lantern's token log: 2,048 identifiers (R271). -/
def State.logBlock (s : State) (l k : Nat) : Bytes :=
  padTo 4096 ((((s.lan l).log.drop (2048 * k)).take 2048).flatMap (fun t => leBytes 2 t.toNat))

/-- Up to `n` deeds embered while free space is below KV_EMBER_HIGH. -/
def State.autoEmber (s : State) : Nat → State
  | 0 => s
  | n + 1 =>
    if s.regN Reg.KV_EMBER_HIGH ≤ s.kvFree then s.mapLore (fun l => { l with embering := false })
    else match s.emberChoice with
      | none => s
      | some (l, r) =>
        let k := s.keyOf r
        if !s.bgRooms (freeCost (s.deed r).pages) then s
        else State.autoEmber ((((s.bgUses (freeCost (s.deed r).pages)).emberDeed r).bump Reg.EMBER_AUTO_COUNT).raise Ev.emberAuto 0 l k.deed none 6) n

end Sys2Proof.Machine
end

