-- ==== Sys2Proof/Machine/Tiers.lean ====
section
/-! DEFINITION. Objects of the HDM range, tier moves, the host's accesses, read-through, back-invalidation
and scrubbing (R310 to R328, R436 to R442, R151, R157). -/

namespace Sys2Proof.Machine

/-! ## The object table (R310, R312) -/

/-- Stored bytes of an object (R65, R307). DEDUCED, log entry 64. -/
def objStored (size ratio : Nat) (exact : Bool) : Nat :=
  if exact then chargedSize size else size / 65536 * pageBytes ratio

/-- 4 KiB units of the stored form. -/
def Obj.units (o : Obj) : Nat := ceilDiv o.stored 4096

/-- An object descriptor in the layout of Table 11.1 without a reserved encoding. -/
def State.objShape (s : State) (d : Bytes) : Bool :=
  let base := le d 0 8
  let size := le d 8 8
  let home := le d 16 1
  let fl := le d 17 1
  let ratio := bits fl 2 1
  let loc := le d 24 8
  let swap := s.regN Reg.SWAP_BASE
  decide (base % 65536 = 0 ∧ size % 65536 = 0 ∧ 0 < size) && decide (home ≤ 3 ∧ fl < 32) && !(bit fl 0 && ratio != 0) &&
    (if ratio = 0 then le d 18 1 == 0 else [1, 3, 4].contains (le d 18 1)) && zeroAt d 19 5 && zeroAt d 36 4 &&
    (if home = 3 then decide (le d 32 4 < 4096) && NodeId.valid (BitVec.ofNat 64 loc) else zeroAt d 32 4) &&
    (if home = 1 then decide (loc % 4096 = 0 ∧ (loc + objStored size ratio (bit fl 0) ≤ swap ∨ swap + s.regN Reg.SWAP_SIZE ≤ loc)) else true)

/-- The write of OBJ_CMD that gives a command. -/
def objCmd (remove : Bool) (index : Nat) : Nat := 2 ^ 31 + 2 ^ 29 * b2n remove + index

/-- OBJ_STATUS after a command (Table 11.6). -/
def State.objDone (s : State) (index error : Nat) : State := s.setRegN Reg.OBJ_STATUS (2 ^ 20 * error + index)

/-- Space for `n` units in a tier of objects: 0 GDDR7 object space, 2 flash. -/
def State.takeObj (s : State) (home n : Nat) : Option (Nat × State) :=
  match home with
  | 0 => s.takeUnits 3 n
  | 2 => if s.fls.state = .ready then s.flTake n else none
  | _ => some (0, s)

def execObjCmdInstall (index : Nat) (d : Bytes) (s : State) : Out :=
  .next (
    let base := le d 0 8
    let size := le d 8 8
    if !s.cdUp then s
    else s.whileFree Reg.OBJ_CMD (objCmd false index) (fun s =>
    if (s.obj index).state ≠ 0 then s.objDone index 0x02
    else match s.cxl.decoder with
      | none => s.objDone index 0x01
      | some (_, span) =>
        if !s.objShape d ∨ span < base + size ∨ s.mem.objs.any (fun e => e.2.state != 0 && decide (e.2.base < base + size ∧ base < e.2.base + e.2.size)) then
          s.objDone index 0x01
        else
          let fl := le d 17 1
          let home := le d 16 1
          let stored := objStored size (bits fl 2 1) (bit fl 0)
          match s.takeObj home (ceilDiv stored 4096) with
          | none => s.objDone index 0x03
          | some (loc, s) =>
            let o : Obj := { base := base, size := size, home := home, exact := bit fl 0, ratio := bits fl 2 1, touch := bit fl 3, readOnly := bit fl 4, fmt := le d 18 1, state := (if home = 3 then 4 else 1), loc := (if home = 1 then le d 24 8 else loc), node := (if home = 3 then BitVec.ofNat 64 (le d 24 8) else 0), window := le d 32 4, stored := stored, cookie := le d 56 8, placement := home }
            (s.setObj index o).objDone index 0x00))

/-- What a posted instruction under way reads and writes in the HDM range. -/
def State.postedSpans (s : State) : Instr → List (Nat × Nat)
  | .pack _ w d .. => s.codecReads w d ++ s.codecWrites w d
  | .unpack _ w d .. => s.codecReads w d ++ s.codecWrites w d
  | .setHash _ _ d tokens _ => s.hashWrites d tokens
  | _ => []

/-- A meadow's weights or current step program lie in the object, or a copy or a posted instruction uses it (R312). -/
def State.objInUse (s : State) (o : Obj) : Bool :=
  let lo := 4096 * o.loc
  s.io.ctxs.any (fun e => e.2.posted.any (fun q => q.done.isNone && (s.postedSpans q.cmd).any (fun r => decide (r.1 < o.base + o.size ∧ o.base < r.1 + r.2)))) ||
  s.eng.meadows.any (fun e => (e.2.window.map (·.1)) == some o.base ||
    (o.home == 0 && (match e.2.program with | none => false | some h => decide (lo ≤ h.addr ∧ h.addr < lo + o.stored)))) ||
  (o.home == 0 && s.fab.copies.any (fun c => decide (c.src < lo + o.stored ∧ lo < c.src + c.len)))

/-- The units of an object go back to its tier. -/
def State.freeObj (s : State) (home loc n : Nat) : State :=
  match home with
  | 0 => s.releaseUnits 3 loc n
  | 2 => s.releaseUnits 2 loc n
  | _ => s

def execObjCmdRemove (index : Nat) (s : State) : Out :=
  .next (
    if !s.cdUp then s
    else s.whileFree Reg.OBJ_CMD (objCmd true index) (fun s =>
      let o := s.obj index
      if o.state ≠ 1 ∨ s.objInUse o then s.objDone index 0x04
      else ((s.freeObj o.home o.loc o.units).setObj index {}).objDone index 0x00))

/-! ## Back-invalidation (R316, R439 to R442) -/

/-- A line granted to a host cache. DEDUCED, log entry 65. -/
def State.grantLine (s : State) (line : Nat) : State :=
  if s.cxl.lines.contains line then s else s.mapCxl (fun c => { c with lines := c.lines ++ [line] })

/-- The filter has no entry for a further line (R439). -/
def State.filterFull (s : State) (line : Nat) : Bool := !s.cxl.lines.contains line && decide (4194304 ≤ s.cxl.lines.length)

/-- A read waits for room: the oldest entry is called back. -/
def State.waitRoom (s : State) (off : Nat) : State :=
  let s := s.mapCxl (fun c => { c with filterWaits := c.filterWaits ++ [off] })
  match s.cxl.lines.head? with | none => s | some l => s.snoop l

/-- Every line of an object that the host holds. DEDUCED, log entry 65. -/
def State.snoopObj (s : State) (o : Obj) : State :=
  (s.cxl.lines.filter (fun l => decide (o.base ≤ l ∧ l < o.base + o.size))).foldl (fun s l => s.snoop l) s

/-- A snoop of the object is unanswered. -/
def State.objSnooped (s : State) (o : Obj) : Bool :=
  s.cxl.snoops.any (fun l => decide (o.base ≤ l ∧ l < o.base + o.size))

/-! ## Bytes of an object -/

/-- Quad codes that are no code count where they are read (R288). -/
def State.countRead (s : State) (o : Obj) (stored : Nat → Nat → Bytes) (rel n : Nat) : State :=
  s.countFr { bad := ((readGroups o stored rel n).map (·.2.bad)).sum }

/-- A host line written into an object homed in GDDR7; part of a group is discarded (R291). -/
def State.objWrite (s : State) (o : Obj) (rel : Nat) (data : Bytes) : State :=
  if o.splits rel data.length then (s.bump Reg.FR_PARTIAL).raise Ev.codecPartial else s.objPut o rel data

/-! ## Tier moves (R151, R313 to R317) -/

/-- What a background move needs of the counted resources at both ends: the CXL link for host memory, and flash or GDDR7 spread
over their channels (R78, R317, Table 21.2). -/
def migrateNeed (o : Obj) (target : Nat) : List (Nat × Nat) :=
  [o.home, target].flatMap (fun h => match h with
    | 0 => (List.range 24).map (fun c => (c, ceilDiv o.stored 24))
    | 1 => [(resCxl, o.stored)]
    | 2 => (List.range 16).map (fun c => (resFlash c, ceilDiv o.stored 16))
    | _ => [])

/-- A move of an object to a tier starts: `LENT`, its lines called back; `none` without space. A host address
for an object that moves out of the Cucia is given by no rule: it is a free value. -/
def State.startTierMove (s : State) (i target : Nat) (owner : Owner) (promise : Option Nat) (slot : Nat) : Option State :=
  let o := s.obj i
  (s.takeObj target o.units).map (fun r =>
    let (loc, s) := if target = 1 then (let f := r.2.free; (4096 * f.1, f.2)) else r
    let t : TierMv := { obj := i, target := target, loc := loc, owner := owner, promise := promise, held := [], slot := slot }
    let s := if owner = .engine then s.addJob 7 i (migrateNeed o target) else s
    (((s.setObj i { o with state := 2 }).mapMem (fun m => { m with tierMoves := m.tierMoves ++ [t] })).snoopObj o).endPhase promise 1 s.now)

def State.preTierMove (s : State) (w : IWord) : Pre :=
  match s.objByBase w.opc.toNat with
  | none => badOp
  | some i =>
    let o := s.obj i
    if w.opa.toNat = 3 then badOp
    else if o.state ≠ 1 then illegal 3 o.state
    else if w.opa.toNat = 2 ∧ s.fls.state = .readOnly then some (.mediaReadOnly, 0) else none

/-- The resume slot's tier of a source home. -/
def homeTier (home : Nat) : Nat := match home with | 1 => 2 | 2 => 4 | _ => 0

def State.itemTierMove (s : State) (index : Nat) (w : IWord) : Item :=
  match s.objByBase w.opc.toNat with
  | none => { index := index, terms := [], regs := [] }
  | some i =>
    let o := s.obj i
    { s.resumeItem index (homeTier o.home) o.stored with noSpace := decide (w.opa.toNat ≠ o.home) && (s.takeObj w.opa.toNat o.units).isNone }

/-- DESIGN CHOICE, log entry 39. DEDUCED, log entry 64. -/
def State.bodyTierMove (s : State) (c : Nat) (w : IWord) (x : Ctx) : IRes :=
  afterPre (s.preTierMove w) (match s.objByBase w.opc.toNat with
    | none => .fail .badOperand 0
    | some i => match (if (s.obj i).home = 0 then .go s none 0 else s.admitAt c x (s.itemTierMove x.pc w)) with
      | .no r => r
      | .go s id _ =>
        let o := s.obj i
        if w.opa.toNat = o.home then
          let (s, code) := s.keepPromise id s.now
          if code = .ok then .ok s else .failAs s code 0
        else match s.startTierMove i w.opa.toNat (w.owner c x.pc) id (homeTier o.home) with
          | none => .failAs (s.failPromise id .noSpace) .noSpace 0
          | some s => .wait s .op)

def execTierMove (c : Nat) (w : IWord) (s : State) : Out :=
  .next (s.runInstr c 0x60 w (.tierMove c w) (shapeOk 0x60 w) true true (s.bodyTierMove c w))

def execTierPlace (c : Nat) (w : IWord) (s : State) : Out :=
  .next (s.runInstr c 0x61 w (.tierPlace c w) (shapeOk 0x61 w) false false (fun _ =>
    match s.objByBase w.opc.toNat with
    | none => .fail .badOperand 0
    | some i =>
      let o := s.obj i
      if w.opa.toNat = 3 then .fail .badOperand 0
      else if o.state = 4 then .fail .illegalInState (obsOf 3 4)
      else .ok (s.setObj i { o with placement := w.opa.toNat, touch := w.flag 8 })))

/-- Migrate-on-touch (R317): a background move to GDDR7, tried again 1,024 beats after it found no space. -/
def State.touchMigrate (s : State) (i : Nat) : State :=
  let o := s.obj i
  let again : Bool := match o.migrateFail with | none => true | some b => decide (b + 1024 ≤ s.now)
  if o.touch ∧ o.state = 1 ∧ (o.home = 1 ∨ o.home = 2) ∧ again then
    match s.startTierMove i 0 .engine none 0 with
    | some s => s.setObj i { s.obj i with migrateFail := none }
    | none => (s.setObj i { o with migrateFail := some s.now }).raise Ev.tierNoSpace 0 i
  else s

/-- A host write where R315 admits none. -/
def State.discardWrite (s : State) : State := (s.bump Reg.HDM_WRITE_DISCARD).raise Ev.hdmWriteDiscard

/-- A host write applied to an object that is not `LENT` (R315). -/
def State.applyWrite (s : State) (i off : Nat) (data : Bytes) : State :=
  let o := s.obj i
  if o.home = 0 ∧ !o.readOnly then s.objWrite o (off - o.base) data else s.discardWrite

/-- A tier move ends without commit: the object stays where it was, and the held writes apply there (R314). -/
def State.failTierMove (s : State) (t : TierMv) (code : Code) : State :=
  let s := s.mapMem (fun m => { m with tierMoves := m.tierMoves.filter (fun x => x.obj != t.obj) })
  let s := s.updPromise t.promise (fun p => { p with media := p.media || code == .checkFail })
  let s := s.dropJob 7 t.obj
  let s := (s.freeObj t.target t.loc (s.obj t.obj).units).setObj t.obj { s.obj t.obj with state := 1 }
  let s := t.held.foldl (fun (s : State) (w : Nat × Bytes) => s.applyWrite t.obj w.1 w.2) s
  (s.failPromise t.promise code).finish t.owner code

/-- The move commits, or ends without commit (R313, R314): then the held writes apply where the object stands.
It waits for its snoops, with flash for the steward, and a background move for its share. DESIGN CHOICE, log entry 7. -/
def execTierMoveCommit (obj : Nat) (data : Bytes) (reads : ReadEnd) (s : State) : Out :=
  let fail := reads.fail
  let read := reads.report
  .next (match s.mem.tierMoves.find? (·.obj == obj) with
    | none => s
    | some t =>
      let o := s.obj obj
      if !s.cdUp ∨ s.objSnooped o ∨ ((o.home = 2 ∨ t.target = 2) ∧ s.fls.state = .restoring) ∨ (t.owner = .engine ∧ !s.jobDone 7 obj) then s
      else
        let lost := decide (o.home = 2) && s.flLost o.loc o.units
        let s := if lost then s.flFault o.loc o.units else s
        let fail := onlyCodes [.noSpace, .mediaReadOnly, .checkFail] fail
        let fail := if t.target = 2 ∧ s.fls.state = .readOnly then some .mediaReadOnly
          else if fail.isNone ∧ (lost ∨ (o.home = 2 ∧ s.fls.state = .failed)) then some .checkFail else fail
        match fail with
        | some code => (s.readPhases t.promise (homeTier o.home) read false).failTierMove t code
        | none =>
          let s := (s.readPhases t.promise (homeTier o.home) read true).dropJob 7 obj
          let s := s.mapMem (fun m => { m with tierMoves := m.tierMoves.filter (fun x => x.obj != obj) })
          let held (s : State) : State := t.held.foldl (fun (s : State) (w : Nat × Bytes) => s.applyWrite obj w.1 w.2) s
          let src : Bytes := if o.home = 1 then data else Tbl.readBytes (s.bytesOf o.home) (4096 * o.loc) o.stored
          let s := if t.target = 1 then s.emit (.hostWrite t.loc src)
            else s.setBytes t.target (Tbl.writeBytes (s.bytesOf t.target) (4096 * t.loc) src)
          let s := (s.freeObj o.home o.loc o.units).setObj obj { o with home := t.target, loc := t.loc, state := 1, migrateFail := none }
          let s := if t.target = 2 then s.journalAll else s
          let s := held s
          let (s, code) := s.keepPromise t.promise s.now
          s.finish t.owner code)

/-! ## Host accesses to the range (R310, R314, R315, R320, R324, R325, R442) -/

def State.hdmUnmapped (s : State) : State := (s.bump Reg.HDM_UNMAPPED).raise Ev.hdmUnmapped

/-- Units queued on a tier's read-through slot (2 host memory, 4 flash). -/
def State.rtQueued (s : State) (tier : Nat) : Nat := (s.mem.rts.filter (·.tier == tier)).length

/-- The stored unit that holds a line of an object. -/
def storedUnit (o : Obj) (rel : Nat) : Nat :=
  if o.ratio = 0 ∨ o.exact then rel / 4096 else rel / (32 * kvWidth o.fmt) * groupBytes o.fmt o.ratio / 4096

/-- A read of a non-resident object joins a fetch, is queued, or is held at the ingress. -/
def State.readThrough (s : State) (i off : Nat) : State :=
  let o := s.obj i
  let u := storedUnit o (off - o.base)
  let tier := homeTier o.home
  if s.mem.rts.any (fun r => r.obj == i && r.unit == u) then
    s.mapMem (fun m => { m with rts := m.rts.map (fun r => if r.obj = i ∧ r.unit = u then { r with offs := r.offs ++ [off] } else r) })
  else if s.rtQueued tier < 16 then
    let r : ReadThrough := { tier := tier, obj := i, unit := u, offs := [off] }
    (s.mapMem (fun m => { m with rts := m.rts ++ [r] })).emit (.hdmRead tier (4096 * o.loc + 4096 * u) 4096)
  else s.mapCxl (fun c => { c with ingress := c.ingress ++ [off] })

/-- A read of a partner's object: a remote load in TC3 (R326). -/
def State.partnerRead (s : State) (o : Obj) (off : Nat) : State :=
  let id := s.fab.nextId
  let (gen, s) := s.knownGen o.node o.window
  let x : Load := { id := id, dst := o.node, window := o.window, off := off - o.base, len := 64, sentNs := s.clk.time, hdm := off }
  let s := s.mapFab (fun f => { f with nextId := id + 1, loads := f.loads ++ [x] })
  s.send o.node .read 3 8 (.read 64) id (some o.window) gen (off - o.base)

/-- One 64-byte line read. -/
def State.hostReadLine (s : State) (off : Nat) (uncorrectable : Bool) : State :=
  if s.cxl.snoops.contains (lineOf off) then s.mapCxl (fun c => { c with waiting := c.waiting ++ [(off, none)] })
  else match s.objAt off with
    | none => s.hdmUnmapped.emit (.hdmOnes off 64)
    | some i =>
      let s := s.setObj i { s.obj i with touchBeat := s.now }
      let o := s.obj i
      match o.home with
      | 0 =>
        let at_ := 4096 * o.loc + (off - o.base)
        let ch := at_ / 4096 % 24
        if uncorrectable then ((s.bump (Reg.GDDR_UE ch)).raise Ev.gddrUe 0 ch at_).emit (.hdmOnes off 64)
        else
          let grants := decide (o.state = 1) && !o.readOnly
          if grants ∧ s.filterFull (lineOf off) then s.waitRoom off else
          let b := objRead o (fun a n => Tbl.readBytes s.mem.gddr (4096 * o.loc + a) n) (off - o.base) 64
          let s := (s.countRead o (fun a n => Tbl.readBytes s.mem.gddr (4096 * o.loc + a) n) (off - o.base) 64).emit (.hdmData off b)
          if grants then s.grantLine (lineOf off) else s
      | 3 => s.partnerRead o off
      | _ => (s.readThrough i off).touchMigrate i

/-- DEDUCED, log entry 65. -/
def execHostRead (off : Nat) (uncorrectable : Bool) (s : State) : Out :=
  .next (if !s.cdUp then s.emit (.hdmOnes off 64) else s.hostReadLine off uncorrectable)

/-- One host write. -/
def State.hostWriteLine (s : State) (off : Nat) (data : Bytes) : State :=
  if s.cxl.snoops.contains (lineOf off) then s.mapCxl (fun c => { c with waiting := c.waiting ++ [(off, some data)] })
  else match s.objAt off with
    | none => s.hdmUnmapped
    | some i =>
      let s := s.setObj i { s.obj i with touchBeat := s.now }
      let o := s.obj i
      if o.state = 2 then
        s.mapMem (fun m => { m with tierMoves := m.tierMoves.map (fun t => if t.obj = i then { t with held := t.held ++ [(off, data)] } else t) })
      else (s.applyWrite i off data).touchMigrate i

/-- After an IDE failure every write is discarded until the streams are keyed again (R450). -/
def execHostWrite (off : Nat) (data : Bytes) (s : State) : Out :=
  .next (if !s.cdUp ∨ s.cxl.ideInsecure then s else s.hostWriteLine off data)

/-- The fetch at the head of a tier's slot completes (R324, R326): every read that joined it is served. -/
def execReadThroughComplete (tier : Nat) (data : Bytes) (uncorrectable : Bool) (s : State) : Out :=
  .next (match s.mem.rts.find? (·.tier == tier) with
    | none => s
    | some r =>
      if !s.cdUp ∨ (tier = 4 ∧ s.fls.state = .restoring) then s
      else
        let o := s.obj r.obj
        let bad := uncorrectable || (tier == 4 && s.flLost o.loc o.units)
        let s := s.mapMem (fun m => { m with rts := m.rts.erase r })
        let stored (a n : Nat) : Bytes := if tier = 4 then Tbl.readBytes s.mem.flash (4096 * o.loc + a) n
          else let b := (data.drop (a - 4096 * r.unit)).take n; b ++ List.replicate (n - b.length) 0
        let s := r.offs.foldl (fun (s : State) off =>
          if bad then s.emit (.hdmOnes off 64)
          else (s.countRead o stored (off - o.base) 64).emit (.hdmData off (objRead o stored (off - o.base) 64))) s
        let s := if !bad then s else if tier = 4 then (if s.flLost o.loc o.units then s.flFault o.loc o.units else (s.loseUnit ((o.loc + r.unit) / 256)).mediaFault ((o.loc + r.unit) / 256) ((o.loc + r.unit) % 256 / 4)) else s.raise Ev.gddrUe 0 r.obj
        match s.cxl.ingress with
        | [] => s
        | off :: t =>
          let s := s.mapCxl (fun c => { c with ingress := t })
          match s.objAt off with
          | none => s.hdmUnmapped.emit (.hdmOnes off 64)
          | some i => s.readThrough i off)

/-- Host requests that met a snooped line are served as new requests once it is answered (R442). -/
def State.wake (s : State) (line : Nat) : State :=
  let mine := s.cxl.waiting.filter (fun w => lineOf w.1 == line)
  let s := s.mapCxl (fun c => { c with waiting := c.waiting.filter (fun w => lineOf w.1 != line) })
  mine.foldl (fun (s : State) w => match w.2 with
    | none => s.hostReadLine w.1 false
    | some d => s.hostWriteLine w.1 d) s

/-- Host reads that waited for room in the filter are served as new requests. -/
def State.wakeFilter (s : State) : State :=
  s.cxl.filterWaits.foldl (fun s off => s.hostReadLine off false) (s.mapCxl (fun c => { c with filterWaits := [] }))

/-- A promise waited for a late answer: a path fault, in the intake-and-commit phase (R441). -/
def State.lateFor (s : State) (p : Option Nat) : State :=
  (s.updPromise p (fun p => { p with path := true, ends := p.ends.filter (fun e => e.1 != 1) })).endPhase p 1 s.now

/-- The promises that wait for the answer on a line: of a tier move, of an instruction that has not started for it, and of the steps
that use the line. -/
def State.awaiting (s : State) (line : Nat) : List (Option Nat) :=
  (s.mem.tierMoves.filter (fun t => some t.obj == s.objAt line)).map (·.promise) ++
    (s.cxl.snoopFor.filter (·.1 == line)).map (fun e => (s.ctx e.2).bind (·.promise)) ++
    (s.eng.meadows.flatMap (fun e => (e.2.steps.filter (fun t => t.started && ((s.stepSpans t).1 ++ (s.stepSpans t).2).any (spanHas · line))))).map (·.promise)

/-- The host answers a snoop: a modified line goes into the source; a late answer is counted, and touches the promises that wait
(R441). -/
def execBiSnoopAnswer (line : Nat) (modified : Option Bytes) (late : Bool) (s : State) : Out :=
  .next (if !s.cxl.snoops.contains line then s
    else
      let s := s.mapCxl (fun c => { c with snoops := c.snoops.filter (· != line), lines := c.lines.filter (· != line) })
      let i := s.objAt line
      let s := match modified, i with
        | some d, some i => if (s.obj i).home = 0 then s.objWrite (s.obj i) (line - (s.obj i).base) d else s
        | _, _ => s
      let s := if late then (s.awaiting line).foldl State.lateFor ((s.mapCxl (fun c => { c with biLate := satInc 32 c.biLate })).raise Ev.biLate) else s
      let s := s.mapCxl (fun c => { c with snoopFor := c.snoopFor.filter (·.1 != line) })
      (s.wake line).wakeFilter)

/-! ## The link, the decoder and the DOE mailbox (R436 to R438, R443, R448 to R450) -/

/-- The Cucia holds no host line: RspIHitI. PRESUMED, log entry 66. -/
def execH2dSnoop (addr : BitVec 64) (s : State) : Out := .next (s.emit (.snoopReply addr))

def mib256 : Nat := 2 ^ 28

def execHdmDecoderCommit (base size : Nat) (s : State) : Out :=
  .next (if base % mib256 ≠ 0 ∨ size % mib256 ≠ 0 ∨ 2 ^ 46 < size ∨ s.mem.objs.any (fun e => e.2.state != 0) then s
    else s.mapCxl (fun c => { c with decoder := some (base, size) }))

/-- Where the host's enumeration puts BAR2 is an open value. DESIGN CHOICE, log entry 151. -/
def execCxlLinkTrained (width rate : Nat) (s : State) : Out :=
  .next (
    if s.sys.perst ∨ s.sys.clkSel = 3 then s else
    let (v, s) := s.free
    let s := s.mapCxl (fun c => { c with up := true, width := width, rate := rate, bar2 := some (mib256 * v) })
    if width < 16 ∨ rate < 64 then s.raise Ev.cxlLinkDegraded 0 width rate else s)

/-- SPDM request codes that are answered (R448). PRESUMED, log entry 66. -/
def spdmCodes : List Nat := [0x84, 0xE1, 0xE3, 0x81, 0x82, 0x83, 0xE0, 0xE4, 0xE5, 0xE9, 0xEC]

/-- What the Cucia offers (R449). -/
def spdmOffers : List SpdmAlg := [.sha256, .slhDsaSha2128f, .secp384r1, .aes256gcm]

/-- ERROR with an error code. PRESUMED, log entry 66. -/
def spdmError (error data : Nat) : OutMsg := .doe [0x13, 0x7F, BitVec.ofNat 8 error, BitVec.ofNat 8 data]

def State.mapSession (s : State) (n : Nat) : State := s.mapCxl (fun c => { c with session := n })

/-- A supported request (R448, R449): NEGOTIATE_ALGORITHMS settles what both sides have and begins anew, and without a common
algorithm ends in ERROR; a session needs all four; GET_MEASUREMENTS reports the measurements of the boot (R505). What each request
needs of the session is the standard's. PRESUMED, log entry 66. -/
def State.spdm (s : State) (proto code : Nat) (req : Bytes) (algs : List SpdmAlg) : State :=
  let answer (s : State) : State := s.emit (.doe (Config.standardReply proto code req))
  let refuse (s : State) : State := s.emit (spdmError 0x04 0)
  match code with
  | 0x84 => answer ((s.mapCxl (fun c => { c with algs := none })).mapSession 0)
  | 0xE3 =>
    let both := spdmOffers.filter algs.contains
    if both.isEmpty then ((s.mapCxl (fun c => { c with algs := none })).mapSession 0).emit (spdmError 0x01 0)
    else answer ((s.mapCxl (fun c => { c with algs := some both })).mapSession 0)
  | 0xE4 => if s.cxl.algs = some spdmOffers then answer (s.mapSession 1) else refuse s
  | 0xE5 => if s.cxl.session = 1 then answer (s.mapSession 2) else refuse s
  | 0xE9 => if s.cxl.session = 2 then answer s else refuse s
  | 0xEC => if s.cxl.session = 2 then answer (s.mapSession 0) else refuse s
  | 0xE0 => s.emit (.doe (Config.standardReply proto code req ++ s.sys.meas.flatMap digestBytes))
  | _ => answer s

/-- A DOE object: discovery (0), CMA/SPDM (1), Secured CMA/SPDM (2), with an IDE_KM key set in a secured session
(code 0xFE) among them (R450). Objects above 64 KiB are not taken. PRESUMED, log entry 66. -/
def execDoeRequest (proto code : Nat) (o : DoeObject) (s : State) : Out :=
  let req := o.bytes
  .next (
    if 65536 < req.length then s
    else if proto = 2 ∧ code = 0xFE then
      (if s.cxl.session = 2 then (s.mapCxl (fun c => { c with ideInsecure := false })).emit (.doe (Config.standardReply proto code req))
       else s.emit (spdmError 0x04 0))
    else if (proto = 1 ∨ proto = 2) ∧ !spdmCodes.contains code then s.emit (spdmError 0x07 code)
    else if proto = 1 ∨ proto = 2 then s.spdm proto code req o.algs
    else s.emit (.doe (Config.standardReply proto code req)))

def execCxlIdeFail (s : State) : Out :=
  .next ((s.mapCxl (fun c => { c with ideInsecure := true })).raise Ev.cxlIdeFail)

/-! ## Scrubbing and retirement (R157, R320, R321) -/

/-- What a scrub that cannot correct leaves: an uncorrectable GDDR7 line counts on a channel, and a mapped flash unit of the
range is lost. Which channel, and which unit, are open values (R320, R353). DESIGN CHOICE, log entry 106. -/
def State.scrubFault (s : State) (flash : Bool) (start mib : Nat) : State :=
  let (v, s) := s.free
  if !flash then s.bump (Reg.GDDR_UE (v % 24))
  else
    let us := (s.fls.map.filter (fun e => decide (start / 2 ^ 20 ≤ e.1 ∧ 2 ^ 20 * e.1 < start + 2 ^ 20 * mib) && e.2.phys != 0xFFFFFFFF && !e.2.lost)).map (·.1)
    match us[v % us.length]? with
    | none => s
    | some u => s.readFault u

/-- The bytes of a range of `mib` MiB, read once from every channel of its tier (R157, Table 21.2). -/
def scrubNeed (flash : Bool) (mib : Nat) : List (Nat × Nat) :=
  if flash then (List.range 16).map (fun c => (resFlash c, ceilDiv (mib * 2 ^ 20) 16))
  else (List.range 24).map (fun c => (c, ceilDiv (mib * 2 ^ 20) 24))

/-- `SCRUB_NOW` waits until its range has been read within the background share; `bad` says that it holds what cannot be
corrected. -/
def execScrubNow (c : Nat) (w : IWord) (bad : Bool) (s : State) : Out :=
  .next (s.runInstr c 0x89 w (.scrubNow c w bad) (shapeOk 0x89 w) false false (fun _ =>
    let flash := bit w.opa.toNat 0
    let n := s.sys.bg.nextJob
    let r : ScrubRun := { job := n, owner := .instr c, flash := flash, start := w.opc.toNat, mib := w.opb.toNat, bad := bad }
    let s := (s.addJob (if flash then 6 else 5) n (scrubNeed flash w.opb.toNat)).mapBg (fun b => { b with scrubs := b.scrubs ++ [r], nextJob := n + 1 })
    .wait s .op))

/-- The scrubs whose range has been read end. -/
def State.endScrubs (s : State) : State :=
  (s.sys.bg.scrubs.filter (fun r => s.jobDone (if r.flash then 6 else 5) r.job)).foldl (fun s r =>
    let s := (s.dropJob (if r.flash then 6 else 5) r.job).mapBg (fun b => { b with scrubs := b.scrubs.filter (fun x => x.job != r.job) })
    if r.bad then (s.scrubFault r.flash r.start r.mib).finish r.owner .checkFail else s.finish r.owner .ok) s

/-- The data space in 4 KiB units. -/
def dataUnits : Nat := 92160 * 256

/-- A unit of the KV pool or of object space that no run holds. -/
def State.unitFree (s : State) (u : Nat) : Bool :=
  decide (kvBase ≤ u) && !(s.mem.kvUsed ++ s.mem.objUsed).any (fun e => decide (e.1 ≤ u ∧ u < e.1 + e.2))

/-- Patrol scrub reads one 4 KiB unit; the last one ends a pass. A unit corrected in 3 consecutive passes is
retired. -/
def execGddrPatrolScrub (frame : Nat) (corrected uncorrectable : Bool) (s : State) : Out :=
  .next (
    let ch := frame % 24
    if !s.cdUp ∨ dataUnits ≤ frame ∨ !s.bgRoom ch 4096 then s
    else
      let s := s.bgUse ch 4096
      let s := if uncorrectable then s.bump (Reg.GDDR_UE ch) else s
      let s := if corrected then
          let n := Tbl.get (fun _ => 0) s.mem.ceRuns frame + 1
          let s := (s.bump (Reg.GDDR_CE ch)).mapMem (fun m => { m with ceRuns := Tbl.set (fun _ => 0) m.ceRuns frame (if 3 ≤ n then 0 else n) })
          if n < 3 ∨ s.mem.retired.contains frame then s
          else if s.unitFree frame then s.retireUnit frame
          else s.mapMem (fun m => { m with retirePending := if m.retirePending.contains frame then m.retirePending else frame :: m.retirePending })
        else s.mapMem (fun m => { m with ceRuns := Tbl.set (fun _ => 0) m.ceRuns frame 0 })
      if frame + 1 = dataUnits then
        ((s.bump Reg.SCRUB_PASSES).passEnds 5 s.sys.bg.scrubStart s.scrubNs).mapBg (fun b => { b with scrubStart := s.clk.time })
      else s)

end Sys2Proof.Machine
end

