-- ==== Sys2Proof/Machine/Flash.lean ====
section
/-! DEFINITION. The flash steward's commands and events: trims, flash time, checkpoints, format, the journal,
restart, garbage collection, verification, erases, block failures and patrol (R155, R157, R336 to R354). -/

namespace Sys2Proof.Machine

/-- Table 12.9. -/
def fCode : FState → Nat
  | .restoring => 0 | .ready => 1 | .readOnly => 2 | .failed => 3

/-! ## `FLASH_TRIM` (R157, R334, R340, R344) -/

/-- Objects with their home in a range of tier locations that a move holds. -/
def State.lentIn (s : State) (loc n : Nat) : Bool :=
  s.mem.objs.any (fun e => e.2.home == 2 && e.2.state == 2 && decide (e.2.loc < loc + n ∧ loc < e.2.loc + e.2.units))

/-- Every granule of a range loses its live data; its bits go with the journal. -/
def State.trimRange (s : State) (g n : Nat) : State :=
  let gone := s.fls.live.filter (fun e => decide (g ≤ e.1 ∧ e.1 < g + n))
  let s := gone.foldl (fun (s : State) e => (s.setLive e.1 0).freeGranule e.1) s
  s.setBytes 2 (pasteBytes s.mem.flash (65536 * g) (65536 * n) [])

/-- Superblocks that the units of a range lie in. -/
def State.sbsOf (s : State) (g n : Nat) : List Nat :=
  ((s.fls.map.filter (fun e => decide (g ≤ 16 * e.1 + 15 ∧ 16 * e.1 < g + n) && e.2.phys != 0xFFFFFFFF)).map (fun e => physSb e.2.phys)).eraseDups

/-- A closed superblock with at most half of its granules valid. -/
def State.halfEmpty (s : State) (sb : Nat) : Bool :=
  ((s.sb sb).state == 2 || (s.sb sb).state == 3) && decide (s.validIn sb ≤ sbSlots * 16 / 2)

def State.preTrim (s : State) (w : IWord) : Pre :=
  let g := w.opc.toNat / 65536
  if w.opc.toNat % 65536 ≠ 0 ∨ w.opb = 0 ∨ mapUnits * 16 < g + w.opb.toNat then badOp
  else if s.fls.state = .restoring ∨ s.fls.state = .failed then illegal 8 (fCode s.fls.state)
  else if s.lentIn (16 * g) (16 * w.opb.toNat) then illegal 3 2
  else if w.flag 8 ∧ s.fls.state = .readOnly then some (.mediaReadOnly, 0) else none

/-- DEDUCED, log entry 102. -/
def execFlashTrim (c : Nat) (w : IWord) (s : State) : Out :=
  .next (s.runInstr c 0x8A w (.flashTrim c w) (shapeOk 0x8A w) false false (fun _ =>
    let g := w.opc.toNat / 65536
    afterPre (s.preTrim w) (
      let sbs := s.sbsOf g w.opb.toNat
      let s := (s.trimRange g w.opb.toNat).journalAll
      let s := if w.flag 8 then s.mapFls (fun f => { f with gcQueue := f.gcQueue ++ (sbs.filter s.halfEmpty).filter (fun b => !f.gcQueue.contains b) }) else s
      .ok (s.publish (.instr c) 1 (65536 * w.opb.toNat) (65536 * w.opb.toNat)))))

/-! ## Flash time, checkpoints, format (R339, R351, R355) -/

def execFlashTimeSet (v : BitVec 64) (s : State) : Out :=
  .next (s.mapFls (fun f => { f with timeOffset := (v.toNat : Int) - s.clk.time, timeSet := true }))

/-- A checkpoint is written to the slot whose turn it is, and journaled. DEDUCED, log entry 103. -/
def State.checkpoint (s : State) : State :=
  let s := s.journalAll
  let n := s.fls.ckptSeq + 1
  (s.mapFls (fun f => { f with ckptSeq := n, ckptTime := s.clk.time, pages := 0 })).journal { typ := 0x0B, index := (n + 1) % 2, aux := n % 2 ^ 32 }

/-- The steward programs flash: it serves, and no hold of R343 stands. -/
def State.flashRuns (s : State) : Bool := (s.fls.state == .ready || s.fls.state == .readOnly) && !s.fls.held

def execFlashCmdCheckpoint (s : State) : Out := .next (if s.flashRuns then s.checkpoint else s)

/-- Journal pages in half of the ring: two copies of each in 524,288 pages. DEDUCED, log entry 103. -/
def halfRing : Nat := 131072

def execFlashCheckpointDue (s : State) : Out :=
  .next (
    let due := s.fls.ckptTime + bits (s.regN Reg.FLASH_CKPT_PERIOD) 15 0 * 10 ^ 9 ≤ s.clk.time ∨ halfRing ≤ s.fls.pages
    if s.flashRuns ∧ due then s.checkpoint else s)

/-- The system partition is erased with all that lies in it: slots, package store, settings records and the journaled counter. The
firmware that runs goes on. DESIGN CHOICE, log entry 168. -/
def State.eraseSystem (s : State) : State :=
  { s with sys := { s.sys with frameCtr := 0, fw := { s.sys.fw with slotA := { state := 0 }, slotB := { state := 0 }, store := none, settings := [] } } }

/-- Every superblock is erased once more; the spare records stay. DEDUCED, log entry 103. -/
def execFlashCmdFormat (s : State) : Out :=
  .next (if s.fls.state ≠ .failed then s.configReject Reg.FLASH_CMD 0x80000001
    else
      let sbs : Tbl Superblock := (s.fls.sbs.map (fun e => (e.1, ({ erases := e.2.erases } : Superblock)))).filter (fun e => e.2 != {})
      let s := s.mapFls (fun f => { f with state := .ready, map := [], sbs := sbs, opens := [], recs := [], seq := 0, pages := 0, live := [], parity := [], parityNext := 0, readOnly := false, gc := none, gcActive := false, gcQueue := [], formats := f.formats + 1, dropTier := false, system := [] })
      (s.eraseSystem.mapMem (fun m => { m with flashUsed := [], flash := [] })).checkpoint)

/-- Both copies of the journal page being filled have programmed. -/
def execJournalPageDurable (s : State) : Out :=
  .next (if s.flashRuns then s.journalPage else s)

/-! ## Restart (R345) -/

/-- An open superblock is closed. -/
def State.closeOpen (s : State) : State :=
  (s.fls.sbs.keys (fun x => x.state == 1)).foldl State.closeSb s

/-- Closed superblocks without a valid granule are queued for their erase. -/
def State.eraseEmpties (s : State) : State :=
  (s.fls.sbs.keys (fun x => x.state == 2 || x.state == 3)).foldl State.eraseIfEmpty s

/-- The exported tier is dropped after GDDR7 was cleared. -/
def State.dropExported (s : State) : State :=
  let s := (s.journal { typ := 0x0D }).journalAll
  (s.mapMem (fun m => { m with flashUsed := [], flash := [] })).mapFls (fun f => { f with live := f.live.filter (fun e => decide (16 * mapUnits ≤ e.1)), dropTier := false })

/-- A unit that the restart reads: one of a closed superblock. -/
def State.inClosed (s : State) (u : Nat) : Bool := (s.mapEnt u).phys != 0xFFFFFFFF && (s.sb (physSb (s.mapEnt u).phys)).state == 2

/-- Replay gives the map as the durable records left it; a unit of a closed superblock with a failing page is rebuilt and moved,
or lost. -/
def execFlashRestart (i : RestartInput) (s : State) : Out :=
  .next (if s.fls.state ≠ .restoring ∨ s.fls.held then s
    else if !i.checkpointValid then s.mapFls (fun f => { f with state := .failed })
    else
      let s := s.closeOpen
      let s := (i.rebuilt.filter s.inClosed).foldl (fun (s : State) u => (s.bump Reg.FLASH_REBUILDS).moveUnit u) s
      let s := (i.lostUnits.filter s.inClosed).foldl State.loseUnit s
      let s := if s.fls.dropTier then s.dropExported else s.journalAll
      let s := s.eraseEmpties.checkpoint
      s.mapFls (fun f => { f with readOnly := f.readOnly || i.readOnlyRecord, state := if f.readOnly || i.readOnlyRecord then .readOnly else .ready }))

/-! ## Garbage collection (R340 to R342) -/

def State.gcLow (s : State) : Nat := bits (s.regN Reg.FLASH_GC_MARKS) 7 0
def State.gcHigh (s : State) : Nat := bits (s.regN Reg.FLASH_GC_MARKS) 15 8

/-- The victim: fewest valid granules, then lowest erase count, then lowest index. DESIGN CHOICE, log entry 105. -/
def State.gcVictim (s : State) : Option Nat :=
  ((s.fls.sbs.keys (fun x => x.state == 2 || x.state == 3)).foldl (fun (b : Option (Nat × Nat × Nat)) i =>
    let v := s.validIn i
    let e := s.eraseCount i
    match b with
    | none => some (v, e, i)
    | some (bv, be, bi) => if v < bv ∨ (v = bv ∧ e < be) then some (v, e, i) else some (bv, be, bi)) none).map (·.2.2)

/-- A superblock that collection has still to empty. -/
def State.collectable (s : State) (sb : Nat) : Bool := (s.sb sb).state == 2 || (s.sb sb).state == 3

/-- The next victim, of those that trims have left first, or the end of the collection. -/
def State.gcNext (s : State) : State :=
  match s.fls.gcQueue.filter s.collectable with
  | b :: t => (s.mapFls (fun f => { f with gcActive := true, gc := some b, gcQueue := t })).eraseIfEmpty b
  | [] =>
    let s := s.mapFls (fun f => { f with gcQueue := [] })
    let stop := s.mapFls (fun f => { f with gcActive := false, gc := none })
    if s.gcHigh ≤ s.freeSbs then stop
    else match s.gcVictim with
      | none => stop
      | some b => (s.mapFls (fun f => { f with gcActive := true, gc := some b })).eraseIfEmpty b

/-- DESIGN CHOICE, log entry 5. -/
def execGcStart (s : State) : Out :=
  .next (if s.fls.state = .ready ∧ !s.fls.held ∧ !s.fls.gcActive ∧ (s.freeSbs < s.gcLow ∨ !s.fls.gcQueue.isEmpty) then s.gcNext else s)

/-- One unit of the victim; a page that fails its retries is rebuilt from parity while that is held (R350), else the unit is lost and not copied. DESIGN CHOICE, log entry 105. -/
def execGcUnitMove (unit : Nat) (unreadable : Bool) (s : State) : Out :=
  .next (
    let e := s.mapEnt unit
    if s.fls.state ≠ .ready ∨ s.fls.held ∨ e.lost ∨ e.phys = 0xFFFFFFFF ∨ s.fls.gc ≠ some (physSb e.phys) ∨ s.flashReads then s
    else if unreadable ∧ !s.parityHeld e.phys then
      (s.readFault unit).journalAll.eraseIfEmpty (physSb e.phys)
    else
      let n := s.fls.recs.length
      let s := if unreadable then (s.bump Reg.FLASH_RETRY1).bump Reg.FLASH_RETRY2 |>.bump Reg.FLASH_REBUILDS else s
      let s := s.moveUnit unit
      if n < s.fls.recs.length then s.bump Reg.FLASH_GC_BYTES (2 ^ 20) 64 else s)

/-! ## Superblocks (R336) -/

/-- The 64 pages of a unit lie 4 on each channel (R332). -/
def unitRead : List (Nat × Nat) := (List.range 16).map (fun c => (resFlash c, 65536))

/-- The verification of a superblock as background work (R336, R354): every page of its mapped units is read. It begins at a beat
boundary after the superblock has closed. -/
def verifyJob (sb : Nat) : Nat := 2 ^ 32 + sb
def State.startVerifies (s : State) : State :=
  let closed := s.fls.sbs.keys (fun x => x.state == 2)
  let s := s.mapBg (fun b => { b with jobs := b.jobs.filter (fun j => j.act != 6 || decide (j.id < 2 ^ 32) || closed.contains (j.id - 2 ^ 32)) })
  closed.foldl (fun s sb => if s.hasJob 6 (verifyJob sb) then s
    else s.addJob 6 (verifyJob sb) (unitRead.map (fun e => (e.1, e.2 * (s.unitsIn sb).length)))) s

/-- Every page of a closed superblock was read back: what failed is rebuilt and moved first. -/
def execSbVerify (sb : Nat) (bad : List Nat) (s : State) : Out :=
  .next (
    let x := s.sb sb
    if !s.flashRuns ∨ x.state ≠ 2 ∨ !s.hasJob 6 (verifyJob sb) ∨ !s.jobDone 6 (verifyJob sb) then s
    else
      let s := (bad.filter (fun u => (s.unitsIn sb).contains u)).foldl (fun (s : State) u => (s.bump Reg.FLASH_REBUILDS).moveUnit u) s
      ((s.setSb sb { s.sb sb with state := 3 }).journal { typ := 0x08, index := sb }).releaseParity sb |>.dropJob 6 (verifyJob sb))

/-- No superblock is erased while a read is in flight (R341). DESIGN CHOICE, log entry 104. -/
def execSbEraseComplete (sb : Nat) (s : State) : Out :=
  .next (
    let x := s.sb sb
    if !s.flashRuns ∨ x.state ≠ 4 ∨ s.flashReads then s
    else
      let s := ((s.setSb sb { erases := x.erases + 1 }).journal { typ := 0x09, index := sb, aux := s.eraseCount sb + 1 }).releaseParity sb
      if s.fls.gc = some sb then s.gcNext else s)

/-- A record that is not yet durable and had a page in the block is written again at its stream's write
point. -/
def State.restartRec (s : State) (sb die : Nat) (r : JRec) : JRec × State :=
  if (r.typ = 1 ∨ r.typ = 3) ∧ physSb r.newPhys = sb ∧ physDie r.newPhys = die then
    match s.nextSlot (s.sb sb).stream with
    | none => (r, s)
    | some (p, s) => ({ r with newPhys := p }, s)
  else (r, s)

def execFlashProgramFail (sb die plane channel : Nat) (s : State) : Out :=
  .next (
    let hole := blockAddr sb die plane channel
    if !s.flashRuns ∨ (s.sb sb).state ≠ 1 ∨ 8 ≤ die ∨ 4 ≤ plane ∨ 16 ≤ channel ∨ s.fls.holes.contains hole then s
    else
      let waiting := s.fls.recs
      let s := (s.mapFls (fun f => { f with recs := [] })).retireBlock hole
      let s := waiting.foldl (fun (s : State) r => let (r, s) := s.restartRec sb die r; s.journal r) s
      ((s.unitsIn sb).filter (fun u => physDie (s.mapEnt u).phys == die)).foldl (fun (s : State) u => (s.bump Reg.FLASH_REBUILDS).moveUnit u) s)

def execFlashEraseFail (sb die plane channel : Nat) (s : State) : Out :=
  .next (if !s.flashRuns ∨ (s.sb sb).state ≠ 4 ∨ 8 ≤ die ∨ 4 ≤ plane ∨ 16 ≤ channel then s
    else s.retireBlock (blockAddr sb die plane channel))

/-! ## Read thresholds and patrol (R349, R350, R354) -/

/-- Table 12.10: the age bucket of a block written `age` ns ago. -/
def ageBucket (age : Nat) : Nat :=
  let h := 3600 * 10 ^ 9
  if age < h then 0 else if age < 24 * h then 1 else if age < 7 * 24 * h then 2 else if age < 30 * 24 * h then 3
  else if age < 90 * 24 * h then 4 else if age < 365 * 24 * h then 5 else if age < 1095 * 24 * h then 6 else 7

/-- Table 12.10: the bucket of a temperature difference in °C. -/
def diffBucket (d : Int) : Nat :=
  if d ≤ -40 then 0 else if d ≤ -20 then 1 else if d ≤ -10 then 2 else if d ≤ 0 then 3 else if d ≤ 10 then 4
  else if d ≤ 20 then 5 else if d ≤ 40 then 6 else 7

/-- °C of a die in a table of temperatures. -/
def dieTemp (t : Tbl Nat) (die : Nat) : Int :=
  let n := Tbl.get (fun _ => 0) t die
  if n < 128 then n else (n : Int) - 256

/-- The set of a page's first sense (R349): bucket 7 for a block written before the last reset while the time is not set (R351). -/
def State.thresholds (s : State) (page : Nat) : Nat × Nat :=
  let x := s.sb (physSb page)
  (if s.fls.timeSet ∨ !x.aged then ageBucket (s.flashTime - x.opened).toNat else 7,
    diffBucket (dieTemp s.fls.dieTemps (blockDie page) - dieTemp x.temps (blockDie page)))

/-- The set of a first retry: the next older age bucket (R350). -/
def State.retrySet (s : State) (page : Nat) : Nat × Nat := (min 7 ((s.thresholds page).1 + 1), (s.thresholds page).2)

/-- A journal record's 64 bytes (Table 12.5). -/
def JRec.bytes (r : JRec) (seq : Nat) : Bytes :=
  let b := packLE [(8, seq), (1, r.typ), (1, 0), (2, r.valid), (4, r.index), (4, r.oldPhys), (4, r.newPhys), (4, r.aux)] ++ padTo 32 r.payload
  b ++ leBytes 4 (crc32c b)

/-- Highest and lowest erase count of a data superblock. -/
def State.eraseMax (s : State) : Nat := s.fls.sbs.foldl (fun m e => max m (s.eraseCount e.1)) s.fls.formats
def State.eraseMin (s : State) : Nat :=
  if s.fls.sbs.length < sbLast + 1 - sbFirst then s.fls.formats
  else s.fls.sbs.foldl (fun m e => min m (s.eraseCount e.1)) s.eraseMax

/-- The `VERIFIED` superblock with the lowest erase count, while the gap exceeds 200. -/
def State.wearVictim (s : State) : Option Nat :=
  if s.eraseMax ≤ s.eraseMin + 200 then none
  else ((s.fls.sbs.keys (fun x => x.state == 3)).foldl (fun (b : Option (Nat × Nat)) i => match b with
    | none => some (s.eraseCount i, i)
    | some (e, j) => if s.eraseCount i < e then some (s.eraseCount i, i) else some (e, j)) none).map (·.2)

/-- A patrol read of a unit: its retries are counted, a page that still fails is rebuilt or lost, and a unit that
needed the second retry, or lies in the superblock to be levelled, is moved. -/
def execFlashPatrol (unit : Nat) (retries : Nat) (failed : Bool) (s : State) : Out :=
  .next (
    let e := s.mapEnt unit
    if !s.flashRuns ∨ e.lost ∨ e.phys = 0xFFFFFFFF ∨ !s.bgRooms unitRead then s
    else
      let last := s.fls.map.all (fun e => decide (e.1 ≤ unit))
      let s := s.bgUses unitRead
      let s := if last then (s.passEnds 6 s.sys.bg.patrolStart s.sys.bg.patrolNs).mapBg (fun b => { b with patrolStart := s.clk.time }) else s
      let sb := physSb e.phys
      let s := if 1 ≤ retries ∨ failed then s.bump Reg.FLASH_RETRY1 else s
      let s := if 2 ≤ retries ∨ failed then s.bump Reg.FLASH_RETRY2 else s
      if failed then
        if s.parityHeld e.phys then (s.bump Reg.FLASH_REBUILDS).moveUnit unit
        else s.unitFault unit
      else if 2 ≤ retries then s.moveUnit unit
      else if s.wearVictim = some sb ∧ s.bgRooms unitRead then (s.bgUses unitRead).moveUnit unit else s)

/-! ## Entry into `READ_ONLY` (R348) -/

/-- Writes to the tier in progress end without commit. DESIGN CHOICE, log entry 105. -/
def State.endFlashWrites (s : State) : State :=
  if s.fls.state ≠ .readOnly then s
  else
    let s := (s.lore.parks.filter (·.tier == 4)).foldl (fun (s : State) p =>
      (((s.mapLore (fun y => { y with parks := y.parks.filter (·.lantern != p.lantern) })).subQueued 3 p.bytes).parkFailed p .mediaReadOnly)) s
    (s.mem.tierMoves.filter (·.target == 2)).foldl (fun (s : State) t => s.failTierMove t .mediaReadOnly) s

end Sys2Proof.Machine
end

