-- ==== Sys2Proof/Machine/Windows.lean ====
section
/-! DEFINITION. Windows, bulk copies, the seal and remote loads (R153, R154, R375 to R388, R394). -/

namespace Sys2Proof.Machine

/-! ## Windows (R375, R376, R378) -/

/-- Table 13.10 without a reserved encoding. DEDUCED, log entry 71. -/
def winShape (d : Bytes) : Bool :=
  let rights := le d 20 1
  let lamp := le d 22 2
  zeroAt d 32 32 && decide (rights < 8) && !bit lamp 14 && decide (le d 24 8 % 8 = 0) &&
    (bit rights 1 || le d 16 4 == 0) &&
    (le d 8 8 == 0 || NodeId.valid (BitVec.ofNat 64 (le d 8 8)))

def sameRatio (ps : List Page) : Bool := ps.all (fun p => some p.ratio == ps.head?.map (·.ratio))

/-- The next generation: 65,535 is followed by 1. -/
def nextGen (g : Nat) : Nat := if 65535 ≤ g then 1 else g + 1

/-- The region's stored bytes. -/
def Window.size (w : Window) : Nat := w.deed.pages.length * pageBytes w.ratio

/-- The list behind an address is taken as the region of a window; pages of an earlier region of the window go back to
their own list. DEDUCED, log entry 71. -/
def State.takeRegion (s : State) (i root : Nat) (x : ListAt) (ps : List Page) : State :=
  let w := s.window i
  let s := match x with
    | .region _ => s
    | _ => if w.deed.state = DState.home then s.setPlist w.root { s.plist w.root with pages := w.deed.pages } else s
  let s := match x with
    | .user r => s.setPlist r { s.plist r with pages := [] }
    | _ => s
  let d := w.deed
  let e : Deed := { d with state := .home, region := true, deed := i, home := s.me, keeper := s.me, epoch := max d.epoch 1, pages := ps, npages := ps.length }
  s.setWindow i { s.window i with root := root, deed := e }

/-- DEDUCED, log entry 71. -/
def State.bodyWinOpen (s : State) (c : Nat) (w : IWord) (d : Bytes) : IRes :=
  let i := w.opb.toNat
  let win := s.window i
  let root := le d 0 8
  let x := s.listAt root
  let ps := s.pagesAt x
  let ratio := (ps.head?.map (·.ratio)).getD 0
  let rights := le d 20 1
  let elsewhere : Bool := match x with | .region j => j != i | .lantern _ | .held _ => true | .user _ => false
  if !winShape d then .fail .badOperand 0
  else if win.state ≠ 0 then .fail .illegalInState (obsOf 4 win.state)
  else if win.deed.state ≠ DState.none ∧ win.deed.state ≠ DState.home then .fail .illegalInState (obsOf 3 (dCode win.deed.state))
  else if elsewhere ∨ (s.listOwner x).isSome ∨ !sameRatio ps ∨ (bit rights 1 ∧ s.listReadOnly x) ∨
      ps.length * pageBytes ratio < le d 24 8 + 8 then .fail .badOperand 0
  else match s.takePages 0 ratio (le d 16 4) with
    | none => .fail .noSpace 0
    | some (stage, s) =>
      let s := s.takeRegion i root x ps
      let gen := nextGen (s.window i).generation
      let lamp := le d 22 2
      let win : Window := { s.window i with state := 1, generation := gen, peer := BitVec.ofNat 64 (le d 8 8), rights := rights, tcMask := le d 21 1, lamp := (if bit lamp 15 then none else some (lamp % 2 ^ 14)), sealOff := le d 24 8, staging := stage, ratio := ratio }
      .ok ((s.setWindow i win).setOut (.instr c) (fun y => { y with out0 := gen }))

def execWinOpen (c : Nat) (w : IWord) (d : Bytes) (s : State) : Out :=
  .next (s.runInstr c 0x70 w (.winOpen c w d) (shapeOk 0x70 w) false false (fun _ => s.bodyWinOpen c w d))

/-- `WIN_REVOKE` closes the check in the instant it starts. -/
def execWinRevoke (c : Nat) (w : IWord) (s : State) : Out :=
  .next (s.runInstr c 0x71 w (.winRevoke c w) (shapeOk 0x71 w) false false (fun _ =>
    let i := w.opb.toNat
    let win := s.window i
    if win.state ≠ 1 then .fail .illegalInState (obsOf 4 win.state)
    else .wait (s.setWindow i { win with state := 2, revokeBeat := s.now, revokeLamp := w.opa.toNat, revokeCtx := some c }) .op))

/-- From the third beat on, with no complete copy still to land: reads and seals are answered as they are accepted. -/
def execWinRevokeComplete (win : Nat) (s : State) : Out :=
  .next (
    let x := s.window win
    if !s.cdUp ∨ x.state ≠ 2 ∨ s.now < x.revokeBeat + 3 ∨ s.fab.copiesIn.any (fun c => c.window == win && c.sealedAt) then s
    else
      let mine := s.fab.copiesIn.filter (·.window == win)
      let s := (s.dropPages (x.staging ++ mine.flatMap (·.stage))).mapFab (fun f => { f with copiesIn := f.copiesIn.filter (fun c => c.window != win) })
      let s := s.setWindow win { s.window win with state := 0, staging := [], revokeCtx := none }
      let s := s.lightLamp x.revokeLamp 1
      match x.revokeCtx with
      | some c => s.finish (.instr c) .ok
      | none => s)

/-! ## Checks at the target (R377) -/

/-- Table 13.12's partner test. -/
def State.admitted (s : State) (w : Window) (n : NodeId) : Bool :=
  if w.peer = 0 then (match s.partnerOf n with
    | none => false
    | some i => (s.partner i).state == .live && (s.partner i).attest == 1)
  else w.peer == n

/-- The first check that fails: 1 generation, 2 state, 3 access, and 4 where the region's deed is not served here (R188). `inside`
is the frame's own part of check 3. DEDUCED, log entry 73. -/
def State.windowCheck (s : State) (f : Frame) (right : Nat) (inside : Window → Bool) : Option Nat :=
  let w := s.window (f.window.getD 0)
  if f.window.isNone ∨ f.generation ≠ w.generation then some 1
  else if w.state ≠ 1 then some 2
  else if !s.admitted w f.src ∨ !bit w.rights right ∨ !bit w.tcMask f.tc ∨ !inside w then some 3
  else if w.deed.state ≠ .home then some 4 else none

/-- A refusal is answered, and one of Table 13.12 counted and raised at the target. -/
def State.refuseWindow (s : State) (f : Frame) (kind : FrameKind) (order : Nat) : State :=
  if order = 4 then s.sendNack f kind .staleEpoch else
  let (code, ev, reg) := match order with
    | 1 => (Code.staleWindow, Ev.windowStale, Reg.WIN_STALE)
    | 2 => (Code.accessRevoked, Ev.windowRevokedArrival, Reg.WIN_REVOKED)
    | _ => (Code.accessViolation, Ev.windowViolation, Reg.WIN_VIOLATIONS)
  ((s.sendNack f kind code).bump reg).raise ev f.src (f.window.getD 0) f.generation

/-! ## `COPY` at the initiator (R379 to R382, R394) -/

/-- Table 13.13 and R379's operand tests. -/
def State.copyShape (s : State) (d : Bytes) (svc : Nat) : Bool :=
  let src := le d 0 8
  let dst : NodeId := BitVec.ofNat 64 (le d 8 8)
  let tc := le d 20 1
  let len := le d 32 8
  zeroAt d 21 3 && zeroAt d 40 24 && decide (le d 16 2 < 4096) && decide (tc < 8) && decide (src % 64 = 0) &&
    bit (s.regN (Reg.SC_TC_ALLOW svc)) tc && decide (tc ≠ 0 ∧ tc ≠ 4) && NodeId.valid dst && dst != s.me &&
    decide (le d 24 8 % 64 = 0 ∧ len % 64 = 0 ∧ 64 ≤ len ∧ len ≤ 2 ^ 40) && decide (src + len ≤ 92160 * 2 ^ 20)

def State.preCopy (s : State) (d : Bytes) (svc : Nat) : Pre :=
  if !s.copyShape d svc then badOp else s.destPre (BitVec.ofNat 64 (le d 8 8))

def State.itemCopy (s : State) (index : Nat) (d : Bytes) : Item :=
  s.moveItem index (le d 20 1) (BitVec.ofNat 64 (le d 8 8)) (le d 32 8)

/-- The open and the stream are queued. -/
def State.startCopy (s : State) (d : Bytes) (o : Owner) (svc k n : Nat) (promise : Option Nat) : State :=
  let id := s.lore.nextMove
  let dst : NodeId := BitVec.ofNat 64 (le d 8 8)
  let win := le d 16 2
  let gen := le d 18 2
  let tc := le d 20 1
  let len := le d 32 8
  let x : CopyOut := { id := id, owner := o, src := le d 0 8, dst := dst, window := win, generation := gen, tc := tc, dstOff := le d 24 8, len := len, sent := 0, k := k, n := n, promise := promise, svc := svc, opened := true }
  let s := (s.endPhase promise 1 s.now).mapLore (fun l => { l with nextMove := id + 1 })
  let s := s.mapFab (fun f => { f with copies := f.copies ++ [x], gens := Tbl.put (Tbl.drop f.gens (4096 * dst.toNat + win)) (4096 * dst.toNat + win) gen })
  let op : CopyOpen := { dstOff := x.dstOff, len := len, frames := ceilDiv len 8192, promised := k + n }
  let s := s.send dst .openK tc (openLen .openK) (.copyOpen op) id (some win) gen x.dstOff 0 false promise svc
  match s.route dst with
  | none => s
  | some (link, _) => s.enqueue link tc (.copyStream id id svc k promise.isSome)

def State.bodyCopy (s : State) (c : Nat) (w : IWord) (d : Bytes) (x : Ctx) : IRes :=
  afterPre (s.preCopy d x.entry.svc) (match s.admitAt c x (s.itemCopy x.pc d) with
    | .no r => r
    | .go s id n =>
      let k := ((id.bind s.promise).map (·.k)).getD s.now
      let nn := ((id.bind s.promise).map (·.n)).getD n
      .wait (s.startCopy d (w.owner c x.pc) x.entry.svc k nn id) .op)

def execCopy (c : Nat) (w : IWord) (d : Bytes) (s : State) : Out :=
  .next (s.coherent c 0x72 w (s.copyShape d ((s.ctx c).map (·.entry.svc) |>.getD 0)) (s.gddrSpan (le d 0 8) (le d 32 8)) [] (fun s =>
    s.runInstr c 0x72 w (.copy c w d) (shapeOk 0x72 w) true true (s.bodyCopy c w d)))

/-- A copy leaves the initiator, with the bytes it has not sent. -/
def State.dropCopy (s : State) (x : CopyOut) : State :=
  let s := s.subQueued x.tc (x.len - x.sent)
  let s := s.dropStream (fun q => match q with | .copyStream i _ _ _ _ => i == x.id | _ => false)
  s.mapFab (fun f => { f with copies := f.copies.filter (fun y => y.id != x.id) })

/-- A copy ends without commit. -/
def State.copyFailed (s : State) (x : CopyOut) (code : Code) (excused : Bool := false) : State :=
  ((s.dropCopy x).failPromise x.promise code excused).finish x.owner code

/-- `COMMIT` arrives: the promise is judged by the commit beat (R381). -/
def execCopyCommitReceive (f : Frame) (commitBeat : Nat) (s : State) : Out :=
  .next (s.receive f .commit (fun s =>
    match s.fab.copies.find? (fun x => x.id == f.ref && x.dst == f.src) with
    | none => s
    | some x =>
      let (s, code) := (s.dropCopy x).keepPromise x.promise commitBeat true
      s.finish x.owner code))

/-! ## `COPY` at the target -/

/-- First page and number of pages that a range of the region touches. -/
def touched (ratio off len : Nat) : Nat × Nat :=
  let pb := pageBytes ratio
  (off / pb, (off + len - 1) / pb + 1 - off / pb)

/-- The staging of a transfer goes back to its window. -/
def State.dropCopyIn (s : State) (x : CopyIn) : State :=
  let w := s.window x.window
  (s.setWindow x.window { w with staging := w.staging ++ x.stage }).mapFab (fun f => { f with copiesIn := f.copiesIn.filter (fun y => y.id != x.id || y.src != x.src) })

def State.copyInOf (s : State) (f : Frame) : Option CopyIn :=
  s.fab.copiesIn.find? (fun x => x.id == f.ref && x.src == f.src)

/-- A refused frame ends the transfer it belongs to. -/
def State.refuseCopy (s : State) (f : Frame) (kind : FrameKind) (order : Nat) : State :=
  let s := match s.copyInOf f with | none => s | some x => s.dropCopyIn x
  s.refuseWindow f kind order

/-- The open is checked, staging pages are taken for the touched pages, and they take the current bytes. -/
def execCopyOpenReceive (f : Frame) (o : CopyOpen) (s : State) : Out :=
  .next (s.receive f .openK (fun s =>
    let inside (w : Window) : Bool := decide (1 ≤ o.len ∧ o.dstOff + o.len ≤ w.size ∧ (touched w.ratio o.dstOff o.len).2 ≤ w.staging.length)
    match s.windowCheck f 1 inside with
    | some k => s.refuseCopy f .openK k
    | none =>
      let i := f.window.getD 0
      let w := s.window i
      let (first, n) := touched w.ratio o.dstOff o.len
      let stage := w.staging.take n
      let s := s.setWindow i { w with staging := w.staging.drop n }
      let s := s.copyPages ((w.deed.pages.drop first).take n) stage
      let x : CopyIn := { id := f.ref, src := f.src, window := i, op := o, firstPage := first, stage := stage, got := 0, sealedAt := false, till := o.promised + bits (s.regN Reg.DEED_TIMEOUT) 23 0 }
      s.mapFab (fun g => { g with copiesIn := g.copiesIn ++ [x] })))

/-- The touched pages are replaced in one step; the replaced pages become staging pages. -/
def State.landCopy (s : State) (x : CopyIn) : State :=
  let w := s.window x.window
  let n := x.stage.length
  let ps := w.deed.pages
  let new := ps.take x.firstPage ++ x.stage ++ ps.drop (x.firstPage + n)
  let s := s.setWindow x.window { w with deed := { w.deed with pages := new }, staging := w.staging ++ (ps.drop x.firstPage).take n }
  let s := (s.mapFab (fun f => { f with copiesIn := f.copiesIn.filter (fun y => y.id != x.id || y.src != x.src) })).bump Reg.COPY_COMMITS
  s.send x.src .commit 4 (openLen .commit) (.copyCommit s.now) x.id

/-- A data frame is checked and written to staging; with the last one the copy commits. A frame without staging of
its transfer fails at order 3. -/
def execCopyDataReceive (f : Frame) (data : Bytes) (checkOk collided : Bool) (s : State) : Out :=
  .next (s.receive f .data (fun s =>
    let mine := s.copyInOf f
    let inside (_ : Window) : Bool := match mine with
      | none => false
      | some x => decide (x.op.dstOff ≤ f.offset ∧ f.offset + data.length ≤ x.op.dstOff + x.op.len)
    match s.windowCheck f 1 inside, mine with
    | some k, _ => s.refuseCopy f .data k
    | none, none => s
    | none, some x =>
      if !checkOk then (s.dropCopyIn x).sendNack f .data .checkFail
      else
        let base := x.firstPage * pageBytes (s.window x.window).ratio
        let s := s.writeStream x.stage (f.offset - base) data
        let x := { x with got := x.got + 1, sealedAt := x.sealedAt || f.sealBit }
        if x.got < x.op.frames ∨ !x.sealedAt then
          s.mapFab (fun g => { g with copiesIn := g.copiesIn.map (fun y => if y.id = x.id ∧ y.src = x.src then x else y) })
        else if (s.window x.window).deed.state ≠ .home then (s.dropCopyIn x).sendNack f .data .staleEpoch
        else if collided then ((s.bump Reg.COMMONS_COLLISIONS).dropCopyIn x).sendNack f .data .writeCollided
        else s.landCopy x))

/-- Transfers that the destination gives up (R380, as R201 for a deed). DEDUCED, log entry 73. -/
def State.abandonCopies (s : State) : State :=
  (s.fab.copiesIn.filter (fun x => decide (x.till < s.now))).foldl State.dropCopyIn s

/-! ## `SEAL` (R383) -/

/-- An earlier `COPY` of the program to the partner has not completed `OK`. -/
def Ctx.copiesOpen (x : Ctx) (n : NodeId) : Bool :=
  x.posted.any (fun p => match p.cmd with
    | .copy _ _ d => decide (BitVec.ofNat 64 (le d 8 8) = n) && p.done != some .ok
    | _ => false)

/-- What `SEAL` ends with at its start: Table 5.18 gives the copies alone. A partner that is `DEAD` or `LEFT`, or that has no route,
gives `TARGET_DEAD`; one with no `LIVE` entry yet is joined first (R370). DESIGN CHOICE, log entry 72. -/
def State.preSeal (s : State) (w : IWord) (x : Ctx) : Pre :=
  let n := w.opc
  if !NodeId.valid n ∨ n = s.me then badOp
  else if (s.route n).isNone ∨ s.partnerState n = .dead ∨ s.partnerState n = .left then some (.targetDead, 0)
  else if x.copiesOpen n then illegal 0 0 else none

def execSealWin (c : Nat) (w : IWord) (s : State) : Out :=
  .next (s.runInstr c 0x73 w (.sealWin c w) (shapeOk 0x73 w) false false (fun x =>
    afterPre (s.preSeal w x) (
      let id := s.fab.nextId
      let (gen, s) := s.knownGen w.opc w.opb.toNat
      let s := s.mapFab (fun f => { f with nextId := id + 1, seals := f.seals ++ [{ id := id, owner := .instr c, node := w.opc }] })
      .wait (s.send w.opc .winSeal 4 8 (.sealW (w.flag 8) id) id (some w.opb.toNat) gen 0 0 false none x.entry.svc) .op)))

/-- A `SEAL` ends. -/
def State.endSeal (s : State) (z : SealOut) (code : Code) : State :=
  (s.mapFab (fun f => { f with seals := f.seals.filter (fun y => y.id != z.id) })).finish z.owner code

/-- `SEAL` completes when its frame has been acknowledged and a refusal sent with the acknowledgement would be here: after the
round trip of R364. DESIGN CHOICE, log entry 72. -/
def State.sealDue (s : State) (z : SealOut) : Bool :=
  match z.acked with
  | none => false
  | some b => decide (b + 2 * ((s.route z.node).map (fun r => r.2.2.1)).getD 1 + bits (s.regN Reg.RETX_MARGIN) 7 0 ≤ s.now)

def State.completeSeals (s : State) : State := (s.fab.seals.filter s.sealDue).foldl (fun s z => s.endSeal z .ok) s

/-- The `SEAL` instructions toward a node end `TARGET_DEAD`. -/
def State.loseSeals (s : State) (n : NodeId) : State :=
  (s.fab.seals.filter (·.node == n)).foldl (fun s z => s.endSeal z .targetDead) s

/-- In one step the seal word becomes its old value plus 1, and the lamp is lit. -/
def execWinSealReceive (f : Frame) (light : Bool) (s : State) : Out :=
  .next (s.receive f .winSeal (fun s =>
    match s.windowCheck f 2 (fun _ => true) with
    | some k => s.refuseWindow f .winSeal k
    | none =>
      let w := s.window (f.window.getD 0)
      let v := leVal (pageStream w.deed.pages s w.sealOff 8)
      let s := s.writeStream w.deed.pages w.sealOff (leBytes 8 (v + 1))
      match light, w.lamp with
      | true, some j => s.lightLamp j 1
      | _, _ => s))

/-! ## Remote loads (R384 to R387) -/

def execReadReceive (f : Frame) (len : Nat) (zero : Bool) (s : State) : Out :=
  .next (s.receive f .read (fun s =>
    let inside (w : Window) : Bool := zero && decide (f.offset % 64 = 0 ∧ len % 64 = 0 ∧ 64 ≤ len ∧ len ≤ 4096 ∧ f.offset + len ≤ w.size)
    match s.windowCheck f 0 inside with
    | some k => s.refuseWindow f .read k
    | none =>
      let w := s.window (f.window.getD 0)
      s.send f.src .readResp 3 len (.bytes (pageStream w.deed.pages s f.offset len)) f.ref none 0 f.offset))

def State.dropLoad (s : State) (id : Nat) : State :=
  s.mapFab (fun f => { f with loads := f.loads.filter (fun x => x.id != id) })

def execReadRespReceive (f : Frame) (data : Bytes) (s : State) : Out :=
  .next (s.receive f .readResp (fun s =>
    match s.fab.loads.find? (fun x => x.id == f.ref && x.dst == f.src) with
    | none => s
    | some x => (s.dropLoad x.id).emit (.hdmData x.hdm data)))

/-- DEDUCED, log entry 73. -/
def execLoadTimeout (id : Nat) (s : State) : Out :=
  .next (match s.fab.loads.find? (·.id == id) with
    | none => s
    | some x =>
      if s.clk.time < x.sentNs + 1000 * bits (s.regN Reg.LOAD_TIMEOUT) 7 0 then s
      else (((s.dropLoad id).bump Reg.LOAD_TIMEOUTS).raise Ev.remoteLoadTimeout x.dst x.window x.off).emit (.hdmOnes x.hdm x.len))

/-- A refused load (R387). -/
def State.loadRefused (s : State) (x : Load) (code : Code) : State :=
  ((s.dropLoad x.id).raise Ev.remoteViolation x.dst (codeN code) x.window).emit (.hdmOnes x.hdm x.len)

end Sys2Proof.Machine
end

