-- ==== Sys2Proof/Machine/Links.lean ====
section
/-! DEFINITION. Ports, links, keys, route maps, forwarding, gates and queue samples (R208, R209, R356 to R369, R389 to
R391, R396 to R404, R548). -/

namespace Sys2Proof.Machine

/-! ## Ports and links (R356 to R358) -/

/-- Table 13.1: links of a port by split, as (first link offset, lanes). -/
def splitLinks (split : Nat) : List (Nat × Nat) :=
  match split with
  | 0 => [(0, 8)]
  | 1 => [(0, 4), (2, 4)]
  | _ => [(0, 2), (1, 2), (2, 2), (3, 2)]

/-- A link out of service keeps its slots. DEDUCED, log entry 97. -/
def Link.idle (l : Link) : Link := { keys := l.keys, encrypted := l.encrypted, slot := l.slot, counter := l.counter }

/-- The links of a port leave service. -/
def State.closePort (s : State) (p : Nat) : State :=
  (List.range 4).foldl (fun (s : State) j => s.setLink (4 * p + j) (s.link (4 * p + j)).idle) s

/-- The links of a port start to train. -/
def State.openPort (s : State) (p split : Nat) : State :=
  (splitLinks split).foldl (fun (s : State) e =>
    s.setLink (4 * p + e.1) { (s.link (4 * p + e.1)).idle with state := 1, lanes := e.2, enabledAt := s.clk.time }) s

/-- PORT_CFG: accepted while the port is disabled, or when enable alone changes; a reserved split stays as it was (R4). DEDUCED, log
entry 97. -/
def execPortCfgWrite (port : Nat) (v : BitVec 32) (s : State) : Out :=
  .next (if 8 ≤ port then s
    else
      let off := Reg.PORT_CFG port
      let old := s.regN off
      if bit old 31 ∧ v.toNat % 8 ≠ old % 8 then s.configReject off v.toNat
      else
        let split := if v.toNat % 4 = 3 then old % 4 else v.toNat % 4
        let new := v.toNat % 8 / 4 * 4 + split + (if bit v.toNat 31 ∧ s.me ≠ 0 then 2 ^ 31 else 0)
        let s := if v.toNat % 4 = 3 then s.configReject off v.toNat else s
        let s := s.setRegN off new
        if bit new 31 ∧ !bit old 31 then s.openPort port (bits new 1 0)
        else if bit old 31 ∧ !bit new 31 then s.closePort port else s)

def execLinkUp (link : Nat) (s : State) : Out :=
  .next (let l := s.link link; if l.state = 1 then s.setLink link { l with state := 2, trained := true, authFails := 0 } else s)

/-- Not `UP` within 200 ms of enable. DEDUCED, log entry 97. -/
def execLinkTrainFail (link : Nat) (s : State) : Out :=
  .next (
    let l := s.link link
    if l.state = 1 ∧ !l.trained ∧ l.enabledAt + 200000000 ≤ s.clk.time then (s.setLink link { l with state := 3 }).raise Ev.linkTrainFail 0 link else s)

def execLinkDown (link : Nat) (s : State) : Out :=
  .next (let l := s.link link; if l.state = 2 then ((s.linkFault link).setLink link { l with state := 1 }).raise Ev.linkDown 0 link else s)

/-! ## Keys (R389, R390) -/

def State.keyLink (s : State) : Nat := bits (s.regN Reg.KEY_SEL) 4 0
def State.keySlot (s : State) : Nat := b2n (bit (s.regN Reg.KEY_SEL) 8)

/-- The key held in KEY_DATA, with its salt. -/
def State.keyHeld (s : State) : Nat × Nat :=
  ((s.fab.keyData.foldr (fun w a => w % 2 ^ 32 + 2 ^ 32 * a) 0), s.fab.keySalt)

def execKeyCmdLoad (s : State) : Out :=
  .next (
    let i := s.keyLink
    let l := s.link i
    if l.encrypted ∧ l.slot = s.keySlot then s.configReject Reg.KEY_CMD 0x80000000
    else s.setLink i { l with keys := l.keys.set s.keySlot (some s.keyHeld) })

/-- The slot becomes the transmit slot from the link's next frame, its counter at 0. DEDUCED, log entry 97. -/
def execKeyCmdActivate (s : State) : Out :=
  .next (
    let i := s.keyLink
    let l := s.link i
    if (l.keys.getD s.keySlot none).isNone then s.configReject Reg.KEY_CMD 0x80000001
    else s.setLink i { l with encrypted := true, slot := s.keySlot, counter := 0 })

def execKeyCmdDisable (s : State) : Out :=
  .next (let i := s.keyLink; s.setLink i { s.link i with encrypted := false })

/-! ## Route maps (R208, R209, R366) -/

/-- Node entries of a map: node, link, lanes, hops, alternate. -/
def mapNodes (b : Bytes) (n : Nat) : List (NodeId × Nat × Nat × Nat × Nat) :=
  (List.range n).map (fun i => let o := 64 + 16 * i
    (BitVec.ofNat 64 (le b o 8), le b (o + 8) 1, le b (o + 9) 1, le b (o + 10) 1, le b (o + 11) 1))
/-- Target entries: target and node index. -/
def mapTargets (b : Bytes) (n t : Nat) : List (Nat × Nat) :=
  (List.range t).map (fun i => let o := 64 + 16 * n + 8 * i; (le b o 4, le b (o + 4) 4))

def nodeEntryOk (e : NodeId × Nat × Nat × Nat × Nat) : Bool :=
  NodeId.valid e.1 && decide (e.2.1 < 32) && [2, 4, 8].contains e.2.2.1 && decide (1 ≤ e.2.2.2.1 ∧ e.2.2.2.1 ≤ 15) &&
    (decide (e.2.2.2.2 < 32) || e.2.2.2.2 == 0xFF)

/-- Values that rise strictly. -/
def rising : List Nat → Bool
  | a :: b :: t => decide (a < b) && rising (b :: t)
  | _ => true

/-- A route map in the layouts of R366; `none` when it is refused. -/
def parseMap (b : Bytes) : Option RouteMap :=
  let n := le b 4 4
  let t := le b 8 4
  let size := 16 * n + 8 * t
  if le b 0 4 ≠ 0x50414D52 ∨ n = 0 ∨ 32768 < n ∨ 1048576 < t ∨ !zeroAt b 16 48 ∨ b.length < 64 + size then none
  else
    let ns := mapNodes b n
    let ts := mapTargets b n t
    let zeros := (List.range n).all (fun i => zeroAt b (64 + 16 * i + 12) 4)
    if le b 12 4 = crc32c ((b.drop 64).take size) ∧ ns.all nodeEntryOk ∧ zeros ∧ rising (ns.map (·.1.toNat)) ∧ rising (ts.map (·.1)) ∧
        ts.all (fun e => decide (e.2 < n) || e.2 == 0xFFFFFFFF) then
      some { nodes := ns, targets := ts.map (fun e => (e.1, (ns[e.2]?).map (·.1))) }
    else none

/-- ROUTE_INSTALL: the map at ROUTE_MAP_BASE is read and takes effect at the next beat boundary. -/
def execRouteInstall (v : BitVec 32) (map : Bytes) (s : State) : Out :=
  .next (if v.toNat ≠ (s.fab.epoch + 1) % 2 ^ 32 then s.configReject Reg.ROUTE_INSTALL v.toNat
    else match parseMap map with
      | none => s.raise Ev.routeMapBad 0 (s.regN Reg.ROUTE_MAP_BASE)
      | some r => s.mapFab (fun f => { f with newMap := some r }))

/-- The boundary at which an installed map takes effect: stubs for the targets that leave this Cucia. -/
def State.takeMap (s : State) : State :=
  match s.fab.newMap with
  | none => s
  | some r =>
    let old := s.fab.map
    let at_ (t : Nat) : Option NodeId := (r.targets.find? (·.1 == t)).bind (·.2)
    let stubs := old.targets.filterMap (fun e => if e.2 = some s.me then match at_ e.1 with
      | some n => if n = s.me then none else some (e.1, n)
      | none => none else none)
    s.mapFab (fun f => { f with map := r, oldMap := some old, newMap := none, epoch := f.epoch + 1, stubs := stubs, drainEnd := s.now + bits (s.regN Reg.MAP_DRAIN) 23 0 })

def execMapDrainEnd (s : State) : Out :=
  .next (if s.fab.oldMap.isSome ∧ s.fab.drainEnd ≤ s.now then s.mapFab (fun f => { f with oldMap := none, stubs := [] }) else s)

/-! ## Forwarding (R209, R210, R369, R402) -/

/-- A frame on its way to another node, as it leaves here. -/
def onward (f : Frame) (kind : FrameKind) (ns : Nat) (payload : Bytes) (dst : NodeId) (epoch : Nat) (stub : Bool) : OutFrame :=
  { kind := kind, tc := f.tc, src := f.src, dst := dst, seq := f.seq, ack := if f.ackValid then some f.ack else none, retransmit := f.retransmit, forwarded := f.forwarded || stub, sealBit := f.sealBit, hops := f.hops + 1, len := f.payloadLen, window := f.window, generation := f.generation, routeEpoch := epoch, ref := f.ref, offset := f.offset, stamp := f.stamp, payload := .forwarded payload, cameNs := ns }

/-- The stub that a frame for this node meets, when it names a target under the previous epoch in the drain. -/
def State.stubMet (s : State) (f : Frame) (kind : FrameKind) : Option NodeId :=
  if f.dst ≠ s.me then none else match targetOf f kind with
  | none => none
  | some t => match s.placed f.routeEpoch t with
    | .stub => s.stubFor f.routeEpoch t
    | _ => none

def execFrameForward (f : Frame) (kind : FrameKind) (ns : Nat) (payload : Bytes) (s : State) : Out :=
  .next (match s.linkCheck f with
    | (s, false) => s
    | (s, true) =>
      let stub := s.stubMet f kind
      if (f.dst = s.me ∧ stub.isNone) ∨ kind = .hello ∨ kind = .probe ∨ kind = .beacon then s
      else
        let dst := stub.getD f.dst
        match s.route dst with
        | none => s.bump Reg.FWD_DROPS
        | some (link, _) =>
          if 15 ≤ f.hops then s.bump Reg.FWD_DROPS
          else
            let s := if stub.isSome then s.bump Reg.MAP_FORWARDS else s
            let g := onward f kind ns payload dst (if stub.isSome then s.fab.epoch else f.routeEpoch) stub.isSome
            s.enqueue link f.tc (.frame g (kind == .read || kind == .readResp) true none 0 s.now))

/-! ## Shapers and gates (R396 to R401, R548) -/

/-- GATE_FRACTION of a class under a list at a beat length (R401). -/
def gateFraction (b overhead : Nat) (l : List (Nat × Nat)) (c : Nat) : Nat :=
  let g2 := ceilDiv (8272 + overhead) 50
  10000 * openTime (gateSpans b 0 l) g2 c * 8192 / (b * (8272 + overhead))

def gateFractions (b overhead : Nat) (l : List (Nat × Nat)) : List Nat := (List.range 8).map (gateFraction b overhead l)

def State.overhead (s : State) : Nat := bits (s.regN Reg.LEN_OVERHEAD) 7 0

/-- The fractions follow the list, the overhead and the beat length in force. -/
def State.refraction (s : State) : State :=
  let g := gateFractions s.clk.len s.overhead s.fab.gates
  (List.range 8).foldl (fun (s : State) c => s.setRegN (Reg.GATE_FRACTION c) (g.getD c 0)) (s.mapFab (fun f => { f with gateFrac := g }))

/-- The staged entries of GATE_LIST up to an index. -/
def State.stagedGates (s : State) (last : Nat) : List (Nat × Nat) :=
  (List.range (last + 1)).map (fun i => let v := s.regN (Reg.GATE_LIST i); (bits v 31 24, bits v 16 0))

/-- The shares of the classes that a mask opens. -/
def shareSum (share : Nat → Nat) (mask : Nat) : Nat :=
  ((List.range 8).map (fun c => if bit mask c then share c else 0)).sum

def State.shareOf (s : State) (c : Nat) : Nat := bits (s.regN (Reg.CLASS_SHARE c)) 10 0

/-- R399's tests of a list against a beat length. -/
def State.gatesLegal (s : State) (b : Nat) (l : List (Nat × Nat)) : Bool :=
  rising (l.map (·.2)) && (l.getLast?.map (·.2)) == some 0x1FFFF && l.dropLast.all (fun e => decide (e.2 < b)) &&
    l.all (fun e => decide (shareSum s.shareOf e.1 ≤ 1024))

/-- A beat length fits the list in force (R548). -/
def State.gatesFit (s : State) (b : Nat) : Bool := s.fab.gates.dropLast.all (fun e => decide (e.2 < b))

/-- Promises that drew on a register (R77). -/
def State.drewOn (s : State) (off : Nat) : List Nat := (s.io.promises.filter (fun p => p.regs.contains off)).map (·.id)

/-- GATE_CTRL.apply: refused, held under R77 while it lowers a fraction, or in force at the next boundary. DEDUCED, log entry 98. -/
def execGateCtrlApply (entries : BitVec 4) (s : State) : Out :=
  .next (
    let s := s.setRegN Reg.GATE_CTRL (setBits (s.regN Reg.GATE_CTRL) 3 0 entries.toNat)
    let l := s.stagedGates entries.toNat
    let b := min s.clk.len (s.clk.lenPending.getD s.clk.len)
    if !s.gatesLegal b l ∨ s.fld.any (fun e => e.2.state != 0) then s.configReject Reg.GATE_CTRL (0x80000000 + entries.toNat)
    else
      let new := gateFractions s.clk.len s.overhead l
      let low := (List.range 8).filter (fun c => decide (new.getD c 0 < s.fab.gateFrac.getD c 0))
      let ps := (low.flatMap (fun c => s.drewOn (Reg.GATE_FRACTION c))).eraseDups
      let writes : List PendingWrite := low.map (fun c => { off := Reg.GATE_FRACTION c, value := new.getD c 0, promises := s.drewOn (Reg.GATE_FRACTION c) })
      if ps.isEmpty then s.mapFab (fun f => { f with gatesPending := some l, gatesWait := none })
      else
        let s := s.mapFab (fun f => { f with gatesWait := some (l, ps), gatesPending := none })
        s.mapIo (fun io => { io with pendingWrites := io.pendingWrites.filter (fun w => !(low.map Reg.GATE_FRACTION).contains w.off) ++ writes }))

/-- A held list is released once its promises have ended. -/
def State.releaseGates (s : State) : State :=
  match s.fab.gatesWait with
  | none => s
  | some (l, ps) =>
    if ps.any (fun i => (s.promise i).isSome) then s
    else (s.mapFab (fun f => { f with gatesPending := some l, gatesWait := none })).mapIo
      (fun io => { io with pendingWrites := io.pendingWrites.filter (fun w => !((List.range 8).map Reg.GATE_FRACTION).contains w.off) })

/-- The boundary at which a list and written shares take effect. DEDUCED, log entry 98. -/
def State.takeGates (s : State) : State :=
  let s := s.fab.shareNext.foldl (fun (s : State) e => s.setRegN e.1 e.2) s
  let s := s.mapFab (fun f => { f with shareNext := [] })
  let s := match s.fab.gatesPending with
    | none => s
    | some l => s.mapFab (fun f => { f with gates := l, gatesPending := none })
  s.refraction

/-- One refill of every shaper of the links in service (R396). -/
def State.refill (s : State) : State :=
  let spans := gateSpans s.clk.len 0 s.fab.gates
  s.fab.links.foldl (fun (s : State) e =>
    if e.2.state ≠ 2 then s
    else (List.range 8).foldl (fun (s : State) c =>
      let u := openTime spans (s.guardNs e.2.lanes) c
      let add := s.shareOf c * 25 * e.2.lanes * u / 1024
      s.setCredit e.1 c (min (s.credit e.1 c + add) (2 * add))) s) s.refillTc0

/-! ## Queue samples (R404) -/

/-- Counted bytes of an item: a stream counts what it has not sent. -/
def State.itemDepth (s : State) (link : Nat) (q : QItem) : Nat :=
  match q with
  | .frame f _ _ _ _ _ => s.counted link f.len
  | .moveStream m _ _ _ _ => match s.moveOut m with
    | none => 0
    | some x => x.rate - x.sent + ceilDiv (x.rate - x.sent) 8192 * s.counted link 0
  | .copyStream m _ _ _ _ => match s.copyOut m with
    | none => 0
    | some x => x.len - x.sent + ceilDiv (x.len - x.sent) 8192 * s.counted link 0

def qSince : QItem → Nat
  | .frame _ _ _ _ _ t => t
  | .moveStream _ _ _ t _ => t
  | .copyStream _ _ _ t _ => t

/-- One sample of every queue; waits are whole beats. -/
def State.sampleQueues (s : State) : State :=
  let keys := (s.fab.queues.map (·.1) ++ s.fab.samples.map (·.1)).eraseDups
  keys.foldl (fun (s : State) k =>
    let q := Tbl.get (fun _ => []) s.fab.queues k
    let d := (q.map (s.itemDepth (k / 8))).sum
    let w := match q with | [] => 0 | x :: _ => (s.now - qSince x) * s.clk.len
    let o := Tbl.get (fun _ => ({} : QSample)) s.fab.samples k
    let n : QSample := { depth := d, depthMax := max o.depthMax d, delay := w, delayMax := min (max o.delayMax w) (2 ^ 32 - 1), tDepth := max o.tDepth d, tDelay := max o.tDelay w }
    s.mapFab (fun f => { f with samples := Tbl.set (fun _ => {}) f.samples k n })) s

def execQueueSel (v : BitVec 32) (s : State) : Out :=
  .next (s.whileFree Reg.QUEUE_SEL v.toNat (fun s =>
    let link := bits v.toNat 12 8
    let c := bits v.toNat 2 0
    let k := 8 * link + c
    let o := Tbl.get (fun _ => ({} : QSample)) s.fab.samples k
    let s := (s.setRegN Reg.QUEUE_SEL (link * 256 + c)).mapFab (fun f => { f with queueSnap := o })
    if bit v.toNat 30 then s.mapFab (fun f => { f with samples := Tbl.set (fun _ => {}) f.samples k { o with depthMax := 0, delayMax := 0 } }) else s))

/-! ## `HELLO` (R368) -/

/-- Every 1,024 beats on a link in service. -/
def execHelloSend (link : Nat) (s : State) : Out :=
  .next (
    let l := s.link link
    if l.state ≠ 2 ∨ (l.lastHello ≠ 0 ∧ s.now < l.lastHello + 1024) then s
    else (s.setLink link { l with lastHello := s.now }).enqueue link 4 (.frame (s.mkFrame l.neighbour .hello 4 8 (.bytes (leBytes 8 s.me.toNat))) false false none 0 s.now))

/-- The neighbour of the link; one that is not in the partner table is joined. -/
def execHelloReceive (f : Frame) (s : State) : Out :=
  .next (s.receive f .hello (fun s =>
    let s := s.setLink f.link { s.link f.link with neighbour := f.src }
    if (s.partnerOf f.src).isNone then s.startJoin f.src else s))

end Sys2Proof.Machine
end

