-- ==== Sys2Proof/Machine/Meadows.lean ====
section
/-! DEFINITION. Meadows: definition, role and drain (R156, R406 to R410). -/

namespace Sys2Proof.Machine

/-! ## The descriptor (Table 15.1) -/

def descTiles (d : Bytes) : List Nat := (List.range 128).filter (fun i => bit (le d 0 16) i)
def descRole (d : Bytes) : Nat := le d 16 1
def descChans (d : Bytes) : Nat := if (descTiles d).isEmpty then 0 else le d 17 1
def descShares (d : Bytes) : List Nat := (List.range 8).map (fun p => le d (20 + p) 1)
/-- The port shares that a definition holds: none without tiles. -/
def defShares (d : Bytes) : List Nat := if (descTiles d).isEmpty then [] else descShares d

/-- R406's operand tests. -/
def meadowShape (d : Bytes) : Bool :=
  let ts := descTiles d
  zeroAt d 18 2 && zeroAt d 28 36 && decide (descRole d < 4) && decide (ts.length ≤ 124) &&
    (ts.isEmpty || decide (1 ≤ le d 17 1 ∧ le d 17 1 ≤ 24)) && (descShares d).all (fun v => decide (v ≤ 64))

/-- What a meadow holds, with a definition that has started counted as in force: channels and port shares. -/
def Meadow.heldChans (x : Meadow) : Nat :=
  match x.pendingDef with | some (d, _) => descChans d | none => x.chans
def Meadow.heldShares (x : Meadow) : List Nat :=
  match x.pendingDef with
  | some (d, _) => defShares d
  | none => x.portShares
def Meadow.claims (x : Meadow) : List Nat :=
  match x.pendingDef with | some (d, _) => descTiles d | none => []

/-- R406: tiles, channels and port shares that a definition of `m` may take. -/
def State.meadowRoom (s : State) (m : Nat) (d : Bytes) : Bool :=
  let others := s.eng.meadows.filter (fun e => e.1 != m)
  let tileOk (i : Nat) : Bool := ((s.tile i).state == 0 || ((s.tile i).state == 1 && (s.tile i).meadow == m)) &&
    !others.any (fun e => e.2.claims.contains i)
  (descTiles d).all tileOk && decide ((others.map (fun e => e.2.heldChans)).sum + descChans d ≤ 24) &&
    (List.range 8).all (fun p => decide ((others.map (fun e => e.2.heldShares.getD p 0)).sum + (defShares d).getD p 0 ≤ 64))

def State.preDefine (s : State) (m : Nat) (d : Bytes) : Pre :=
  let x := s.mdw m
  if !meadowShape d then badOp
  else if s.inField m then illegal 5 (s.field m).state
  else if x.pendingDef.isSome ∨ (x.state ≠ .free ∧ x.state ≠ .drained) then illegal 6 (mCode x.state)
  else if !s.meadowRoom m d then some (.noSpace, 0) else none

def execMeadowDefine (c : Nat) (w : IWord) (d : Bytes) (s : State) : Out :=
  .next (s.runInstr c 0x80 w (.meadowDefine c w d) (shapeOk 0x80 w) false false (fun _ =>
    let m := w.opa.toNat
    let x := s.mdw m
    afterPre (s.preDefine m d) (
      if x.state = .free ∧ (descTiles d).isEmpty then .ok s
      else .wait (s.setMdw m { x with pendingDef := some (d, s.now), defOwner := some c }) .op)))

/-! ## The definition takes effect (R408) -/

/-- A tile's SRAM reads zero again. -/
def State.zeroTile (s : State) (i : Nat) : State :=
  let s := s.mapEng (fun e => { e with sram := e.sram.filter (fun w => decide (w.1 / 2 ^ 20 ≠ i)) })
  { s with sys := { s.sys with upsets := s.sys.upsets.filter (fun e => !decide (sramKey (2 ^ 20 * i) ≤ e.1 ∧ e.1 < sramKey (2 ^ 20 * (i + 1)))) } }

/-- A tile that a meadow's definition takes: free, or its own already (R13). -/
def State.mayTake (s : State) (m i : Nat) : Bool := (s.tile i).state == 0 || ((s.tile i).state == 1 && (s.tile i).meadow == m)

/-- The tiles that a meadow lets go are free; those it takes are its own and zeroed. A tile quarantined since the
definition started leaves the meadow again at its next step boundary. -/
def State.assignTiles (s : State) (m : Nat) (old new : List Nat) : State :=
  let s := (old.filter (fun i => !new.contains i && (s.tile i).state == 1 && (s.tile i).meadow == m)).foldl
    (fun (s : State) i => s.setTile i { s.tile i with state := 0, meadow := 0 }) s
  new.foldl (fun (s : State) i => (if !s.mayTake m i then s else s.setTile i { s.tile i with state := 1, meadow := m }).zeroTile i) s

/-- Requests in flight on a meadow begin a new placement epoch, and a miss of promised work there is a path miss
(R211, R420). -/
def State.replaceRequests (s : State) (m : Nat) : State :=
  s.mapLore (fun l => { l with requests := l.requests.mapVals (fun _ q =>
    if q.meadow = m ∧ q.state.inFlight then { q with placement := q.placement + 1 } else q) })

/-- Its captures can no longer be shadowed: 1 after a redefinition, 2 after a change of membership (R242). -/
def loseCaptures (why : Nat) (ks : List Capture) : List Capture := ks.map (fun k => if k.lost = 0 then { k with lost := why } else k)

/-- DEDUCED, log entry 99. -/
def State.defineNow (s : State) (m : Nat) (d : Bytes) : State :=
  let x := s.mdw m
  let new := descTiles d
  let same := decide (new = x.tiles)
  let s := s.assignTiles m x.tiles new
  let bad := new.filter (fun i => !((s.tile i).state == 1 && (s.tile i).meadow == m))
  let y : Meadow := if new.isEmpty then
      { x with state := .free, role := 0, tiles := [], chans := 0, portShares := [], desc := [], window := none }
    else { x with state := .running, role := descRole d, tiles := new, chans := descChans d, portShares := descShares d, desc := d.take 64 }
  let y := { y with pendingDef := none, defOwner := none, program := none, ran := [], captures := loseCaptures 1 x.captures, shadowNext := 0, resplit := none, quarantined := bad, stuck := false, deficits := [], rotation := 0 }
  let s := (s.setMdw m y).replaceRequests m
  let s := if same then s else s.unready m
  match x.defOwner with | none => s | some c => s.finish (.instr c) .ok

/-- The beat boundary after its start, or the step boundary while a step runs. -/
def execMeadowDefineEffect (m : Nat) (s : State) : Out :=
  .next (
    let x := s.mdw m
    match x.pendingDef with
    | none => s
    | some (d, since) => if !s.cdUp ∨ s.now ≤ since ∨ x.steps.any (·.started) then s else s.defineNow m d)

/-! ## Role and drain -/

/-- `GENERATION` and `MIXED`. -/
def rowRole (r : Nat) : Bool := r == 1 || r == 3

/-- DEDUCED, log entry 99. -/
def State.preRole (s : State) (m r : Nat) : Pre :=
  let x := s.mdw m
  if s.inField m then illegal 5 (s.field m).state
  else if x.pendingDef.isSome ∨ x.pendingRole.isSome then illegal 6 (mCode x.state)
  else if x.state = .drained ∨ (x.state = .running ∧ rowRole x.role ∧ rowRole r) then none
  else illegal 6 (mCode x.state)

/-- The role changes at the meadow's next step boundary, or the next beat boundary when it runs no step. -/
def execMeadowRole (c : Nat) (w : IWord) (s : State) : Out :=
  .next (s.runInstr c 0x81 w (.meadowRole c w) (shapeOk 0x81 w) false false (fun _ =>
    let m := w.opa.toNat
    afterPre (s.preRole m w.opb.toNat) (
      .wait ((s.setMdw m { s.mdw m with pendingRole := some w.opb.toNat, roleOwner := some c }).publish (.instr c) 4 0 1) .op)))

def execMeadowDrain (c : Nat) (w : IWord) (s : State) : Out :=
  .next (s.runInstr c 0x82 w (.meadowDrain c w) (shapeOk 0x82 w) false false (fun _ =>
    let m := w.opa.toNat
    let x := s.mdw m
    if x.state ≠ .running then .fail .illegalInState (obsOf 6 (mCode x.state))
    else .wait (s.setMdw m { x with state := .draining, drainOwner := some c }) .op))

/-- No request in flight is left on the meadow. -/
def execMeadowDrained (m : Nat) (s : State) : Out :=
  .next (
    let x := s.mdw m
    if !s.cdUp ∨ x.state ≠ .draining ∨ s.lore.requests.any (fun e => e.2.meadow == m && e.2.state.inFlight) then s
    else
      let s := s.setMdw m { x with state := .drained, drainOwner := none }
      match x.drainOwner with | none => s | some c => s.finish (.instr c) .ok)

end Sys2Proof.Machine
end

