-- ==== Sys2Proof/Machine/Fields.lean ====
section
/-! DEFINITION. Fields: following a root, forming, membership changes, health, expulsion, hold and readiness (R39, R155,
R230, R411 to R433). -/

namespace Sys2Proof.Machine

/-! ## Following a root (R411, R412) -/

def beaconCode : BeaconState → Nat
  | .local_ => 0 | .acquiring => 1 | .locked => 2 | .freeRun => 3 | .master => 4

def State.sendMgmt (s : State) (dst : NodeId) (p : Payload) : State := s.send dst .mgmt 4 (openLen .mgmt) p

/-- Some meadow belongs to a field, or forms one: R31 speaks of a meadow that belongs to a field, and here one that is forming a
field counts as well. DESIGN CHOICE, log entry 121. -/
def State.anyField (s : State) : Bool := s.fld.any (fun e => e.2.state != 0)

/-- Work with a fabric hop, or of a meadow in a field, met a path fault: the beacon was lost (R41, R83). DEDUCED, log entry 136. -/
def State.beaconFault (s : State) : State :=
  s.mapIo (fun io => { io with promises := io.promises.map (fun (p : Promise) =>
    if p.peer ≠ 0 ∨ s.inField p.meadow then { p with path := true } else p) })

/-- The Cucia follows a root, leads, or runs on its own; no correction of an earlier beacon is left to slew (R29). -/
def State.follow (s : State) (root : NodeId) : State :=
  if root = 0 then s.mapClk (fun c => { c with beacon := .local_, root := 0, correction := 0, children := [], followers := [], followAt := none })
  else if root = s.me then s.mapClk (fun c => { c with beacon := .master, root := s.me, hops := 0, offset := 0, correction := 0, followAt := none })
  else s.mapClk (fun c => { c with beacon := .acquiring, root := root, inBand := 0, correction := 0, lastBeacon := c.now, children := [], followers := [] })

/-- The beacon is lost: the Cucia runs on from its own timebase (R40). -/
def State.freeRun (s : State) : State :=
  ((s.mapClk (fun c => { c with beacon := .freeRun, freeSince := c.now, correction := 0, inBand := 0, followAt := none })).raise
    Ev.beaconLost s.clk.root).beaconFault

def execFieldFollow (v : BitVec 64) (s : State) : Out :=
  .next (
    if !s.cdUp then s
    else if v = BitVec.allOnes 64 ∨ s.anyField then s.configReject Reg.FIELD_FOLLOW v.toNat
    else
      let s := (s.setReg Reg.FIELD_FOLLOW v).follow v
      if v = 0 ∨ v = s.me then s
      else (s.mapClk (fun c => { c with followAt := some c.now })).sendMgmt v (.follow none))

/-- Children of a node of the distribution tree are placed breadth first: the first 8 followers under the root, then
8 under each follower in turn. -/
def childrenOf (followers : List NodeId) (i : Option Nat) : List NodeId :=
  match i with
  | none => followers.take 8
  | some k => (followers.drop (8 + 8 * k)).take 8

/-- Followers that get their beacons with hops at most 4: the root's children take them with 0. -/
def treeMax : Nat := 8 + 64 + 512 + 4096 + 32768

/-- The parent of the follower at a place: the root itself, or an earlier follower. -/
def parentOf (followers : List NodeId) (i : Nat) : Option NodeId := if i < 8 then none else followers[(i - 8) / 8]?

/-- A follow request at the root: the follower is placed, and its parent told of it, or it is refused. From its own root a follower
learns of a child. DESIGN CHOICE, log entry 87. -/
def execFollowRequestReceive (r : FollowFrame) (s : State) : Out :=
  let f := r.frame
  .next (s.receive f .mgmt (fun s =>
    match r.child with
    | some n =>
      if f.src ≠ s.clk.root ∨ s.clk.beacon = .local_ ∨ s.clk.beacon = .master ∨ s.clk.children.contains n ∨ 8 ≤ s.clk.children.length then s
      else s.mapClk (fun c => { c with children := c.children ++ [n] })
    | none =>
      if s.clk.beacon ≠ .master ∨ s.clk.followers.contains f.src then s
      else if treeMax ≤ s.clk.followers.length then s.sendNack f .mgmt .noSpace
      else
        let l := s.clk.followers ++ [f.src]
        let s := s.mapClk (fun c => { c with followers := l, children := childrenOf l none })
        match parentOf l (l.length - 1) with
        | none => s
        | some p => s.sendMgmt p (.follow (some f.src))))

/-- The root has no place in its tree for this follower. -/
def State.treeFull (s : State) (root : NodeId) : State :=
  if s.clk.root = root ∧ s.clk.followAt.isSome then s.raise Ev.beaconTreeFull root else s

/-- Not `LOCKED` 1,024 beats after the request: as a lost beacon (R40). -/
def execFollowLockTimeout (s : State) : Out :=
  .next (match s.clk.followAt with
    | none => s
    | some b =>
      if s.now < b + 1024 then s
      else if s.clk.beacon = .locked then s.mapClk (fun c => { c with followAt := none })
      else s.freeRun)

/-! ## Descriptors (R413) -/

/-- A field descriptor with its members. -/
def parseField (d : Bytes) : FieldDesc :=
  let n := le d 20 2
  { fieldId := le d 4 4, root := BitVec.ofNat 64 (le d 8 8), beatNs := le d 16 4, floor := le d 22 2, epoch := le d 24 4, model := le d 28 2, tiles := le d 30 2, members := (List.range n).map (fun i => let o := 64 + 16 * i; { node := BitVec.ofNat 64 (le d o 8), meadow := le d (o + 8) 1, weight := le d (o + 9) 1 }), crc := le d 60 4 }

def fieldShape (d : Bytes) : Bool :=
  let f := parseField d
  let n := le d 20 2
  let nodes := f.members.map (·.node)
  decide (le d 0 4 = 0x444C4946) && decide (1 ≤ f.fieldId ∧ f.fieldId ≤ 0xFFFFFFFE) && NodeId.valid f.root &&
    beatLegal f.beatNs && decide (1 ≤ n ∧ n ≤ 512) && decide (1 ≤ f.floor ∧ f.floor ≤ n) && zeroAt d 32 28 &&
    decide (1 ≤ f.tiles ∧ f.tiles ≤ 124) && decide (nodes.eraseDups.length = n) && nodes.contains f.root &&
    f.members.all (fun m => NodeId.valid m.node && decide (m.meadow < 8 ∧ 1 ≤ m.weight ∧ m.weight ≤ 16)) &&
    (List.range n).all (fun i => zeroAt d (64 + 16 * i + 10) 6) &&
    decide (f.crc = crc32c (d.take 60 ++ (d.drop 64).take (16 * n)))

/-- The Cucia is `LOCKED` to a root or is that root (R39). -/
def State.lockedTo (s : State) (root : NodeId) : Bool :=
  if root = s.me then s.clk.beacon == .master else s.clk.beacon == .locked && s.clk.root == root

/-- R414's conditions on the meadow, without the beat length. -/
def State.meadowFits (s : State) (m : Nat) (f : FieldDesc) : Bool :=
  let x := s.mdw m
  f.members.any (fun e => e.node == s.me && e.meadow == m) && x.state == .running && x.tiles.length == f.tiles && s.residentOn m f.model

/-- The beat after the commit of the step running on a meadow, or the current one. -/
def State.freeBeat (s : State) (m : Nat) : Nat :=
  match (s.mdw m).steps.head? with
  | some t => if t.started then t.commit + 1 else s.now
  | none => s.now

/-! ## Forming (R414, R415) -/

/-- The partner table has no entry, free or to be had from another partner, for each member that has none. -/
def State.tableFull (s : State) (f : FieldDesc) : Bool :=
  let named (n : NodeId) : Bool := f.members.any (·.node == n)
  let without := (f.members.filter (fun e => e.node != s.me && (s.partnerOf e.node).isNone)).length
  let kept := (s.fab.partners.filter (fun e => named e.2.node || s.pins e.2.node != 0 || s.waitsOn e.2.node)).length
  decide (4096 < without + kept)

/-- Table 5.19 names `NO_SPACE` and says no more of it: here it is a full partner table. DESIGN CHOICE, log entry 81. -/
def State.preForm (s : State) (m : Nat) (d : Bytes) : Pre :=
  let f := parseField d
  let x := s.mdw m
  if !fieldShape d ∨ f.epoch ≠ 0 then badOp
  else if s.inField m then illegal 5 (s.field m).state
  else if x.state = .free then illegal 6 0
  else if !s.lockedTo f.root then illegal 7 (beaconCode s.clk.beacon)
  else if s.fld.any (fun e => e.2.state != 0 && (e.2.id == f.fieldId || e.2.root != f.root)) then illegal 5 2
  else if !s.meadowFits m f ∨ x.pendingDef.isSome then illegal 6 (mCode x.state)
  else if s.clk.len ≠ f.beatNs then illegal 0 0
  else if s.tableFull f then some (.noSpace, 0) else none

/-- A field of the meadow at its start. DESIGN CHOICE, log entry 81. -/
def FieldSt.forming (f : FieldDesc) (c now : Nat) : FieldSt :=
  { state := 1, id := f.fieldId, root := f.root, members := f.members, floor := f.floor, beatNs := f.beatNs, model := f.model, tiles := f.tiles, owner := some c, desc := some f, since := now }

/-- FIELD_LEAD beats ahead. DESIGN CHOICE, log entry 87. -/
def State.lead (s : State) : Nat := s.now + bits (s.regN Reg.FIELD_LEAD) 15 0

/-- With READY from every member under one check, the root chooses c and sends it. -/
def State.tryForm (s : State) (m : Nat) : State :=
  let f := s.field m
  let ok (e : FieldMember) : Bool := f.ready.any (fun r => r.1 == e.node)
  if f.state ≠ 1 ∨ f.root ≠ s.me ∨ f.commitAt.isSome ∨ !f.members.all ok then s
  else
    let c := f.ready.foldl (fun a r => max a r.2.freeBeat) s.lead
    let s := s.setField m { f with commitAt := some c }
    f.members.foldl (fun (s : State) e => if e.node = s.me then s else s.sendMgmt e.node (.fieldCommit f.id c)) s

def State.startForm (s : State) (m c : Nat) (f : FieldDesc) : State :=
  let r : FieldReady := { fieldId := f.fieldId, crc := f.crc, freeBeat := s.freeBeat m, refused := false }
  let s := s.setField m (FieldSt.forming f c s.now)
  if f.root = s.me then
    let mine := s.early.filter (fun e => e.2.1.fieldId == f.fieldId && e.2.1.crc == f.crc && f.members.any (·.node == e.1) && decide (s.now < e.2.2 + bits (s.regN Reg.FIELD_FORM_TIMEOUT) 23 0))
    let s := { s with early := s.early.filter (fun e => e.2.1.fieldId != f.fieldId) }
    (s.setField m { s.field m with ready := (s.me, r) :: mine.map (fun e => (e.1, e.2.1)) }).tryForm m
  else s.sendMgmt f.root (.fieldReady r)

def execFieldForm (c : Nat) (w : IWord) (d : Bytes) (s : State) : Out :=
  .next (s.runInstr c 0x78 w (.fieldForm c w d) (shapeOk 0x78 w) false false (fun _ =>
    let m := w.opa.toNat
    afterPre (s.preForm m d) (.wait (s.startForm m c (parseField d)) .op)))

/-- An instruction that forms or changes a field ends, with a node in out0 where one is named. -/
def State.endFieldOp (s : State) (owner : Option Nat) (code : Code) (node : Option NodeId) (obs : Nat := 0) : State :=
  match owner with
  | none => s
  | some c =>
    let s := match node with | none => s | some n => s.setOut (.instr c) (fun x => { x with out0 := n.toNat })
    s.finish (.instr c) code obs

/-- A form ends: the meadow is in no field. -/
def State.endForm (s : State) (m : Nat) (code : Code) (node : Option NodeId) : State :=
  let o := (s.field m).owner
  (s.setField m {}).endFieldOp o code node

/-! ## Membership changes: what each kind makes of the members (R416, R419, R423, R431) -/

def applyMembers (k : ChangeKind) (d : FieldDesc) (subject : NodeId) (ms : List FieldMember) : List FieldMember :=
  match k with
  | .reform => d.members
  | .join => ms ++ (d.members.filter (·.node == subject))
  | .straggle => ms.map (fun e => if e.node = subject then { e with weight := max 1 (e.weight - 1) } else e)
  | _ => ms.filter (fun e => e.node != subject)

/-- The descriptor of a field as it stands, with a member list. -/
def FieldSt.descOf (f : FieldSt) (ms : List FieldMember) : FieldDesc :=
  { fieldId := f.id, root := f.root, beatNs := f.beatNs, floor := f.floor, epoch := f.epoch, model := f.model, tiles := f.tiles, members := ms, crc := 0 }

/-- The meadow of a running or held field with an identifier. -/
def State.fieldBy (s : State) (id : Nat) : Option Nat :=
  (s.fld.find? (fun e => e.2.id == id && (e.2.state == 2 || e.2.state == 3))).map (·.1)

/-- R418: what a change of the beat length asks: no promise is open that was granted under the shorter of the two lengths. It is
refused outright when the Cucia has another field, or a gate list that does not fit (R548). -/
def State.otherField (s : State) (id : Nat) : Bool := s.fld.any (fun e => e.2.state != 0 && e.2.id != id)
def State.beatClear (s : State) (beatNs : Nat) : Bool :=
  s.io.promises.all (fun p => decide (max s.clk.len beatNs ≤ p.b))

/-- R431: the meadow that prep tested may join. DEDUCED, log entry 83. -/
def State.mayJoin (s : State) (f : FieldDesc) : Option Nat :=
  let v := s.regN Reg.FIELD_READY
  let m := bits v 10 8
  let x := s.mdw m
  if bit v 31 ∧ (s.field m).state = 0 ∧ x.state = .running ∧ x.tiles.length = f.tiles ∧ s.residentOn m f.model ∧ s.lockedTo f.root then some m else none

/-- Whether this Cucia can answer READY to a change: `none` while it cannot, `some true` when it refuses. -/
def State.answerTo (s : State) (m : Nat) (ch : FieldChange) : Option Bool :=
  let f := s.field m
  let d := ch.desc
  let member := decide (f.id = d.fieldId) && (f.state == 2 || f.state == 3)
  match ch.kind with
  | .reform =>
    if member ∧ f.epoch ≠ d.epoch then none
    else if !d.members.any (·.node == s.me) then some false
    else
      let long := decide (d.beatNs ≠ s.clk.len)
      if long ∧ (s.otherField d.fieldId ∨ !s.gatesFit d.beatNs) then some true
      else if member ∧ s.meadowFits m d ∧ (!long || s.beatClear d.beatNs) then some false
      else if !member ∧ s.mayJoin d = some m ∧ (!long || s.beatClear d.beatNs) then some false
      else none
  | .join => if ch.subject = s.me then (if s.mayJoin d = some m then some false else some true)
      else if member ∧ f.epoch = d.epoch then some false else none
  | _ => if member ∧ f.epoch = d.epoch then some false else none

/-- A change under way at its issuer is kept in the field of the meadow. -/
def State.setChange (s : State) (m i : Nat) (k : Change) : State :=
  let f := s.field m
  s.setField m { f with changes := f.changes.set i k }

/-- A change ends without effect. -/
def State.endChange (s : State) (m i : Nat) (code : Code) (node : Option NodeId) (obs : Nat := 0) : State :=
  let f := s.field m
  match f.changes[i]? with
  | none => s
  | some k => (s.setField m { f with changes := f.changes.eraseIdx i }).endFieldOp k.owner code node obs

/-- Members whose READY a change needs: those of the new list. -/
def Change.needs (k : Change) : List NodeId := k.desc.members.map (·.node)

/-- The change as it is distributed. -/
def Change.sent (k : Change) : FieldChange := { kind := k.kind, desc := k.desc, subject := k.subject }

/-- The first start boundary of a field step at or after a beat; that beat while the field starts no step. -/
def State.boundaryFrom (s : State) (m b : Nat) : Nat :=
  match (s.mdw m).steps.head? with
  | none => b
  | some t =>
    if (s.field m).halted then b
    else
      let p := t.hdr.pLen + 1
      if b ≤ t.start then t.start else t.start + ceilDiv (b - t.start) p * p

/-- Every READY is there: c is chosen and sent (R414). -/
def State.tryChange (s : State) (m i : Nat) : State :=
  let f := s.field m
  match f.changes[i]? with
  | none => s
  | some k =>
    if k.commitAt.isSome ∨ !k.needs.all (fun n => k.ready.any (fun r => r.1 == n)) then s
    else
      let joins := k.ready.filter (fun r => !f.members.any (·.node == r.1))
      let c := s.boundaryFrom m (joins.foldl (fun a r => max a r.2.freeBeat) s.lead)
      let s := s.setChange m i { k with commitAt := some c }
      let all := (f.members.map (·.node) ++ k.needs).eraseDups
      all.foldl (fun (s : State) n => if n = s.me then s else s.sendMgmt n (.fieldCommit f.id c)) s

/-- The issuer distributes a change and answers for itself. -/
def State.startChange (s : State) (m : Nat) (kind : ChangeKind) (d : FieldDesc) (subject : NodeId) (owner : Option Nat) : State :=
  let f := s.field m
  let i := f.changes.length
  let r : FieldReady := { fieldId := f.id, crc := d.crc, freeBeat := s.freeBeat m, refused := false }
  let mine := if s.answerTo m { kind := kind, desc := d, subject := subject } = some false then [(s.me, r)] else []
  let k : Change := { kind := kind, desc := d, subject := subject, owner := owner, since := s.now, ready := mine, commitAt := none, hold := decide (kind = .expel ∧ f.state = 3) }
  let s := s.setField m { f with changes := f.changes ++ [k] }
  let all := (f.members.map (·.node) ++ d.members.map (·.node)).eraseDups
  let s := all.foldl (fun (s : State) n => if n = s.me then s else s.sendMgmt n (.fieldChange { kind := kind, desc := d, subject := subject })) s
  s.tryChange m i

/-! ## The field instructions (Table 5.19) -/

/-- The meadow of an intake entry leads its field from here (R416). -/
def State.leads (s : State) (m : Nat) : Bool := s.fielded m && (s.field m).root == s.me

/-- DEDUCED, log entry 82. -/
def State.rootGone (s : State) (m : Nat) : Bool :=
  let st := s.partnerState (s.field m).root
  st == .dead || st == .left

def State.preReform (s : State) (m : Nat) (d : Bytes) : Pre :=
  let f := s.field m
  let k := parseField d
  if !fieldShape d then badOp
  else if !s.fielded m ∨ !(s.leads m || (s.rootGone m && k.root == s.me)) ∨ k.fieldId ≠ f.id then illegal 5 f.state
  else if k.epoch ≠ f.epoch then some (.fieldChanged, 0)
  else if k.members.any (·.node == s.me) ∧ !s.meadowFits m k then illegal 6 (mCode (s.mdw m).state) else none

/-- Every node that a change was distributed to hears that it does not take place. -/
def State.withdraw (s : State) (m : Nat) (k : Change) : State :=
  (((s.field m).members.map (·.node) ++ k.needs).eraseDups).foldl (fun (s : State) n =>
    if n = s.me then s else s.sendMgmt n (.fieldChange { k.sent with kind := .withdraw })) s

/-- Changes of the field that meet `p` are withdrawn, with a code for the instruction behind each. -/
def State.withdrawAll (s : State) (m : Nat) (p : Change → Bool) (code : Code) : State :=
  let gone := (s.field m).changes.filter p
  let s := s.setField m { s.field m with changes := (s.field m).changes.filter (fun k => !p k) }
  gone.foldl (fun s k => (s.withdraw m k).endFieldOp k.owner code none) s

/-- A re-form drops a pending automatic expulsion, unless it omits the member as well (R432). -/
def droppedBy (d : FieldDesc) (k : Change) : Bool := k.kind == .autoExpel && d.members.any (·.node == k.subject)

def execFieldReform (c : Nat) (w : IWord) (d : Bytes) (s : State) : Out :=
  .next (s.runInstr c 0x7B w (.fieldReform c w d) (shapeOk 0x7B w) false false (fun x =>
    let m := x.entry.meadow
    let k := parseField d
    afterPre (s.preReform m d) (
      if s.answerTo m { kind := .reform, desc := k, subject := k.root } = some true then
        .failAs (s.setOut (.instr c) (fun y => { y with out0 := s.me.toNat })) .illegalInState (obsOf 5 (s.field m).state)
      else
        let s := (s.withdrawAll m (droppedBy k) .fieldChanged).publish (.instr c) 4 0 k.members.length
        .wait (s.startChange m .reform k k.root (some c)) .op)))

def State.preFieldAdmit (s : State) (m : Nat) (n : NodeId) : Pre :=
  let f := s.field m
  if !NodeId.valid n then badOp
  else if !s.leads m ∨ f.state ≠ 2 ∨ 64 < f.members.length ∨ f.members.any (·.node == n) then illegal 5 f.state
  else if s.partnerState n = .dead ∨ s.partnerState n = .left then some (.targetDead, 0)
  else if !s.lockedTo f.root then illegal 7 (beaconCode s.clk.beacon) else none

/-- An admitted node takes the highest weight among the members, and the highest rank. -/
def execFieldAdmit (c : Nat) (w : IWord) (s : State) : Out :=
  .next (s.runInstr c 0x79 w (.fieldAdmit c w) (shapeOk 0x79 w) false false (fun x =>
    let m := x.entry.meadow
    let f := s.field m
    let top := f.members.foldl (fun a e => max a e.weight) 1
    afterPre (s.preFieldAdmit m w.opc) (
      .wait (s.startChange m .join (f.descOf (f.members ++ [{ node := w.opc, meadow := 0, weight := top }])) w.opc (some c)) .op)))

/-- DEDUCED, log entry 84. -/
def State.preExpel (s : State) (m : Nat) (n : NodeId) : Pre :=
  let f := s.field m
  if !s.leads m ∨ n = s.me ∨ !f.members.any (·.node == n) ∨ f.members.length ≤ f.floor then
    (if NodeId.valid n then illegal 5 f.state else badOp)
  else none

def execFieldExpel (c : Nat) (w : IWord) (s : State) : Out :=
  .next (s.runInstr c 0x7A w (.fieldExpel c w) (shapeOk 0x7A w) false false (fun x =>
    let m := x.entry.meadow
    let f := s.field m
    afterPre (s.preExpel m w.opc) (
      .wait (s.startChange m .expel (f.descOf (applyMembers .expel (f.descOf []) w.opc f.members)) w.opc (some c)) .op)))

/-! ## READY, c and aborts -/

/-- READY of a member, or a refusal (R414, R418, R431). -/
def execFieldReadyReceive (f : Frame) (r : FieldReady) (s : State) : Out :=
  .next (s.receive f .mgmt (fun s =>
    match s.fld.find? (fun e => e.2.id == r.fieldId && e.2.state == 1 && e.2.root == s.me) with
    | some (m, x) =>
      if (x.desc.map (·.crc)) ≠ some r.crc ∨ !x.members.any (·.node == f.src) then s
      else (s.setField m { x with ready := x.ready.filter (fun e => e.1 != f.src) ++ [(f.src, r)] }).tryForm m
    | none => match s.fieldBy r.fieldId with
      | none => { s with early := s.early.filter (fun e => e.1 != f.src || e.2.1.fieldId != r.fieldId) ++ [(f.src, r, s.now)] }
      | some m =>
        match ((List.range (s.field m).changes.length).zip (s.field m).changes).find? (fun e =>
            e.2.desc.crc == r.crc && e.2.commitAt.isNone && e.2.needs.contains f.src && !e.2.ready.any (fun q => q.1 == f.src)) with
        | none => s
        | some (i, k) =>
          if r.refused then s.endChange m i .illegalInState (some f.src) (obsOf 5 (s.field m).state)
          else (s.setChange m i { k with ready := k.ready ++ [(f.src, r)] }).tryChange m i))

/-- c arrives: for a form, or for the first announced change that has none (R414, R415). -/
def execFieldCommitBeatReceive (f : Frame) (fieldId c : Nat) (s : State) : Out :=
  .next (s.receive f .mgmt (fun s =>
    match s.fld.find? (fun e => e.2.id == fieldId && e.2.state == 1 && e.2.root == f.src) with
    | some (m, x) =>
      if c < s.now then (s.endForm m .fieldChanged none).raise Ev.fieldCommitLate f.src fieldId c (some m)
      else s.setField m { x with commitAt := some c }
    | none => match s.fld.find? (fun e => e.2.announced.any (fun a => a.change.desc.fieldId == fieldId && a.issuer == f.src && a.commitAt.isNone)) with
      | none => s
      | some (m, x) =>
        let i := x.announced.findIdx (fun a => a.change.desc.fieldId == fieldId && a.issuer == f.src && a.commitAt.isNone)
        s.setField m { x with announced := x.announced.modify i (fun a => { a with commitAt := some c }) }))

/-- An abort ends the form, or withdraws the announced changes of its sender that have no c. -/
def execFieldAbortReceive (f : Frame) (fieldId : Nat) (missing : NodeId) (s : State) : Out :=
  .next (s.receive f .mgmt (fun s =>
    match s.fld.find? (fun e => e.2.id == fieldId && e.2.state == 1 && e.2.root == f.src) with
    | some (m, _) => s.endForm m .targetDead (some missing)
    | none => s.fld.foldl (fun (s : State) e =>
        s.setField e.1 { s.field e.1 with announced := (s.field e.1).announced.filter (fun a => !(a.change.desc.fieldId == fieldId && a.issuer == f.src && a.commitAt.isNone)) }) s))

/-- A meadow's field enters `HOLD` (Table 15.5). -/
def State.enterHold (s : State) (m : Nat) (node : NodeId) (reason : Nat) : State :=
  let f := s.field m
  ((s.setField m { f with state := 3 }).bump Reg.HOLD_COUNT).raise Ev.fieldHold node f.id reason (some m)

/-- The root tells every other member. -/
def State.tellMembers (s : State) (m : Nat) (kind : ChangeKind) (subject : NodeId) : State :=
  let f := s.field m
  f.members.foldl (fun (s : State) e => if e.node = s.me then s
    else s.sendMgmt e.node (.fieldChange { kind := kind, desc := f.descOf f.members, subject := subject })) s

def isHold (k : ChangeKind) : Bool :=
  match k with
  | .hold _ => true
  | .release => true
  | _ => false

/-- READY to a change goes to its issuer; a condition that does not yet hold is tried again (R418). -/
def State.answerChange (s : State) (m i : Nat) : State :=
  match (s.field m).announced[i]? with
  | none => s
  | some a =>
    if a.answered then s
    else match s.answerTo m a.change with
      | none => s
      | some no =>
        let r : FieldReady := { fieldId := a.change.desc.fieldId, crc := a.change.desc.crc, freeBeat := s.freeBeat m, refused := no }
        let f := s.field m
        (s.setField m { f with announced := f.announced.set i { a with answered := true } }).sendMgmt a.issuer (.fieldReady r)

/-- The issuer's own READY to a change, once its conditions hold here as well (R418). -/
def State.answerOwn (s : State) (m i : Nat) : State :=
  match (s.field m).changes[i]? with
  | none => s
  | some k =>
    if k.commitAt.isSome ∨ k.ready.any (fun r => r.1 == s.me) ∨ s.answerTo m k.sent ≠ some false then s
    else
      let r : FieldReady := { fieldId := k.desc.fieldId, crc := k.desc.crc, freeBeat := s.freeBeat m, refused := false }
      (s.setChange m i { k with ready := k.ready ++ [(s.me, r)] }).tryChange m i

def State.answerChanges (s : State) : State :=
  s.fld.foldl (fun (s : State) e =>
    let s := (List.range (s.field e.1).announced.length).foldl (fun (s : State) i => s.answerChange e.1 i) s
    (List.range (s.field e.1).changes.length).foldl (fun (s : State) i => s.answerOwn e.1 i) s) s

/-- The meadow that a distributed change concerns here. -/
def State.changeMeadow (s : State) (ch : FieldChange) : Option Nat :=
  match s.fieldBy ch.desc.fieldId with
  | some m => some m
  | none => if ch.desc.members.any (·.node == s.me) then some (bits (s.regN Reg.FIELD_READY) 10 8) else none

/-- The root's field is held or released. -/
def State.takeHold (s : State) (m : Nat) (src subject : NodeId) (kind : ChangeKind) : State :=
  let x := s.field m
  if x.root ≠ src then s
  else match kind with
    | .hold reason => if x.state = 2 then s.enterHold m subject reason else s
    | .release => if x.state = 3 then s.setField m { x with state := 2 } else s
    | _ => s

/-- A change that is withdrawn is announced no more. -/
def State.forgetChange (s : State) (m : Nat) (src : NodeId) (ch : FieldChange) : State :=
  let x := s.field m
  s.setField m { x with announced := x.announced.filter (fun a => !(a.issuer == src && a.change.desc == ch.desc && a.change.subject == ch.subject)) }

/-- A change is kept and answered; one that names a new root whose count differs gets no READY (R417). -/
def execFieldChangeReceive (f : Frame) (heard : HeardChange) (s : State) : Out :=
  let ch := heard.change
  .next (s.receive f .mgmt (fun s =>
    match s.changeMeadow ch with
    | none => s
    | some m =>
      let x := s.field m
      if isHold ch.kind then s.takeHold m f.src ch.subject ch.kind
      else if ch.kind = .withdraw then s.forgetChange m f.src ch
      else
        let conflict := decide (ch.kind = .reform ∧ x.root ≠ 0 ∧ ch.desc.root ≠ x.root) && !heard.sameCount
        let s := if conflict then s.raise Ev.beaconConflict ch.desc.root 0 s.now else s
        let s := s.setField m { x with announced := x.announced ++ [{ change := ch, issuer := f.src, answered := conflict, commitAt := none, hold := decide (ch.kind = .expel ∧ x.state = 3) }] }
        s.answerChange m x.announced.length))

/-! ## A change takes effect (R211, R213, R234, R242, R417 to R420, R429) -/

/-- A beat length takes effect for every meadow; a write of BEAT_LEN that asks for another one goes on waiting. -/
def State.setBeat (s : State) (b : Nat) : State :=
  (s.mapClk (fun c => { c with len := b, lenPending := if c.lenPending = some b then none else c.lenPending })).refraction

/-- A generic step program's shard and reduction tables are derived for the members in rank order and the meadow's tiles, and its
header takes a new shard_epoch, and its check with it (R234). DEDUCED, log entry 85. -/
def State.reshard (s : State) (m addr epoch : Nat) (ms : List NodeId) : State :=
  match s.hdrAt addr with
  | none => s
  | some h =>
    if !h.generic then s
    else
      let b := Tbl.readBytes s.mem.gddr addr 124
      let b := b.take 32 ++ leBytes 4 epoch ++ b.drop 36
      let known := s.bodyKnown h
      let s := s.setBytes 0 (Tbl.writeBytes s.mem.gddr addr (b ++ leBytes 4 (crc32c b)))
      let tables := (ms, List.range (s.mdw m).tiles.length)
      s.mapEng (fun e => { e with checked := (addr, crc32c b, known) :: e.checked, tables := Tbl.put (Tbl.drop (Tbl.put (Tbl.drop e.tables h.shardTable) h.shardTable tables) h.reduceTable) h.reduceTable tables })

/-- The home of deeds is dead (R23): every deed `REMOTE` there becomes an ember, and every partial to it ends. -/
def State.homeDead (s : State) (n : NodeId) : State :=
  let gone := s.lore.deeds.filter (fun e => e.2.state == .remote && e.2.home == n)
  let s := gone.foldl (fun (s : State) e => s.toEmber (e.1 / 1024) (e.1 % 1024) (e.2.epoch + 1)) s
  (s.eng.partials.filter (fun p => p.dst == n)).foldl (fun (s : State) p => s.endPartial p .targetDead) s

/-- An expelled Cucia frees what it hosts for lanterns of the members that remain. -/
def State.freeHostedFor (s : State) (ns : List NodeId) : State :=
  (s.lore.hosted.filter (fun e => e.2.state == .home && ns.contains e.2.keeper)).foldl
    (fun (s : State) e => (s.freeData (.hosted e.1)).setDeed (.hosted e.1) {}) s

/-- The last meadow has left its field: the Cucia stops sending or following (Table 2.4). -/
def State.leaveBeacon (s : State) : State :=
  if s.anyField ∨ s.clk.beacon = .local_ then s else s.follow 0

/-- What every change does to a meadow that stays a member. It leaves `HOLD`, but for expulsions by software there, and while the
root is gone (Table 15.5, R428). DEDUCED, log entries 82 and 85. -/
def State.newMembership (s : State) (m : Nat) (ms : List FieldMember) (ks : List (FieldChange × Bool)) : State :=
  let f := s.field m
  let reform := ks.find? (fun k => k.1.kind == .reform)
  let held := decide (f.state = 3) && reform.isNone && (s.rootGone m || ks.all (·.2))
  let dead (n : NodeId) : Bool := n != s.me && (s.partnerState n == .dead || s.partnerState n == .left)
  let top (n : NodeId) : Nat := if reform.isSome then 1000 else ((f.health.find? (·.1 == n)).map (·.2)).getD 1000
  let g : FieldSt := { f with state := if held then 3 else 2, epoch := f.epoch + 1, members := ms, halted := f.halted && ms.any (fun e => dead e.node), health := ms.map (fun e => (e.node, top e.node)), late := f.late.filter (fun e => ms.any (·.node == e.1)) }
  let g := match reform with
    | some (c, _) => { g with root := c.desc.root, floor := c.desc.floor, beatNs := c.desc.beatNs, model := c.desc.model, tiles := c.desc.tiles }
    | none => g
  let s := s.setField m g
  let x := s.mdw m
  let s := (s.setMdw m { x with captures := loseCaptures 2 x.captures }).replaceRequests m
  let s := x.ran.foldl (fun (s : State) a => s.reshard m a g.epoch (ms.map (·.node))) s
  let s := s.mapIo (fun io => { io with promises := io.promises.map (fun (p : Promise) => if p.meadow = m then { p with path := true } else p) })
  let s := if g.root ≠ f.root ∧ f.root ≠ 0 then s.follow g.root else s
  let s := if g.beatNs ≠ s.clk.len then s.setBeat g.beatNs else s
  (ks.filter (fun k => k.1.kind == .expel || k.1.kind == .autoExpel)).foldl (fun (s : State) k => s.homeDead k.1.subject) s

/-- A meadow that is no longer a member. DEDUCED, log entry 84. -/
def State.leaveField (s : State) (m : Nat) (ms : List FieldMember) (expelled : Bool) : State :=
  let f := s.field m
  let s := (s.setField m {}).raise Ev.fieldLeft f.root f.id 0 (some m)
  let s := if expelled then (s.freeHostedFor (ms.map (·.node))).raise Ev.fieldExpelled f.root f.id 0 (some m) else s
  s.leaveBeacon

/-- Changes due at one boundary take effect as one, in the order in which they started. DEDUCED, log entry 83. -/
def State.takeChanges (s : State) (m : Nat) (ks : List (FieldChange × Bool)) : State :=
  let f := s.field m
  let ms := ks.foldl (fun a k => applyMembers k.1.kind k.1.desc k.1.subject a) f.members
  if ms.any (·.node == s.me) then s.newMembership m ms ks
  else s.leaveField m ms (ks.any (fun k => (k.1.kind == .expel || k.1.kind == .autoExpel) && k.1.subject == s.me))

def dueBy (now : Nat) (c : Option Nat) : Bool := match c with | none => false | some b => decide (b ≤ now)

/-- A change of the Cucia's own commits as announced; one that an instruction or a descriptor states is for the epoch at which it
started (R155, R425, R432). -/
def holdsAt (k : ChangeKind) (started now : Nat) : Bool :=
  match k with
  | .autoExpel => true
  | .straggle => true
  | _ => decide (started = now)

/-- The field's epoch has risen: a change without c that an instruction started ends `FIELD_CHANGED`, and one of the Cucia's own
is distributed anew. -/
def State.reviseChanges (s : State) (m : Nat) : State :=
  let f := s.field m
  let old (k : Change) : Bool := k.commitAt.isNone && k.desc.epoch != f.epoch
  let s := s.setField m { f with changes := f.changes.filter (fun k => !old k) }
  (f.changes.filter old).foldl (fun (s : State) k => match k.owner with
    | some _ => s.endFieldOp k.owner .fieldChanged none
    | none =>
      let g := s.field m
      if g.state ≠ 2 ∨ !g.members.any (·.node == k.subject) then s
      else s.startChange m k.kind (g.descOf (applyMembers k.kind (g.descOf []) k.subject g.members)) k.subject none) s

/-- The changes of this issuer that are due; one whose field has moved on since it started ends `FIELD_CHANGED`, and an
admission of a node that has died fails (R155, R432). -/
def State.commitChanges (s : State) (m : Nat) : State :=
  let f := s.field m
  let due := f.changes.filter (fun k => dueBy s.now k.commitAt)
  if due.isEmpty then s
  else
    let s := s.setField m { f with changes := f.changes.filter (fun k => !dueBy s.now k.commitAt) }
    let dead (k : Change) : Bool := k.kind == .join && (s.partnerState k.subject == .dead || s.partnerState k.subject == .left)
    let good := due.filter (fun k => holdsAt k.kind k.desc.epoch f.epoch && !dead k)
    let bad := due.filter (fun k => !(holdsAt k.kind k.desc.epoch f.epoch && !dead k))
    let s := if good.isEmpty then s else s.takeChanges m (good.map (fun k => (k.sent, k.hold)))
    let autos := (good.filter (fun k => k.kind == .autoExpel)).length
    let s := if autos = 0 then s else (s.bump Reg.EXPEL_COUNT autos).setField m { s.field m with expels := List.replicate autos s.now ++ (s.field m).expels }
    let s := good.foldl (fun (s : State) k => s.endFieldOp k.owner .ok none) s
    let s := bad.foldl (fun (s : State) k => s.endFieldOp k.owner (if dead k then .targetDead else .fieldChanged) none) s
    if good.isEmpty then s else s.reviseChanges m

/-- The announced changes that are due, at a member or a node that joins. -/
def State.commitAnnounced (s : State) (m : Nat) : State :=
  let f := s.field m
  let due := f.announced.filter (fun a => dueBy s.now a.commitAt)
  if due.isEmpty then s
  else
    let s := s.setField m { f with announced := f.announced.filter (fun a => !dueBy s.now a.commitAt) }
    if f.state = 0 then
      match due.find? (fun a => a.change.desc.members.any (·.node == s.me)) with
      | none => s
      | some a =>
        let d := a.change.desc
        let g : FieldSt := { s.field m with state := 2, id := d.fieldId, epoch := d.epoch + 1, root := d.root, members := d.members, floor := d.floor, beatNs := d.beatNs, model := d.model, tiles := d.tiles }
        let s := (s.setField m g).setMdw m { s.mdw m with captures := loseCaptures 2 (s.mdw m).captures }
        if d.beatNs ≠ s.clk.len then s.setBeat d.beatNs else s
    else
      let due := due.filter (fun a => holdsAt a.change.kind a.change.desc.epoch f.epoch)
      if due.isEmpty then s else s.takeChanges m (due.map (fun a => (a.change, a.hold)))

/-- The boundary of beat c: a form is complete, or a change takes effect. No step of the meadow is running. -/
def execFieldCommit (m : Nat) (s : State) : Out :=
  .next (
    let f := s.field m
    if !s.cdUp ∨ (s.mdw m).steps.any (·.started) then s
    else if f.state = 1 then
      (if dueBy s.now f.commitAt then
        let g : FieldSt := { f with state := 2, epoch := 1, commitAt := none, owner := none, desc := none, ready := [], health := f.members.map (fun e => (e.node, 1000)) }
        let s := (s.setField m g).setMdw m { s.mdw m with captures := loseCaptures 2 (s.mdw m).captures }
        s.endFieldOp f.owner .ok none
       else s)
    else (s.commitChanges m).commitAnnounced m)

/-- The lowest-ranked member without an answer. -/
def missing (ms : List NodeId) (ready : List (NodeId × FieldReady)) : Option NodeId :=
  ms.find? (fun n => !ready.any (fun r => r.1 == n))

/-- FIELD_FORM_TIMEOUT beats after its start a form or a change without c ends `TARGET_DEAD` (R415, R416). -/
def execFieldFormTimeout (m : Nat) (s : State) : Out :=
  .next (
    let f := s.field m
    let t := bits (s.regN Reg.FIELD_FORM_TIMEOUT) 23 0
    if f.state = 1 then
      if f.commitAt.isSome ∨ s.now < f.since + t then s
      else if f.root = s.me then
        let n := (missing (f.members.map (·.node)) f.ready).getD 0
        let s := f.members.foldl (fun (s : State) e => if e.node = s.me then s else s.sendMgmt e.node (.fieldAbort f.id n)) s
        s.endForm m .targetDead (some n)
      else s.endForm m .targetDead (some f.root)
    else match ((List.range f.changes.length).zip f.changes).find? (fun e => e.2.commitAt.isNone && decide (e.2.since + t ≤ s.now)) with
      | none => s
      | some (i, k) =>
        let n := (missing k.needs k.ready).getD 0
        let all := (f.members.map (·.node) ++ k.needs).eraseDups
        let s := all.foldl (fun (s : State) e => if e = s.me then s else s.sendMgmt e (.fieldAbort f.id n)) s
        s.endChange m i .targetDead (some n))

/-! ## Health and expulsion (R421 to R426) -/

def execStepReportReceive (f : Frame) (r : StepReport) (s : State) : Out :=
  .next (s.receive f .mgmt (fun s =>
    match s.fieldBy r.fieldId with
    | none => s
    | some m =>
      let x := s.field m
      if x.root ≠ s.me ∨ !x.members.any (·.node == f.src) then s
      else s.setField m { x with reports := x.reports ++ [(f.src, r)], evalSeq := some (x.evalSeq.getD r.stepSeq), reportBeat := s.now }))

/-- Table 15.6: a member's deduction for one step. -/
def deduction (pen : Nat) (r : Option StepReport) : Nat :=
  match r with
  | none => bits pen 23 16
  | some r => (if r.slack < 0 then bits pen 23 16 else 0) + (if r.derated then bits pen 31 24 else 0) +
      100 * r.quarantined + min 50 (bits pen 15 8 * r.retx)

def scoreAfter (pen : Nat) (score : Nat) (r : Option StepReport) : Nat :=
  let d := deduction pen r
  if d = 0 then min 1000 (score + bits pen 7 0) else score - d

/-- Automatic expulsions that committed in the EXPEL_WINDOW beats before now. -/
def State.recentExpels (s : State) (f : FieldSt) : Nat :=
  (f.expels.filter (fun b => decide (s.now ≤ b + s.regN Reg.EXPEL_WINDOW))).length

/-- The candidate of lowest score, then lowest rank. -/
def candidateOf (threshold : Nat) (f : FieldSt) : Option (NodeId × Nat) :=
  f.members.foldl (fun (b : Option (NodeId × Nat)) e =>
    let v := ((f.health.find? (·.1 == e.node)).map (·.2)).getD 1000
    if threshold ≤ v then b
    else match b with
      | none => some (e.node, v)
      | some (n, w) => if v < w then some (e.node, v) else some (n, w)) none

/-- The field is held: 0 budget, 1 floor, 2 root lost. At the root every other member is told. DEDUCED, log entry 82. -/
def State.hold (s : State) (m : Nat) (node : NodeId) (reason : Nat) : State :=
  let f := s.field m
  if f.state ≠ 2 then s
  else
    let s := s.enterHold m node reason
    if f.root = s.me then s.tellMembers m (.hold reason) node else s

/-- Stragglers lose 1 of their weight in a change. -/
def State.straggle (s : State) (m : Nat) : State :=
  let n := bits (s.regN Reg.STRAGGLE_STEPS) 15 0
  if n = 0 then s
  else ((s.field m).late.filter (fun e => decide (n ≤ e.2))).foldl (fun (s : State) e =>
    let f := s.field m
    let s := s.setField m { f with late := f.late.map (fun l => if l.1 = e.1 then (l.1, 0) else l) }
    if f.members.any (fun k => k.node == e.1 && decide (1 < k.weight)) then
      s.startChange m .straggle (f.descOf (applyMembers .straggle (f.descOf []) e.1 f.members)) e.1 none
    else s) s

/-- R424, R425. -/
def State.expelCandidate (s : State) (m : Nat) : State :=
  let f := s.field m
  match candidateOf (bits (s.regN Reg.EXPEL_THRESHOLD) 9 0) f with
  | none => s
  | some (n, _) =>
    if f.changes.any (fun k => k.kind == .expel || k.kind == .autoExpel) then s
    else if bits (s.regN Reg.EXPEL_BUDGET) 7 0 ≤ s.recentExpels f then s.hold m n 0
    else if f.members.length ≤ f.floor then s.hold m n 1
    else s.startChange m .autoExpel (f.descOf (applyMembers .autoExpel (f.descOf []) n f.members)) n none

/-- The root evaluates the oldest step in the beat after it holds every report of it, or once a later step has committed here. -/
def execFieldStepEvaluation (m : Nat) (s : State) : Out :=
  .next (
    let f := s.field m
    match f.evalSeq with
    | none => s
    | some q =>
      let of (n : NodeId) : Option StepReport := (f.reports.find? (fun r => r.1 == n && r.2.stepSeq == q)).map (·.2)
      let all := f.members.all (fun e => (of e.node).isSome)
      if !s.cdUp ∨ !s.leads m ∨ !((all && decide (f.reportBeat < s.now)) || decide (q < s.regN (Reg.STEP_SEQ m))) then s
      else
        let pen := s.regN Reg.HEALTH_PEN
        let health := f.members.map (fun e =>
          let v := ((f.health.find? (·.1 == e.node)).map (·.2)).getD 1000
          (e.node, if f.state = 3 then v else scoreAfter pen v (of e.node)))
        let late := f.members.map (fun e =>
          let neg : Bool := (of e.node).all (fun r => decide (r.slack < 0))
          (e.node, if neg then ((f.late.find? (·.1 == e.node)).map (·.2)).getD 0 + 1 else 0))
        let rest := f.reports.filter (fun r => decide (q < r.2.stepSeq))
        let next := if rest.isEmpty then none else some (q + 1)
        let s := s.setField m { f with health := health, late := late, reports := rest, evalSeq := next }
        if f.state = 2 then (s.straggle m).expelCandidate m else s)

/-! ## Steps that wait on the dead (R427) -/

def execFieldStepGraceExpiry (m : Nat) (s : State) : Out :=
  .next (match (s.mdw m).steps with
    | [] => s
    | t :: _ =>
      if !s.cdUp ∨ !t.started ∨ !s.deadMember m ∨ s.now ≤ t.start + t.hdr.pLen + bits (s.regN Reg.FIELD_GRACE) 15 0 then s
      else
        let s := s.setField m { s.field m with halted := true }
        let s := s.updPromise t.promise (fun p => { p with path := true })
        ((s.chargeStep t).abortStep m t .targetDead).failRekindle t.rekindle .targetDead)

/-- An admission of a node that is gone fails; the epoch does not rise (R432). -/
def State.joinLost (s : State) (n : NodeId) : State :=
  s.fld.foldl (fun (s : State) e => s.withdrawAll e.1 (fun k => k.kind == .join && k.subject == n) .targetDead) s

/-- A partner has died: its score falls to 0 at a root, but not in `HOLD`, and a field without its root is held (R422, R428). -/
def State.fieldLost (s : State) (n : NodeId) (dead : Bool) : State :=
  s.fld.foldl (fun (s : State) e =>
    let f := s.field e.1
    if !s.fielded e.1 ∨ !f.members.any (·.node == n) then s
    else if f.root = n then s.hold e.1 n 2
    else if f.root = s.me ∧ dead ∧ f.state ≠ 3 then s.setField e.1 { f with health := f.health.map (fun h => if h.1 = n then (n, 0) else h) }
    else s) s

/-! ## FIELD_CTRL, readiness, snapshots (R426, R430, R433) -/

def execFieldCtrlRelease (m : Nat) (s : State) : Out :=
  .next (if s.cdUp ∧ s.leads m ∧ (s.field m).state = 3 then (s.setField m { s.field m with state := 2 }).tellMembers m .release s.me else s)

def fieldReadyReg (ready busy : Bool) (m failures : Nat) : Nat := 2 ^ 31 * b2n ready + 2 ^ 30 * b2n busy + 256 * m + min failures 255

/-- The number of prep among the works of activity 8. -/
def prepJob : Nat := 2 ^ 32

/-- Time of one tile in prep: the destructive march at the schedule rate, and a beat for each of the 16 canary programs. DESIGN
CHOICE, log entry 130. -/
def State.prepNs (s : State) : Nat := ceilDiv (196608 * (if bits (s.regN Reg.MARCH_CTRL) 1 0 = 0 then 70 else 154) * 5) 6 + 16 * s.clk.len

def execFieldCtrlPrep (m : Nat) (s : State) : Out :=
  .next (if !s.cdUp then s
    else if (s.mdw m).state ≠ .drained ∨ bit (s.regN Reg.FIELD_READY) 30 then s.configReject Reg.FIELD_CTRL (0x90000000 + m)
    else (s.setRegN Reg.FIELD_READY (fieldReadyReg false true m 0)).addJob 8 prepJob ((s.mdw m).tiles.map (fun t => (resTile t, s.prepNs))))

/-- Every run has ended, served within the background share; the destructive marches leave the tiles' SRAM zero. -/
def execFieldPrepComplete (failures : Nat) (s : State) : Out :=
  .next (
    let v := s.regN Reg.FIELD_READY
    if !s.cdUp ∨ !bit v 30 ∨ !s.jobDone 8 prepJob then s
    else
      let m := bits v 10 8
      let s := s.dropJob 8 prepJob
      let s := (s.mdw m).tiles.foldl State.zeroTile s
      s.setRegN Reg.FIELD_READY (fieldReadyReg (failures == 0) false m failures))

/-- FIELD_MEMBER1's first field: 0 member, 1 candidate, 2 dead, 3 leaving. -/
def State.memberCode (s : State) (f : FieldSt) (n : NodeId) (health : Nat) : Nat :=
  if f.changes.any (fun k => (k.kind == .expel || k.kind == .autoExpel) && k.subject == n) then 3
  else if s.partnerState n = .dead ∨ s.partnerState n = .left then 2
  else if f.root = s.me ∧ health < bits (s.regN Reg.EXPEL_THRESHOLD) 9 0 then 1 else 0

/-- DESIGN CHOICE, log entry 129. -/
def execFieldSel (v : BitVec 32) (s : State) : Out :=
  .next (if !s.cdUp then s else s.whileFree Reg.FIELD_SEL v.toNat (fun s =>
    let m := bits v.toNat 14 12
    let rank := bits v.toNat 8 0
    let f := s.field m
    let s := s.setRegN Reg.FIELD_SEL (4096 * m + rank)
    match f.members[rank]? with
    | none => s.mapFab (fun g => { g with fieldSnap := (0, 0, 0) })
    | some e =>
      let h := if f.root = s.me then ((f.health.find? (·.1 == e.node)).map (·.2)).getD 1000 else 0
      let late := if f.root = s.me then ((f.late.find? (·.1 == e.node)).map (·.2)).getD 0 else 0
      s.mapFab (fun g => { g with fieldSnap := (e.node.toNat, 2 ^ 30 * s.memberCode f e.node h + 65536 * h + e.weight, min late 65535) })))

/-! ## Step data between members (R212, R213, R230) -/

/-- The commit guard on a contribution for a batch row: the placement epoch of the row's request in the header's stamp, and the
epochs of the deeds that it read; a contribution for no request has no stamp (R212, R213). -/
def State.contributionOk (s : State) (m stamp row : Nat) (deeds : List (Nat × Nat)) : Bool :=
  match s.lore.requests.find? (fun e => e.2.meadow == m && e.2.state.live && e.2.row == some row) with
  | none => decide (stamp = 0) && deeds.isEmpty
  | some (_, q) => decide (stamp = q.placement) && deeds.all (fun e => decide ((s.deed (.own q.lantern e.1)).epoch = e.2))

/-- A contribution whose stamps differ is discarded, counted and refused. -/
def execCollectiveReceive (f : Frame) (of : PartOf) (data : Bytes) (s : State) : Out :=
  .next (s.receive f .collective (fun s =>
    match s.fld.find? (fun e => s.fielded e.1 && e.2.members.any (·.node == f.src)) with
    | none => s
    | some (m, x) =>
      let s := if f.forwarded then (s.mdw m).steps.foldl (fun s t => if t.started then s.updPromise t.promise (fun p => { p with path := true }) else s) s else s
      if !s.contributionOk m f.stamp of.row of.deeds then (s.bump Reg.STALE_DISCARDS).sendNack f .collective .staleEpoch
      else s.setField m { x with data := x.data.filter (fun e => decide (s.regN (Reg.STEP_SEQ m) ≤ e.2.1)) ++ [(f.src, of.stepSeq, data)] }))

end Sys2Proof.Machine
end

