-- ==== Sys2Proof/Machine/Partners.lean ====
section
/-! DEFINITION. Partners: the join handshake, liveness, departure, eviction, retransmission, the
acknowledgements sent and received, refusals, and the partner and window snapshots (R11, R362 to R374, R392,
R550, R551). -/

namespace Sys2Proof.Machine

/-! ## Loss of a partner (R374) -/

/-- What waits on a partner that is gone ends `TARGET_DEAD`; a move past its `SEAL` runs its course (Table 7.7). DEDUCED, log entry 93. -/
def State.endWaiting (s : State) (n : NodeId) : State :=
  let moves := s.lore.movesOut.filter (fun m => m.dst == n && decide (m.phase < 3))
  let s := moves.foldl (fun (s : State) m => (s.pathFault m.promise).moveReturned m .targetDead) s
  let s := (s.fab.copies.filter (·.dst == n)).foldl (fun (s : State) x => (s.pathFault x.promise).copyFailed x .targetDead) s
  let s := s.loseSeals n
  let queries := s.lore.queries.filter (·.dst == n)
  let s := s.mapLore (fun l => { l with queries := l.queries.filter (·.dst != n) })
  let s := { s with sys := { s.sys with fw := { s.sys.fw with fetch := s.sys.fw.fetch.filter (fun f => f.1 != n) } } }
  let s := queries.foldl (fun (s : State) q => s.finish (.instr q.c) .targetDead) s
  (s.eng.partials.filter (·.dst == n)).foldl (fun (s : State) p => s.pathFault p.promise) s

/-- A partner becomes `DEAD` or `LEFT`. DEDUCED, log entry 93. -/
def State.partnerGone (s : State) (i : Nat) (st : PState) : State :=
  let p := s.partner i
  let s := (s.setPartner i { p with state := st, unacked := [], ackOwed := false, evicting := false }).dropFrames (fun g => g.dst == p.node)
  ((((s.endWaiting p.node).homeDead p.node).endDecrees p.node).fieldLost p.node (st == .dead)).joinLost p.node

/-! ## Acknowledgements (R363) -/

/-- The `ACK` frame: e − 1, and the frames received from e to e + 1,023. -/
def Partner.ackPayload (p : Partner) : Payload :=
  .ack ((p.rxNext + seqMod - 2) % seqMod + 1) ((List.range 1024).filter (fun k => p.rxSeen.any (fun q => seqDist p.rxNext q == k)))

def State.sendAck (s : State) (p : Partner) : State :=
  s.queueFrame (s.mkFrame p.node .ack 4 132 p.ackPayload)

def execAckSend (partner : Nat) (s : State) : Out :=
  .next (
    let p := s.partner partner
    if s.cdUp ∧ p.state = .live ∧ p.ackOwed ∧ p.sent < s.now then
      (s.setPartner partner { p with ackOwed := false }).sendAck p
    else s)

def execAckReceive (f : Frame) (map : List Nat) (s : State) : Out :=
  .next (s.receive f .ack (fun s => match s.partnerOf f.src with
    | none => s
    | some i =>
      let e := nextSeq f.ack
      s.released i (fun q => decide (seqDist q f.ack < 2 ^ 31) || map.any (fun k => decide (k < 1024) && seqDist e q == k))))

/-! ## Retransmission (R364) -/

/-- A frame to another member of a field counts in the member's next step report (R421). -/
def State.countRetx (s : State) (n : NodeId) : State :=
  { s with fld := s.fld.mapVals (fun _ f => if f.members.any (·.node == n) then { f with retx := f.retx + 1 } else f) }

def execRetransmitTimeout (partner seq : Nat) (s : State) : Out :=
  .next (
    let p := s.partner partner
    match p.unacked.find? (·.1 == seq) with
    | none => s
    | some (_, f, sentAt, n) =>
      let path := s.route p.node
      let h := (path.map (fun r => r.2.2.1)).getD 1
      if !s.cdUp ∨ !(p.state == .live || p.leaving) ∨ s.now < sentAt + 2 * h + bits (s.regN Reg.RETX_MARGIN) 7 0 then s
      else if bits (s.regN Reg.RETX_LIMIT) 3 0 ≤ n then
        if p.state = .live then (s.partnerGone partner .dead).raise Ev.partnerDead p.node
        else s.setPartner partner { p with leaving := false, unacked := [] }
      else
        let s := s.setPartner partner { p with unacked := p.unacked.map (fun u => if u.1 = seq then (seq, f, s.now, n + 1) else u) }
        let s := ((s.bump Reg.TP_RETX).pathFault f.promise).countRetx p.node
        match path with
        | none => s
        | some (l, _, _, alt) =>
          s.enqueue (if alt = 0xFF then l else alt) f.tc (.frame { f with retransmit := true } (f.kind == .read || f.kind == .readResp) false f.promise f.svc s.now))

/-! ## The handshake (R370 to R372, Table 13.7) -/

/-- The transcript hash: both identifiers, both nonces, both measurement digests, the initiator first. The digest
of a side that has not sent it yet reads as zeros. DEDUCED, log entry 90. -/
def transcript (a b : NodeId) (na nb da db : Digest) : Digest :=
  sha256 (leBytes 8 a.toNat ++ leBytes 8 b.toNat ++ digestBytes na ++ digestBytes nb ++ digestBytes da ++ digestBytes db)

/-- The measurement digest: over measurements 1 to 9 in index order (R505). -/
def State.myDigest (s : State) : Digest := sha256 (s.sys.meas.flatMap digestBytes)

/-- Step 2 or 3: nonce (step 2 alone), identity key, digest and signature, in three frames. DEDUCED, log entry 90. -/
def State.sendProof (s : State) (p : Partner) : State :=
  let mine := s.myDigest
  let t := if p.initiator then transcript s.me p.node p.myNonce p.nonce mine p.digest
    else transcript p.node s.me p.nonce p.myNonce p.digest mine
  let body := digestBytes Config.identityKey ++ digestBytes mine ++ (Config.sign (digestBytes t)).take 17088
  let body := if p.initiator then body else digestBytes p.myNonce ++ body
  let len := if p.initiator then 17152 else 17184
  [0, 1, 2].foldl (fun (s : State) k =>
    s.queueFrame (s.mkFrame p.node .join 4 (min 8192 (len - 8192 * k)) (.bytes ((body.drop (8192 * k)).take 8192)) 0 none 0 (8192 * k))) s

def State.sendResult (s : State) (n : NodeId) (ok : Bool) : State :=
  s.queueFrame (s.mkFrame n .join 4 8 (.joinResult ok))

def execJoinStart (node : NodeId) (s : State) : Out :=
  .next (if s.cdUp then s.startJoin node else s)

/-- An entry becomes `LIVE` (R372), and deeds that both nodes may hold are compared (R205). -/
def State.becomeLive (s : State) (i : Nat) : State :=
  let p := s.partner i
  let s := s.clearRefusals
  let p' : Partner := { p with state := .live, attest := 1, txNext := 1, rxNext := 1, rxSeen := [], unacked := [], joinBeat := s.now, heard := s.now, sent := s.now, leaving := false, evicting := false, evictRefused := false }
  ((s.setPartner i p').raise Ev.partnerJoined p.node).reconnect p.node

/-- A join ends in a refusal here: the entry is free, and what waited for it is dropped. DESIGN CHOICE, log entry 77. -/
def State.joinEnds (s : State) (i code : Nat) : State :=
  let n := (s.partner i).node
  (((s.setPartner i {}).dropFrames (fun g => g.dst == n)).loseSeals n).clearRefusals.raise code n

/-- Verified: `LIVE`, or held for the host under join policy 1 (R371). -/
def State.verified (s : State) (i : Nat) : State :=
  if bit (s.regN Reg.FAB_CTRL) 0 then
    (s.setPartner i { s.partner i with attest := 2 }).raise Ev.partnerJoinPending (s.partner i).node
  else s.becomeLive i

/-- A responder takes part with a fresh entry and its own nonce. -/
def State.respond (s : State) (i : Nat) (n : NodeId) (nonce : Digest) : State :=
  let (v, s) := s.free
  let p := Partner.fresh n s.now (((s.route n).map (·.1)).getD 0xFF) false (BitVec.ofNat 256 v)
  let p := { p with nonce := nonce, joinStep := 2 }
  (s.setPartner i p).sendProof p

/-- Step 1 arrives. Of two initiators the one with the lower node identifier goes on. DEDUCED, log entry 91. -/
def execJoinNonceReceive (f : Frame) (nonce : Digest) (s : State) : Out :=
  .next (s.receive f .join (fun s =>
    let fresh (s : State) : State := match s.entryFor f.src false with
      | (none, s) => s
      | (some i, s) => s.respond i f.src nonce
    match s.partnerOf f.src with
    | none => fresh s
    | some i =>
      let p := s.partner i
      match p.state with
      | .live => s
      | .joining =>
        if p.initiator then (if s.me < f.src then s else s.respond i f.src nonce)
        else if p.nonce = nonce then s.sendProof p
        else s.respond i f.src nonce
      | _ => fresh s))

/-- Step 2 arrives at the initiator; repeated, it is answered again. -/
def execJoinProofReceive (f : Frame) (p : JoinProof) (s : State) : Out :=
  .next (s.receive f .join (fun s =>
    match s.partnerOf f.src with
    | none => s
    | some i =>
      let x := s.partner i
      if x.state ≠ .joining ∨ !x.initiator ∨ x.attest = 2 then s
      else if !p.chainOk ∨ !p.sigOk then (s.joinEnds i Ev.partnerRefused).sendResult f.src false
      else
        let x := { x with nonce := p.nonce, digest := p.digest, joinStep := 3, joinSent := s.now }
        (s.setPartner i x).sendProof x))

/-- Step 3 arrives at the responder; one that has accepted answers again. -/
def execJoinInitiatorProofReceive (f : Frame) (p : JoinProof) (s : State) : Out :=
  .next (s.receive f .join (fun s =>
    match s.partnerOf f.src with
    | none => s
    | some i =>
      let x := s.partner i
      if x.initiator ∨ x.attest = 2 then s
      else match x.state with
        | .live => s.sendResult f.src true
        | .joining =>
          if !p.chainOk ∨ !p.sigOk then (s.joinEnds i Ev.partnerRefused).sendResult f.src false
          else
            let s := (s.setPartner i { x with digest := p.digest, joinStep := 4 }).verified i
            if (s.partner i).state = .live then s.sendResult f.src true else s
        | _ => s))

/-- Step 4, or a refusal by either side. -/
def execJoinResultReceive (f : Frame) (accepted : Bool) (s : State) : Out :=
  .next (s.receive f .join (fun s =>
    match s.partnerOf f.src with
    | none => s
    | some i =>
      let x := s.partner i
      if x.state ≠ .joining then s
      else if !accepted then s.joinEnds i Ev.partnerRefused
      else if x.initiator ∧ x.joinStep = 3 ∧ x.attest ≠ 2 then (s.setPartner i { x with joinStep := 4 }).verified i
      else s))

/-- The current step again, 64 beats after its last sending. -/
def execJoinRetry (partner : Nat) (s : State) : Out :=
  .next (
    let p := s.partner partner
    if !s.cdUp ∨ p.state ≠ .joining ∨ s.now < p.joinSent + 64 then s
    else
      let s := s.setPartner partner { p with joinSent := s.now }
      if p.joinStep = 1 then s.sendNonce p.node p.myNonce
      else if p.joinStep = 2 ∨ p.joinStep = 3 then s.sendProof p
      else s)

/-- JOIN_TIMEOUT after its start a join is abandoned; one that waited for an eviction finds the table full. DESIGN CHOICE, log entry 5. -/
def execJoinTimeout (partner : Nat) (s : State) : Out :=
  .next (
    let p := s.partner partner
    if !s.cdUp ∨ s.now < p.joinStart + bits (s.regN Reg.JOIN_TIMEOUT) 23 0 then s
    else if p.state = .joining then s.joinEnds partner Ev.partnerJoinFailed
    else if p.evicting then
      (((s.setPartner partner { p with evicting := false, forNode := 0 }).dropFrames (fun g => g.dst == p.forNode)).loseSeals p.forNode).clearRefusals.raise Ev.partnerTableFull p.forNode
    else s)

/-! ## Liveness and departure (Table 13.8, R374, R550) -/

/-- DEDUCED, log entry 93. -/
def execHeartbeatSend (partner : Nat) (s : State) : Out :=
  .next (
    let p := s.partner partner
    if s.cdUp ∧ p.state = .live ∧ p.sent + bits (s.regN Reg.HEARTBEAT_GAP) 15 0 ≤ s.now then
      (s.setPartner partner { p with sent := s.now }).queueFrame (s.mkFrame p.node .heartbeat 4 (openLen .heartbeat) .none)
    else s)

def execHeartbeatReceive (f : Frame) (s : State) : Out := .next (s.receive f .heartbeat (fun s => s))

def execPartnerDeadTimeout (partner : Nat) (s : State) : Out :=
  .next (
    let p := s.partner partner
    if s.cdUp ∧ p.state = .live ∧ p.heard + bits (s.regN Reg.PARTNER_DEAD_BEATS) 23 0 ≤ s.now then
      (s.partnerGone partner .dead).raise Ev.partnerDead p.node
    else s)

/-- `LEAVE` with reason departure; it is acknowledged, though the entry is no longer `LIVE`. -/
def execLeaveDepartureReceive (f : Frame) (s : State) : Out :=
  .next (s.receive f .leave (fun s =>
    match s.partnerOf f.src with
    | none => s
    | some i =>
      let p := s.partner i
      ((s.partnerGone i .left).raise Ev.partnerLeft f.src).sendAck p))

/-- `LEAVE` with reason eviction: agreed, or refused while something holds the partner. -/
def execLeaveEvictionReceive (f : Frame) (s : State) : Out :=
  .next (s.receive f .leave (fun s =>
    match s.partnerOf f.src with
    | none => s
    | some i =>
      if s.pins f.src ≠ 0 ∨ s.waitsOn f.src then s.sendNack f .leave .illegalInState
      else
        let p := s.partner i
        ((s.setPartner i {}).dropFrames (fun g => g.dst == f.src)).sendAck p))

/-- `LEAVE` to every `LIVE` partner; each entry is `LEFT` at once and keeps its transport for that frame alone. DEDUCED, log entry 92. -/
def State.leaveAll (s : State) : State :=
  (s.fab.partners.filter (fun e => e.2.state == .live)).foldl (fun (s : State) e =>
    let s := (s.partnerGone e.1 .left).sendLeave e.2.node false
    s.setPartner e.1 { s.partner e.1 with leaving := (s.route e.2.node).isSome }) s

def execFabCtrlLeave (s : State) : Out := .next (if s.cdUp then s.leaveAll else s)

/-- An eviction is refused: the next candidate is asked, or the join that wanted the entry is refused (R11). -/
def State.evictionRefused (s : State) (i : Nat) : State :=
  let p := s.partner i
  let s := s.setPartner i { p with evicting := false, forNode := 0, evictRefused := true }
  let s := if p.initiator then s.startJoin p.forNode else (s.entryFor p.forNode false).2
  s.mapFab (fun f => { f with partners := f.partners.mapVals (fun _ q => if q.evicting && q.forNode == p.forNode then { q with joinStart := p.joinStart } else q) })

/-! ## Refusals (Table 13.3) -/

/-- A contribution was stale at its receiver: the running step of the meadow that shares a field with it ends `STALE_EPOCH` without
commit (R213). DESIGN CHOICE, log entry 143. -/
def State.staleStep (s : State) (src : NodeId) : State :=
  match s.fld.find? (fun e => s.fielded e.1 && e.2.members.any (·.node == src)) with
  | none => s
  | some (m, _) => match (s.mdw m).steps with
    | [] => s
    | t :: _ => if t.started then ((s.chargeStep t).abortStep m t .staleEpoch).failRekindle t.rekindle .staleEpoch else s

def execNackReceive (f : Frame) (n : Nack) (s : State) : Out :=
  .next (s.receive f .nack (fun s =>
    match n.kind with
    | .openK | .data | .commit => match s.moveOut n.ref with
      | some m => if m.dst = f.src then s.moveReturned m n.code else s
      | none => match s.copyOut n.ref with
        | some x => if x.dst = f.src then s.copyFailed x n.code else s
        | none => s
    | .read => match s.fab.loads.find? (fun x => x.id == n.ref && x.dst == f.src) with
      | some x => s.loadRefused x n.code
      | none => s
    | .winSeal => match s.fab.seals.find? (fun z => z.node == f.src && z.id == n.ref) with
      | some z => s.endSeal z n.code
      | none => s
    | .partialK => match s.eng.partials.find? (·.dst == f.src) with
      | some p => s.endPartial p n.code
      | none => s
    | .leave => match s.partnerOf f.src with
      | some i => if (s.partner i).evicting then s.evictionRefused i else s
      | none => s
    | .collective => s.staleStep f.src
    | .mgmt => if n.code = .noSpace then s.treeFull f.src else s
    | _ => s))

/-! ## PARTNER_CMD and the snapshots (R371, R392) -/

def execPartnerCmdJoin (s : State) : Out :=
  .next (
    let n := s.reg Reg.PARTNER_CMD_NODE
    if s.cdUp ∧ NodeId.valid n then s.startJoin n else s)

/-- DEDUCED, log entry 92. -/
def execPartnerCmdApprove (partner : Nat) (s : State) : Out :=
  .next (
    let p := s.partner partner
    if !s.cdUp ∨ p.state ≠ .joining ∨ p.attest ≠ 2 then s
    else
      let s := s.becomeLive partner
      if p.initiator then s else s.sendResult p.node true)

def execPartnerCmdRefuse (partner : Nat) (s : State) : Out :=
  .next (
    let p := s.partner partner
    if !s.cdUp ∨ p.state ≠ .joining ∨ p.attest ≠ 2 then s
    else (s.joinEnds partner Ev.partnerRefused).sendResult p.node false)

/-- DEDUCED, log entry 92. -/
def execPartnerCmdEvict (partner : Nat) (s : State) : Out :=
  .next (
    let p := s.partner partner
    if s.cdUp ∧ (p.state = .dead ∨ p.state = .left) ∧ s.pins p.node = 0 then s.setPartner partner {} else s)

def pCode : PState → Nat
  | .free => 0 | .joining => 1 | .live => 2 | .dead => 3 | .left => 4

/-- Table 13.9. -/
def State.partnerBytes (s : State) (i : Nat) : Bytes :=
  let p := s.partner i
  if p.state = .free then List.replicate 64 0 else
  packLE [(8, p.node.toNat), (1, pCode p.state), (1, p.attest), (1, p.link), (1, 0), (4, p.unacked.length), (4, p.txNext),
    (4, p.rxNext), (8, p.heard), (8, p.joinBeat)] ++ (digestBytes p.digest).take 16 ++ packLE [(4, s.pins p.node), (4, 0)]

def execPartnerSel (v : BitVec 32) (s : State) : Out :=
  .next (if !s.cdUp then s else s.whileFree Reg.PARTNER_SEL v.toNat (fun s =>
    let i := bits v.toNat 11 0
    let b := s.partnerBytes i
    (s.setRegN Reg.PARTNER_SEL i).mapFab (fun f => { f with partnerSnap := b })))

def execWinSel (v : BitVec 32) (s : State) : Out :=
  .next (if !s.cdUp then s else s.whileFree Reg.WIN_SEL v.toNat (fun s =>
    let i := bits v.toNat 11 0
    let w := s.window i
    (s.setRegN Reg.WIN_SEL i).mapFab (fun f => { f with winSnap := (w.state * 65536 + w.generation, w.staging.length, w.root) })))

end Sys2Proof.Machine
end

