-- ==== Sys2Proof/Machine/OnChip.lean ====
section
/-! DEFINITION. The commons as the host writes it, the march engine, and the MSI-X messages (R445, R446, R452 to
R467). -/

namespace Sys2Proof.Machine

/-! ## The commons through BAR2 (R445, R455, R460) -/

/-- The bank is under a destructive run. -/
def State.bankHeld (s : State) (bank : Nat) : Bool :=
  (s.sys.marches.take 8).any (fun r => r.kind == 2 && r.index == bank && r.destructive)

/-- A host write to one commons word through the view at `view`; an alias reads the word first (`rmw`). DESIGN CHOICE, log entry 158. -/
def State.commonsWrite (s : State) (view off size : Nat) (v : Word) (rmw : Bool) (f : Word → Word) : State :=
  if !s.cdUp then s
  else if size ≠ 8 ∨ off % 8 ≠ 0 then s.configReject (view + off) v.toNat
  else if off < s.hostRegion ∨ 2 ^ 26 ≤ off ∨ s.bankHeld (off / 2 ^ 20) then
    (s.bump Reg.COMMONS_HOST_DISCARD).raise Ev.commonsHostDiscard 0 off
  else
    let s := if rmw then (s.readWord (off / 8)).2 else s
    s.setCommons (off / 8) (f (s.commonsWord (off / 8)))

def execCommonsPlainWrite (off size : Nat) (v : BitVec 64) (s : State) : Out :=
  .next (s.commonsWrite 0 off size v false (fun _ => v))
def execCommonsSetAliasWrite (off size : Nat) (v : BitVec 64) (s : State) : Out :=
  .next (s.commonsWrite (64 * 2 ^ 20) off size v true (fun w => w ||| v))
def execCommonsClearAliasWrite (off size : Nat) (v : BitVec 64) (s : State) : Out :=
  .next (s.commonsWrite (128 * 2 ^ 20) off size v true (fun w => w &&& ~~~v))

/-- What the host reads of the commons through BAR2, whichever view it names (R445): the word as it stands ahead of the writes of
the beat (R459), corrected or all ones with the event (R453), zero in a bank under a destructive run (Table 17.3) and in the
reserved view. A read that crosses words has no answer but zero. DESIGN CHOICE, log entry 151. -/
def State.commonsRead (s : State) (at_ size : Nat) : Word × State :=
  let off := at_ % 2 ^ 26
  let k := off / 8
  if 3 * 2 ^ 26 ≤ at_ ∨ 8 < off % 8 + size ∨ s.bankHeld (off / 2 ^ 20) then (0, s)
  else
    let r := s.readWord k
    match r.1 with
    | some v => (BitVec.ofNat 64 (v.toNat / 2 ^ (8 * (off % 8)) % 2 ^ (8 * size)), r.2)
    | none => (BitVec.ofNat 64 (2 ^ (8 * size) - 1), r.2.raise Ev.sramUe 0 (off / 2 ^ 20) (off % 2 ^ 20))

def State.bar2Read (s : State) (at_ size : Nat) : State :=
  let r := s.commonsRead at_ size
  r.2.emit (.bar2Data at_ (leBytes size r.1.toNat))

/-! ## `MARCH` (R157, R461 to R466) -/

def State.mapSys (s : State) (f : Sys → Sys) : State := { s with sys := f s.sys }

/-- The meadow that a tile is assigned to. -/
def State.tileMeadow (s : State) (i : Nat) : Option Nat := (s.eng.meadows.find? (fun e => e.2.tiles.contains i)).map (·.1)

/-- A meadow that runs or drains. -/
def MState.atWork (m : MState) : Bool := m == .running || m == .draining

/-- DESIGN CHOICE, log entry 134. -/
def State.preMarch (s : State) (w : IWord) : Pre :=
  let kind := w.opa.toNat / 256
  let i := w.opa.toNat % 256
  if !(kind == 1 && decide (i < 128) || kind == 2 && decide (i < 64)) then badOp
  else if s.sys.marches.any (fun r => r.kind == kind && r.index == i) then illegal 0 0
  else if !w.flag 8 then none
  else if kind = 1 then match s.tileMeadow i with
    | none => none
    | some m => if s.inField m then illegal 5 (s.field m).state
      else if (s.mdw m).state.atWork then illegal 6 (mCode (s.mdw m).state) else none
  else match s.eng.meadows.find? (fun e => e.2.state.atWork) with
    | some e => illegal 6 (mCode e.2.state)
    | none => none

/-- Word operations of a run under the algorithm that MARCH_CTRL names as it starts (Table 17.4, R463, R466). -/
def State.marchWork (s : State) (r : MarchRun) : Nat :=
  (if r.kind = 1 then 196608 else 131072) * ((if bits (s.regN Reg.MARCH_CTRL) 1 0 = 0 then 70 else 154) + (if r.destructive then 0 else 2))

/-- What a preserving run holds its target for, in ns at the schedule rate of 1.2 × 10⁹ (R463). -/
def MarchRun.ns (r : MarchRun) : Nat := ceilDiv (5 * r.work) 6

def MarchRun.resource (r : MarchRun) : Nat := if r.kind = 1 then resTile r.index else resBank r.index

/-- Time of one row: 9,216 or 19,968 cycles (R463). -/
def State.rowNs (s : State) : Nat := (if bits (s.regN Reg.MARCH_CTRL) 1 0 = 0 then 9216 else 19968) * 5 / 6

def execMarch (c : Nat) (w : IWord) (s : State) : Out :=
  .next (s.runInstr c 0x88 w (.march c w) (shapeOk 0x88 w) false false (fun _ =>
    afterPre (s.preMarch w) (
      let r : MarchRun := { id := s.sys.nextMarch, owner := .instr c, kind := w.opa.toNat / 256, index := w.opa.toNat % 256, destructive := w.flag 8, repair := w.flag 9 }
      let r := { r with work := s.marchWork r }
      let s := s.mapSys (fun y => { y with marches := y.marches ++ [r], nextMarch := y.nextMarch + 1 })
      let s := if r.destructive then s else s.addJob 8 r.id [(r.resource, r.ns)]
      .wait (s.publish (.instr c) 5 0 r.work) .op)))

/-- Word operations that the runs in progress have done by the end of a beat (R466): a destructive one at the schedule rate, a
preserving one as its share lets it. DESIGN CHOICE, log entry 134. -/
def State.marchDone (s : State) (r : MarchRun) : Nat :=
  if r.destructive then min r.work (r.done + 6 * s.clk.len / 5)
  else match s.sys.bg.jobs.find? (fun j => j.act == 8 && j.id == r.id) with
    | none => r.done
    | some j => r.work - 6 * (j.need.map (·.2)).sum / 5

/-- Bit errors of a beat join those already there; more than two count as two. DESIGN CHOICE, log entry 158. -/
def State.upset (s : State) (new : List (Nat × Nat)) : State :=
  s.mapSys (fun y => { y with upsets := new.foldl (fun (u : Tbl Nat) e => Tbl.set (fun _ => 0) u e.1 (min 2 (Tbl.get (fun _ => 0) u e.1 + e.2))) y.upsets })

def State.marchProgress (s : State) : State :=
  let s := s.mapSys (fun y => { y with marches := (y.marches.take 8).map (fun r => { r with done := s.marchDone r }) ++ y.marches.drop 8 })
  (s.sys.marches.take 8).foldl (fun (s : State) r => s.publish r.owner 5 r.done r.work) s

/-- A target's words are all zero, their check bits with them. -/
def State.zeroTarget (s : State) (r : MarchRun) : State :=
  if r.kind = 1 then s.zeroTile r.index
  else s.mapSys (fun y => { y with commons := y.commons.filter (fun e => decide (e.1 / 2 ^ 17 ≠ r.index)), upsets := y.upsets.filter (fun e => decide (e.1 / 2 ^ 17 ≠ r.index)) })

def MarchRun.spares (r : MarchRun) : Nat := if r.kind = 1 then Reg.TILE_SPARES r.index else Reg.BANK_SPARES r.index

/-- An unrepaired tile is `RETIRED`; a meadow tile leaves at the meadow's next step boundary (R465). DESIGN CHOICE, log entry 134. -/
def State.retireTile (s : State) (i : Nat) : State :=
  let t := s.tile i
  let s := s.setTile i { t with state := 4 }
  if t.state ≠ 1 then s
  else (s.setMdw t.meadow { s.mdw t.meadow with quarantined := (s.mdw t.meadow).quarantined ++ [i] }).unready t.meadow

/-- Failing rows are mapped to the spares that are left; answers how many stay unrepaired. -/
def State.repairRows (s : State) (r : MarchRun) (failing : Nat) : State × Nat :=
  let left := s.regN r.spares
  let n := min failing left
  let s := s.setRegN r.spares (left - n)
  if failing ≤ n then (s, 0)
  else
    let s := s.raise Ev.sramRepairFull 0 r.kind r.index
    (if r.kind = 1 then s.retireTile r.index else s, failing - n)

/-- A run ends; a preserving one not before the share has let it test every row. -/
def execMarchRunComplete (run failing : Nat) (s : State) : Out :=
  .next (match (s.sys.marches.take 8).find? (·.id == run) with
    | none => s
    | some r =>
      if !s.cdUp ∨ !(r.destructive || s.jobDone 8 run) then s else
      let s := (s.mapSys (fun y => { y with marches := y.marches.filter (·.id != run) })).dropJob 8 run
      let s := if r.destructive then s.zeroTarget r else s
      let (s, left) := if r.repair then s.repairRows r failing else (s, failing)
      let s := (s.publish r.owner 5 r.work r.work).setOut r.owner (fun x => { x with outLen := failing })
      s.finish r.owner (if left = 0 then .ok else .checkFail))

/-! ## MSI-X (R446) -/

/-- Word `k` of the table: a vector control word reads masked until it is written. PRESUMED, log entry 95. -/
def vectorReset (k : Nat) : Nat := if k % 4 = 3 then 1 else 0
def State.vector (s : State) (k : Nat) : Nat := Tbl.get vectorReset s.cxl.vectors k
def State.setVector (s : State) (k v : Nat) : State :=
  { s with cxl := { s.cxl with vectors := Tbl.set vectorReset s.cxl.vectors k v } }

/-- A message for an entry: sent, or pending while the entry is masked. -/
def State.sendMsix (s : State) (entry : Nat) : State :=
  if bit (s.vector (4 * entry + 3)) 0 then
    { s with cxl := { s.cxl with vecPending := if s.cxl.vecPending.contains entry then s.cxl.vecPending else s.cxl.vecPending ++ [entry] } }
  else s.emit (.msix entry)

/-- The mask is cleared, and what was pending goes out. -/
def State.unmask (s : State) (entry : Nat) : State :=
  let s := s.setVector (4 * entry + 3) (s.vector (4 * entry + 3) / 2 * 2)
  if s.cxl.vecPending.contains entry then
    ({ s with cxl := { s.cxl with vecPending := s.cxl.vecPending.filter (· != entry) } }).emit (.msix entry)
  else s

def execMsixEntryUnmask (entry : Nat) (s : State) : Out := .next (if entry < 256 then s.unmask entry else s)

end Sys2Proof.Machine
end

