-- ==== Sys2Proof/Machine/Beats.lean ====
section
/-! DEFINITION. The beat length, the beacon as a member hears and relays it, delay probes, the exit from
`DERATED`, the voltage loop's lowering and the measured tile power (R30 to R55, R548). -/

namespace Sys2Proof.Machine

/-! ## The beat length (R30 to R32, R548) -/

/-- DESIGN CHOICE, log entry 121. -/
def execBeatLenWrite (v : BitVec 32) (s : State) : Out :=
  .next (
    let b := bits v.toNat 16 0
    if !s.cdUp then s
    else if s.anyField ∨ !beatLegal b ∨ !s.gatesFit b then s.configReject Reg.BEAT_LEN v.toNat
    else (s.setRegN Reg.BEAT_LEN b).mapClk (fun c => { c with lenPending := if b = c.len then none else some b }))

/-- No admitted step, no shadow run, and no promise granted under a shorter beat stands in the way. -/
def State.beatFree (s : State) (b : Nat) : Bool :=
  s.eng.meadows.all (fun e => e.2.steps.isEmpty) && s.eng.shadow.isNone && s.eng.referee.isEmpty &&
    s.io.promises.all (fun p => decide (b ≤ p.b))

/-- At a boundary, and never within a field (R31, R32). -/
def execBeatLenEffect (s : State) : Out :=
  .next (match s.clk.lenPending with
    | none => s
    | some b => if s.cdUp ∧ s.clk.order ≤ 2 ∧ !s.anyField ∧ s.beatFree b then s.setBeat b else s)

/-! ## The beacon (R35 to R42, Table 2.4) -/

/-- R35 names the length, the root and the hop count. Here a beacon with a reserved byte that is not zero, or whose len_ns is no legal
BEAT_LEN, is no valid one either. DESIGN CHOICE, log entry 101. -/
def beaconValid (b : Beacon) (len : Nat) : Bool :=
  decide (len = 40) && NodeId.valid b.rootId && decide (b.hops ≤ 4) && beatLegal b.lenNs && b.reservedZero

/-- A beacon goes to the children; its send_offset is set as it leaves on the link (R35). DEDUCED, log entry 136. -/
def State.relay (s : State) (b : Beacon) : State :=
  s.clk.children.foldl (fun (s : State) n => s.queueFrame (s.mkFrame n .beacon 0 40 (.beacon b))) s

/-- The offset of the local boundary from the beacon's, in ns. DESIGN CHOICE, log entry 101. -/
def State.beaconOffset (s : State) (link : Nat) (b : Beacon) (arrival : Nat) : Int :=
  let delay : Nat := Tbl.get (fun _ => 0) s.clk.delays link
  (arrival : Int) - b.sendOffset - delay - (s.clk.time - ((s.now : Int) - b.beatNumber) * s.clk.len)

/-- A valid beacon at a follower. DESIGN CHOICE, log entry 101. -/
def State.hear (s : State) (link : Nat) (b : Beacon) (arrival : Nat) : State :=
  let off := s.beaconOffset link b arrival
  let near : Bool := decide (-25 ≤ off ∧ off ≤ 25)
  let take (st : BeaconState) (n : Nat) : State :=
    let s := s.mapClk (fun c => { c with beacon := st, inBand := n, offset := off, correction := off, hops := b.hops, lastBeacon := c.now, beaconLink := some link })
    if b.hops < 4 then s.relay { b with hops := b.hops + 1 } else s
  let n := if near then s.clk.inBand + 1 else 0
  match s.clk.beacon with
  | .acquiring => if b.rootId = s.clk.root then take (if 16 ≤ n then .locked else .acquiring) n else s.bump Reg.BEACON_DISCARDS
  | .locked => if b.rootId = s.clk.root then take (if near then .locked else .acquiring) n else s.bump Reg.BEACON_DISCARDS
  | .freeRun =>
    if b.rootId = s.clk.root ∧ b.beatNumber = s.now then take .acquiring (if near then 1 else 0)
    else s.raise Ev.beaconConflict b.rootId b.beatNumber s.now none 3
  | _ => s

def execBeaconReceive (f : Frame) (b : Beacon) (arrival : Nat) (s : State) : Out :=
  .next (s.receive f .beacon (fun s =>
    if s.clk.beacon = .local_ ∨ s.clk.beacon = .master then s
    else if beaconValid b f.payloadLen then s.hear f.link b arrival
    else s.bump Reg.BEACON_DISCARDS))

/-- BEACON_LOSS whole beats have passed after the beat of the last valid beacon (R40). -/
def execBeaconLost (s : State) : Out :=
  .next (
    if s.cdUp ∧ (s.clk.beacon = .acquiring ∨ s.clk.beacon = .locked) ∧ s.clk.lastBeacon + bits (s.regN Reg.BEACON_LOSS) 7 0 < s.now then s.freeRun
    else s)

/-- From here on R41 refuses: a miss of what was accepted earlier is a path fault. -/
def execBeaconHoldoverEnd (s : State) : Out := .next (if s.cdUp ∧ s.holdoverOver then s.beaconFault else s)

/-! ## Delay probes (R37) -/

def State.sendProbe (s : State) (link : Nat) (reply : Bool) : State :=
  s.enqueue link 4 (.frame (s.mkFrame (s.link link).neighbour .probe 4 (openLen .probe) (.probe reply)) false false none 0 s.now)

def execProbeSend (link : Nat) (s : State) : Out :=
  .next (
    let l := s.link link
    if l.state ≠ 2 ∨ (l.lastProbe ≠ 0 ∧ s.now < l.lastProbe + 1024) then s
    else (s.setLink link { l with lastProbe := s.now }).sendProbe link false)

/-- A probe is answered; an answer gives the one-way delay, half the round trip. -/
def execProbeReceive (f : Frame) (reply : Bool) (roundTripNs : Nat) (s : State) : Out :=
  .next (s.receive f .probe (fun s =>
    if reply then s.mapClk (fun c => { c with delays := Tbl.set (fun _ => 0) c.delays f.link (roundTripNs / 2) })
    else s.sendProbe f.link true))

/-! ## The timing state and the voltage loop (R43 to R47) -/

def scheduleRate : Nat := 1200000000
def State.margin (s : State) : Nat := bits (s.regN Reg.TAPER_MARGIN) 7 0

/-- `rate` is at or above 1.2 × 10⁹ × (1 + m / 1,024). -/
def atLeast (rate m : Nat) : Bool := decide (scheduleRate * (1024 + m) ≤ 1024 * rate)

/-- The least of the readings. -/
def leastOf : List Nat → Option Nat
  | [] => none
  | x :: xs => some (xs.foldl min x)

/-- Order 2 of a beat: the readings of the beat that ended (Table 2.6). In fixed mode the count of 64 goes on, of which the spec says
nothing: a lowering may follow at once on the return to adaptive mode. DESIGN CHOICE, log entry 121. -/
def State.timing (s : State) (tapers : List Nat) : State :=
  match leastOf tapers with
  | none => s
  | some rate =>
    let m := s.margin
    let ok := atLeast rate m
    let s := s.mapClk (fun c => { c with tapers := tapers, minTaper := tapers.findIdx (· == rate), exitCount := if ok then c.exitCount + 1 else 0, highCount := if atLeast rate (2 * m) then c.highCount + 1 else 0 })
    let s := match s.clk.timing with
      | .derated => s
      | .marginLow =>
        if rate < scheduleRate then (s.mapClk (fun c => { c with timing := .derated })).raise Ev.deratedEntered 0 0 0 none 2
        else if ok then s.mapClk (fun c => { c with timing := .normal }) else s
      | .normal =>
        if rate < scheduleRate then (s.mapClk (fun c => { c with timing := .derated })).raise Ev.deratedEntered 0 0 0 none 2
        else if ok then s else (s.mapClk (fun c => { c with timing := .marginLow })).raise Ev.beatMarginLow 0 0 0 none 2
    if s.clk.timing = .derated then
      let s := s.mapIo (fun io => { io with promises := io.promises.map (fun (p : Promise) => { p with derated := true }) })
      { s with fld := s.fld.mapVals (fun _ f => { f with derated := true }) }
    else s

/-- Order 7: fixed mode holds its voltage; adaptive mode raises it below the margin threshold. -/
def State.voltage (s : State) : State :=
  let v := s.regN Reg.VOLT_CTRL
  if bit v 31 then s.mapClk (fun c => { c with volt := bits v 25 16 })
  else match leastOf s.clk.tapers with
    | none => s
    | some rate => if atLeast rate s.margin then s else s.mapClk (fun c => { c with volt := min 850 (c.volt + 5), highCount := 0 })

def execDeratedExited (s : State) : Out := .next (if s.cdUp then s.leaveDerated else s)

/-- The voltage is one step lower once 64 beats allow it. -/
def State.lowerVoltage (s : State) : State :=
  if !bit (s.regN Reg.VOLT_CTRL) 31 ∧ 64 ≤ s.clk.highCount then
    s.mapClk (fun c => { c with volt := max 650 (c.volt - 5), highCount := 0 })
  else s

/-- The tiles' measured power of one beat (R55). DESIGN CHOICE, log entry 121. -/
def execPowerOverDeclared (watts : Nat) (s : State) : Out :=
  .next (
    if !s.cdUp then s
    else if 11 * s.powerSum < 10 * watts then
      let c := s.clk
      let n := if c.overBeats ≠ 0 ∧ c.overAt = s.now then c.overBeats
        else if c.overBeats ≠ 0 ∧ c.overAt + 1 = s.now then c.overBeats + 1 else 1
      let raised := c.overRaised && decide (1 < n)
      let s := s.mapClk (fun c => { c with overBeats := n, overAt := c.now, overRaised := raised || decide (16 ≤ n) })
      if 16 ≤ n ∧ !raised then s.raise Ev.powerOverDeclared 0 watts s.powerSum else s
    else s.mapClk (fun c => { c with overBeats := 0, overRaised := false }))

end Sys2Proof.Machine
end

