-- ==== Sys2Proof/Machine/Resets.lean ====
section
/-! DEFINITION. Resets: what each source clears, who is told, and the reset of one block alone (R131, R486 to R496,
R538, R544 to R546), with the module's pins, supplies and sensors that cause them (R470 to R481). -/

namespace Sys2Proof.Machine

/-! ## Reach (Table 19.1) -/

inductive Reach where
  | power | perst | device | core
deriving DecidableEq, Repr

/-- The reset reaches the IOD logic other than the CXL controller. -/
def Reach.iod (r : Reach) : Bool := r != .core
/-- The reset reaches the CXL link and its configuration. -/
def Reach.cxl (r : Reach) : Bool := r == .power || r == .perst

/-- A register keeps its value under a reset of this reach (Table 22.7, R546). -/
def keepsReg (r : Reach) (off : Nat) : Bool :=
  if decide (0x200100 ≤ off ∧ off ≤ 0x2003FF) then true
  else if decide (0x10000 ≤ off ∧ off < 0x10070) || off == Reg.DEV_LATCH then r != .power
  else if decide (off < 0x2000) || decide (0xB0000 ≤ off ∧ off < 0xE0000) || decide (0x210000 ≤ off) || off == Reg.PLDM_EID then !r.iod
  else false

/-- Supplies are present and CD is not held, so a boot may run. -/
def State.bootable (s : State) : Bool := s.sys.powered && !s.sys.switchOpen && !s.sys.perst && !s.sys.coreOff

/-- `LEAVE` once to every `LIVE` partner, at the start of a reset that leaves the links `UP` (R488). -/
def State.leaveOnce (s : State) : State :=
  (s.fab.partners.filter (fun e => e.2.state == .live)).foldl (fun (s : State) e =>
    match s.route e.2.node with
    | none => s
    | some (l, _) => if (s.link l).state = 2 then s.transmit l 0 (s.mkFrame e.2.node .leave 4 8 (.leave false)) false false none 0 else s) s

/-- What stays of the fabric: nothing, or the links, the route map and the gate list. -/
def Fabric.after (f : Fabric) (r : Reach) : Fabric :=
  if r.iod then {} else
    { f with partners := [], windows := [], copies := [], seals := [], copiesIn := [], loads := [], gens := [], queues := (f.queues.map (fun e => (e.1, e.2.filter (fun q => match q with | .frame _ _ fwd _ _ _ => fwd | _ => false)))).filter (fun e => !e.2.isEmpty), admitQueued := [], partnerSnap := [], winSnap := (0, 0, 0), fieldSnap := (0, 0, 0) }

/-- The steward after a reset: it restarts, drops the exported tier, and has lost what was not durable unless its
own logic was spared. DESIGN CHOICE, log entry 119. -/
def Flash.after (f : Flash) (r : Reach) : Flash :=
  { f with state := .restoring, recs := if r.iod then [] else f.recs, gc := none, gcActive := false, gcQueue := [], dropTier := true, timeOffset := if r.iod then 0 else f.timeOffset, timeSet := !r.iod && f.timeSet, held := f.held && r != .power, sbs := f.sbs.map (fun e => (e.1, { e.2 with aged := true, faults := [] })) }

/-- What CXL keeps when its link is spared. -/
def Cxl.after (x : Cxl) (r : Reach) : Cxl :=
  if r.cxl then {} else { x with lines := [], snoops := [], waiting := [], ingress := [], filterWaits := [], snoopFor := [], biLate := 0 }

/-- A reset cancels what firmware update had under way (R511, R514). -/
def Firmware.after (f : Firmware) : Firmware :=
  { f with fetch := none, refused := [], armed := none, loaded := none, activating := false, running := none }

/-- What a reset leaves of the parts behind DEV_STATUS. -/
def Sys.after (x : Sys) (r : Reach) : Sys :=
  { powered := x.powered, switchOpen := x.switchOpen, perst := x.perst, coreOff := x.coreOff && r == .core, hold := x.hold && r != .power, bootSel := x.bootSel, clkSel := x.clkSel, armBeat := none, frameCtr := x.frameCtr, fw := x.fw.after, samples := if r.iod then [] else x.samples, warnArmed := r.iod || x.warnArmed, limitArmed := r.iod || x.limitArmed, tripCount := if r.iod then 0 else x.tripCount, coolCount := if r.iod then 0 else x.coolCount, coolRaised := !r.iod && x.coolRaised, meas := x.meas }

/-- The clearing that a reset does (R486, R487, R544, R546). -/
def State.clear (s : State) (r : Reach) : State :=
  let retired := s.eng.tiles.filter (fun e => e.2.state == 4)
  { s with regs := s.regs.filter (fun e => keepsReg r e.1), clk := {}, io := {}, lore := {}, mem := { flash := s.mem.flash, flashUsed := s.mem.flashUsed }, eng := { tiles := retired }, fab := s.fab.after r, cxl := s.cxl.after r, sys := s.sys.after r, fls := s.fls.after r, fld := [], early := [] }

/-- RST_CAUSE holds every source since the last completed boot (R490). DEDUCED, log entry 117. -/
def State.noteCause (s : State) (mask : Nat) : State :=
  let old := if bit (s.regN Reg.BOOT_STATUS) 0 then 0 else s.regN Reg.RST_CAUSE
  ((s.setRegN Reg.RST_CAUSE (old ||| mask)).bump Reg.RST_COUNT).setRegN Reg.BOOT_STATUS 0

/-- A reset from a source with its bit of RST_CAUSE. One of reach device or core tells the host first (R489). -/
def State.resetTo (s : State) (r : Reach) (mask : Nat) : State :=
  let n := s.regN Reg.RST_NOTIFY
  let s := if !r.cxl ∧ bit n 8 then s.sendMsix (bits n 7 0) else s
  let s := if r.iod then s else s.leaveOnce
  if r = .power then (s.clear r).setRegN Reg.RST_FRAME_CTR s.sys.frameCtr else (s.noteCause mask).clear r

/-! ## Sources (R470, R472, R474, R480, R486, R491 to R494) -/

/-- Input power rises through the lockout; the board holds PERST#. -/
def execPowerOnReset (s : State) : Out :=
  .next ((s.mapSys (fun y => { y with powered := true, switchOpen := false, perst := true })).resetTo .power 0)

def execPerstAssert (s : State) : Out :=
  .next (if !s.sys.powered ∨ s.sys.perst then s else (s.mapSys (fun y => { y with perst := true })).resetTo .perst 2)

/-- The straps are sampled and boot may start; a power-fail hold ends here as in a power-on reset (R474, R497). DEDUCED, log entry 118. -/
def execPerstDeassert (st : Straps) (s : State) : Out :=
  .next (if !s.sys.powered ∨ !s.sys.perst then s
    else
      let s := if s.sys.hold then (s.resetTo .power 0).setRegN Reg.DEV_LATCH 1 else s
      s.mapSys (fun y => { y with perst := false, bootSel := st.bootSel.toNat, clkSel := st.clkSel.toNat }))

def execCxlReset (s : State) : Out := .next (if s.sys.powered ∧ !s.sys.perst then s.resetTo .device 4 else s)

def execRstArm (v : BitVec 32) (s : State) : Out :=
  .next (if v = 0xA55A then s.mapSys (fun y => { y with armBeat := some s.now }) else s)

/-- The command is armed for 1,024 beats. -/
def State.armed (s : State) : Bool :=
  match s.sys.armBeat with | none => false | some b => decide (s.now ≤ b + 1024)

/-- DEDUCED, log entry 117. -/
def execRstCmd (v : BitVec 32) (s : State) : Out :=
  .next (if !s.armed then s.configReject Reg.RST_CMD v.toNat
    else if !v.getLsbD 31 then s
    else if v.getLsbD 0 then s.resetTo .core 0x88 else s.resetTo .device 8)

/-- The timeout's beats have passed without a feed. -/
def State.starved (s : State) : Bool :=
  bit (s.regN Reg.WDOG_CTRL) 31 && decide (s.sys.fed + bits (s.regN Reg.WDOG_CTRL) 23 0 ≤ s.now)

/-- The firmware has not fed the watchdog in time. -/
def execWatchdogExpiry (s : State) : Out := .next (if s.cdUp ∧ s.starved then s.resetTo .device 0x20 else s)

/-- HMAC-SHA-256. PRESUMED, log entry 26. -/
def hmac (key msg : Bytes) : Digest :=
  let k := key ++ List.replicate (64 - key.length) 0
  sha256 (k.map (· ^^^ 0x5C) ++ digestBytes (sha256 (k.map (· ^^^ 0x36) ++ msg)))

def State.resetKey (s : State) : Bytes := (List.range 8).flatMap (fun i => leBytes 4 (s.regN (Reg.FABRIC_RESET_KEY i)))

/-- The first check of R493 that a reset frame fails. DEDUCED, log entry 118. -/
def State.resetCheck (s : State) (attested : Bool) (r : ResetFrame) : Option Nat :=
  if !attested then some 1
  else if s.resetKey.all (· == 0) then some 2
  else if r.target ≠ s.me then some 3
  else if r.counter ≤ s.regN Reg.RST_FRAME_CTR then some 4
  else if hmac s.resetKey r.macInput ≠ r.mac then some 5
  else if 1 < r.reach then some 6 else none

def State.refuseReset (s : State) (src : NodeId) (check : Nat) : State :=
  (s.bump Reg.RST_FRAME_REFUSED).raise Ev.fabricResetRefused src check

/-- The counter is recorded, and journaled while the steward can. -/
def State.takeReset (s : State) (src : NodeId) (r : ResetFrame) : State :=
  let s := (s.setRegN Reg.RST_FRAME_CTR r.counter).setReg Reg.RST_FRAME_SRC src
  let s := if s.fls.state = .ready ∨ s.fls.state = .readOnly then (s.mapSys (fun y => { y with frameCtr := r.counter })).systemWrite 5 (2 ^ 20) else s
  if r.reach = 1 then s.resetTo .core 0x90 else s.resetTo .device 0x10

def execFabricResetFrame (f : Frame) (r : ResetFrame) (s : State) : Out :=
  .next (
    let st := s.partnerState f.src
    if st = .free ∨ st = .joining then
      (if !s.cdUp ∨ f.dst ≠ s.me then s else match s.linkCheck f with
        | (s, false) => s
        | (s, true) => s.refuseReset f.src 1)
    else s.receive f .mgmt (fun s =>
      let ok := match s.partnerOf f.src with | none => false | some i => (s.partner i).attest == 1
      match s.resetCheck ok r with
      | some k => s.refuseReset f.src k
      | none => s.takeReset f.src r))

/-! ## Power (R343, R470, R474 to R476) -/

/-- A low of 1 µs or longer: the steward's records become durable, partners are told, no entry is admitted. -/
def execPwrFailAssert (ns : Nat) (s : State) : Out :=
  .next (if !s.sys.powered ∨ ns < 1000 ∨ s.sys.hold then s
    else
      let s := if s.fls.state = .restoring ∨ s.fls.state = .failed then s else s.journalAll
      let s := (s.mapSys (fun y => { y with hold := true })).mapFls (fun f => { f with held := true })
      if s.cdUp then s.leaveAll else s)

/-- Nothing volatile outlives the loss of power. DESIGN CHOICE, log entry 119. -/
def State.powerOff (s : State) : State :=
  (s.clear .power).mapSys (fun y => { y with powered := false, perst := true })

/-- P54V falls below the lockout; with a hold the journal page was completed before. -/
def execPowerLoss (withHold : Bool) (s : State) : Out :=
  .next (if !s.sys.powered ∨ withHold ≠ s.sys.hold then s else s.powerOff)

/-- The input switch opens; it closes when the input has fallen and risen again. -/
def execOvercurrentTrip (s : State) : Out :=
  .next (if s.sys.powered then s.powerOff.mapSys (fun y => { y with switchOpen := true }) else s)

def execPowerEnvelope (watts : Nat) (s : State) : Out :=
  .next (if !s.sys.powered then s
    else
      let s := s.setRegN Reg.DEV_POWER (min watts 4095)
      if 850 < watts then s.raise Ev.powerEnvelope 0 watts else s)

/-! ## Temperature (R478 to R481, R485) -/

def maxOf (l : List Int) : Int := l.foldl max (l.headD 0)
/-- DESIGN CHOICE, log entry 121. -/
def meanOf (l : List Int) : Int := if l.isEmpty then 0 else l.sum / l.length
/-- A reading in two's complement of 8 bits. -/
def byteOf (t : Int) : Nat := (BitVec.ofInt 8 t).toNat

/-- The sensor registers hold the average of the samples of the last 1 ms. -/
def State.publishTemps (s : State) : State :=
  let xs := s.sys.samples
  let avg (i : Nat) : Int := meanOf (xs.map (fun t => t.junction.getD i 0))
  let j := (List.range 44).map avg
  let s := (List.range 44).foldl (fun (s : State) i => s.setRegN (Reg.DEV_SENSOR i) (byteOf (avg i))) s
  s.setRegN Reg.DEV_TEMP (byteOf (maxOf j) * 2 ^ 24 + j.findIdx (· == maxOf j) * 2 ^ 16 + byteOf (meanOf (xs.map (·.outlet))) * 256 + byteOf (meanOf (xs.map (·.inlet))))

/-- An event when the reading rises to a threshold, again only after it fell 5 °C below. -/
def State.threshold (s : State) (t limit : Int) (armed : Bool) (code : Nat) : State × Bool :=
  if armed ∧ limit ≤ t then (s.raise code 0 (byteOf t), false)
  else (s, armed || decide (t ≤ limit - 5))

/-- THERM_TRIP# goes low and CD's supplies are removed. -/
def State.thermalTrip (s : State) : State :=
  let s := s.setReg Reg.DEV_LATCH (s.reg Reg.DEV_LATCH ||| 2)
  (s.resetTo .core 0x40).mapSys (fun y => { y with coreOff := true, tripCount := 0 })

/-- One sample of every sensor, each 10 µs. -/
def execTempSample (t : Temps) (s : State) : Out :=
  .next (if !s.sys.powered then s
    else
      let hot := maxOf t.junction
      let s := (s.mapSys (fun y => { y with samples := (t :: y.samples).take 100 })).publishTemps
      let (s, w) := s.threshold hot (bits (s.regN Reg.TJ_WARN) 7 0) s.sys.warnArmed Ev.tjWarn
      let (s, l) := s.threshold hot 105 s.sys.limitArmed Ev.tjLimit
      let cool := if t.inlet + 20 < t.outlet then s.sys.coolCount + 1 else 0
      let trip := if 115 ≤ hot then s.sys.tripCount + 1 else 0
      let s := if 100 ≤ cool ∧ !s.sys.coolRaised then s.raise Ev.coolantFlowLow else s
      let s := s.mapSys (fun y => { y with warnArmed := w, limitArmed := l, coolCount := cool, coolRaised := decide (100 ≤ cool), tripCount := trip })
      if 2 ≤ trip ∧ !s.sys.coreOff then s.thermalTrip else s)

def execThermalTripRecovery (s : State) : Out :=
  .next (match s.sys.samples with
    | [] => s
    | t :: _ => if s.sys.coreOff ∧ maxOf t.junction < 95 then s.mapSys (fun y => { y with coreOff := false }) else s)

/-! ## Status LEDs (R483, Table 18.10) -/

/-- Input stands above the lockout, also while the input switch is open. -/
def Sys.input (x : Sys) : Bool := x.powered || x.switchOpen
/-- Every rail is in regulation. -/
def Sys.pwrGood (x : Sys) : Bool := x.powered && !x.switchOpen && !x.coreOff
/-- A thermal or a current trip holds (Table 18.6). -/
def Sys.tripLow (x : Sys) : Bool := x.coreOff || x.switchOpen

def State.pwrLed (s : State) : LedShow :=
  if s.sys.input ∧ s.sys.pwrGood then .green 0 else if s.sys.input then .green 1 else .off

/-- The junction stood at 105 °C or above in the last sample. -/
def State.junctionLimit (s : State) : Bool := (s.sys.samples.head?.map (fun t => decide (105 ≤ maxOf t.junction))).getD false

/-- Without input no LED is lit. -/
def State.statLed (s : State) : LedShow :=
  if !s.sys.input then .off
  else if s.sys.tripLow ∨ s.fls.state = .failed then .amber 2
  else if s.clk.timing = .derated ∨ s.junctionLimit ∨ s.sys.hold ∨ s.fls.state = .readOnly then .amber 0
  else if !s.sys.ready ∨ s.fls.state = .restoring then .green 1
  else .green 0

def State.locLed (s : State) : LedShow := if s.sys.input ∧ bit (s.regN Reg.DEV_LED) 0 then .blue 1 else .off

/-! ## One block alone (R131, R495, R496, R545) -/

/-- Promised work that ends with `ISOLATED` writes no breach record. -/
def State.excuse (s : State) (p : Option Nat) : State :=
  match p with | none => s | some id => s.dropPromise id

/-- Posted instructions outstanding at a helper complete `ISOLATED`. -/
def State.isolatePosts (s : State) (p : Instr → Bool) : State :=
  s.io.ctxs.foldl (fun (s : State) e =>
    (e.2.posted.filter (fun q => q.done.isNone && p q.cmd)).foldl (fun (s : State) q => s.postDone e.1 q.index .isolated) s) s

def State.isolatePark (s : State) (p : Park) : State :=
  (((s.mapLore (fun y => { y with parks := y.parks.filter (·.lantern != p.lantern) })).subQueued 3 p.bytes)).parkFailed p .isolated

def State.isolateResume (s : State) (r : Resume) : State :=
  let s := s.mapLore (fun y => { y with resumes := y.resumes.filter (·.lantern != r.lantern) })
  (s.excuse r.promise).resumeFailed r .isolated false

def State.isolateTier (s : State) (t : TierMv) : State := (s.excuse t.promise).failTierMove t .isolated

/-- The carriers lose what they carry; a move past its `SEAL` stays. DESIGN CHOICE, log entry 120. -/
def State.isolateCarriers (s : State) : State :=
  let s := s.lore.parks.foldl State.isolatePark s
  let s := s.lore.resumes.foldl State.isolateResume s
  let s := s.mem.tierMoves.foldl State.isolateTier s
  let s := (s.lore.movesOut.filter (fun m => decide (m.phase < 3))).foldl (fun (s : State) m => s.moveReturned m .isolated true) s
  s.fab.copies.foldl (fun (s : State) x => s.copyFailed x .isolated true) s

/-- The lantern engine loses the parks and the resumes that it has under way. -/
def State.isolateLanterns (s : State) : State :=
  let s := s.lore.parks.foldl State.isolatePark s
  s.lore.resumes.foldl State.isolateResume s

/-- Running steps of those that `p` names fail (R131, Table 19.3). -/
def State.isolateSteps (s : State) (p : Step → Bool) : State :=
  s.eng.meadows.foldl (fun (s : State) e => match (s.mdw e.1).steps with
    | t :: _ => if t.started ∧ p t then s.failStep e.1 t .isolated true else s
    | [] => s) s

/-- The step's weights come through an exact expander: their object is coded exactly. DESIGN CHOICE, log entry 120. -/
def State.expands (s : State) (t : Step) : Bool := (s.objByBase t.hdr.weights).any (fun i => (s.obj i).exact)

/-- Scrubs of one memory end. -/
def State.isolateScrubs (s : State) (flash : Bool) : State :=
  (s.sys.bg.scrubs.filter (·.flash == flash)).foldl (fun (s : State) r =>
    ((s.dropJob (if r.flash then 6 else 5) r.job).mapBg (fun b => { b with scrubs := b.scrubs.filter (fun x => x.job != r.job) })).finish r.owner .isolated) s

/-- Accesses to GDDR7 outstanding at a controller fail: what carries data there, scrubs, and the steps that stream from it. DESIGN
CHOICE, log entry 120. -/
def State.isolateMemory (s : State) : State := ((s.isolateCarriers).isolateScrubs false).isolateSteps (fun _ => true)

/-- What waits for a partner's answer fails; the transport's own state is kept. DESIGN CHOICE, log entry 120. -/
def State.isolatePorts (s : State) : State :=
  let s := (s.lore.movesOut.filter (fun m => decide (m.phase < 3))).foldl (fun (s : State) m => s.moveReturned m .isolated true) s
  let s := s.fab.copies.foldl (fun (s : State) x => s.copyFailed x .isolated true) s
  let s := s.fab.seals.foldl (fun (s : State) z => s.endSeal z .isolated) s
  let queries := s.lore.queries
  let s := queries.foldl (fun (s : State) q => s.finish (.instr q.c) .isolated) (s.mapLore (fun l => { l with queries := [] }))
  s.eng.partials.foldl (fun (s : State) p => (s.excuse p.promise).endPartial p .isolated) s

/-- The steward alone restarts: GDDR7 and the exported tier are kept. DESIGN CHOICE, log entry 120. -/
def State.isolateSteward (s : State) : State :=
  let s := (s.lore.parks.filter (fun p => p.tier == 4)).foldl State.isolatePark s
  let s := (s.lore.resumes.filter (fun r => r.tier == 4)).foldl State.isolateResume s
  let s := ((s.mem.tierMoves.filter (fun t => t.target == 2 || (s.obj t.obj).home == 2)).foldl State.isolateTier s).isolateScrubs true
  s.mapFls (fun f => { f with state := .restoring, recs := [], gc := none, gcActive := false, gcQueue := [], dropTier := false, sbs := f.sbs.map (fun e => (e.1, { e.2 with aged := true, faults := [] })) })

/-- March runs end; a row held by a preserving run is as it was. Prep, whose marches end too, leaves its meadow not ready. -/
def State.isolateMarches (s : State) : State :=
  let runs := s.sys.marches
  let s := (s.mapSys (fun y => { y with marches := [] })).mapBg (fun b => { b with jobs := b.jobs.filter (fun j => j.act != 8) })
  let v := s.regN Reg.FIELD_READY
  let s := if bit v 30 then s.setRegN Reg.FIELD_READY (fieldReadyReg false false (bits v 10 8) 0) else s
  runs.foldl (fun (s : State) r => s.finish r.owner .isolated) s

/-- Joins in progress end. -/
def State.isolateJoins (s : State) : State :=
  (s.fab.partners.filter (fun e => e.2.state == .joining)).foldl (fun (s : State) e => s.joinEnds e.1 Ev.partnerJoinFailed) s

/-- Block `n` of Table 19.3 is reset: outstanding requests to it complete `ISOLATED`. DESIGN CHOICE, log entry 120. -/
def State.resetBlock (s : State) (n : Nat) : State :=
  if n < 3 ∨ 15 < n ∨ s.sys.blocks.any (·.1 == n) then s
  else
    let s := s.mapSys (fun y => { y with blocks := y.blocks ++ [(n, s.now)] })
    match n with
    | 4 => s.isolateLanterns
    | 5 => s.isolatePosts (fun i => match i with | .setUnion .. => true | .setIntersect .. => true | .setDiff .. => true | _ => false)
    | 6 => s.isolateCarriers
    | 7 => (s.isolatePosts (fun i => match i with | .unpack .. => true | _ => false)).isolateSteps s.expands
    | 8 => s.isolatePosts (fun i => match i with | .pack .. => true | _ => false)
    | 9 => s.isolateMarches
    | 11 => (s.isolatePosts (fun i => match i with | .setHash .. => true | _ => false)).isolateJoins
    | 12 => s.isolateMemory
    | 13 => s.isolateMemory
    | 14 => s.isolatePorts
    | 15 => s.isolateSteward
    | _ => s

def execBlockReset (c : Nat) (w : IWord) (s : State) : Out :=
  .next (s.runInstr c 0x8D w (.blockReset c w) (shapeOk 0x8D w) false false (fun _ =>
    let n := w.opa.toNat % 256
    if n < 3 ∨ 15 < n then .fail .badOperand 0 else .ok (s.resetBlock n)))

/-- Each bit written 1 resets its block; a block held by a wider reset needs none. -/
def execBlkReset (v : BitVec 32) (s : State) : Out :=
  .next (((List.range 16).filter (fun n => v.getLsbD n)).foldl State.resetBlock s)

def execBlockRestore (n : Nat) (s : State) : Out :=
  .next (s.mapSys (fun y => { y with blocks := y.blocks.filter (·.1 != n) }))

end Sys2Proof.Machine
end

