-- ==== Sys2Proof/Machine/RegRead.lean ====
section
/-! DEFINITION. What BAR0 reads: the registers that show other state, and the rest as stored (R534 to R536, R539 to
R543, R546 and the register tables of the chapters). -/

namespace Sys2Proof.Machine

/-- The CXL side and the reset controller answer through every reset; these blocks do not (R539). -/
def cdBlock (off : Nat) : Bool :=
  decide (0x20000 ≤ off ∧ off < 0xB0000) || decide (0xE0000 ≤ off ∧ off < 0x200400)

def sumOf (f : Nat → Nat) (n : Nat) : Nat := ((List.range n).map f).sum

/-! ## Block by block -/

def timingCode : Timing → Nat
  | .normal => 0 | .marginLow => 1 | .derated => 2

/-- DEV (Tables 22.2 to 22.4, 18.11). DEV_INPUT is what the supply shows: an open value. -/
def State.devRegs (s : State) : List (Nat × Nat) :=
  [(Reg.DEV_STATUS, 2 ^ 31 * b2n s.sys.ready + 2 ^ 30 * b2n s.sys.hold + 2 ^ 29 * b2n s.sys.coreOff),
   (Reg.DEV_STRAPS, 4 * s.sys.clkSel + s.sys.bootSel),
   (Reg.DEV_SERIAL, Config.deviceWord 0 % 2 ^ 64),
   (Reg.DEV_INPUT, Config.freeNat s.freeCtr % 2 ^ 32)]

/-- Registers of the reset block: blocks in reset. -/
def State.rstRegs (s : State) : List (Nat × Nat) :=
  [(Reg.BLK_RESET, (s.sys.blocks.map (fun b => 2 ^ b.1)).sum)]

/-- BEAT (Tables 2.7 to 2.11). -/
def State.beatRegs (s : State) (i : Nat) : List (Nat × Nat) :=
  let c := s.clk
  [(Reg.BEAT_LEN_ACTIVE, c.len), (Reg.BEAT_NOW, c.now), (Reg.BEAT_TIME, c.time),
   (Reg.BEACON_STATUS, (BitVec.ofInt 16 c.offset).toNat * 65536 + c.hops * 256 + beaconCode c.beacon),
   (Reg.BEACON_ROOT, c.root.toNat),
   (Reg.TIMING_STATUS, c.volt * 65536 + c.minTaper * 256 + timingCode c.timing),
   (Reg.TAPER_RATE 0, c.tapers.getD i 0 / 1000000 % 65536)]

/-- The burst values of the enabled rings (R102). -/
def State.burstSum (s : State) : Nat :=
  sumOf (fun r => if bit (s.regN (Reg.INTAKE_CTRL r)) 31 then bits (s.regN (Reg.INTAKE_CTRL r)) 6 0 else 0) 256

/-- INTAKE (Tables 4.3, 4.6). -/
def State.intakeRegs (s : State) (i : Nat) : List (Nat × Nat) :=
  let x : RingSt := Tbl.get (fun _ => {}) s.io.rings i
  [(Reg.INTAKE_CI 0, x.ci), (Reg.INTAKE_STATUS 0, 256 * x.error + x.state), (Reg.INTAKE_BURST_SUM, s.burstSum)]

/-- RESULT (Table 22.5): what is fetched and has no record yet. -/
def State.resultRegs (s : State) : List (Nat × Nat) :=
  [(Reg.RESULT_INFLIGHT, s.io.ctxs.length + s.io.staging.length + s.io.late.length + s.io.results.length + s.io.retries.length)]

/-- ADMIT (Tables 2.7, 3.7). -/
def State.admitRegs (s : State) (i : Nat) : List (Nat × Nat) :=
  [(Reg.RESUME_BUSY, 256 * s.slotsBusy 4 + s.slotsBusy 2), (Reg.POWER_SUM, s.powerSum), (Reg.ADMIT_QUEUED 0, s.queued i)]

/-- A number of little-endian bytes of a snapshot. -/
def snapWord (b : Bytes) (i : Nat) : Nat := le b (4 * i) 4

def lStates : List LState := [.closed, .idle, .active, .toolWait, .swapped, .hibernated, .lent, .orphaned]
def rStates : List RState := [.free, .admitted, .running, .done, .overdue, .failed, .killed]

/-- Entries of a table in the state of encoding `i`: the unlisted ones are in state 0. -/
def stateCount (total listed : Nat) (i inState : Nat) : Nat := if i = 0 then total - (listed - inState) else inState

/-- A register with its busy bit. -/
def State.withBusy (s : State) (cmd v : Nat) : Nat := 2 ^ 31 * b2n (s.busy cmd) + v

/-- LTN (Tables 6.7, 7.8). -/
def State.ltnRegs (s : State) (i : Nat) : List (Nat × Nat) :=
  let l := s.lore
  [(Reg.LTN_STATE_COUNT 0, stateCount 4194304 l.lanterns.length i (l.lanterns.count (fun x => lCode x.state == i))),
   (Reg.REQ_STATE_COUNT 0, stateCount 262144 l.requests.length i (l.requests.count (fun x => rCode x.state == i))),
   (Reg.PEEK_DATA 0, snapWord l.peek i), (Reg.PEEK_SEL, s.withBusy Reg.PEEK_SEL (s.regN Reg.PEEK_SEL)), (Reg.SC_SNAP, b2n (s.busy Reg.SC_SNAP)),
   (Reg.SC_TILE_BEATS 0, Tbl.get (fun _ => 0) l.scTileSnap i), (Reg.SC_LINK_BYTES 0, Tbl.get (fun _ => 0) l.scLinkSnap i),
   (Reg.MOVES_OUT, l.movesOut.length), (Reg.MOVES_IN, l.movesIn.length),
   (Reg.DEED_ORPHANS, l.deeds.count (fun d => d.state == .orphaned) + l.hosted.count (fun d => d.state == .orphaned) + s.fab.windows.count (fun w => w.deed.state == .orphaned)),
   (Reg.HOSTED_COUNT, l.hosted.length), (Reg.HOSTED_INDEX, if s.busy Reg.HOSTED_FIND then 2 ^ 31 else l.hostedFind)]

/-- MEADOW (Tables 15.12, 8.7 to 8.9, 9.9, 9.11). -/
def State.meadowRegs (s : State) (off i : Nat) : List (Nat × Nat) :=
  let x := s.mdw i
  let t := s.tile i
  let a := s.adapter (bits (s.regN Reg.ADP_SEL) 11 0)
  let m := (off - Reg.MEADOW_DESC 0) / 64
  [(Reg.MEADOW_STATE 0, 2 ^ 28 * mCode x.state + 2 ^ 26 * x.role + 2 ^ 16 * x.tiles.length + x.chans),
   (Reg.MEADOW_DESC 0, le (s.mdw m).desc ((off - Reg.MEADOW_DESC 0) % 64) 4),
   (Reg.TILE_STATE 0, 2 ^ 29 * t.state + 2 ^ 26 * (if t.state = 1 then t.meadow else 0) + 2 ^ 23 * t.band + 2 ^ 16 * t.cls + 256 * t.passes + t.fails),
   (Reg.MODEL_STATUS, s.withBusy Reg.MODEL_CMD (s.regN Reg.MODEL_STATUS)), (Reg.KV_FRAMES_TOTAL, s.kvUnits), (Reg.KV_FRAMES_FREE, s.kvFree), (Reg.PREFIX_NODES, s.mem.trie.length),
   (Reg.ADP_RESIDENT, s.mem.adapters.count (fun a => a.state == 1)),
   (Reg.ADP_INFO0, 2 ^ 30 * a.state + 2 ^ 16 * a.successor.getD 0x1000 + a.model),
   (Reg.ADP_INFO1, s.adapterRefs (bits (s.regN Reg.ADP_SEL) 11 0)),
   (Reg.ADP_INFO2, if a.state = 0 then 0 else Config.structAddr 8 a.object % 2 ^ 64)]

/-- 16 times the resume term of one unit (R326). -/
def State.rtBound (s : State) (tier : Nat) : Nat := 16 * ((s.resumeTerms tier 4096).map (·.2)).sum

/-- The read bounds follow their terms in the beat after a change (R328). -/
def State.followBounds (s : State) : State := (s.setRegN Reg.RT_BOUND_HOST (s.rtBound 2)).setRegN Reg.RT_BOUND_FLASH (s.rtBound 4)

/-- TIER and GDDR (Table 11.4). -/
def State.tierRegs (s : State) : List (Nat × Nat) :=
  [(Reg.OBJ_STATUS, s.withBusy Reg.OBJ_CMD (s.regN Reg.OBJ_STATUS)), (Reg.GDDR_OBJ_SIZE, s.objUnits / 256), (Reg.GDDR_OBJ_FREE, s.objFree), (Reg.SWAP_FREE, s.swapFree),
   (Reg.OBJ_COUNT, s.mem.objs.count (fun o => o.state != 0)),
   (Reg.RT_QUEUED, 256 * s.rtQueued 4 + s.rtQueued 2)]

/-- The die with the fewest spares, the lowest of several. -/
def State.poorestDie (s : State) : Nat × Nat :=
  (List.range 128).foldl (fun (b : Nat × Nat) d => if s.sparesLeft d < b.2 then (d, s.sparesLeft d) else b) (0, s.sparesLeft 0)

/-- FLASH (Tables 12.11, 12.12). DESIGN CHOICE, log entry 124. -/
def State.flashRegs (s : State) (i : Nat) : List (Nat × Nat) :=
  let f := s.fls
  let known := f.state != .restoring && f.state != .failed
  [(Reg.FLASH_STATUS, 32 * b2n f.gcActive + 16 * b2n f.timeSet + fCode f.state), (Reg.FLASH_TIME, (BitVec.ofInt 64 s.flashTime).toNat),
   (Reg.FLASH_FREE, s.flashFree), (Reg.FLASH_OPEN, 256 * (s.sbsIn 2 % 256) + s.sbsIn 1), (Reg.FLASH_FREE_SB, if known then s.freeSbs else 0),
   (Reg.FLASH_SPARES_MIN, if known then s.poorestDie.1 * 65536 + s.poorestDie.2 else 320), (Reg.FLASH_RETIRED, if known then f.retired else 0),
   (Reg.FLASH_LOST_UNITS, (f.map.count (fun e => e.lost))), (Reg.FLASH_ERASE_MAX, if known then s.eraseMax else 0),
   (Reg.FLASH_ERASE_MIN, if known then s.eraseMin else 0), (Reg.FLASH_JOURNAL_SEQ, f.seq), (Reg.FLASH_CKPT_SEQ, f.ckptSeq),
   (Reg.FLASH_DIE_SPARES 0, if known then s.sparesLeft i else 320)]

/-- FABRIC and SHAPE (Tables 13.14, 13.17, 14.2, 14.3, 7.8). -/
def State.fabricRegs (s : State) (i : Nat) : List (Nat × Nat) :=
  let f := s.fab
  let l := s.link i
  let late := f.shareNext.any (fun e => if e.1 = Reg.LEN_OVERHEAD then decide (s.regN e.1 < e.2) else decide (e.2 < s.regN e.1))
  let held := late || f.gatesWait.isSome || s.io.pendingWrites.any (fun w => decide (Reg.LEN_OVERHEAD ≤ w.off ∧ w.off < Reg.QUEUE_SEL))
  [(Reg.FAB_CTRL, s.regN Reg.FAB_CTRL % 2 + 2 * b2n (f.partners.any (fun e => e.2.leaving))),
   (Reg.PARTNER_SEL, s.withBusy Reg.PARTNER_SEL (s.regN Reg.PARTNER_SEL)), (Reg.WIN_SEL, s.withBusy Reg.WIN_SEL (s.regN Reg.WIN_SEL)),
   (Reg.QUEUE_SEL, s.withBusy Reg.QUEUE_SEL (s.regN Reg.QUEUE_SEL)),
   (Reg.PARTNER_COUNT, f.partners.count (fun p => p.state == .live)), (Reg.PARTNER_DATA 0, snapWord f.partnerSnap i),
   (Reg.WIN_INFO0, f.winSnap.1), (Reg.WIN_INFO1, f.winSnap.2.1), (Reg.WIN_INFO2, f.winSnap.2.2),
   (Reg.LINK_STATUS 0, 128 * b2n (l.encrypted && l.slot == 1) + 64 * b2n l.encrypted + 4 * (l.lanes % 16) + l.state),
   (Reg.GATE_CTRL, 2 ^ 31 * b2n (f.gatesPending.isSome || f.gatesWait.isSome) + 2 ^ 30 * b2n held + s.regN Reg.GATE_CTRL % 16),
   (Reg.GATE_FRACTION 0, f.gateFrac.getD i 0),
   (Reg.QUEUE_DEPTH, f.queueSnap.depth), (Reg.QUEUE_DEPTH_MAX, f.queueSnap.depthMax), (Reg.QUEUE_DELAY, f.queueSnap.delay),
   (Reg.QUEUE_DELAY_MAX, f.queueSnap.delayMax), (Reg.ROUTE_EPOCH, f.epoch),
   (Reg.MAP_DRAIN_LEFT, if f.oldMap.isSome ∧ s.now < f.drainEnd then f.drainEnd - s.now else 0)]

/-- FIELD (Tables 15.8, 15.10). -/
def State.fieldRegs (s : State) (i : Nat) : List (Nat × Nat) :=
  let f := s.field i
  [(Reg.FIELD_STATUS 0, if f.state = 0 then 0 else 2 ^ 28 * f.state + 2 ^ 16 * f.members.length + f.members.findIdx (fun m => m.node == s.me)),
   (Reg.FIELD_ID 0, if f.state = 0 then 0 else f.id), (Reg.FIELD_EPOCH 0, if f.state = 0 then 0 else f.epoch),
   (Reg.FIELD_SEL, s.withBusy Reg.FIELD_SEL (s.regN Reg.FIELD_SEL)),
   (Reg.FIELD_MEMBER0, s.fab.fieldSnap.1), (Reg.FIELD_MEMBER1, s.fab.fieldSnap.2.1), (Reg.FIELD_MEMBER2, s.fab.fieldSnap.2.2)]

/-- Table 4.11. -/
def Progress.bytes (p : Progress) : Bytes :=
  packLE [(2, p.tag), (1, p.ring), (1, p.state), (2, p.bp), (2, p.unit), (8, p.position), (8, p.total), (8, p.update)]

/-- The MARCH block (Table 17.5). -/
def State.marchRegs (s : State) : List (Nat × Nat) := [(Reg.MARCH_BUSY, min s.sys.marches.length 8)]

/-- The slot that is not active. -/
def Firmware.slot (f : Firmware) (i : Nat) : Slot := if i = 0 then f.slotA else f.slotB
def Firmware.setSlot (f : Firmware) (i : Nat) (x : Slot) : Firmware := if i = 0 then { f with slotA := x } else { f with slotB := x }
def Firmware.spare (f : Firmware) : Slot := f.slot (1 - f.active)
/-- DESIGN CHOICE, log entry 110. -/
def Slot.version (x : Slot) : Nat := (x.pkg.map (·.version)).getD 0

/-- FWUP (Tables 20.2, 20.3). -/
def State.fwRegs (s : State) : List (Nat × Nat) :=
  let f := s.sys.fw
  let st := if f.armed.isSome then (if s.sys.paused then 4 else 3) else if f.spare.state = 1 then 2 else 0
  [(Reg.FW_STATUS, 2 ^ 28 * st + 2 ^ 27 * b2n f.trial + 2 ^ 26 * f.active + 2 ^ 25 * b2n f.store.isSome + 2 ^ 24 * b2n f.fetch.isSome + 2 ^ 16 * f.lastCode),
   (Reg.FW_ARMED_BEAT, f.armed.getD 0), (Reg.FW_PROMISED_MAX, s.promisedMax),
   (Reg.FW_VERSION_ACTIVE, (f.slot f.active).version), (Reg.FW_VERSION_STAGED, if f.spare.state = 1 then f.spare.version else 0),
   (Reg.FW_VERSION_STORE, (f.store.map (·.version)).getD 0), (Reg.FW_SEC_FLOOR, f.floor), (Reg.FW_SETTINGS_VERSION, f.applied)]

/-- Bytes 4i to 4i + 3 of a digest. -/
def digestWord (d : Digest) (i : Nat) : Nat := le (digestBytes d) (4 * i) 4

/-- SEC (Table 19.8): the key is ready once boot has derived it, the rest once an image is measured. -/
def State.secRegs (s : State) (i : Nat) : List (Nat × Nat) :=
  let up := s.regN Reg.BOOT_STATUS != 0
  let m := s.sys.meas
  [(Reg.SEC_STATUS, 2 ^ 31 * b2n up + 16 * (Config.deviceWord 1 % 16) + ((s.sys.fw.running.map (·.keySlot)).getD 0) % 16),
   (Reg.SEC_ID_PUBKEY 0, if up then digestWord Config.identityKey i else 0),
   (Reg.SEC_DIGEST 0, if m.isEmpty then 0 else digestWord s.myDigest i),
   (Reg.SEC_MEAS_DATA 0, (m[bits (s.regN Reg.SEC_MEAS_SEL) 3 0 - 1]?.map (digestWord · i)).getD 0)]

/-! ## One register -/

/-- A register that shows other state: its value; `base` is the first element of its array and `i` the element. DEDUCED, log entry 9. -/
def State.shown (s : State) (base off i : Nat) : Option Nat :=
  (if off < 0x10000 then s.devRegs else if off < 0x20000 then s.rstRegs else if off < 0x30000 then s.beatRegs i
   else if off < 0x40000 then s.intakeRegs i else if off < 0x50000 then s.resultRegs else if off < 0x60000 then s.admitRegs i
   else if off < 0x80000 then s.ltnRegs i else if off < 0x90000 then s.meadowRegs off i else if off < 0xB0000 then s.tierRegs
   else if off < 0xC0000 then s.flashRegs i else if off < 0xE0000 then s.fabricRegs i else if off < 0xF0000 then s.fieldRegs i
   else if off < 0x210000 then s.marchRegs else if off < 0x220000 then s.fwRegs else s.secRegs i).lookup base

/-- SHAPE is another address of the traffic class registers (R540). -/
def unalias (off : Nat) : Nat := if 0xD0000 ≤ off ∧ off ≤ 0xD0213 then off - 0xD0000 + 0xC1000 else off

/-- A register's value by the offset of its first byte; a write-only one reads 0. -/
def State.regValue (s : State) (off : Nat) : Nat :=
  match findReg off with
  | none => 0
  | some r => match r.acc with
    | .wo => 0
    | _ => ((r.index off).bind (s.shown r.off off)).getD (s.regN off)

/-- 32 bits of what lies at a 4-byte aligned offset outside the register table: lamps through each of their views (R115), progress
records, MSI-X. -/
def State.windowWord (s : State) (off : Nat) : Nat :=
  if 0xF8000 ≤ off ∧ off < 0xF8800 then le (s.progress ((off - 0xF8000) / 32)).bytes (off % 32) 4
  else if 0x100000 ≤ off ∧ off < 0x1E0000 ∧ off % 0x40000 < 0x20000 then (s.lamp (off % 0x40000 / 8)).toNat / 2 ^ (8 * (off % 8)) % 2 ^ 32
  else if 0x300000 ≤ off ∧ off < 0x301000 then s.vector ((off - 0x300000) / 4)
  else if 0x301000 ≤ off ∧ off < 0x301020 then
    sumOf (fun k => if s.cxl.vecPending.contains (8 * (off - 0x301000) + k) then 2 ^ k else 0) 32
  else 0

/-- The register that owns a 4-byte aligned offset, and whether the offset is its high half. -/
def ownerOf (off : Nat) : Option (RegSpec × Nat × Bool) :=
  match findReg off with
  | some r => some (r, off, false)
  | none => if off < 4 then none else match findReg (off - 4) with
    | some r => if r.width = 64 then some (r, off - 4, true) else none
    | none => none

/-- A live 4-byte read (R535, R539). -/
def State.read4 (s : State) (at_ : Nat) : Nat :=
  let off := unalias at_
  if off % 4 ≠ 0 ∨ (cdBlock off ∧ !s.cdUp) then 0
  else match ownerOf off with
    | some (_, o, high) => if high then s.regValue o / 2 ^ 32 else s.regValue o % 2 ^ 32
    | none => s.windowWord off

end Sys2Proof.Machine
end

