-- ==== Sys2Proof/Machine/RegWrite.lean ====
section
/-! DEFINITION. What a write to a BAR0 register without a command of its own does: field by field, held halves, the
conditions under which it is taken, and the values held back while promises that drew on them are open (R4, R77,
R398, R534 to R538). -/

namespace Sys2Proof.Machine

/-! ## Fields (R3, R4, R538) -/

/-- A written register: its new stored value, and whether a field refused what was written. A W1S command bit is not
stored. -/
def RegSpec.write (r : RegSpec) (old v : Nat) : Nat × Bool :=
  r.fields.foldl (fun (a : Nat × Bool) f =>
    let x := bits v f.hi f.lo
    match f.kind with
    | .w1s => a
    | .w1c => (setBits a.1 f.hi f.lo (bits a.1 f.hi f.lo - (bits a.1 f.hi f.lo &&& x)), a.2)
    | .rw => if f.legal.ok x then (setBits a.1 f.hi f.lo x, a.2) else (a.1, true)) (old, false)

/-! ## Values held back (R77, R398) -/

/-- The write makes a term longer. DEDUCED, log entry 125. -/
def lengthens (off old new : Nat) : Bool :=
  if off = Reg.BG_SHARE ∨ off = Reg.FLASH_FIRST_BEATS ∨ off = Reg.LEN_OVERHEAD ∨ decide (Reg.ADMIT_LIMIT 0 ≤ off ∧ off ≤ Reg.ADMIT_LIMIT 7) then decide (old < new)
  else if off = Reg.CXL_RESUME_BW ∨ off = Reg.FLASH_RESUME_BW ∨ decide (Reg.CLASS_SHARE 0 ≤ off ∧ off ≤ Reg.CLASS_SHARE 7) then decide (new < old)
  else if off = Reg.RESUME_SLOTS then decide (bits new 3 0 < bits old 3 0 ∨ bits new 11 8 < bits old 11 8)
  else false

/-- Promises that drew on a register; LEN_OVERHEAD supplies every GATE_FRACTION (R401). DEDUCED, log entry 125. -/
def State.drew (s : State) (off : Nat) : List Nat :=
  if off = Reg.LEN_OVERHEAD then ((List.range 8).flatMap (fun c => s.drewOn (Reg.GATE_FRACTION c))).eraseDups else s.drewOn off

/-- Shares and the overhead apply at the next refill. -/
def atRefill (off : Nat) : Bool := off == Reg.LEN_OVERHEAD || decide (Reg.CLASS_SHARE 0 ≤ off ∧ off ≤ Reg.CLASS_SHARE 7)

/-- The value comes into force. One that shortens terms counts for admissions from the next beat (R77): in this beat they read the
value from before. DEDUCED, log entry 98. -/
def State.inForce (s : State) (off v : Nat) : State :=
  if atRefill off then s.mapFab (fun f => { f with shareNext := f.shareNext.filter (fun e => e.1 != off) ++ [(off, v)] })
  else
    let old := s.admitReg off
    let rest := s.io.oldRegs.filter (fun e => e.1 != off)
    (s.setRegN off v).mapIo (fun io => { io with oldRegs := if lengthens off old v then rest else rest ++ [(off, old)] })

/-- While a larger overhead waits, new work counts with the fractions it will leave. DEDUCED, log entry 125. -/
def State.pendFractions (s : State) (v : Nat) (ps : List Nat) : State :=
  let g := gateFractions s.clk.len v s.fab.gates
  let ws : List PendingWrite := (List.range 8).map (fun c => { off := Reg.GATE_FRACTION c, value := g.getD c 0, promises := ps })
  if s.fab.gatesWait.isSome then s
  else s.mapIo (fun io => { io with pendingWrites := io.pendingWrites.filter (fun w => !((List.range 8).map Reg.GATE_FRACTION).contains w.off) ++ ws })

/-- R77: a value that lengthens a term waits for the promises that drew on the register; a further write replaces a
waiting value. -/
def State.stage (s : State) (off old v : Nat) : State :=
  let wait (ps : List Nat) : State :=
    let w : PendingWrite := { off := off, value := v, promises := ps }
    let s := s.mapIo (fun io => { io with pendingWrites := io.pendingWrites.filter (fun x => x.off != off) ++ [w] })
    if off = Reg.LEN_OVERHEAD then s.pendFractions v ps else s
  match s.io.pendingWrites.find? (·.off == off) with
  | some w => wait (w.promises ++ (s.drew off).filter (fun p => !w.promises.contains p))
  | none => if lengthens off old v ∧ !(s.drew off).isEmpty then wait (s.drew off) else s.inForce off v

/-- The promises a waiting value waits for have ended. -/
def execPendingWriteRelease (off : Nat) (s : State) : Out :=
  .next (
    if ((List.range 8).map Reg.GATE_FRACTION).contains off ∨ off = Reg.GATE_CTRL then s.releaseGates
    else match s.io.pendingWrites.find? (·.off == off) with
      | none => s
      | some w =>
        if w.promises.any (fun i => (s.promise i).isSome) then s
        else
          let s := s.mapIo (fun io => { io with pendingWrites := io.pendingWrites.filter (fun x => x.off != off && (off != Reg.LEN_OVERHEAD || s.fab.gatesWait.isSome || !((List.range 8).map Reg.GATE_FRACTION).contains x.off)) })
          s.inForce off w.value)

/-! ## Conditions on other fields and on the state (R4) -/

/-- The shares of the classes that one entry of the list in force opens would pass 1,024 (R398). DEDUCED, log entry 125. -/
def State.sharesOver (s : State) (c v : Nat) : Bool :=
  let share (k : Nat) : Nat := if k = c then v else max (s.shareOf k) (max (s.effReg (Reg.CLASS_SHARE k) false) (((s.fab.shareNext.find? (fun e => e.1 == Reg.CLASS_SHARE k)).map (·.2)).getD 0))
  s.fab.gates.any (fun e => decide (1024 < shareSum share e.1))

/-- Which ring a descriptor register belongs to, for the registers fixed while the ring is enabled (R99). -/
def ringFixed (off : Nat) : Option Nat :=
  if 0x30000 ≤ off ∧ off < 0x34000 ∧ [0x00, 0x08, 0x18, 0x24].contains (off % 64) then some ((off - 0x30000) / 64) else none

/-- The value may be written now: `new` is the register's value after the write. DESIGN CHOICE, log entry 124. -/
def State.writable (s : State) (off new : Nat) : Bool :=
  if off = Reg.PARK_T_PACK then decide (new ≤ s.regN Reg.PARK_T_HOST)
  else if off = Reg.PARK_T_HOST then decide (s.regN Reg.PARK_T_PACK ≤ new ∧ new ≤ s.regN Reg.PARK_T_CACHE)
  else if off = Reg.PARK_T_CACHE then decide (s.regN Reg.PARK_T_HOST ≤ new)
  else if off = Reg.KV_EMBER_LOW then decide (new = 0 ∨ new < s.regN Reg.KV_EMBER_HIGH)
  else if off = Reg.KV_EMBER_HIGH then decide (s.regN Reg.KV_EMBER_LOW < new)
  else if off = Reg.PARTNER_DEAD_BEATS then decide (4 * s.regN Reg.HEARTBEAT_GAP ≤ new)
  else if off = Reg.SWAP_BASE ∨ off = Reg.SWAP_SIZE then !s.lore.lanterns.any (fun e => e.2.state == .swapped)
  else if off = Reg.GDDR_KV_SIZE then s.eng.meadows.all (fun e => e.2.state == .free)
  else if off = Reg.NODE_ID then (List.range 8).all (fun p => !bit (s.regN (Reg.PORT_CFG p)) 31)
  else if off = Reg.COMMONS_HOST then s.burstSum == 0
  else if Reg.CLASS_SHARE 0 ≤ off ∧ off ≤ Reg.CLASS_SHARE 7 then !s.sharesOver ((off - Reg.CLASS_SHARE 0) / 4) new
  else match ringFixed off with
    | some i => !bit (s.regN (Reg.INTAKE_CTRL i)) 31
    | none => true

/-! ## What follows from a stored value -/

/-- Events that waited for the ring are raised (R499, R520). -/
def State.raiseLate (s : State) : State :=
  let l := s.sys.late
  l.foldl (fun (s : State) e => s.raise e.1 0 e.2) (s.mapSys (fun y => { y with late := [] }))

/-- A register takes a new value. -/
def State.store (s : State) (off old new : Nat) : State :=
  if lengthens off 0 1 ∨ lengthens off 1 0 ∨ off = Reg.RESUME_SLOTS then s.stage off old new
  else
    let s := s.setRegN off new
    if off = Reg.EVENT_CTRL ∧ bit new 31 ∧ !bit old 31 then s.mapIo (fun io => { io with evEdge := true })
    else if off = Reg.BREACH_CTRL ∧ bit new 31 ∧ !bit old 31 then s.mapIo (fun io => { io with brEdge := true })
    else if off = Reg.EVENT_RING_BASE ∧ new ≠ 0 then s.raiseLate
    else s

/-- A key register holds what is written and reads zero (R390). -/
def State.storeKey (s : State) (off v : Nat) : Option State :=
  if Reg.KEY_DATA 0 ≤ off ∧ off ≤ Reg.KEY_DATA 7 then
    some (s.mapFab (fun f => { f with keyData := f.keyData.set ((off - Reg.KEY_DATA 0) / 4) v }))
  else if off = Reg.KEY_SALT then some (s.mapFab (fun f => { f with keySalt := v }))
  else if Reg.FABRIC_RESET_KEY 0 ≤ off ∧ off ≤ Reg.FABRIC_RESET_KEY 7 then some (s.setRegN off v)
  else none

/-- FLASH_GC_MARKS: where the two marks written do not stand together, the high mark is taken if it stands with the low mark there is,
else the low mark with the high one (R4). DESIGN CHOICE, log entry 124. -/
def gcMarks (old v : Nat) : Nat × Bool :=
  let ok (high low : Nat) : Bool := decide (2 ≤ low ∧ low < high)
  let h := bits v 15 8
  let l := bits v 7 0
  if ok h l then (256 * h + l, false)
  else if ok h (bits old 7 0) then (256 * h + bits old 7 0, true)
  else if ok (bits old 15 8) l then (256 * bits old 15 8 + l, true)
  else (old, true)

/-- The value that a write asks for, and whether a field refuses its part. -/
def RegSpec.asked (r : RegSpec) (off old v : Nat) : Nat × Bool :=
  if off = Reg.FLASH_GC_MARKS then gcMarks old v else r.write old v

/-- A whole register is written (R4). -/
def State.writeReg (s : State) (off v : Nat) : State :=
  match findReg off with
  | none => s
  | some r => match r.acc with
    | .ro => s
    | .wo => (s.storeKey off v).getD s
    | .rw =>
      let old := ((s.io.pendingWrites.find? (·.off == off)).map (·.value)).getD (s.regN off)
      let (new, bad) := r.asked off (if atRefill off then ((s.fab.shareNext.find? (fun e => e.1 == off)).map (·.2)).getD old else old) v
      if !s.writable off new then s.configReject off v
      else
        let s := s.store off (s.regN off) new
        if bad then s.configReject off v else s

end Sys2Proof.Machine
end

