-- ==== Sys2Proof/Machine/Intake.lean ====
section
/-! DEFINITION. The intake rings: their control registers, the fetch of entries at a beat boundary and their way into
program contexts (R90 to R102). -/

namespace Sys2Proof.Machine

def State.ring (s : State) (i : Nat) : RingSt := Tbl.get (fun _ => {}) s.io.rings i
def State.setRing (s : State) (i : Nat) (x : RingSt) : State :=
  s.mapIo (fun io => { io with rings := Tbl.set (fun _ => {}) io.rings i x })
def State.ringOn (s : State) (i : Nat) : Bool := bit (s.regN (Reg.INTAKE_CTRL i)) 31
def State.ringBurst (s : State) (i : Nat) : Nat := bits (s.regN (Reg.INTAKE_CTRL i)) 6 0

/-! ## INTAKE_CTRL (R96, R99) -/

/-- The write is refused when the enabled rings' bursts would pass 1,024. A ring that is enabled becomes active at the
next boundary; one whose enable is cleared is disabled. DEDUCED, log entry 128. -/
def State.ringCtrl (s : State) (i v : Nat) : State :=
  let off := Reg.INTAKE_CTRL i
  match findReg off with
  | none => s
  | some r =>
    let (new, bad) := r.write (s.regN off) v
    let others := s.burstSum - (if s.ringOn i then s.ringBurst i else 0)
    if bit new 31 ∧ 1024 < others + bits new 6 0 then s.configReject off v
    else
      let s := s.setRegN off new
      let s := if bit new 31 then s else s.setRing i { s.ring i with state := 0 }
      if bad then s.configReject off v else s

def execIntakeCtrlWrite (ring : Nat) (v : BitVec 32) (s : State) : Out :=
  .next (if 256 ≤ ring ∨ !s.cdUp then s else s.ringCtrl ring v.toNat)

/-- The boundary at which enabled rings become active. DEDUCED, log entry 128. -/
def State.startRings (s : State) : State :=
  ((List.range 256).filter (fun i => s.ringOn i && (s.ring i).state == 0)).foldl (fun (s : State) i => s.setRing i { s.ring i with ci := 0, state := 1, error := 0 }) s

/-- A changed INTAKE_CI is written to INTAKE_CI_ADDR, once in a beat (R102). -/
def State.tellCi (s : State) : State :=
  ((List.range 256).filter (fun i => decide ((s.ring i).ci ≠ (s.ring i).told))).foldl (fun (s : State) i =>
    let x := s.ring i
    let a := s.regN (Reg.INTAKE_CI_ADDR i)
    (if a = 0 then s else s.emit (.hostWrite a (leBytes 4 x.ci))).setRing i { x with told := x.ci }) s

/-! ## An entry (R91, R100, R101) -/

/-- Tables 4.1 and 4.2; `bad` notes a reserved encoding. -/
def parseEntry (ring base : Nat) (e : FetchedEntry) : Entry :=
  let b := e.bytes
  let flags := le b 4 1
  let inline := bit flags 0
  let counts := le b 7 1
  let count := if inline then counts % 4 else le b 24 4
  let badBody := if inline then count == 0
    else count == 0 || decide (4096 < count) || le b 16 8 % 16 != 0 || !zeroAt b 28 36
  let meadow := le b 5 1
  { ring := ring, tag := le b 0 2, slot := le b 2 2, progressEn := bit flags 4, notify := bit flags 3,
    fullTurn := bits flags 2 1 == 1, meadow := meadow, svc := le b 6 1, progress := counts / 4, deadline := le b 8 8,
    prog := if inline then (List.range (counts % 4)).map (fun i => BitVec.ofNat 128 (le b (16 + 16 * i) 16)) else e.prog.take count,
    isInline := inline,
    bad := badBody || decide (32 ≤ flags) || decide (1 < bits flags 2 1) || decide (8 ≤ meadow ∧ meadow ≠ 0xFF) || decide (64 ≤ le b 6 1),
    resultBase := base }

/-! ## The fetch (R94, R95, R97, R98) -/

/-- Rings in the order of R95: priority, then index from BEAT_NOW mod 256 round. -/
def State.ringOrder (s : State) : List Nat :=
  let turn := (List.range 256).map (fun k => (s.now + k) % 256)
  [3, 2, 1, 0].flatMap (fun p => turn.filter (fun i => bits (s.regN (Reg.INTAKE_CTRL i)) 25 24 == p && (s.ring i).state == 1 && s.ringOn i))

/-- A fetch may end after order 5 only below a beat length of 1,000 ns, and when the ring or the head of the entry's program does not
lie in GDDR7 (R97). -/
def State.mayBeLate (s : State) (ring : Nat) (e : FetchedEntry) : Bool :=
  let home (a : Nat) : Bool := (s.gddrPlace false a).isSome
  decide (s.clk.len < 1000) && !(home (s.regN (Reg.INTAKE_BASE ring)) && (bit (le e.bytes 4 1) 0 || home (le e.bytes 16 8)))

/-- A fetched entry goes behind those that wait; one with a slot out of range is consumed (R101). -/
def State.takeEntry (s : State) (ring : Nat) (e : FetchedEntry) : State :=
  let x := parseEntry ring (s.regN (Reg.RESULT_BASE ring)) e
  if 2 ^ bits (s.regN (Reg.INTAKE_SIZE ring)) 12 8 ≤ x.slot then
    (s.bump Reg.RESULT_NO_RECORD).raise Ev.intakeBadSlot 0 ring x.tag none 5
  else if e.late ∧ s.mayBeLate ring e then
    (s.mapIo (fun io => { io with late := io.late ++ [x] })).raise Ev.intakeLate 0 0 0 none 5
  else s.mapIo (fun io => { io with staging := io.staging ++ [x] })

def State.stopRing (s : State) (i error : Nat) : State :=
  (s.setRing i { s.ring i with state := 2, error := error }).raise Ev.intakeOverrun 0 0 0 none 5

/-- One ring's poll, with room for `room` entries; answers the room left. -/
def State.pollRing (s : State) (i room : Nat) (p : Poll) : State × Nat :=
  let x := s.ring i
  let new := (p.pi + 2 ^ 32 - x.ci % 2 ^ 32) % 2 ^ 32
  if p.error then (s.stopRing i 2, room)
  else if 2 ^ bits (s.regN (Reg.INTAKE_SIZE i)) 4 0 < new then (s.stopRing i 1, room)
  else
    let es := p.entries.take (min (min new (s.ringBurst i)) room)
    if es.isEmpty then (s, room)
    else
      let s := es.foldl (fun (s : State) e => s.takeEntry i e) s
      (s.setRing i { x with ci := (x.ci + es.length) % 2 ^ 32 }, room - es.length)

/-- The lowest free context takes the entry at the head of staging, and is presented behind those before it (R93, R95). -/
def State.fillContexts (s : State) : Nat → State
  | 0 => s
  | n + 1 => match s.io.staging with
    | [] => s
    | e :: es => match s.io.ctxs.lowestFree 0 256 with
      | none => s
      | some c => State.fillContexts ((s.mapIo (fun io => { io with staging := es, nextTurn := io.nextTurn + 1 })).setCtx c (.fresh e s.io.nextTurn)) n

/-- The admission engine is in reset: entries wait in staging (Table 19.3). -/
def State.admitReset (s : State) : Bool := s.sys.blocks.any (fun b => b.1 == 3)

/-- In a power-fail hold no entry is admitted, and in the pause of a firmware activation none is fetched (R474, R516). -/
def State.intakeHeld (s : State) : Bool := s.sys.hold || s.sys.paused

/-- Entries that a beat may fetch: the contexts free at the boundary, and the free places in staging (R94). -/
def State.fetchRoom (s : State) : Nat :=
  if 4096 ≤ s.io.staging.length then 0
  else (if s.admitReset then 0 else 256 - s.io.ctxs.length) + (4096 - s.io.staging.length)

/-- The fetches of one boundary. DEDUCED, log entry 128. -/
def State.intake (s : State) (polls : List Poll) : State :=
  if s.intakeHeld then s
  else
    let s := s.mapIo (fun io => { io with staging := io.staging ++ io.late, late := [] })
    (s.ringOrder.foldl (fun (a : State × Nat) i => match polls.find? (·.ring == i) with
      | none => a
      | some p => a.1.pollRing i a.2 p) (s, s.fetchRoom)).1

/-- Order 5: entries take the contexts that are free (R93). -/
def State.present (s : State) : State := if s.intakeHeld ∨ s.admitReset then s else s.fillContexts 256

end Sys2Proof.Machine
end

