-- ==== Sys2Proof/Machine/RegRows.lean ====
section
/-! DEFINITION. Writes to registers that have a command of their own, as a register write reaches them; the snapshots of
the LTN block; and reads of the halves of a 64-bit register (R185, R186, R536, R554). -/

namespace Sys2Proof.Machine

/-- The state that an outcome leaves. -/
def stateAfter (s : State) (o : Out) : State :=
  match o with
  | .next t => t
  | .fault _ => s
  | .refused _ => s

/-! ## LTN snapshots -/

/-- One consistent copy of an entry. A reserved index stays as it was, and the kind is taken (R4). DESIGN CHOICE, log entry 129. -/
def execPeekSel (v : BitVec 32) (s : State) : Out :=
  .next (
    if !s.cdUp then s
    else s.whileFree Reg.PEEK_SEL v.toNat (fun s =>
      let kind := bit v.toNat 22
      let bad := kind && decide (262144 ≤ bits v.toNat 21 0)
      let i := if bad then bits (s.regN Reg.PEEK_SEL) 21 0 else bits v.toNat 21 0
      let b := if kind then s.requestBytes i else s.lanternBytes i
      let s := (s.setRegN Reg.PEEK_SEL (2 ^ 22 * b2n kind + i)).mapLore (fun l => { l with peek := b })
      if bad then s.configReject Reg.PEEK_SEL v.toNat else s))

/-- The lowest hosted entry of the keeper with the lantern and deed index written. -/
def execHostedFind (v : BitVec 64) (s : State) : Out :=
  .next (
    if !s.cdUp then s
    else s.whileFree Reg.HOSTED_FIND v.toNat (fun s =>
      let keeper := s.reg Reg.HOSTED_KEEPER
      let l := if v.getLsbD 63 then 0xFFFFFFFF else bits v.toNat 31 10
      let hit := s.lore.hosted.find? (fun e => e.2.keeper == keeper && e.2.keeperLantern == l && e.2.deed == bits v.toNat 9 0)
      (s.setRegN Reg.HOSTED_FIND (v.toNat / 2 ^ 63 * 2 ^ 63 + v.toNat % 2 ^ 32)).mapLore (fun y => { y with hostedFind := (hit.map (fun e => 2 ^ 30 + e.1)).getD 0 })))

/-- All counters of the service classes are latched at the next boundary (Table 6.9); until then the bit reads 1. -/
def execScSnap (s : State) : Out :=
  .next (if !s.cdUp ∨ s.busy Reg.SC_SNAP then s else s.whileFree Reg.SC_SNAP 1 (fun s => s))

/-- What was asked for is held: nothing is busy any more. -/
def State.endBusy (s : State) : State :=
  let s := if s.busy Reg.SC_SNAP then s.mapLore (fun l => { l with scTileSnap := l.scTile, scLinkSnap := l.scLink }) else s
  s.mapSys (fun y => { y with busy := [] })

/-! ## Registers with a command of their own -/

/-- Which element of an array a register is. -/
def elementOf (first n stride off : Nat) : Option Nat :=
  if first ≤ off ∧ off < first + n * stride ∧ (off - first) % stride = 0 then some ((off - first) / stride) else none

/-- The read-write registers: the value written is the command's operand. DEDUCED, log entry 126. -/
def State.rowWrite (s : State) (off v : Nat) : Option State :=
  let w := BitVec.ofNat 32 v
  let d := BitVec.ofNat 64 v
  let go (o : Out) : Option State := some (stateAfter s o)
  match elementOf (Reg.INTAKE_CTRL 0) 256 64 off, elementOf (Reg.PORT_CFG 0) 8 4 off, elementOf (Reg.SHADOW_SET 0) 4 4 off with
  | some i, _, _ => some (s.ringCtrl i v)
  | _, some p, _ => go (execPortCfgWrite p w s)
  | _, _, some k => go (execShadowSetWrite k w s)
  | none, none, none =>
    if off = Reg.BEAT_LEN then go (execBeatLenWrite w s)
    else if off = Reg.FIELD_FOLLOW then go (execFieldFollow d s)
    else if off = Reg.FIELD_SEL then go (execFieldSel w s)
    else if off = Reg.QUEUE_SEL then go (execQueueSel w s)
    else if off = Reg.PARTNER_SEL then go (execPartnerSel w s)
    else if off = Reg.WIN_SEL then go (execWinSel w s)
    else if off = Reg.PEEK_SEL then go (execPeekSel w s)
    else if off = Reg.HOSTED_FIND then go (execHostedFind d s)
    else if off = Reg.SC_SNAP then (if bit v 0 then go (execScSnap s) else some s)
    else if off = Reg.GATE_CTRL ∧ bit v 31 then go (execGateCtrlApply (BitVec.ofNat 4 v) s)
    else if off = Reg.FAB_CTRL ∧ bit v 1 then go (execFabCtrlLeave (s.writeReg off v))
    else if off = Reg.BLK_RESET then go (execBlkReset w s)
    else none

/-- A whole read-write register is written. -/
def State.writeAny (s : State) (off v : Nat) : State := (s.rowWrite off v).getD (s.writeReg off v)

/-! ## 4-byte reads of 64-bit registers (R536) -/

/-- The low half is returned and the high half latched; the one latch takes the last such read. DEDUCED, log entry 127. -/
def execRegLowHalfRead (at_ : Nat) (s : State) : Out :=
  .next (
    let off := unalias at_
    let v := s.read4 off
    let s := s.emit (.regRead at_ (BitVec.ofNat 64 v))
    match ownerOf off with
    | some (r, o, false) =>
      if r.width = 64 ∧ off % 4 = 0 ∧ !(cdBlock off && !s.cdUp) then s.mapSys (fun y => { y with latch := some (o, s.regValue o / 2 ^ 32) }) else s
    | _ => s)

/-- The latched half once, else the live one. DEDUCED, log entry 127. -/
def execRegHighHalfRead (at_ : Nat) (s : State) : Out :=
  .next (
    let off := unalias at_
    match ownerOf off, s.sys.latch with
    | some (_, o, true), some (l, h) =>
      if l = o ∧ !(cdBlock off && !s.cdUp) then (s.mapSys (fun y => { y with latch := none })).emit (.regRead at_ (BitVec.ofNat 64 h))
      else s.emit (.regRead at_ (BitVec.ofNat 64 (s.read4 off)))
    | _, _ => s.emit (.regRead at_ (BitVec.ofNat 64 (s.read4 off))))

end Sys2Proof.Machine
end

