-- ==== Sys2Proof/Machine/Firmware.lean ====
section
/-! DEFINITION. Boot and its image sources, the package store and its spread, staging, activation, trial, settings, and
`ATTEST` (R157, R158, R464, R484, R497 to R523, R547). -/

namespace Sys2Proof.Machine

def State.mapFw (s : State) (f : Firmware → Firmware) : State := s.mapSys (fun y => { y with fw := f y.fw })
def State.fw (s : State) : Firmware := s.sys.fw

/-! ## Packages (R500, R508) -/

/-- The error of BOOT_STATUS at which a source ends, if it does. -/
def imageError (floor : Nat) : Option FwPackage → Nat
  | none => 1
  | some p => if !p.sigOk then 2 else if !p.partsOk then 3 else if p.security < floor then 4 else 0

/-- R508. -/
def State.fwValid (s : State) (p : FwPackage) : Bool :=
  p.sigOk && p.partsOk && p.shapeOk && decide (s.fw.floor ≤ p.security) && decide (p.security < 64)

def maxPackage : Nat := 64 * 2 ^ 20

/-! ## Settings (R522, R523, R547) -/

/-- The read-write registers that a settings version declares persistent. -/
def persistentRegs (version : Nat) : List Nat :=
  (regTable.filter (fun r => r.acc == .rw)).flatMap (fun r => ((List.range r.count).map (fun i => r.off + r.stride * i)).filter (Config.persistent version))

/-- A record carried from one version to the next, `n` times. -/
def convertRecord (vals : List (Nat × Word)) (v : Nat) : Nat → List (Nat × Word)
  | 0 => vals
  | n + 1 => convertRecord (vals.map (fun e => (e.1, Config.convert v (v + 1) e.1 e.2))) (v + 1) n

/-- The registers take a record's values. DESIGN CHOICE, log entry 24. -/
def State.applyRecord (s : State) (version : Nat) (vals : List (Nat × Word)) : State :=
  (vals.foldl (fun (s : State) e => s.writeAny e.1 e.2.toNat) s).mapFw (fun f => { f with applied := version })

/-- The newest record is converted when the firmware reads a later version; a record of a later version is skipped for
a kept one of the firmware's own. DEDUCED, log entry 112. -/
def State.applySettings (s : State) (version : Nat) : State :=
  match s.fw.settings with
  | [] => s.mapFw (fun f => { f with applied := 0 })
  | (v, vals) :: _ =>
    if v < version then
      let new := convertRecord vals v (version - v)
      ((s.mapFw (fun f => { f with settings := (version, new) :: f.settings })).systemWrite 4 (2 ^ 20)).applyRecord version new
    else match s.fw.settings.find? (fun e => e.1 == version) with
      | some e => s.applyRecord version e.2
      | none => (s.mapFw (fun f => { f with applied := 0 })).raise Ev.fwSettingsSkipped

/-! ## Boot (R484, R497 to R502, R505, R520) -/

/-- Measurement 9's record (Table 19.6). -/
def State.bootRecord (s : State) (source keySlot : Nat) : Bytes :=
  leBytes 8 (source + 2 ^ 8 * s.sys.bootSel + 2 ^ 10 * s.sys.clkSel + 2 ^ 12 * (keySlot % 16))

/-- The nine measurements of a boot from a package. -/
def State.measure (s : State) (p : FwPackage) (source : Nat) : List Digest :=
  [Config.romMeasurement, p.manifestDigest] ++ p.partDigests.take 6 ++ [sha256 (s.bootRecord source p.keySlot)]

def bootStatus (stage source error : Nat) (fallback done : Bool) : Nat :=
  2 ^ 28 * stage + 2 ^ 24 * source + 2 ^ 16 * error + 2 * b2n fallback + b2n done

/-- The boot waits for a host load or the medium. -/
def State.bootWaits (s : State) : Bool := bits (s.regN Reg.BOOT_STATUS) 31 28 == 0xE

/-- A text line of the service UART for each boot stage. -/
def State.stages (s : State) (from_ to_ : Nat) : State :=
  (List.range (to_ + 1 - from_)).foldl (fun (s : State) k => s.emit (.uart 0 (from_ + k))) s

/-! ### The patch table (R502) -/

/-- An entry that replaces nothing. -/
def patchUnused : Word := 0xFFFFFFFF00000000

/-- The 64 entries that an image's patch table part gives. -/
def patchTable (p : FwPackage) : List Word :=
  p.patches.take 64 ++ List.replicate (64 - p.patches.length) patchUnused

/-- The patch table is applied, from boot step 6 on. -/
def State.applyPatches (s : State) (p : FwPackage) : State := s.mapSys (fun y => { y with patches := patchTable p })

/-- The ROM word that the Lamplighter reads at a word address: the first entry of the table in force that names the address replaces
it. Steps 1 to 5 run before any table is in force. -/
def State.romWord (s : State) (at_ : Nat) : BitVec 32 :=
  match s.sys.patches.find? (fun e => decide (e.toNat / 2 ^ 32 = at_ ∧ at_ ≠ 0xFFFFFFFF)) with
  | some e => BitVec.ofNat 32 e.toNat
  | none => Config.romWord at_

/-- Steps 4 to 7 with a verified image; CLK_SEL 0b11 is reserved, and the module does not become ready under it. DEDUCED, log entry 111. -/
def State.bootFrom (s : State) (p : FwPackage) (source error : Nat) (fallback : Bool) : State :=
  let s := s.mapFw (fun f => { f with running := some p, source := source })
  let s := (((s.mapSys (fun y => { y with meas := s.measure p source })).stages 5 5).applyPatches p).stages 6 6
  if s.sys.clkSel = 3 then s.setRegN Reg.BOOT_STATUS (bootStatus 6 source error fallback false)
  else
    let s := ((s.mapSys (fun y => { y with ready := true })).setRegN Reg.BOOT_STATUS (bootStatus 7 source error fallback true)).stages 7 7
    s.applySettings p.settings

/-- A boot from a slot ends a trial, and the slot it took is the active one. DESIGN CHOICE, log entry 110. -/
def State.bootSlot (s : State) (j first : Nat) (p : FwPackage) (error : Nat) : State :=
  let f := s.fw
  let late := (if f.trial ∧ f.active ≠ j then [(Ev.fwRollback, 0)] else []) ++ (if j ≠ first then [(Ev.bootFallback, 0)] else [])
  let s := (s.mapFw (fun f => ({ f with active := j, kept := j, trial := false }).setSlot j { state := 2, pkg := some p })).mapSys (fun y => { y with late := y.late ++ late })
  let s := if f.trial ∨ f.active ≠ j ∨ f.kept ≠ j then s.systemWrite 3 (2 ^ 20) else s
  s.bootFrom p j error (decide (j ≠ first))

/-- What the sources read as: an empty slot, and any slot while the steward is `FAILED`, is unreadable. -/
def State.slotImage (s : State) (i : BootInput) (j : Nat) : Option FwPackage :=
  if s.fls.state = .failed ∨ (s.fw.slot j).state = 0 then none else if j = 0 then i.slotA else i.slotB

/-- The start-up march repairs what it found failing; memories are zero after every reset that reaches CD. -/
def State.bootMarch (s : State) (i : BootInput) : State :=
  if !bit (s.regN Reg.MARCH_CTRL) 31 then s
  else
    let go (kind : Nat) (s : State) (e : Nat × Nat) : State :=
      (s.repairRows { id := 0, owner := .engine, kind := kind, index := e.1, destructive := true, repair := true } e.2).1
    i.marchBanks.foldl (go 2) (i.marchTiles.foldl (go 1) s)

/-- The sources in turn, up to the one that verifies or the wait for another. DEDUCED, log entry 111. -/
def State.bootSources (s : State) (i : BootInput) : State :=
  let f := s.fw
  let err (p : Option FwPackage) : Nat := imageError f.floor p
  let wait (source error : Nat) (fallback : Bool) : State :=
    (s.setRegN Reg.BOOT_STATUS (bootStatus 0xE source error fallback false)).emit (.uart 0 0xE)
  match s.sys.bootSel with
  | 0 =>
    let first := if f.trial then f.kept else f.active
    let a := s.slotImage i first
    let b := s.slotImage i (1 - first)
    match a, b with
    | some p, q => if err (some p) = 0 then s.bootSlot first first p 0
      else match q with
        | some q => if err (some q) = 0 then s.bootSlot (1 - first) first q (err a) else wait (1 - first) (err b) true
        | none => wait (1 - first) 1 true
    | none, some q => if err (some q) = 0 then s.bootSlot (1 - first) first q 1 else wait (1 - first) (err b) true
    | none, none => wait (1 - first) 1 true
  | 1 => match s.slotImage i 0 with
    | some p => if err (some p) = 0 then s.bootSlot 0 0 p 0 else wait 0 (err (some p)) true
    | none => wait 0 1 true
  | 2 => match i.medium with
    | some p => if err (some p) = 0 then s.bootFrom p 2 0 false else wait 2 (err (some p)) true
    | none => wait 2 1 true
  | _ => wait 3 0 false

def execBoot (i : BootInput) (s : State) : Out :=
  .next (if !s.bootable ∨ s.sys.ready ∨ s.regN Reg.BOOT_STATUS ≠ 0 then s
    else (((s.setRegN Reg.BOOT_STATUS (bootStatus 1 0 0 false false)).stages 1 4).bootMarch i).bootSources i)

/-- A waiting boot is offered an image: it runs when it verifies, and otherwise shows the error and waits on. -/
def State.offerImage (s : State) (p : Option FwPackage) (source : Nat) : State :=
  let fallback := bit (s.regN Reg.BOOT_STATUS) 1
  match p with
  | none => s.setRegN Reg.BOOT_STATUS (bootStatus 0xE source 1 fallback false)
  | some q =>
    let e := imageError s.fw.floor p
    if e = 0 then s.bootFrom q source 0 fallback else s.setRegN Reg.BOOT_STATUS (bootStatus 0xE source e fallback false)

def execBootImgCmd (p : Option FwPackage) (s : State) : Out :=
  .next (if s.bootWaits ∧ s.bootable then s.offerImage p 3 else s)

/-! ## The store and its spread (R509 to R511) -/

/-- The package is offered to every verified partner but one. DEDUCED, log entry 114. -/
def State.offerPackage (s : State) (p : FwPackage) (except_ : NodeId) : State :=
  if !bit (s.regN Reg.FW_CTRL) 0 then s
  else (s.fab.partners.filter (fun e => e.2.state == .live && e.2.attest == 1 && e.2.node != except_)).foldl
    (fun (s : State) e => s.sendMgmt e.2.node (.fwOffer { digest := p.manifestDigest, version := p.version, security := p.security, len := p.len })) s

def State.storePackage (s : State) (p : FwPackage) (ev : Nat) (except_ : NodeId) : State :=
  (((s.mapFw (fun f => { f with store := some p })).systemWrite 2 p.len).raise ev).offerPackage p except_

/-- DEDUCED, log entry 111. -/
def execSdCardInsert (p : Option FwPackage) (s : State) : Out :=
  .next (if s.bootWaits ∧ s.bootable then (if s.sys.bootSel ≤ 1 then s.offerImage p 2 else s)
    else if !s.cdUp then s
    else match p with
      | none => s
      | some q => if s.fwValid q ∧ q.len ≤ maxPackage then s.storePackage q Ev.fwPackageFound 0 else s)

/-- Bytes that one request names. -/
def chunkMax : Nat := 8160

def execFwOfferReceive (f : Frame) (o : FwOffer) (s : State) : Out :=
  .next (s.receive f .mgmt (fun s =>
    let w := s.fw
    if bit (s.regN Reg.FW_CTRL) 1 ∧ (w.slot w.active).version < o.version ∧ (w.store.map (·.version)).getD 0 < o.version ∧ w.fetch.isNone ∧ !w.refused.contains o.digest then
      (s.mapFw (fun g => { g with fetch := some (f.src, o, 0) })).sendMgmt f.src (.fwFetch 0 (min chunkMax o.len))
    else s))

def execFwFetchRequestReceive (f : Frame) (off len : Nat) (s : State) : Out :=
  .next (s.receive f .mgmt (fun s =>
    match s.fw.store with
    | none => s
    | some p => if p.len ≤ off then s
      else
        let n := min (min len chunkMax) (p.len - off)
        s.send f.src .mgmt 4 n (.fwChunk p.manifestDigest off n)))

/-- The assembled package is stored or refused. -/
def State.fetchEnds (s : State) (src : NodeId) (o : FwOffer) (p : Option FwPackage) : State :=
  let s := s.mapFw (fun g => { g with fetch := none })
  let refuse : State := (s.mapFw (fun g => { g with refused := o.digest :: g.refused })).raise Ev.fwPackageRefused src
  match p with
  | none => refuse
  | some q => if s.fwValid q ∧ q.len ≤ maxPackage then s.storePackage q Ev.fwPackageReceived src else refuse

def execFwChunkReceive (f : Frame) (off : Nat) (data : Bytes) (assembled : Option FwPackage) (s : State) : Out :=
  .next (s.receive f .mgmt (fun s =>
    match s.fw.fetch with
    | none => s
    | some (src, o, got) =>
      if src ≠ f.src ∨ off ≠ got then s
      else
        let n := got + data.length
        if n < o.len then (s.mapFw (fun g => { g with fetch := some (src, o, n) })).sendMgmt src (.fwFetch n (min chunkMax (o.len - n)))
        else s.fetchEnds src o assembled))

/-! ## Staging and arming (R157, R512 to R515) -/

/-- The completion of `FW_STAGE` and `FW_ARM` shows in FW_STATUS.last_code. -/
def State.fwDone (s : State) (code : Code) : State := s.mapFw (fun f => { f with lastCode := codeN code })

def IRes.fwFail (s : State) (code : Code) (obs : Nat := 0) : IRes := .failAs (s.fwDone code) code obs

/-- What `FW_STAGE` needs (R157, R512). -/
def State.preStage (s : State) (w : IWord) : Pre :=
  if w.opc.toNat % 4096 ≠ 0 then badOp
  else if s.fw.armed.isSome then some (.illegalInState, 0)
  else if s.fls.state ≠ .ready then illegal 8 (fCode s.fls.state) else none

/-- A part of the inactive slot fails to read back: the slot stays empty. DEDUCED, log entry 113. -/
def State.bodyStage (s : State) (c : Nat) (w : IWord) (p : FwPackage) (readBackOk : Bool) : IRes :=
  let pkg := if w.opc = 0 then s.fw.store else some p
  match s.preStage w with
  | some (code, obs) => .fwFail s code obs
  | none => match pkg with
    | none => .fwFail s .checkFail
    | some q =>
      if maxPackage < q.len then .fwFail s .noSpace
      else
        let emptied := (s.mapFw (fun f => f.setSlot (1 - f.active) { state := 0, pkg := none })).systemWrite 3 (2 ^ 20)
        if !s.fwValid q then .fwFail emptied .checkFail
        else
          let written := emptied.systemWrite (1 - s.fw.active) q.len
          if !readBackOk then .fwFail written .checkFail
          else .ok ((((written.mapFw (fun f => f.setSlot (1 - f.active) { state := 1, pkg := some q })).systemWrite 3 (2 ^ 20)).fwDone .ok).publish (.instr c) 6 6 6)

def execFwStage (c : Nat) (w : IWord) (p : FwPackage) (readBackOk : Bool) (s : State) : Out :=
  .next (s.runInstr c 0x8B w (.fwStage c w p readBackOk) (shapeOk 0x8B w) false false (fun _ => s.bodyStage c w p readBackOk))

/-- DEDUCED, log entry 113. -/
def State.bodyArm (s : State) (w : IWord) (verifyOk : Bool) : IRes :=
  let a := w.opc.toNat
  if w.flag 8 then
    if s.fw.armed.isNone then .fwFail s .illegalInState
    else .ok ((s.mapFw (fun f => { f with armed := none, loaded := none })).fwDone .ok)
  else if s.fw.spare.state ≠ 1 ∨ s.fw.armed.isSome ∨ a < s.now + 1024 ∨ a ≤ s.promisedMax then .fwFail s .illegalInState
  else if !verifyOk then .fwFail s .checkFail
  else .ok ((s.mapFw (fun f => { f with armed := some a, loaded := f.spare.pkg })).fwDone .ok)

def execFwArm (c : Nat) (w : IWord) (verifyOk : Bool) (s : State) : Out :=
  .next (s.runInstr c 0x8C w (.fwArm c w verifyOk) (shapeOk 0x8C w) false false (fun _ => s.bodyArm w verifyOk))

/-! ## Activation (R158, R516 to R519) -/

/-- An instruction of the context has started and not ended. DEDUCED, log entry 114. -/
def Ctx.atWork (x : Ctx) : Bool :=
  (match x.wait with | .none => false | .power _ _ => false | .room _ _ => false | .lamp _ _ _ => true | .op => true | .drain _ => true) || x.posted.any (fun p => p.done.isNone)

/-- Everything that had started has ended. -/
def State.stillness (s : State) : Bool :=
  s.io.ctxs.all (fun e => !e.2.atWork) && s.eng.meadows.all (fun e => e.2.steps.all (fun t => !t.started))

/-- The boundary of beat A: nothing new starts. -/
def State.startPause (s : State) : State :=
  match s.fw.armed with
  | none => s
  | some a => if s.sys.paused ∨ s.now < a then s
    else s.mapSys (fun y => { y with paused := true, resumeAt := a + bits (s.regN Reg.FW_ACT_BEATS) 15 0 })

/-- The switch to the armed parts: a boot for the measurements, on trial. -/
def State.switchFw (s : State) (p : FwPackage) : State :=
  let j := 1 - s.fw.active
  let s := s.mapFw (fun f => ({ f with kept := f.active, active := j, trial := true, running := some p, source := j }).setSlot j { state := 2, pkg := some p })
  ((((s.systemWrite 3 (2 ^ 20)).mapSys (fun y => { y with meas := s.measure p j })).applyPatches p).applySettings p.settings).raise Ev.fwActivated

def execFwActivation (ok : Bool) (s : State) : Out :=
  .next (if !s.cdUp ∨ !s.sys.paused ∨ !s.stillness then s
    else match s.fw.armed with
      | none => s
      | some _ =>
        let s1 := match ok, s.fw.loaded with
          | true, some p => s.switchFw p
          | _, _ => s.raise Ev.fwActivateFailed
        (s1.mapFw (fun f => { f with armed := none, loaded := none })).mapSys (fun y => { y with actEnd := s.now }))

/-- At A + FW_ACT_BEATS, or at the first boundary after an activation that ended later. -/
def execFwActResume (s : State) : Out :=
  .next (
    let y := s.sys
    if !y.paused ∨ s.fw.armed.isSome ∨ s.now < y.resumeAt ∨ s.now ≤ y.actEnd then s
    else
      let s := s.mapSys (fun y => { y with paused := false })
      if y.resumeAt ≤ y.actEnd then s.raise Ev.fwActLate else s)

/-! ## FW_CMD (R521, R522) -/

/-- The trial ends; the anti-rollback fuses are burned up to the active version; of the settings records only the one
that the active firmware reads is kept. DEDUCED, log entry 112. -/
def execFwCmdCommit (s : State) : Out :=
  .next (((s.mapFw (fun f =>
    let level := ((f.slot f.active).pkg.map (·.security)).getD 0
    let recs := match f.settings.find? (fun e => e.1 == f.applied) with | some e => [e] | none => f.settings.take 1
    { f with trial := false, kept := f.active, floor := max f.floor level, settings := recs })).systemWrite 3 (2 ^ 20)).systemWrite 4 (2 ^ 20))

def execFwCmdRestage (p : FwPackage) (s : State) : Out :=
  .next (
    if s.fw.spare.state ≠ 0 ∧ p.partsOk ∧ s.fw.floor ≤ p.security then
      (s.mapFw (fun f => f.setSlot (1 - f.active) { state := 1, pkg := some p })).systemWrite 3 (2 ^ 20)
    else s.configReject Reg.FW_CMD 0x80000001)

def execFwCmdSave (s : State) : Out :=
  .next (match s.fw.running with
    | none => s
    | some p =>
      let vals := (persistentRegs p.settings).map (fun o => (o, s.reg o))
      (s.mapFw (fun f => { f with settings := (p.settings, vals) :: f.settings.filter (fun e => e.1 != p.settings), applied := p.settings })).systemWrite 4 (2 ^ 20))

/-! ## `ATTEST` (R506, Table 19.7) -/

def attestLen : Nat := 17472

/-- Bytes 0 to 383 of the report. -/
def State.reportHead (s : State) (nonce : Bytes) : Bytes :=
  packLE [(4, 0x54535441), (2, 1), (2, 9), (8, s.me.toNat), (8, s.now), (8, 0)] ++ nonce ++ digestBytes s.myDigest ++ s.sys.meas.flatMap digestBytes

def State.bodyAttest (s : State) (c : Nat) (d : Bytes) (fail : Bool) : IRes :=
  if le d 40 4 < attestLen ∨ !zeroAt d 44 20 then .fail .badOperand 0
  else if fail then .fail .checkFail 0
  else
    let head := s.reportHead (d.take 32)
    let sig := ((Config.sign head).take 17088)
    s.writeOut (le d 32 8) (head ++ sig) (fun s => s.setOut (.instr c) (fun x => { x with outLen := attestLen }))

def execAttest (c : Nat) (w : IWord) (d : Bytes) (fail : Bool) (s : State) : Out :=
  .next (s.coherent c 0x8E w (shapeOk 0x8E w) [] (s.hdmSpan (le d 32 8) attestLen) (fun s =>
    s.runInstr c 0x8E w (.attest c w d fail) (shapeOk 0x8E w) false false (fun _ => s.bodyAttest c d fail)))

end Sys2Proof.Machine
end

