-- ==== Sys2Proof/Machine/Background.lean ====
section
/-! DEFINITION. Background windows and calibrations, telemetry snapshots and the PLDM endpoint (R525 to R527, R531,
R532). -/

namespace Sys2Proof.Machine

/-! ## Windows and calibrations -/

/-- The largest share used of any counted resource, in 1/1,024. -/
def State.bgPeak (s : State) : Nat :=
  s.sys.bg.used.foldl (fun m e => max m (min 1023 (if s.capacity e.1 = 0 then 0 else e.2 * 1024 / s.capacity e.1))) 0

/-- A window begins where BEAT_NOW mod 1,024 = 0: the use counts from 0, and an unused share is not lent on (R525); settings written since come into force; passes past their period show. -/
def execBgWindowStart (s : State) : Out :=
  .next (
    if !s.cdUp ∨ s.now % 1024 ≠ 0 ∨ s.sys.bg.windowAt = some s.now then s
    else
      let s := s.setRegN Reg.BG_PEAK s.bgPeak
      let s := s.mapBg (fun b => { b with used := [], windowAt := some s.now, share := bits (s.regN Reg.BG_SHARE) 9 0, calMs := bits (s.regN Reg.CAL_PERIOD) 15 0, days := bits (s.regN Reg.FLASH_PATROL_DAYS) 7 0 })
      let b := s.sys.bg
      let s := s.passLate 1 b.recalStart b.calNs
      let s := s.passLate 2 b.taperStart b.calNs
      let s := s.passLate 5 b.scrubStart s.scrubNs
      if s.fls.map.isEmpty then s else s.passLate 6 b.patrolStart b.patrolNs)

/-- One channel for 2 µs; the last of the 24 ends the pass. -/
def execGddrRecalibration (channel : Nat) (s : State) : Out :=
  .next (
    let b := s.sys.bg
    if !s.cdUp ∨ 24 ≤ channel ∨ b.recalDone.contains channel ∨ !s.bgRoom channel 288000 then s
    else
      let s := (s.bgUse channel 288000).mapBg (fun b => { b with recalDone := channel :: b.recalDone })
      if s.sys.bg.recalDone.length < 24 then s
      else (s.passEnds 1 b.recalStart b.calNs).mapBg (fun b => { b with recalDone := [], recalStart := max s.clk.time (b.recalStart + b.calNs) }))

/-- The tiles of a taper pair, each for one beat. DESIGN CHOICE, log entry 130. -/
def State.taperNeed (s : State) (pair : Nat) : List (Nat × Nat) := [(resTile (2 * pair), s.clk.len), (resTile (2 * pair + 1), s.clk.len)]

/-- One of the 64 taper pairs, in its tiles' slack and within their share. DESIGN CHOICE, log entry 130. -/
def execTaperCalibration (pair : Nat) (s : State) : Out :=
  .next (
    let b := s.sys.bg
    if !s.cdUp ∨ 64 ≤ pair ∨ b.taperDone.contains pair ∨ !s.tileFree (2 * pair) ∨ !s.tileFree (2 * pair + 1) ∨ !s.bgRooms (s.taperNeed pair) then s
    else
      let s := (s.bgUses (s.taperNeed pair)).mapBg (fun b => { b with taperDone := pair :: b.taperDone })
      if s.sys.bg.taperDone.length < 64 then s
      else (s.passEnds 2 b.taperStart b.calNs).mapBg (fun b => { b with taperDone := [], taperStart := max s.clk.time (b.taperStart + b.calNs) }))

/-! ## Telemetry (Table 21.5) -/

/-- The running counts whose differences a snapshot carries: per meadow, per service class, per channel, and the rest. -/
def State.telemCounts (s : State) : List Nat :=
  (List.range 8).flatMap (fun m => let x := s.mdw m; [s.regN (Reg.STEP_SEQ m), x.overruns, x.stalls, x.shadowRuns]) ++
  (List.range 64).flatMap (fun c => [Tbl.get (fun _ => 0) s.lore.scTile c, Tbl.get (fun _ => 0) s.lore.scLink c]) ++
  (List.range 24).flatMap (fun i => [s.regN (Reg.GDDR_CE i), s.regN (Reg.GDDR_UE i)]) ++
  [s.regN Reg.ADMIT_REFUSALS, s.regN Reg.BREACH_COUNT, s.regN Reg.EVENT_COUNT]

/-- A 16-bit field of a count. DEDUCED, log entry 131. -/
def short (n : Nat) : Nat := min n 65535

/-- Per meadow, from its four differences. -/
def State.meadowTelem (s : State) (m : Nat) (d : List Nat) : Bytes :=
  let x := s.mdw m
  packLE [(4, d.getD 0 0), (2, (BitVec.ofInt 16 (x.slackMin.getD 0)).toNat), (2, (BitVec.ofInt 16 x.slackMax).toNat),
    (2, short (d.getD 1 0)), (2, short (d.getD 2 0)), (2, short (d.getD 3 0)), (2, 0)]

/-- Bytes 0 to 4,091. -/
def State.snapBody (s : State) : Bytes :=
  let counts := s.telemCounts
  let base := s.sys.telem.base
  let d := counts.zipIdx.map (fun e => e.1 - base.getD e.2 0)
  let t := s.regN Reg.DEV_TEMP
  packLE [(4, 0x4D4C4554), (2, 1), (2, 0), (8, s.sys.telem.seq + 1), (8, s.now), (4, bits (s.regN Reg.TELEM_CTRL) 23 0), (4, s.regN Reg.TELEM_DROPPED)] ++
  packLE [(2, s.regN Reg.DEV_POWER), (1, bits t 31 24), (1, timingCode s.clk.timing), (1, beaconCode s.clk.beacon), (1, fCode s.fls.state), (26, 0)] ++
  (List.range 8).flatMap (fun m => s.meadowTelem m (d.drop (4 * m))) ++
  (List.range 44).flatMap (fun i => leBytes 1 (s.regN (Reg.DEV_SENSOR i))) ++ packLE [(1, bits t 7 0), (1, bits t 15 8), (18, 0)] ++
  (List.range 256).flatMap (fun k => let q := Tbl.get (fun _ => ({} : QSample)) s.fab.samples k; packLE [(4, q.tDepth), (4, q.tDelay)]) ++
  (List.range 128).flatMap (fun k => leBytes 8 (d.getD (32 + k) 0)) ++
  (List.range 48).flatMap (fun k => leBytes 4 (d.getD (160 + k) 0)) ++
  packLE [(4, d.getD 208 0), (4, d.getD 209 0), (4, d.getD 210 0), (4, s.regN Reg.BG_STATUS), (16, 0)] ++ List.replicate 540 0

/-- The sampler starts its next period. DEDUCED, log entry 131. -/
def State.sampled (s : State) : State :=
  let s := s.mapFab (fun f => { f with samples := (f.samples.mapVals (fun _ q => { q with tDepth := 0, tDelay := 0 })).filter (fun e => decide (e.2 ≠ {})) })
  let s := s.mapEng (fun e => { e with meadows := e.meadows.mapVals (fun _ x => { x with slackMin := none, slackMax := 0 }) })
  s.mapSys (fun y => { y with telem := { y.telem with seq := y.telem.seq + 1, beat := s.now, base := s.telemCounts } })

/-- A snapshot at a boundary where BEAT_NOW mod period = 0: written while the ring has room, else counted. -/
def execTelemetrySnapshot (s : State) : Out :=
  .next (
    let ctrl := s.regN Reg.TELEM_CTRL
    if !s.cdUp ∨ !bit ctrl 31 ∨ s.now % bits ctrl 23 0 ≠ 0 ∨ s.sys.telem.tried = s.now ∨ s.sys.blocks.any (fun b => b.1 == 10) then s
    else
      let s := s.mapSys (fun y => { y with telem := { y.telem with tried := s.now } })
      let base := s.regN Reg.TELEM_RING_BASE
      let size := 2 ^ bits (s.regN Reg.TELEM_RING_SIZE) 3 0
      let pi := s.regN Reg.TELEM_RING_PI
      let used := (pi + 4096 - s.regN Reg.TELEM_RING_CI % 4096) % 4096
      if base = 0 ∨ min size 4095 ≤ used ∨ !s.bgRoom resCxl 4096 then s.bump Reg.TELEM_DROPPED
      else
        let b := s.snapBody
        let s := (s.emit (.hostWrite (base + 4096 * (pi % size)) (b ++ leBytes 4 (crc32c b)))).setRegN Reg.TELEM_RING_PI ((pi + 1) % 4096)
        (s.bgUse resCxl 4096).sampled)

/-! ## PLDM (R532, Table 21.6) -/

/-- What a sensor of the repository shows. DEDUCED, log entry 132. -/
def State.pldmSensor (s : State) (id : Nat) : Nat :=
  let t := s.regN Reg.DEV_TEMP
  if 1 ≤ id ∧ id ≤ 44 then s.regN (Reg.DEV_SENSOR (id - 1))
  else match id with
    | 45 => bits t 7 0
    | 46 => bits t 15 8
    | 47 => s.regValue Reg.DEV_INPUT / 65536
    | 48 => s.regValue Reg.DEV_INPUT % 65536
    | 49 => s.regN Reg.DEV_POWER
    | 50 => timingCode s.clk.timing
    | 51 => fCode s.fls.state
    | 52 => if s.sys.coreOff then 2 else b2n s.sys.ready
    | _ => 0

/-- Types 0 and 2 are answered while the supply is up; the answer's form is the standards'. DEDUCED, log entry 132. -/
def execPldmRequest (type cmd arg : Nat) (s : State) : Out :=
  .next (if !s.sys.powered ∨ (type ≠ 0 ∧ type ≠ 2) then s
    else s.emit (.pldm (Config.standardReply (256 + type) cmd (leBytes 4 arg ++ leBytes 4 (if type = 2 then s.pldmSensor arg else 0)))))

end Sys2Proof.Machine
end

