-- ==== Sys2Proof/Machine/Control.lean ====
section
/-! DEFINITION. The Control and Lamp instructions of service programs (R133 to R135). -/

namespace Sys2Proof.Machine

def execNop (c : Nat) (w : IWord) (s : State) : Out :=
  .next (s.runInstr c 0x00 w (.nop c w) (shapeOk 0x00 w) false false (fun _ => .ok s))

def execHalt (c : Nat) (w : IWord) (s : State) : Out :=
  .next (s.runInstr c 0x01 w (.halt c w) (shapeOk 0x01 w) false false (fun _ => .halt s))

def execJump (c : Nat) (w : IWord) (s : State) : Out :=
  .next (s.runInstr c 0x02 w (.jump c w) (shapeOk 0x02 w) false false
    (fun _ => .jump s w.opb.toNat))

/-- The test of `BRANCH`: 0b11 is reserved. -/
def branchTest (t count value : Nat) : Option Bool :=
  match t with
  | 0 => some (decide (value ≤ count))
  | 1 => some (decide (count < value))
  | 2 => some (decide (count = value))
  | _ => none

/-- R92 ends a program that jumps outside itself. A `BRANCH` whose test fails does not jump, and its target is not checked. DESIGN CHOICE,
log entry 161. -/
def execBranch (c : Nat) (w : IWord) (s : State) : Out :=
  .next (s.runInstr c 0x03 w (.branch c w) (shapeOk 0x03 w) false false (fun _ =>
    match branchTest w.flags.toNat (lampCount (s.lamp w.opa.toNat)) w.opc.toNat with
    | none => .fail .badOperand 0
    | some true => .jump s w.opb.toNat
    | some false => .ok s))

/-- DEDUCED, log entry 10. -/
def execCall (c : Nat) (w : IWord) (s : State) : Out :=
  .next (s.runInstr c 0x04 w (.call c w) (shapeOk 0x04 w) false false (fun x =>
    if x.entry.prog.length ≤ w.opb.toNat then .fail .badOperand 0
    else if 8 ≤ x.stack.length then .fail .illegalInState 0
    else .jump (s.setCtx c { x with stack := (x.pc + 1) :: x.stack }) w.opb.toNat))

/-- `RET` goes to the index on top of the stack; the index after a `CALL` in the last place of the
program is its end. With an empty stack it acts as `HALT`. -/
def execRet (c : Nat) (w : IWord) (s : State) : Out :=
  .next (s.runInstr c 0x05 w (.ret c w) (shapeOk 0x05 w) false false (fun x =>
    match x.stack with
    | [] => .halt s
    | t :: ts =>
      let s' := s.setCtx c { x with stack := ts }
      if t < x.entry.prog.length then .jump s' t else .halt s'))

/-- `FENCE` waits for every posted instruction, then R129 applies. -/
def execFence (c : Nat) (w : IWord) (s : State) : Out :=
  .next (s.runInstr c 0x06 w (.fence c w) (shapeOk 0x06 w) false false (fun x =>
    if x.outstanding ≠ 0 then .wait (s.setCtx c { x with phase := .fencing }) .none
    else match x.failedPost with
      | some (i, code, obs) => .failAt s code i obs
      | none => .ok (s.setCtx c { x with posted := [] })))

/-- The basis points of a record (Table 4.11); an operation without work leaves them open. -/
def basisPoints (position total freeBp : Nat) : Nat :=
  if total = 0 then freeBp % 10000 else min (10000 * position / total) 9999

def execProgressSet (c : Nat) (w : IWord) (s : State) : Out :=
  .next (s.runInstr c 0x07 w (.progressSet c w) (shapeOk 0x07 w) false false (fun x =>
    if w.flag 8 ∧ (w.opa.toNat = 0 ∨ 6 < w.opa.toNat) then .fail .badOperand 0
    else if !s.ownsProgress x then .ok s
    else
      let p := s.progress x.entry.progress
      if w.flag 8 then
        if p.state = 1 then .fail .badOperand 0
        else .ok (s.setProgress x.entry.progress
          { p with state := 1, unit := w.opa.toNat, total := w.opc.toNat, position := 0, bp := 0, update := s.now, next := none })
      else if w.opc.toNat < p.latest then .fail .badOperand 0
      else
        let (f, s) := if p.total = 0 then s.free else (0, s)
        let bp := basisPoints w.opc.toNat p.total f
        let s := s.moveProgressTo x.entry.progress w.opc.toNat bp
        .ok (match s.ctx c with | none => s | some y => s.setCtx c { y with progressBp := bp })))

/-! ## Lamps -/

/-- R114: an instruction of another meadow may not change an owned lamp. -/
def lampOpen (v : Word) (meadow : Nat) : Bool :=
  !v.getLsbD 60 || (v.toNat / 2 ^ 48 % 8 == meadow)

/-- The shared shape of the three lamp updates. -/
def State.lampUpdate (s : State) (c op : Nat) (w : IWord) (cmd : Instr) (f : State → State) : State :=
  s.runInstr c op w cmd (shapeOk op w) false false (fun x =>
    if lampOpen (s.lamp w.opa.toNat) x.entry.meadow then .ok (f s) else .fail .accessViolation 0)

def execLampLight (c : Nat) (w : IWord) (s : State) : Out :=
  .next (s.lampUpdate c 0x10 w (.lampLight c w) (fun s => s.lightLamp w.opa.toNat w.opc.toNat))

def execLampDim (c : Nat) (w : IWord) (s : State) : Out :=
  .next (s.lampUpdate c 0x11 w (.lampDim c w) (fun s => s.dimLamp w.opa.toNat w.opc.toNat))

def execLampSet (c : Nat) (w : IWord) (s : State) : Out :=
  .next (s.lampUpdate c 0x12 w (.lampSet c w)
    (fun s => s.setLamp w.opa.toNat (lampWith (s.lamp w.opa.toNat) w.opc.toNat)))

/-- `LAMP_WAIT` waits; the once-per-beat test of R135 completes it. -/
def execLampWait (c : Nat) (w : IWord) (s : State) : Out :=
  .next (s.runInstr c 0x13 w (.lampWait c w) (shapeOk 0x13 w) false false (fun _ =>
    .wait s (.lamp w.opa.toNat w.opc.toNat
      (if w.opb = 0 then none else some (s.now + w.opb.toNat)))))

def execLampWaitMet (c : Nat) (s : State) : Out :=
  .next (match s.ctx c with
    | none => s
    | some x => match x.wait with
      | .lamp j t _ => if t ≤ lampCount (s.lamp j) then s.advance c else s
      | _ => s)

/-- The timeout of a wait passes: `OVERDUE`, and no effect. DESIGN CHOICE, log entry 5. -/
def execLampWaitTimeout (c : Nat) (s : State) : Out :=
  .next (match s.ctx c with
    | none => s
    | some x => match x.wait with
      | .lamp j t (some till) =>
        if till ≤ s.now ∧ lampCount (s.lamp j) < t then s.failInstr c .overdue else s
      | _ => s)

/-! ## The lamp window of the host (R115, R116) -/

/-- A lamp view accepts aligned 8-byte writes to lamps 0 to 16,383; any other is discarded with a
configuration event. -/
def State.lampWrite (s : State) (view lamp size : Nat) (v : Word) (f : State → State) : State :=
  if !s.cdUp then s else if size = 8 ∧ lamp < 16384 then f s else s.configReject (view + 8 * lamp) v.toNat

def execLampPlainWrite (lamp size : Nat) (v : Word) (s : State) : Out :=
  .next (s.lampWrite 0x100000 lamp size v (fun s => s.setLamp lamp (v &&& lampMask)))

def execLampSetAliasWrite (lamp size : Nat) (v : Word) (s : State) : Out :=
  .next (s.lampWrite 0x140000 lamp size v (fun s => s.setLamp lamp (s.lamp lamp ||| (v &&& lampMask))))

def execLampClearAliasWrite (lamp size : Nat) (v : Word) (s : State) : Out :=
  .next (s.lampWrite 0x180000 lamp size v (fun s => s.setLamp lamp (s.lamp lamp &&& ~~~v)))

/-- The add alias adds v[47:0] read as two's complement. -/
def execLampAddAliasWrite (lamp size : Nat) (v : Word) (s : State) : Out :=
  .next (s.lampWrite 0x1C0000 lamp size v (fun s =>
    let n := v.toNat % 2 ^ 48
    if n < 2 ^ 47 then s.lightLamp lamp n else s.dimLamp lamp (2 ^ 48 - n)))

end Sys2Proof.Machine
end

