-- ==== Sys2Proof/Machine/HostRegs.lean ====
section
/-! DEFINITION. A host write to BAR0: size and alignment, blocks that do not answer, held halves, and the register or
view it reaches (R115, R446, R534, R535, R537, R539, R540). -/

namespace Sys2Proof.Machine

/-! ## Write-only command registers -/

/-- A command register with its go bit: the command it gives, where the write alone says it; one whose command reads a
descriptor, a map or a package does its work in that command. DEDUCED, log entry 126. -/
def State.commandWrite (s : State) (off v : Nat) : State :=
  let w := BitVec.ofNat 32 v
  let go (o : Out) : State := stateAfter s o
  if off = Reg.FLASH_TIME_SET then go (execFlashTimeSet (BitVec.ofNat 64 v) s)
  else if off = Reg.RST_ARM then go (execRstArm w s)
  else if off = Reg.RST_CMD then go (execRstCmd w s)
  else if !bit v 31 then s
  else if off = Reg.MOVE_KILL then s.mapLore (fun l => { l with moveKill := some (bits v 23 16, bits v 15 0) })
  else if off = Reg.TILE_CLEAR then go (execTileClear (bits v 6 0) s)
  else if off = Reg.MODEL_CMD ∧ bit v 30 then go (execModelCmdRemove (bits v 5 0) s)
  else if off = Reg.OBJ_CMD ∧ bits v 30 29 = 1 then go (execObjCmdRemove (bits v 17 0) s)
  else if off = Reg.OBJ_CMD ∧ 1 < bits v 30 29 then s.configReject off v
  else if off = Reg.FLASH_CMD then
    (match bits v 1 0 with | 0 => go (execFlashCmdCheckpoint s) | 1 => go (execFlashCmdFormat s) | _ => s.configReject off v)
  else if off = Reg.PARTNER_CMD then
    (match bits v 30 29 with
      | 0 => go (execPartnerCmdJoin s) | 1 => go (execPartnerCmdApprove (bits v 11 0) s)
      | 2 => go (execPartnerCmdRefuse (bits v 11 0) s) | _ => go (execPartnerCmdEvict (bits v 11 0) s))
  else if off = Reg.KEY_CMD then
    (match bits v 1 0 with | 0 => go (execKeyCmdLoad s) | 1 => go (execKeyCmdActivate s) | 2 => go (execKeyCmdDisable s) | _ => s.configReject off v)
  else if off = Reg.FIELD_CTRL then
    (match bits v 30 28 with | 0 => go (execFieldCtrlRelease (bits v 2 0) s) | 1 => go (execFieldCtrlPrep (bits v 2 0) s) | _ => s.configReject off v)
  else if off = Reg.FW_CMD then
    (match bits v 1 0 with | 0 => go (execFwCmdCommit s) | 1 => s | 2 => go (execFwCmdSave s) | _ => s.configReject off v)
  else s

/-! ## The views beside the registers -/

/-- A lamp view (Table 4.10). -/
def State.lampView (s : State) (off size : Nat) (v : Word) : State :=
  let rel := off % 0x40000
  let lamp := rel / 8
  let size := if rel % 8 = 0 then size else 0
  let go (o : Out) : State := stateAfter s o
  if 0x20000 ≤ rel then s
  else match (off - 0x100000) / 0x40000 with
    | 0 => go (execLampPlainWrite lamp size v s)
    | 1 => go (execLampSetAliasWrite lamp size v s)
    | 2 => go (execLampClearAliasWrite lamp size v s)
    | _ => go (execLampAddAliasWrite lamp size v s)

/-- Word `k` of the MSI-X table. -/
def State.vectorWrite (s : State) (k v : Nat) : State :=
  if k % 4 = 3 ∧ bit (s.vector k) 0 ∧ !bit v 0 then (s.setVector k (v + 1)).unmask (k / 4) else s.setVector k v

/-- A 4- or 8-byte write to the MSI-X table. -/
def State.msixWrite (s : State) (off size : Nat) (v : Word) : State :=
  let k := (off - 0x300000) / 4
  if size = 4 ∧ off % 4 = 0 then s.vectorWrite k (v.toNat % 2 ^ 32)
  else if size = 8 ∧ off % 8 = 0 then (s.vectorWrite k (v.toNat % 2 ^ 32)).vectorWrite (k + 1) (v.toNat / 2 ^ 32)
  else s

/-! ## One register (R535, R537) -/

/-- The whole value of a register is written. -/
def State.wholeWrite (s : State) (r : RegSpec) (off v : Nat) : State :=
  match r.acc with
  | .ro => s
  | .rw => s.writeAny off v
  | .wo => (s.storeKey off v).getD (s.commandWrite off v)

def State.setHalf (s : State) (off : Nat) (h : Option Nat) : State :=
  s.mapSys (fun y => { y with halves := match h with | none => Tbl.drop y.halves off | some v => Tbl.put (Tbl.drop y.halves off) off v })

/-- Half of a 64-bit register: the low half is held for the high one. DEDUCED, log entry 127. -/
def State.halfWrite (s : State) (r : RegSpec) (off : Nat) (high : Bool) (v : Nat) : State :=
  match r.acc, high with
  | .ro, _ => s
  | _, false => s.setHalf off (some v)
  | .wo, true => (s.setHalf off none).wholeWrite r off (v * 2 ^ 32 + (s.sys.halves.find off).getD 0)
  | .rw, true => (s.setHalf off none).wholeWrite r off (v * 2 ^ 32 + (s.sys.halves.find off).getD (s.regN off % 2 ^ 32))

def State.registerWrite (s : State) (off size : Nat) (v : Word) : State :=
  match ownerOf (off / 4 * 4) with
  | none => s
  | some (r, o, high) =>
    if r.width = 32 then (if size = 4 ∧ off % 4 = 0 then s.wholeWrite r o (v.toNat % 2 ^ 32) else s.configReject off v.toNat)
    else if size = 8 ∧ off = o then (s.setHalf o none).wholeWrite r o v.toNat
    else if size = 4 ∧ off % 4 = 0 then s.halfWrite r o high (v.toNat % 2 ^ 32)
    else s.configReject off v.toNat

def execRegWrite (at_ size : Nat) (v : BitVec 64) (s : State) : Out :=
  .next (
    let off := unalias at_
    if cdBlock off ∧ !s.cdUp then s
    else if 0x100000 ≤ off ∧ off < 0x1E0000 then s.lampView off size v
    else if 0x300000 ≤ off ∧ off < 0x301000 then s.msixWrite off size v
    else s.registerWrite off size v)

end Sys2Proof.Machine
end

