-- ==== Sys2Proof/Machine/Boundary.lean ====
section
/-! DEFINITION. The beat boundary: the end of one beat's writes and the per-beat work of the next (Table 2.1), late
promises, the on-chip stores, repeated result records and posted completions (R29 to R36, R81, R86, R87, R94, R104,
R120, R127, R129, R396, R404, R446, R447, R492, R516, R543). -/

namespace Sys2Proof.Machine

/-! ## The order of work within a beat (R33, Table 2.1) -/

/-- Order 5, as far as no command does it: entries take contexts, and changed consumer indices are written. -/
def State.presentEntries (s : State) : State := s.present.tellCi

/-- The beat reaches order `k` of Table 2.1: what stands before it and has no command of its own is done. Order 8 is the end of the
beat. DEDUCED, log entry 162. -/
def State.atOrder (s : State) (k : Nat) : State :=
  let at_ := s.clk.order
  let reach (o : Nat) (f : State → State) (s : State) : State := if at_ < o ∧ o ≤ k then f s else s
  ((reach 7 State.voltage) ((reach 5 State.presentEntries) ((reach 3 State.leaveDerated) s))).mapClk (fun c => { c with order := max c.order k })

/-! ## The end of a beat's writes (R104, R120, R446, R447, R543) -/

/-- The write of a record succeeded: it counts, and its notify follows. -/
def State.recordDone (s : State) (r : ResultOut) : State :=
  let s := s.bump Reg.RESULT_WRITTEN 1 64
  if r.notify then s.signal (bits (s.regN (Reg.INTAKE_CTRL r.ring)) 23 16) else s

/-- The responses to the records written in the beat: one that failed is written again in the next. -/
def State.closeResults (s : State) (errors : List (Nat × Nat)) : State :=
  let rs := s.io.results
  rs.foldl (fun (s : State) r =>
    if !s.cxl.up ∨ errors.contains (r.ring, r.slot) then s.mapIo (fun io => { io with retries := io.retries ++ [r] })
    else s.recordDone r) (s.mapIo (fun io => { io with results := [] }))

/-- A vector is signalled when its source is enabled and its ring holds unread records. DEDUCED, log entry 135. -/
def State.signalUnread (s : State) (due : Bool) (ctrl pi ci : Nat) : State :=
  let v := s.regN ctrl
  if due ∧ bit v 31 ∧ s.regN pi ≠ s.regN ci then s.signal (bits v 7 0) else s

/-- DESIGN CHOICE, log entry 8. -/
def State.closeBeat (s : State) (errors : List (Nat × Nat)) : State :=
  let s := ((s.atOrder 8).reapAdapters.closeResults errors).flushEvents
  let s := s.signalUnread s.io.evWrote Reg.EVENT_CTRL Reg.EVENT_RING_PI Reg.EVENT_RING_CI
  let s := s.signalUnread s.io.brWrote Reg.BREACH_CTRL Reg.BREACH_RING_PI Reg.BREACH_RING_CI
  let ms := s.io.msix
  ms.foldl State.sendMsix (s.mapIo (fun io => { io with msix := [], evWrote := false, brWrote := false }))

/-! ## The boundary (order 1) -/

/-- The part of a correction that one boundary takes, at most 8 ns (R36). -/
def slewOf (correction : Int) : Int := max (-8) (min 8 correction)

/-- BEAT_NOW increments and BEAT_TIME latches; the beat is at orders 1 and 2. DESIGN CHOICE, log entry 8. -/
def State.tick (s : State) : State :=
  s.mapClk (fun c => { c with now := c.now + 1, order := 2, time := ((c.time : Int) + c.len + slewOf c.correction).toNat, correction := c.correction - slewOf c.correction })

/-- The master's beacon of the beat (R35). -/
def State.sendBeacon (s : State) : State :=
  if s.clk.beacon = .master then
    s.relay { beatNumber := s.clk.now, beatTime := s.clk.time, rootId := s.me, lenNs := s.clk.len, hops := 0, reservedZero := true, sendOffset := 0 }
  else s

/-- Records held from the enabling of a vector: one signal in the beat after it. DEDUCED, log entry 135. -/
def State.edgeSignals (s : State) : State :=
  let s := s.signalUnread s.io.evEdge Reg.EVENT_CTRL Reg.EVENT_RING_PI Reg.EVENT_RING_CI
  let s := s.signalUnread s.io.brEdge Reg.BREACH_CTRL Reg.BREACH_RING_PI Reg.BREACH_RING_CI
  s.mapIo (fun io => { io with evEdge := false, brEdge := false })

/-- Meadows without a running step are at a step boundary: a role change and quarantined tiles take effect. -/
def State.idleMeadows (s : State) : State :=
  (s.eng.meadows.filter (fun e => !e.2.steps.any (·.started))).foldl (fun (s : State) e => (s.applyRole e.1).leaveTiles e.1) s

/-- MOVE_KILL is sampled (R206). -/
def State.sampleKill (s : State) : State :=
  match s.lore.moveKill with
  | none => s
  | some (ring, slot) => stateAfter s (execMoveKill ring slot (s.mapLore (fun l => { l with moveKill := none })))

/-- The steps whose last tile stage completed in the beat that has ended (R48). -/
def State.stagesEnd (s : State) (done : List Nat) : State :=
  let mark (t : Step) : Step := if t.started ∧ t.used.isNone then { t with used := some (s.now - t.start) } else t
  s.mapEng (fun e => { e with meadows := e.meadows.mapVals (fun m x =>
    if done.contains m then { x with steps := (x.steps.take 1).map mark ++ x.steps.drop 1 } else x) })

/-- A job waits for a tile. -/
def State.tileWanted (s : State) (tile : Nat) : Bool :=
  s.sys.bg.jobs.any (fun j => j.need.any (fun e => e.1 == resTile tile && decide (e.2 ≠ 0)))

/-- A tile without background work is gated when 4 or more beats of slack are left; it is awake in the last beat before its step's
commit (R49: its example wakes the tiles in the 480th beat of a step of 480). DEDUCED, log entry 164. -/
def State.gates (s : State) (tile : Nat) : Bool :=
  let n := match s.headStep tile with | none => 0 | some t => t.slack s.now
  !s.tileWanted tile && (decide (4 ≤ n) || (s.eng.gated.contains tile && decide (2 ≤ n)))
def State.gateTiles (s : State) : State :=
  s.mapEng (fun e => { e with gated := (List.range 128).filter s.gates })

/-- A job may take a resource in this beat: a tile only while it is idle or in slack, and a march row only when it ends before the
next step boundary; of the march runs the first 8 (R48, R463, R466). -/
def State.mayServe (s : State) (j : BgJob) (k : Nat) : Bool :=
  let march := j.act == 8 && decide (j.id < prepJob)
  (!march || ((s.sys.marches.take 8).any (·.id == j.id))) &&
    (if resTile 0 ≤ k ∧ k < resTile 128 then
      match s.slackLeft (k - resTile 0) with
      | none => true
      | some n => decide ((if march then ceilDiv s.rowNs s.clk.len + 1 else 1) ≤ n)
     else true)

/-- Lines that reads of the beat corrected or found uncorrectable, channel by channel (R320), and codewords that FEC corrected or
could not, link by link. -/
def State.countLines (s : State) (i : BeatInput) : State :=
  let count (n : Nat) (reg : Nat → Nat) (l : List Nat) (s : State) : State := (l.filter (· < n)).foldl (fun (s : State) ch => s.bump (reg ch)) s
  count 32 Reg.LINK_FEC_UE i.fecLost (count 32 Reg.LINK_FEC_CE i.fecCorrected
    (count 24 Reg.GDDR_UE i.uncorrected (count 24 Reg.GDDR_CE i.corrected s)))

/-- The watchdog is fed in every beat in which the firmware runs (R492). -/
def State.feed (s : State) (stalled : Bool) : State := if stalled then s else s.mapSys (fun y => { y with fed := s.clk.now })

/-- A block in reset is back in service within 64 beats (R495). -/
def State.blocksBack (s : State) : State := s.mapSys (fun y => { y with blocks := y.blocks.filter (fun b => decide (s.clk.now < b.2 + 64)) })

/-- Moves publish what they have streamed (R118). -/
def State.moveProgress (s : State) : State :=
  s.lore.movesOut.foldl (fun (s : State) m => s.publish m.owner 1 (min m.sent m.rate) m.rate) s

/-- Everything of a beat that has no command of its own, in the order of Table 2.1. DESIGN CHOICE, log entry 8. -/
def State.openBeat (s : State) (i : BeatInput) : State :=
  let s := ((s.tick.feed i.stalled).blocksBack.countLines i).mapIo (fun io => { io with oldRegs := [] })
  let s := s.followBounds.sampleKill.endBusy.sendBeacon.startPause.edgeSignals
  let s := i.bar2Reads.foldl (fun (s : State) r => s.bar2Read r.1 r.2) ((s.upset i.upsets).warmDies i.dieTemps)
  let s := s.takeMap.takeGates.refill.sampleQueues
  let s := (s.idleMeadows.stagesEnd i.finished).dueShadow
  let s := s.gateTiles
  let s := (s.serveJobs s.mayServe).startVerifies.endScrubs.endFlashWrites
  let s := s.abandonCopies.queryIncoming.completeSeals.answerChanges
  let s := s.marchProgress.moveProgress.refreshProgress
  (s.startRings.intake i.polls).timing i.tapers

/-- No boundary passes while a reset holds CD or before boot has ended. -/
def execBeatBoundary (i : BeatInput) (s : State) : Out :=
  .next (if !s.cdUp then s else (s.closeBeat i.resultErrors).openBeat i)

/-! ## The idle-timer scan, and the voltage's step down (orders 6 and 7) -/

/-- An entry of this beat still stands before its admission (R20, R95). -/
def State.entriesWait (s : State) : Bool := !s.intakeHeld && !s.admitReset && s.io.ctxs.any (fun e => e.2.phase == .presented)

/-- The group of an entry admitted in this beat has an `LTN_RESUME` of the lantern still before it (R20). -/
def State.resumeWaits (s : State) (l : Nat) : Bool :=
  s.io.ctxs.any (fun e => e.2.phase == .running && e.2.admitBeat == s.now &&
    ((e.2.entry.prog.take e.2.group).drop e.2.pc).any (fun v => opcodeOf v == 0x1B && (wordOf v).opb.toNat == l))

/-- Order 6: the entries of the beat go first. -/
def execIdleTimerExpiry (l : Nat) (s : State) : Out :=
  .next (
    if !s.cdUp ∨ s.sys.blocks.any (fun b => b.1 == 4) then s
    else
      let s := s.atOrder 6
      if s.entriesWait ∨ s.resumeWaits l then s else s.idleScan l)

/-- One beat of automatic embering, at order 6: it begins below KV_EMBER_LOW when no trie leaf can go (R263, R273). -/
def execAutoEmber (s : State) : Out :=
  .next (if !s.cdUp ∨ s.sys.blocks.any (fun b => b.1 == 4) ∨ s.lore.emberBeat = some s.now then s
    else
      let s := (s.atOrder 6).mapLore (fun l => { l with emberBeat := some s.now })
      let n := bits (s.regN Reg.EMBER_PER_BEAT) 3 0
      if s.lore.embering then s.autoEmber n
      else if s.kvLow ∧ s.evictable.isNone then (s.mapLore (fun l => { l with embering := true })).autoEmber n
      else s)

def execVoltageLower (s : State) : Out := .next (if s.cdUp then (s.atOrder 7).lowerVoltage else s)

/-! ## Late promises (R81, R86) -/

/-- Work that may still commit stands under a promise: its entry is there, or a request in flight. DESIGN CHOICE, log entry 38. -/
def State.promiseHeld (s : State) (p : Promise) : Bool :=
  s.io.ctxs.any (fun e => e.2.entry.ring == p.ring && e.2.entry.slot == p.slot && e.2.entry.tag == p.tag) || s.inFlightUnder p.id != 0

/-- The beat after the promised beat: work not yet committed has its breach record. A promise whose program ended
without the work ends with it. -/
def execPromisedBeatExpiry (p : Nat) (s : State) : Out :=
  .next (match s.promise p with
    | none => s
    | some x =>
      if !s.cdUp ∨ !x.missed s.now then s
      else
        let s := s.writeBreach x (x.known s.now) (s.now - x.k)
        if s.promiseHeld x then s else s.dropPromise x.id)

/-! ## The on-chip stores (R87, R120) -/

def execBreachStoreDrain (s : State) : Out := .next (if s.cdUp then s.drainBreaches else s)
def execEventStoreDrain (s : State) : Out := .next (if s.cdUp then s.drainEvents else s)

/-! ## A result record written again (R543, Table 22.6) -/

def execResultRecordRetry (ring slot : Nat) (success : Bool) (s : State) : Out :=
  .next (match s.io.retries.find? (fun r => r.ring == ring && r.slot == slot) with
    | none => s
    | some r =>
      let s := (s.mapIo (fun io => { io with retries := io.retries.erase r })).emit (.hostWrite r.addr r.bytes)
      if success ∧ s.cxl.up then s.recordDone r
      else (s.bump Reg.RESULT_WRITE_ERRORS).setRegN Reg.RESULT_ERR_LAST (r.ring * 2 ^ 24 + r.status * 2 ^ 16 + r.slot))

/-! ## Posted instructions (R127, R129, Table 5.2) -/

/-- What a posted set or codec instruction does at its helper; the transfers complete by their own commands. -/
def State.postedBody (s : State) (c idx meadow : Nat) : Instr → Option IRes
  | .setUnion _ _ d => some (s.setUnionBody d)
  | .setIntersect _ _ d => some (s.setIntersectBody d)
  | .setDiff _ _ d => some (s.setDiffBody d)
  | .setHash _ _ d tokens bad => some (s.setHashBody (.posted c idx) d tokens bad)
  | .pack _ w d src fail => some (s.packBody c idx w d src fail)
  | .unpack _ w d src fail => some (s.unpackBody c idx meadow w d src fail)
  | _ => none

/-- The block of Table 19.3 that a posted set or codec instruction stands in. -/
def postedBlock : Instr → Nat
  | .setHash .. => 0xB
  | .pack .. => 8
  | .unpack .. => 7
  | _ => 5

/-- The helper's outcome: a failure that only its run shows (Table 5.15, R150), or the effect. -/
def execPostedInstructionComplete (c idx : Nat) (outcome : Option Code) (s : State) : Out :=
  .next (match s.ctx c with
    | none => s
    | some x => match x.posted.find? (fun p => p.index == idx && p.done.isNone) with
      | none => s
      | some p => match s.postedBody c idx x.entry.meadow p.cmd with
        | none => s
        | some r =>
          if s.sys.blocks.any (fun b => b.1 == postedBlock p.cmd) then s
          else match (match codecFault outcome with | some code => s.codecFails code | none => r) with
            | .ok s' => s'.postDone c idx .ok
            | .fail code obs => s.postDone c idx code obs
            | .failAs s' code obs => s'.postDone c idx code obs
            | _ => s)

end Sys2Proof.Machine
end

