-- ==== Sys2Proof/Machine/Admission.lean ====
section
/-! DEFINITION. The admission of intake entries at order 5: the group's operands, preconditions and one bound, checked
on a trial of its instructions; and work without a deadline that has waited (R53, R57 to R63, R93, R101, R105, R108,
R118, R119). -/

namespace Sys2Proof.Machine

/-- The admission group: the inline instructions, or those before the first of the Control class, at most 8. -/
def Entry.groupLen (e : Entry) : Nat :=
  if e.isInline then e.prog.length else min 8 (e.prog.takeWhile (fun v => decide (16 ≤ opcodeOf v))).length

/-- What the trial of a group has found so far. -/
structure Trial where
  s : State
  items : List Item
  fails : List (Nat × Code × Nat)
  resumed : List Nat

/-- The state of an outcome. -/
def Out.state (o : Out) (s : State) : State :=
  match o with
  | .next t => t
  | _ => s

/-- The codes by which an instruction's precondition fails; a check that needs the work itself is no part of it. DESIGN CHOICE, log entry 32. -/
def isPreCode (code : Code) : Bool :=
  [Code.badOperand, .illegalInState, .accessViolation, .accessRevoked, .staleWindow, .staleMap, .staleEpoch, .targetDead,
    .isolated, .orphaned, .notResident, .fieldChanged].contains code

/-! ## The state that the group's earlier instructions would leave (R108) -/

def State.afterResume (s : State) (l : Nat) (near : Bool) : State :=
  s.setLan l { s.lan l with state := .idle, prior := .closed, packed := false, nearState := near, parkTier := 0, parkedBytes := 0 }

/-- A committed move: the state is no longer here. -/
def State.afterMove (s : State) (w : IWord) : State :=
  match s.moveOperand w with
  | .error _ => s
  | .ok r =>
    let p := s.movePlan (w.flag 8) r
    match p.lantern with
    | some l => p.deeds.foldl (fun (s : State) e => s.setDeed e {}) (s.setLan l {})
    | none => match r with
      | .hosted _ => s.setDeed r {}
      | _ => s.setDeed r { s.deed r with state := .remote, home := w.opc, pages := [] }

def State.afterRekindle (s : State) (l first last : Nat) : State :=
  let x := s.lan l
  let s := s.setLan l { x with embers := x.embers.filter (fun e => decide (e.1 < first ∨ last < e.1)) }
  ((List.range (last + 1 - first)).map (· + first)).foldl (fun (s : State) i => s.setDeed (.own l i) { s.deed (.own l i) with state := .home, home := s.me }) s

/-- A step of the group is scheduled with it when it carries a deadline; without one it only names the program. -/
def State.afterStep (s : State) (m i : Nat) (h : Hdr) (promised : Bool) : State :=
  if promised then (s.scheduleStep m h .engine none i none).1 else s.setMdw m { s.mdw m with program := some h }

/-- An instruction whose operation goes on is taken as completed. -/
def State.afterOp (s : State) (op : Nat) (w : IWord) : State :=
  let m := w.opa.toNat
  match op with
  | 0x1A => (execParkCommit w.opb.toNat none s).state s
  | 0x71 => s.setWindow w.opb.toNat { s.window w.opb.toNat with state := 0, revokeCtx := none }
  | 0x80 => match (s.mdw m).pendingDef with
    | none => s
    | some (d, _) => s.defineNow m d
  | 0x81 => s.applyRole m
  | 0x82 => if (s.mdw m).state = .draining then s.setMdw m { s.mdw m with state := .drained, drainOwner := none } else s
  | _ => s

/-! ## The trial of one instruction -/

/-- Instructions whose outcome rests on data that the admission engine does not read, or that have no effect on the preconditions
behind them: what they are checked for at their start (R128), and the state that an instruction of the group behind them finds. DESIGN
CHOICE, log entry 32. -/
def State.tryPre (s : State) (op : Nat) (w : IWord) (d : Bytes) : Option (Pre × State) :=
  match op with
  | 0x2F => some (s.preHash d, s)
  | 0x30 => some (if !zeroAt d 18 14 then badOp else none, s)
  | 0x49 => some (if !mergeShape d then badOp else none, s)
  | 0x58 => some (s.preCodec true w d, s)
  | 0x59 => some (s.preCodec false w d, s)
  | 0x68 => some (if (s.objByBase w.opc.toNat).isNone then badOp else none, s)
  | 0x69 => some (if (s.objByBase w.opc.toNat).isNone then badOp
      else if (s.adapter w.opa.toNat).state ≠ 1 then some (.illegalInState, 0) else none, s)
  | 0x89 => some (none, s)
  | 0x8B => some (s.preStage w, s.mapFw (fun f => f.setSlot (1 - f.active) { state := 1, pkg := if w.opc = 0 then f.store else none }))
  | 0x8D => some (if w.opa.toNat % 256 < 3 ∨ 15 < w.opa.toNat % 256 then badOp else none, s)
  | 0x8E => some (if le d 40 4 < attestLen ∨ !zeroAt d 44 20 then badOp else none, s)
  | _ => none

/-- The effect of an instruction that starts no promised work; `none` where the trial checks its operands only, because
its outcome rests on data that the admission engine does not read. DESIGN CHOICE, log entry 32. -/
def State.tryExec (s : State) (c op : Nat) (w : IWord) (d : Bytes) : Option Out :=
  match op with
  | 0x02 => some (execJump c w s)
  | 0x03 => some (execBranch c w s)
  | 0x04 => some (execCall c w s)
  | 0x07 => some (execProgressSet c w s)
  | 0x10 => some (execLampLight c w s)
  | 0x11 => some (execLampDim c w s)
  | 0x12 => some (execLampSet c w s)
  | 0x18 => some (execLtnCreate c w d s)
  | 0x19 => some (execLtnClose c w s)
  | 0x1A => some (execLtnPark c w s)
  | 0x1C => some (execLtnQuery c w s)
  | 0x21 => some (execReqKill c w s)
  | 0x22 => some (execReqSetprio c w s)
  | 0x23 => some (execReqSetdeadline c w s)
  | 0x24 => some (execReqRelease c w s)
  | 0x28 => some (execPgAlloc c w s)
  | 0x29 => some (execPgFree c w s)
  | 0x2A => some (execPgShare c w d s)
  | 0x2B => some (execPgAppend c w d s)
  | 0x2C => some (execSetUnion c w d s)
  | 0x2D => some (execSetIntersect c w d s)
  | 0x2E => some (execSetDiff c w d s)
  | 0x39 => some (execDeedQuery c w s)
  | 0x3A => some (execDeedDecree c w d s)
  | 0x3B => some (execDeedRelease c w s)
  | 0x50 => some (execEmber c w s)
  | 0x61 => some (execTierPlace c w s)
  | 0x62 => some (execStreamWeights c w d none s)
  | 0x6A => some (execAdpRetire c w s)
  | 0x70 => some (execWinOpen c w d s)
  | 0x71 => some (execWinRevoke c w s)
  | 0x73 => some (execSealWin c w s)
  | 0x78 => some (execFieldForm c w d s)
  | 0x79 => some (execFieldAdmit c w s)
  | 0x7A => some (execFieldExpel c w s)
  | 0x7B => some (execFieldReform c w d s)
  | 0x80 => some (execMeadowDefine c w d s)
  | 0x81 => some (execMeadowRole c w s)
  | 0x82 => some (execMeadowDrain c w s)
  | 0x88 => some (execMarch c w s)
  | 0x8A => some (execFlashTrim c w s)
  | 0x8C => some (execFwArm c w true s)
  | _ => none

/-- Instructions of Table 3.1: the precondition, the weighing where the work is promised, and the state it leaves. DESIGN CHOICE, log entry 32. -/
def State.tryPromised (s : State) (c i op : Nat) (w : IWord) (d : Bytes) (x : Ctx) (resumed : List Nat) :
    Option (Pre × Option Item × State) :=
  let m := x.entry.meadow
  let l := w.opb.toNat
  match op with
  | 0x1B => some (s.preResume w c, some (s.itemResume i w c m), s.afterResume l (w.flag 8))
  | 0x20 =>
    let back := resumed.contains l
    some (s.preAdmit w d m back, some (s.itemAdmit i w d m x.entry.fullTurn), (s.admitRequest c x w d back none 0).getD (s.setLan l { s.lan l with state := .active }))
  | 0x38 => some (s.preMove w, some (s.itemMove i w), s.afterMove w)
  | 0x40 => match s.hdrAt w.opc.toNat with
    | none => some (badOp, none, s)
    | some h => some (s.preStep w.opc.toNat m, some (s.stepItem i m h false), s.afterStep m i h (x.entry.deadline ≠ noDeadline))
  | 0x41 => match s.hdrAt w.opc.toNat with
    | none => some (badOp, none, s)
    | some h => some (s.preShadow w.opc.toNat w.opb.toNat m, some (s.stepItem i m h true), s)
  | 0x48 =>
    let p := s.makePartial (.instr c) w d none x.entry.deadline
    some (s.prePartial w d, (if p.stepSeq.isSome then none else some (attnItem i p.dst p.hops p.pAttn (2 ^ 40))), s)
  | 0x51 => some (s.preRekindle w d m, some (s.itemRekindle i w d m), s.afterRekindle l (le d 0 2) (le d 2 2))
  | 0x60 => match s.objByBase w.opc.toNat with
    | none => some (badOp, none, s)
    | some k =>
      let o := s.obj k
      some (s.preTierMove w, (if o.home = 0 then none else some (s.itemTierMove i w)), s.setObj k { o with home := w.opa.toNat })
  | 0x72 => some (s.preCopy d x.entry.svc, some (s.itemCopy i d), s)
  | _ => none

/-- The tier whose resume slot an item holds. -/
def Item.slot (i : Item) : Nat :=
  if i.regs.contains Reg.CXL_RESUME_BW then 2 else if i.regs.contains Reg.FLASH_RESUME_BW then 4 else 0

/-- What admission grants an instruction ahead of its start. -/
def Item.grant (i : Item) : Grant :=
  { index := i.index, cls := (i.cls.map (·.1)).getD 0, bytes := (i.cls.map (·.2)).getD 0, step := none, code := none, slot := i.slot, watts := i.held }

/-- DESIGN CHOICE, log entry 34. -/
def State.addGrant (s : State) (c : Nat) (g : Grant) : State :=
  match s.ctx c with
  | none => s
  | some x => s.setCtx c { x with grants := x.grants ++ [g] }

/-- The trial's context stands at an instruction, with nothing outstanding, no word posted, and no line in a host cache. -/
def State.standAt (s : State) (c i : Nat) (x : Ctx) (v : BitVec 128) : State :=
  let grants := match s.ctx c with | none => [] | some y => y.grants
  let entry := { x.entry with prog := x.entry.prog.set i v, deadline := noDeadline }
  (s.setCtx c { x with entry := entry, phase := .running, pc := i, grants := grants }).mapIo (fun io => { io with results := [] }) |>.mapCxl (fun c => { c with lines := [] })

def Trial.fail (t : Trial) (i : Nat) (code : Code) (obs : Nat) : Trial := { t with fails := t.fails ++ [(i, code, obs)] }

/-- The record with which an instruction of the trial ended its entry. -/
def State.trialRecord (s : State) (x : Ctx) : Option ResultOut :=
  s.io.results.find? (fun r => r.ring == x.entry.ring && r.slot == x.entry.slot && le r.bytes 0 2 == x.entry.tag)

/-- One instruction of the group: R124's tests, its precondition, and the state behind it. DESIGN CHOICE, log entry 32. DESIGN CHOICE, log entry 33. -/
def Trial.step (c : Nat) (x : Ctx) (descs : List Bytes) (t : Trial) (i : Nat) : Trial :=
  match x.entry.prog[i]? with
  | none => t
  | some v =>
    let op := opcodeOf v
    let w := { wordOf v with posted := false }
    let d := descs.getD i []
    if !shapeOk op (wordOf v) ∨ ((wordOf v).posted ∧ !mayPost op) ∨ (x.entry.meadow = 0xFF ∧ actsOnMeadow op) then
      t.fail i .badOperand 0
    else match t.s.tryPromised c i op w d x t.resumed with
      | some (some (code, obs), _, _) => t.fail i code obs
      | some (none, item, after) =>
        let s := match item with
          | none => after
          | some k => (after.addGrant c { k.grant with bytes := 0 }).charge [k]
        { t with s := s, items := t.items ++ item.toList, resumed := if op = 0x1B then w.opb.toNat :: t.resumed else t.resumed }
      | none => match t.s.tryPre op w d with
        | some (some (code, obs), _) => if isPreCode code then t.fail i code obs else t
        | some (none, after) => { t with s := after }
        | none =>
          let s := t.s.standAt c i x (w.encode op)
          match s.tryExec c op w d with
          | none => t
          | some o =>
            let s' := o.state s
            match s'.trialRecord x with
            | some r => if isPreCode (codeOf r.status) then t.fail i (codeOf r.status) (le r.bytes 6 1) else t
            | none => { t with s := s'.afterOp op w }

/-- The trial of a whole group. DEDUCED, log entry 30. -/
def State.tryGroup (s : State) (c : Nat) (x : Ctx) (descs : List Bytes) : Trial :=
  (List.range x.entry.groupLen).foldl (Trial.step c x descs) { s := s, items := [], fails := [], resumed := [] }

/-- R108: operand encodings of the whole group first, then preconditions in program order. -/
def Trial.first (t : Trial) : Option (Nat × Code × Nat) :=
  match t.fails.find? (fun f => f.2.1 == .badOperand) with
  | some f => some f
  | none => t.fails.head?

/-! ## The entry's end or start -/

/-- The entry ends at admission, without side effect. -/
def State.refuseEntry (s : State) (c : Nat) (x : Ctx) (code : Code) (idx obs term n : Nat) : State :=
  let x := { x with halted := decide (idx + 1 < x.entry.prog.length), admitBeat := s.now, term := term, bound := n, reported := true }
  (s.setCtx c x).endEntry c code idx obs

/-- An accepted entry takes the progress record it names, unless another entry has it running (R119). DEDUCED, log entry 37. -/
def State.takeProgress (s : State) (x : Ctx) : State × Ctx :=
  if !x.entry.progressEn then (s, x)
  else if (s.progress x.entry.progress).state = 1 then (s, { x with progressLost := true })
  else (s.setProgress x.entry.progress { tag := x.entry.tag, ring := x.entry.ring, update := s.now }, { x with progressOwn := true })

/-- What takes effect with the group's admission: steps with a deadline are scheduled (R549), and a request whose
lantern is ready, or is being resumed by its group, is `ADMITTED` (R174, Table 6.3). DEDUCED, log entry 30. DEDUCED, log entry 36. -/
def State.startGroup (s : State) (c : Nat) (x : Ctx) (descs : List Bytes) (promise : Option Nat) (n i : Nat) : State :=
  let ops := (x.entry.prog.take x.entry.groupLen).map (fun v => (opcodeOf v, wordOf v))
  let m := x.entry.meadow
  match ops[i]? with
  | none => s
  | some (op, w) =>
    if op = 0x40 then match s.hdrAt w.opc.toNat with
      | none => s
      | some h =>
        let s := s.noteBody h
        if x.entry.deadline ≠ noDeadline then
          let (s, id) := s.scheduleStep m h .engine promise i none
          s.addGrant c { index := i, cls := 0, bytes := 0, step := some id, code := none, slot := 0 }
        else if (ops.drop i).any (fun e => e.1 == 0x20) then s.setMdw m { s.mdw m with program := some h } else s
    else if op = 0x20 then
      let d := descs.getD i []
      let back := (ops.take i).any (fun e => e.1 == 0x1B && e.2.opb == w.opb)
      if (s.preAdmit w d m back).isSome then s
      else match s.admitRequest c x w d back promise (s.now + n) with
        | none => s
        | some s => s.addGrant c { index := i, cls := 0, bytes := 0, step := none, code := some .ok, slot := 0 }
    else s

/-- The entry's program starts in its admission beat (R59, R61, R105, R108). DESIGN CHOICE, log entry 34. -/
def State.acceptEntry (s : State) (c : Nat) (x : Ctx) (descs : List Bytes) (items : List Item) (n : Nat) : State :=
  let (s, x) := s.takeProgress x
  let (s, id) := s.grant x x.entry.deadline n items
  let held := if id.isSome then items else []
  let g := x.entry.groupLen
  let x := { x with phase := .running, group := g, promise := id, admitBeat := s.now, bound := n, accepted := id.isSome, reported := decide (g ≠ 0), grants := (held.map Item.grant).filter (fun k => decide (k.bytes ≠ 0 ∨ k.slot ≠ 0 ∨ k.watts ≠ 0)) }
  ((List.range g).foldl (fun (s : State) i => s.startGroup c x descs id n i) ((s.setCtx c x).charge held)).checkWord c

def State.admitEntry (s : State) (c : Nat) (x : Ctx) (descs : List Bytes) : State :=
  if x.entry.bad then s.refuseEntry c x .badOperand 0 0 0 0
  else
    let t := s.tryGroup c x descs
    let undefinedMeadow := decide (x.entry.meadow ≠ 0xFF) && (s.mdw x.entry.meadow).state == .free
    match t.first with
    | some (i, .badOperand, obs) => s.refuseEntry c x .badOperand i obs 0 0
    | f =>
      if undefinedMeadow then s.refuseEntry c x .illegalInState 0 (obsOf 6 0) 0 0
      else match f with
        | some (i, code, obs) => s.refuseEntry c x code i obs 0 0
        | none => match s.weigh x.entry.deadline t.items with
          | .refuse code term i n => s.refuseEntry c x code i 0 term n
          | .accept n => s.acceptEntry c x descs t.items n

/-- No entry presented before this one still waits (R62, R95). -/
def State.firstTurn (s : State) (x : Ctx) : Bool :=
  s.io.ctxs.all (fun e => e.2.phase != .presented || decide (x.turn ≤ e.2.turn))

/-- An entry that has taken a context is checked at order 5, in the order of presentation, and accepted or ended; the steps that
start or commit in the beat go before it (Table 2.1). Its descriptors come with the command,
one for each instruction of the group. Entries wait while the admission engine is in reset (Table 19.3), in a power-fail
hold and in the pause of an activation (R474, R516). -/
def execEntryAdmission (idx : Nat) (descs : List Bytes) (s : State) : Out :=
  .next (
    if !s.cdUp ∨ s.intakeHeld ∨ s.admitReset ∨ s.stepsWait then s
    else
      let s := s.atOrder 5
      match s.ctx idx with
      | none => s
      | some x => if x.phase ≠ .presented ∨ !s.firstTurn x then s else s.admitEntry idx x descs)

/-! ## Work without a deadline that has waited (R53, R62) -/

/-- The wait ends; an instruction that its word describes whole starts at once, and one that reads a descriptor or a
helper's result starts with its own command. -/
def State.rouse (s : State) (c : Nat) (x : Ctx) : State :=
  let s := s.setCtx c { x with wait := .none }
  match x.entry.prog[x.pc]? with
  | none => s
  | some v =>
    let w := wordOf v
    match opcodeOf v with
    | 0x1A => (execLtnPark c w s).state s
    | 0x38 => (execMoveState c w s).state s
    | 0x40 => (execStepRun c w s).state s
    | _ => s

/-- Contexts that wait for the power cap, by the beat in which they began. DEDUCED, log entry 35. -/
def State.powerWaits (s : State) : List (Nat × Nat) :=
  s.io.ctxs.filterMap (fun e => match e.2.wait with | .power _ since => some (e.1, since) | _ => none)

/-- Contexts that wait for room in a class. DEDUCED, log entry 35. -/
def State.roomWaits (s : State) (k : Nat) : List (Nat × Nat) :=
  s.io.ctxs.filterMap (fun e => match e.2.wait with | .room j since => if j = k then some (e.1, since) else none | _ => none)

/-- The one that has waited longest, the lowest context of its beat. DEDUCED, log entry 35. -/
def longest (xs : List (Nat × Nat)) : Option Nat :=
  (xs.foldl (fun (a : Option (Nat × Nat)) x => match a with
    | none => some x
    | some y => if x.2 < y.2 then some x else some y) none).map (·.1)

/-- What waits is admitted at order 5. -/
def execPowerCapAdmit (c : Nat) (s : State) : Out :=
  .next (if !s.cdUp ∨ s.stepsWait then s else
    let s := s.atOrder 5
    match s.ctx c with
    | none => s
    | some x => match x.wait with
      | .power watts _ => if longest s.powerWaits = some c ∧ !s.powerFail watts then s.rouse c x else s
      | _ => s)

def execNoDeadlineAdmit (cls : Nat) (s : State) : Out :=
  .next (if !s.cdUp ∨ s.stepsWait then s
    else
      let s := s.atOrder 5
      if !s.classRoom cls then s
      else match longest (s.roomWaits cls) with
        | none => s
        | some c => match s.ctx c with
          | none => s
          | some x => s.rouse c x)

end Sys2Proof.Machine
end

