-- ==== Sys2Proof/Machine/Dispatch.lean ====
section
/-! DEFINITION. The dispatch: one arm per command, one direct call of its meaning. -/

namespace Sys2Proof.Machine

/-- The effect of a command on everything but the queue. -/
def exec (i : Instr) (s : State) : Host.Outcome State Fault Refusal :=
  match i with
  | .nop x1 x2 => Sys2Proof.Machine.execNop x1 x2 s
  | .halt x1 x2 => Sys2Proof.Machine.execHalt x1 x2 s
  | .jump x1 x2 => Sys2Proof.Machine.execJump x1 x2 s
  | .branch x1 x2 => Sys2Proof.Machine.execBranch x1 x2 s
  | .call x1 x2 => Sys2Proof.Machine.execCall x1 x2 s
  | .ret x1 x2 => Sys2Proof.Machine.execRet x1 x2 s
  | .fence x1 x2 => Sys2Proof.Machine.execFence x1 x2 s
  | .progressSet x1 x2 => Sys2Proof.Machine.execProgressSet x1 x2 s
  | .postedInstructionComplete x1 x2 x3 => Sys2Proof.Machine.execPostedInstructionComplete x1 x2 x3 s
  | .lampLight x1 x2 => Sys2Proof.Machine.execLampLight x1 x2 s
  | .lampDim x1 x2 => Sys2Proof.Machine.execLampDim x1 x2 s
  | .lampSet x1 x2 => Sys2Proof.Machine.execLampSet x1 x2 s
  | .lampWait x1 x2 => Sys2Proof.Machine.execLampWait x1 x2 s
  | .lampWaitMet x1 => Sys2Proof.Machine.execLampWaitMet x1 s
  | .lampWaitTimeout x1 => Sys2Proof.Machine.execLampWaitTimeout x1 s
  | .ltnCreate x1 x2 x3 => Sys2Proof.Machine.execLtnCreate x1 x2 x3 s
  | .ltnClose x1 x2 => Sys2Proof.Machine.execLtnClose x1 x2 s
  | .ltnPark x1 x2 => Sys2Proof.Machine.execLtnPark x1 x2 s
  | .parkCommit x1 x2 => Sys2Proof.Machine.execParkCommit x1 x2 s
  | .ltnResume x1 x2 => Sys2Proof.Machine.execLtnResume x1 x2 s
  | .resumeCommit x1 x2 => Sys2Proof.Machine.execResumeCommit x1 x2 s
  | .ltnQuery x1 x2 => Sys2Proof.Machine.execLtnQuery x1 x2 s
  | .reqAdmit x1 x2 x3 => Sys2Proof.Machine.execReqAdmit x1 x2 x3 s
  | .reqKill x1 x2 => Sys2Proof.Machine.execReqKill x1 x2 s
  | .reqSetprio x1 x2 => Sys2Proof.Machine.execReqSetprio x1 x2 s
  | .reqSetdeadline x1 x2 => Sys2Proof.Machine.execReqSetdeadline x1 x2 s
  | .reqRelease x1 x2 => Sys2Proof.Machine.execReqRelease x1 x2 s
  | .reqReleaseTimeout x1 => Sys2Proof.Machine.execReqReleaseTimeout x1 s
  | .pgAlloc x1 x2 => Sys2Proof.Machine.execPgAlloc x1 x2 s
  | .pgFree x1 x2 => Sys2Proof.Machine.execPgFree x1 x2 s
  | .pgShare x1 x2 x3 => Sys2Proof.Machine.execPgShare x1 x2 x3 s
  | .pgAppend x1 x2 x3 => Sys2Proof.Machine.execPgAppend x1 x2 x3 s
  | .setUnion x1 x2 x3 => Sys2Proof.Machine.execSetUnion x1 x2 x3 s
  | .setIntersect x1 x2 x3 => Sys2Proof.Machine.execSetIntersect x1 x2 x3 s
  | .setDiff x1 x2 x3 => Sys2Proof.Machine.execSetDiff x1 x2 x3 s
  | .setHash x1 x2 x3 x4 x5 => Sys2Proof.Machine.execSetHash x1 x2 x3 x4 x5 s
  | .prefixMatch x1 x2 x3 x4 => Sys2Proof.Machine.execPrefixMatch x1 x2 x3 x4 s
  | .moveState x1 x2 => Sys2Proof.Machine.execMoveState x1 x2 s
  | .deedQuery x1 x2 => Sys2Proof.Machine.execDeedQuery x1 x2 s
  | .deedDecree x1 x2 x3 => Sys2Proof.Machine.execDeedDecree x1 x2 x3 s
  | .deedRelease x1 x2 => Sys2Proof.Machine.execDeedRelease x1 x2 s
  | .moveOpenReceive x1 x2 => Sys2Proof.Machine.execMoveOpenReceive x1 x2 s
  | .moveDataReceive x1 x2 x3 => Sys2Proof.Machine.execMoveDataReceive x1 x2 x3 s
  | .moveReceiptReceive x1 x2 => Sys2Proof.Machine.execMoveReceiptReceive x1 x2 s
  | .nackReceive x1 x2 => Sys2Proof.Machine.execNackReceive x1 x2 s
  | .moveKill x1 x2 => Sys2Proof.Machine.execMoveKill x1 x2 s
  | .moveAbortReceive x1 => Sys2Proof.Machine.execMoveAbortReceive x1 s
  | .receiptDeadlineExpiry x1 => Sys2Proof.Machine.execReceiptDeadlineExpiry x1 s
  | .deedQueryRepeat x1 => Sys2Proof.Machine.execDeedQueryRepeat x1 s
  | .deedTimeoutOrphan x1 => Sys2Proof.Machine.execDeedTimeoutOrphan x1 s
  | .incomingAbandon x1 => Sys2Proof.Machine.execIncomingAbandon x1 s
  | .deedQueryReceive x1 x2 => Sys2Proof.Machine.execDeedQueryReceive x1 x2 s
  | .deedAnswerReceive x1 x2 => Sys2Proof.Machine.execDeedAnswerReceive x1 x2 s
  | .homeNoticeReceive x1 x2 => Sys2Proof.Machine.execHomeNoticeReceive x1 x2 s
  | .emberNoticeReceive x1 x2 => Sys2Proof.Machine.execEmberNoticeReceive x1 x2 s
  | .decreeNoticeReceive x1 x2 => Sys2Proof.Machine.execDecreeNoticeReceive x1 x2 s
  | .decreeNoticeRepeat x1 => Sys2Proof.Machine.execDecreeNoticeRepeat x1 s
  | .decreeAckReceive x1 x2 => Sys2Proof.Machine.execDecreeAckReceive x1 x2 s
  | .stepRun x1 x2 => Sys2Proof.Machine.execStepRun x1 x2 s
  | .stepStart x1 => Sys2Proof.Machine.execStepStart x1 s
  | .stepCommit x1 x2 => Sys2Proof.Machine.execStepCommit x1 x2 s
  | .shadow x1 x2 x3 => Sys2Proof.Machine.execShadow x1 x2 x3 s
  | .autoShadowRun x1 x2 x3 => Sys2Proof.Machine.execAutoShadowRun x1 x2 x3 s
  | .refereeRun x1 x2 => Sys2Proof.Machine.execRefereeRun x1 x2 s
  | .tileQuarantineLeave x1 => Sys2Proof.Machine.execTileQuarantineLeave x1 s
  | .canaryRun x1 x2 x3 => Sys2Proof.Machine.execCanaryRun x1 x2 x3 s
  | .attnPartial x1 x2 x3 => Sys2Proof.Machine.execAttnPartial x1 x2 x3 s
  | .attnPartialRoundAdmit x1 => Sys2Proof.Machine.execAttnPartialRoundAdmit x1 s
  | .partialQueryReceive x1 x2 => Sys2Proof.Machine.execPartialQueryReceive x1 x2 s
  | .partialRoundStart x1 => Sys2Proof.Machine.execPartialRoundStart x1 s
  | .partialResultReceive x1 x2 => Sys2Proof.Machine.execPartialResultReceive x1 x2 s
  | .attnMerge x1 x2 x3 x4 => Sys2Proof.Machine.execAttnMerge x1 x2 x3 x4 s
  | .ember x1 x2 => Sys2Proof.Machine.execEmber x1 x2 s
  | .rekindle x1 x2 x3 => Sys2Proof.Machine.execRekindle x1 x2 x3 s
  | .autoEmber => Sys2Proof.Machine.execAutoEmber s
  | .trieEviction => Sys2Proof.Machine.execTrieEviction s
  | .pack x1 x2 x3 x4 x5 => Sys2Proof.Machine.execPack x1 x2 x3 x4 x5 s
  | .unpack x1 x2 x3 x4 x5 => Sys2Proof.Machine.execUnpack x1 x2 x3 x4 x5 s
  | .tierMove x1 x2 => Sys2Proof.Machine.execTierMove x1 x2 s
  | .tierMoveCommit x1 x2 x3 => Sys2Proof.Machine.execTierMoveCommit x1 x2 x3 s
  | .tierPlace x1 x2 => Sys2Proof.Machine.execTierPlace x1 x2 s
  | .streamWeights x1 x2 x3 x4 => Sys2Proof.Machine.execStreamWeights x1 x2 x3 x4 s
  | .adpLoad x1 x2 x3 x4 => Sys2Proof.Machine.execAdpLoad x1 x2 x3 x4 s
  | .adpReplace x1 x2 x3 x4 => Sys2Proof.Machine.execAdpReplace x1 x2 x3 x4 s
  | .adpRetire x1 x2 => Sys2Proof.Machine.execAdpRetire x1 x2 s
  | .winOpen x1 x2 x3 => Sys2Proof.Machine.execWinOpen x1 x2 x3 s
  | .winRevoke x1 x2 => Sys2Proof.Machine.execWinRevoke x1 x2 s
  | .winRevokeComplete x1 => Sys2Proof.Machine.execWinRevokeComplete x1 s
  | .copy x1 x2 x3 => Sys2Proof.Machine.execCopy x1 x2 x3 s
  | .copyOpenReceive x1 x2 => Sys2Proof.Machine.execCopyOpenReceive x1 x2 s
  | .copyDataReceive x1 x2 x3 x4 => Sys2Proof.Machine.execCopyDataReceive x1 x2 x3 x4 s
  | .copyCommitReceive x1 x2 => Sys2Proof.Machine.execCopyCommitReceive x1 x2 s
  | .sealWin x1 x2 => Sys2Proof.Machine.execSealWin x1 x2 s
  | .winSealReceive x1 x2 => Sys2Proof.Machine.execWinSealReceive x1 x2 s
  | .readReceive x1 x2 x3 => Sys2Proof.Machine.execReadReceive x1 x2 x3 s
  | .readRespReceive x1 x2 => Sys2Proof.Machine.execReadRespReceive x1 x2 s
  | .loadTimeout x1 => Sys2Proof.Machine.execLoadTimeout x1 s
  | .fieldForm x1 x2 x3 => Sys2Proof.Machine.execFieldForm x1 x2 x3 s
  | .fieldAdmit x1 x2 => Sys2Proof.Machine.execFieldAdmit x1 x2 s
  | .fieldExpel x1 x2 => Sys2Proof.Machine.execFieldExpel x1 x2 s
  | .fieldReform x1 x2 x3 => Sys2Proof.Machine.execFieldReform x1 x2 x3 s
  | .fieldReadyReceive x1 x2 => Sys2Proof.Machine.execFieldReadyReceive x1 x2 s
  | .fieldCommitBeatReceive x1 x2 x3 => Sys2Proof.Machine.execFieldCommitBeatReceive x1 x2 x3 s
  | .fieldAbortReceive x1 x2 x3 => Sys2Proof.Machine.execFieldAbortReceive x1 x2 x3 s
  | .fieldChangeReceive x1 x2 => Sys2Proof.Machine.execFieldChangeReceive x1 x2 s
  | .fieldCommit x1 => Sys2Proof.Machine.execFieldCommit x1 s
  | .fieldFormTimeout x1 => Sys2Proof.Machine.execFieldFormTimeout x1 s
  | .stepReportReceive x1 x2 => Sys2Proof.Machine.execStepReportReceive x1 x2 s
  | .fieldStepEvaluation x1 => Sys2Proof.Machine.execFieldStepEvaluation x1 s
  | .fieldStepGraceExpiry x1 => Sys2Proof.Machine.execFieldStepGraceExpiry x1 s
  | .followRequestReceive x1 => Sys2Proof.Machine.execFollowRequestReceive x1 s
  | .followLockTimeout => Sys2Proof.Machine.execFollowLockTimeout s
  | .meadowDefine x1 x2 x3 => Sys2Proof.Machine.execMeadowDefine x1 x2 x3 s
  | .meadowDefineEffect x1 => Sys2Proof.Machine.execMeadowDefineEffect x1 s
  | .meadowRole x1 x2 => Sys2Proof.Machine.execMeadowRole x1 x2 s
  | .meadowDrain x1 x2 => Sys2Proof.Machine.execMeadowDrain x1 x2 s
  | .meadowDrained x1 => Sys2Proof.Machine.execMeadowDrained x1 s
  | .march x1 x2 => Sys2Proof.Machine.execMarch x1 x2 s
  | .marchRunComplete x1 x2 => Sys2Proof.Machine.execMarchRunComplete x1 x2 s
  | .scrubNow x1 x2 x3 => Sys2Proof.Machine.execScrubNow x1 x2 x3 s
  | .flashTrim x1 x2 => Sys2Proof.Machine.execFlashTrim x1 x2 s
  | .fwStage x1 x2 x3 x4 => Sys2Proof.Machine.execFwStage x1 x2 x3 x4 s
  | .fwArm x1 x2 x3 => Sys2Proof.Machine.execFwArm x1 x2 x3 s
  | .blockReset x1 x2 => Sys2Proof.Machine.execBlockReset x1 x2 s
  | .blockRestore x1 => Sys2Proof.Machine.execBlockRestore x1 s
  | .attest x1 x2 x3 x4 => Sys2Proof.Machine.execAttest x1 x2 x3 x4 s
  | .beatBoundary x1 => Sys2Proof.Machine.execBeatBoundary x1 s
  | .deratedExited => Sys2Proof.Machine.execDeratedExited s
  | .voltageLower => Sys2Proof.Machine.execVoltageLower s
  | .powerOverDeclared x1 => Sys2Proof.Machine.execPowerOverDeclared x1 s
  | .powerCapAdmit x1 => Sys2Proof.Machine.execPowerCapAdmit x1 s
  | .noDeadlineAdmit x1 => Sys2Proof.Machine.execNoDeadlineAdmit x1 s
  | .beatLenWrite x1 => Sys2Proof.Machine.execBeatLenWrite x1 s
  | .beatLenEffect => Sys2Proof.Machine.execBeatLenEffect s
  | .beaconReceive x1 x2 x3 => Sys2Proof.Machine.execBeaconReceive x1 x2 x3 s
  | .beaconLost => Sys2Proof.Machine.execBeaconLost s
  | .beaconHoldoverEnd => Sys2Proof.Machine.execBeaconHoldoverEnd s
  | .probeSend x1 => Sys2Proof.Machine.execProbeSend x1 s
  | .probeReceive x1 x2 x3 => Sys2Proof.Machine.execProbeReceive x1 x2 x3 s
  | .entryAdmission x1 x2 => Sys2Proof.Machine.execEntryAdmission x1 x2 s
  | .intakeCtrlWrite x1 x2 => Sys2Proof.Machine.execIntakeCtrlWrite x1 x2 s
  | .resultRecordRetry x1 x2 x3 => Sys2Proof.Machine.execResultRecordRetry x1 x2 x3 s
  | .idleTimerExpiry x1 => Sys2Proof.Machine.execIdleTimerExpiry x1 s
  | .promisedBeatExpiry x1 => Sys2Proof.Machine.execPromisedBeatExpiry x1 s
  | .breachStoreDrain => Sys2Proof.Machine.execBreachStoreDrain s
  | .eventStoreDrain => Sys2Proof.Machine.execEventStoreDrain s
  | .pendingWriteRelease x1 => Sys2Proof.Machine.execPendingWriteRelease x1 s
  | .routeInstall x1 x2 => Sys2Proof.Machine.execRouteInstall x1 x2 s
  | .mapDrainEnd => Sys2Proof.Machine.execMapDrainEnd s
  | .frameForward x1 x2 x3 x4 => Sys2Proof.Machine.execFrameForward x1 x2 x3 x4 s
  | .ackReceive x1 x2 => Sys2Proof.Machine.execAckReceive x1 x2 s
  | .ackSend x1 => Sys2Proof.Machine.execAckSend x1 s
  | .retransmitTimeout x1 x2 => Sys2Proof.Machine.execRetransmitTimeout x1 x2 s
  | .collectiveReceive x1 x2 x3 => Sys2Proof.Machine.execCollectiveReceive x1 x2 x3 s
  | .helloSend x1 => Sys2Proof.Machine.execHelloSend x1 s
  | .helloReceive x1 => Sys2Proof.Machine.execHelloReceive x1 s
  | .joinStart x1 => Sys2Proof.Machine.execJoinStart x1 s
  | .joinNonceReceive x1 x2 => Sys2Proof.Machine.execJoinNonceReceive x1 x2 s
  | .joinProofReceive x1 x2 => Sys2Proof.Machine.execJoinProofReceive x1 x2 s
  | .joinInitiatorProofReceive x1 x2 => Sys2Proof.Machine.execJoinInitiatorProofReceive x1 x2 s
  | .joinResultReceive x1 x2 => Sys2Proof.Machine.execJoinResultReceive x1 x2 s
  | .joinRetry x1 => Sys2Proof.Machine.execJoinRetry x1 s
  | .joinTimeout x1 => Sys2Proof.Machine.execJoinTimeout x1 s
  | .heartbeatSend x1 => Sys2Proof.Machine.execHeartbeatSend x1 s
  | .heartbeatReceive x1 => Sys2Proof.Machine.execHeartbeatReceive x1 s
  | .partnerDeadTimeout x1 => Sys2Proof.Machine.execPartnerDeadTimeout x1 s
  | .leaveDepartureReceive x1 => Sys2Proof.Machine.execLeaveDepartureReceive x1 s
  | .leaveEvictionReceive x1 => Sys2Proof.Machine.execLeaveEvictionReceive x1 s
  | .fabCtrlLeave => Sys2Proof.Machine.execFabCtrlLeave s
  | .partnerCmdJoin => Sys2Proof.Machine.execPartnerCmdJoin s
  | .partnerCmdApprove x1 => Sys2Proof.Machine.execPartnerCmdApprove x1 s
  | .partnerCmdRefuse x1 => Sys2Proof.Machine.execPartnerCmdRefuse x1 s
  | .partnerCmdEvict x1 => Sys2Proof.Machine.execPartnerCmdEvict x1 s
  | .portCfgWrite x1 x2 => Sys2Proof.Machine.execPortCfgWrite x1 x2 s
  | .linkUp x1 => Sys2Proof.Machine.execLinkUp x1 s
  | .linkTrainFail x1 => Sys2Proof.Machine.execLinkTrainFail x1 s
  | .linkDown x1 => Sys2Proof.Machine.execLinkDown x1 s
  | .linkTransmitSelect x1 x2 => Sys2Proof.Machine.execLinkTransmitSelect x1 x2 s
  | .keyCmdLoad => Sys2Proof.Machine.execKeyCmdLoad s
  | .keyCmdActivate => Sys2Proof.Machine.execKeyCmdActivate s
  | .keyCmdDisable => Sys2Proof.Machine.execKeyCmdDisable s
  | .gateCtrlApply x1 => Sys2Proof.Machine.execGateCtrlApply x1 s
  | .queueSel x1 => Sys2Proof.Machine.execQueueSel x1 s
  | .partnerSel x1 => Sys2Proof.Machine.execPartnerSel x1 s
  | .winSel x1 => Sys2Proof.Machine.execWinSel x1 s
  | .fieldSel x1 => Sys2Proof.Machine.execFieldSel x1 s
  | .peekSel x1 => Sys2Proof.Machine.execPeekSel x1 s
  | .hostedFind x1 => Sys2Proof.Machine.execHostedFind x1 s
  | .scSnap => Sys2Proof.Machine.execScSnap s
  | .fieldFollow x1 => Sys2Proof.Machine.execFieldFollow x1 s
  | .fieldCtrlRelease x1 => Sys2Proof.Machine.execFieldCtrlRelease x1 s
  | .fieldCtrlPrep x1 => Sys2Proof.Machine.execFieldCtrlPrep x1 s
  | .fieldPrepComplete x1 => Sys2Proof.Machine.execFieldPrepComplete x1 s
  | .tileClear x1 => Sys2Proof.Machine.execTileClear x1 s
  | .shadowSetWrite x1 x2 => Sys2Proof.Machine.execShadowSetWrite x1 x2 s
  | .shadowSetEffect => Sys2Proof.Machine.execShadowSetEffect s
  | .modelCmdInstall x1 x2 => Sys2Proof.Machine.execModelCmdInstall x1 x2 s
  | .modelCmdRemove x1 => Sys2Proof.Machine.execModelCmdRemove x1 s
  | .objCmdInstall x1 x2 => Sys2Proof.Machine.execObjCmdInstall x1 x2 s
  | .objCmdRemove x1 => Sys2Proof.Machine.execObjCmdRemove x1 s
  | .hostRead x1 x2 => Sys2Proof.Machine.execHostRead x1 x2 s
  | .readThroughComplete x1 x2 x3 => Sys2Proof.Machine.execReadThroughComplete x1 x2 x3 s
  | .hostWrite x1 x2 => Sys2Proof.Machine.execHostWrite x1 x2 s
  | .biSnoopAnswer x1 x2 x3 => Sys2Proof.Machine.execBiSnoopAnswer x1 x2 x3 s
  | .h2dSnoop x1 => Sys2Proof.Machine.execH2dSnoop x1 s
  | .hdmDecoderCommit x1 x2 => Sys2Proof.Machine.execHdmDecoderCommit x1 x2 s
  | .cxlLinkTrained x1 x2 => Sys2Proof.Machine.execCxlLinkTrained x1 x2 s
  | .doeRequest x1 x2 x3 => Sys2Proof.Machine.execDoeRequest x1 x2 x3 s
  | .cxlIdeFail => Sys2Proof.Machine.execCxlIdeFail s
  | .commonsPlainWrite x1 x2 x3 => Sys2Proof.Machine.execCommonsPlainWrite x1 x2 x3 s
  | .commonsSetAliasWrite x1 x2 x3 => Sys2Proof.Machine.execCommonsSetAliasWrite x1 x2 x3 s
  | .commonsClearAliasWrite x1 x2 x3 => Sys2Proof.Machine.execCommonsClearAliasWrite x1 x2 x3 s
  | .lampPlainWrite x1 x2 x3 => Sys2Proof.Machine.execLampPlainWrite x1 x2 x3 s
  | .lampSetAliasWrite x1 x2 x3 => Sys2Proof.Machine.execLampSetAliasWrite x1 x2 x3 s
  | .lampClearAliasWrite x1 x2 x3 => Sys2Proof.Machine.execLampClearAliasWrite x1 x2 x3 s
  | .lampAddAliasWrite x1 x2 x3 => Sys2Proof.Machine.execLampAddAliasWrite x1 x2 x3 s
  | .regLowHalfRead x1 => Sys2Proof.Machine.execRegLowHalfRead x1 s
  | .regWrite x1 x2 x3 => Sys2Proof.Machine.execRegWrite x1 x2 x3 s
  | .flashTimeSet x1 => Sys2Proof.Machine.execFlashTimeSet x1 s
  | .flashCmdCheckpoint => Sys2Proof.Machine.execFlashCmdCheckpoint s
  | .flashCmdFormat => Sys2Proof.Machine.execFlashCmdFormat s
  | .flashCheckpointDue => Sys2Proof.Machine.execFlashCheckpointDue s
  | .journalPageDurable => Sys2Proof.Machine.execJournalPageDurable s
  | .flashRestart x1 => Sys2Proof.Machine.execFlashRestart x1 s
  | .gcStart => Sys2Proof.Machine.execGcStart s
  | .gcUnitMove x1 x2 => Sys2Proof.Machine.execGcUnitMove x1 x2 s
  | .sbVerify x1 x2 => Sys2Proof.Machine.execSbVerify x1 x2 s
  | .sbEraseComplete x1 => Sys2Proof.Machine.execSbEraseComplete x1 s
  | .flashProgramFail x1 x2 x3 x4 => Sys2Proof.Machine.execFlashProgramFail x1 x2 x3 x4 s
  | .flashEraseFail x1 x2 x3 x4 => Sys2Proof.Machine.execFlashEraseFail x1 x2 x3 x4 s
  | .flashPatrol x1 x2 x3 => Sys2Proof.Machine.execFlashPatrol x1 x2 x3 s
  | .gddrPatrolScrub x1 x2 x3 => Sys2Proof.Machine.execGddrPatrolScrub x1 x2 x3 s
  | .gddrRecalibration x1 => Sys2Proof.Machine.execGddrRecalibration x1 s
  | .taperCalibration x1 => Sys2Proof.Machine.execTaperCalibration x1 s
  | .bgWindowStart => Sys2Proof.Machine.execBgWindowStart s
  | .telemetrySnapshot => Sys2Proof.Machine.execTelemetrySnapshot s
  | .pldmRequest x1 x2 x3 => Sys2Proof.Machine.execPldmRequest x1 x2 x3 s
  | .tempSample x1 => Sys2Proof.Machine.execTempSample x1 s
  | .thermalTripRecovery => Sys2Proof.Machine.execThermalTripRecovery s
  | .powerEnvelope x1 => Sys2Proof.Machine.execPowerEnvelope x1 s
  | .overcurrentTrip => Sys2Proof.Machine.execOvercurrentTrip s
  | .powerOnReset => Sys2Proof.Machine.execPowerOnReset s
  | .perstAssert => Sys2Proof.Machine.execPerstAssert s
  | .perstDeassert x1 => Sys2Proof.Machine.execPerstDeassert x1 s
  | .pwrFailAssert x1 => Sys2Proof.Machine.execPwrFailAssert x1 s
  | .cxlReset => Sys2Proof.Machine.execCxlReset s
  | .rstArm x1 => Sys2Proof.Machine.execRstArm x1 s
  | .rstCmd x1 => Sys2Proof.Machine.execRstCmd x1 s
  | .blkReset x1 => Sys2Proof.Machine.execBlkReset x1 s
  | .watchdogExpiry => Sys2Proof.Machine.execWatchdogExpiry s
  | .fabricResetFrame x1 x2 => Sys2Proof.Machine.execFabricResetFrame x1 x2 s
  | .boot x1 => Sys2Proof.Machine.execBoot x1 s
  | .bootImgCmd x1 => Sys2Proof.Machine.execBootImgCmd x1 s
  | .sdCardInsert x1 => Sys2Proof.Machine.execSdCardInsert x1 s
  | .fwOfferReceive x1 x2 => Sys2Proof.Machine.execFwOfferReceive x1 x2 s
  | .fwFetchRequestReceive x1 x2 x3 => Sys2Proof.Machine.execFwFetchRequestReceive x1 x2 x3 s
  | .fwChunkReceive x1 x2 x3 x4 => Sys2Proof.Machine.execFwChunkReceive x1 x2 x3 x4 s
  | .fwActivation x1 => Sys2Proof.Machine.execFwActivation x1 s
  | .fwActResume => Sys2Proof.Machine.execFwActResume s
  | .fwCmdCommit => Sys2Proof.Machine.execFwCmdCommit s
  | .fwCmdRestage x1 => Sys2Proof.Machine.execFwCmdRestage x1 s
  | .fwCmdSave => Sys2Proof.Machine.execFwCmdSave s
  | .deedQueryTimeout x1 => Sys2Proof.Machine.execDeedQueryTimeout x1 s
  | .partialRoundEnd x1 x2 x3 => Sys2Proof.Machine.execPartialRoundEnd x1 x2 x3 s
  | .powerLoss x1 => Sys2Proof.Machine.execPowerLoss x1 s
  | .msixEntryUnmask x1 => Sys2Proof.Machine.execMsixEntryUnmask x1 s
  | .regHighHalfRead x1 => Sys2Proof.Machine.execRegHighHalfRead x1 s

end Sys2Proof.Machine
end

