-- ==== Sys2Proof/Machine/Step.lean ====
section
/-! DEFINITION. One step: the command at the front of the queue is run on the rest; on an empty
queue the block idles (notes/assumptions/3.md). -/

namespace Sys2Proof.Machine

/-- Take the front command and run it with the queue's rest; idle when nothing waits. DESIGN CHOICE, log entry 3. -/
def step (s : State) : Host.Outcome State Fault Refusal :=
  match s.pending with
  | [] => .next s
  | c :: cs => exec c { s with pending := cs }

/-- The command a table word spells, put at the front of the queue; the table gives no row any bits,
so no word spells one. DEDUCED, log entry 4. -/
def State.withFetchWord (s : State) (nbits w : Nat) : State :=
  match decodeTableWord nbits w with
  | none => s
  | some c => { s with pending := c :: s.pending }

end Sys2Proof.Machine
end

