-- ==== Sys2Proof/Safety.lean ====
section
/-! DEFINITION. What a safe run is, and the terms the claims are stated in: where a program context
stands, which instruction a command carries, when a frame is delivered, the canonical form of the
state's tables, and what of the state a command leaves alone. -/

namespace Sys2Proof

open Machine

/-- `n` steps from `s`, the last state when each step answers a next state. -/
def runSteps : Nat → State → Option State
  | 0, s => some s
  | n + 1, s => match Machine.step s with
    | .next t => runSteps n t
    | _ => none

/-- Every run of `n` steps from `s` goes on. -/
def SafeFor (n : Nat) (s : State) : Prop := (runSteps n s).isSome = true

/-! ## Programs -/

/-- Context `c` holds `x`, which runs and waits for nothing, and stands at the instruction word of
opcode `op` with the fields `w` (R127); neither a firmware activation (R514) nor the reset of the
block that serves the opcode (R496) holds it back. -/
abbrev StandsAt (s : State) (c op : Nat) (w : IWord) (x : Ctx) : Prop :=
  s.ctx c = some x ∧ x.phase = .running ∧ x.wait = .none ∧
  x.entry.prog[x.pc]? = some (w.encode op) ∧ s.sys.paused = false ∧ s.opHeld op = false

/-- R124's test of the word passes: flags and operands use only the bits that the opcode's class
table defines, and an instruction that acts on the entry's meadow has one (R125). -/
abbrev WellShaped (op : Nat) (w : IWord) (x : Ctx) : Prop :=
  shapeOk op w = true ∧ ¬ (x.entry.meadow = 0xFF ∧ actsOnMeadow op = true)

/-- The context runs the instruction now, not posted. -/
abbrev Runs (s : State) (c op : Nat) (w : IWord) (x : Ctx) : Prop :=
  StandsAt s c op w x ∧ WellShaped op w x ∧ w.posted = false

/-- The context runs the instruction now, posted, with a posting slot free (R127). -/
abbrev RunsPosted (s : State) (c op : Nat) (w : IWord) (x : Ctx) : Prop :=
  StandsAt s c op w x ∧ WellShaped op w x ∧ w.posted = true ∧ mayPost op = true ∧ x.outstanding < 16

/-- The context, opcode and word of a command that runs a program's instruction. -/
def instrOf : Instr → Option (Nat × Nat × IWord)
  | .nop c w => some (c, 0x00, w)
  | .halt c w => some (c, 0x01, w)
  | .jump c w => some (c, 0x02, w)
  | .branch c w => some (c, 0x03, w)
  | .call c w => some (c, 0x04, w)
  | .ret c w => some (c, 0x05, w)
  | .fence c w => some (c, 0x06, w)
  | .progressSet c w => some (c, 0x07, w)
  | .lampLight c w => some (c, 0x10, w)
  | .lampDim c w => some (c, 0x11, w)
  | .lampSet c w => some (c, 0x12, w)
  | .lampWait c w => some (c, 0x13, w)
  | .ltnCreate c w _ => some (c, 0x18, w)
  | .ltnClose c w => some (c, 0x19, w)
  | .ltnPark c w => some (c, 0x1A, w)
  | .ltnResume c w => some (c, 0x1B, w)
  | .ltnQuery c w => some (c, 0x1C, w)
  | .reqAdmit c w _ => some (c, 0x20, w)
  | .reqKill c w => some (c, 0x21, w)
  | .reqSetprio c w => some (c, 0x22, w)
  | .reqSetdeadline c w => some (c, 0x23, w)
  | .reqRelease c w => some (c, 0x24, w)
  | .pgAlloc c w => some (c, 0x28, w)
  | .pgFree c w => some (c, 0x29, w)
  | .pgShare c w _ => some (c, 0x2A, w)
  | .pgAppend c w _ => some (c, 0x2B, w)
  | .setUnion c w _ => some (c, 0x2C, w)
  | .setIntersect c w _ => some (c, 0x2D, w)
  | .setDiff c w _ => some (c, 0x2E, w)
  | .setHash c w _ _ _ => some (c, 0x2F, w)
  | .prefixMatch c w _ _ => some (c, 0x30, w)
  | .moveState c w => some (c, 0x38, w)
  | .deedQuery c w => some (c, 0x39, w)
  | .deedDecree c w _ => some (c, 0x3A, w)
  | .deedRelease c w => some (c, 0x3B, w)
  | .stepRun c w => some (c, 0x40, w)
  | .shadow c w _ => some (c, 0x41, w)
  | .attnPartial c w _ => some (c, 0x48, w)
  | .attnMerge c w _ _ => some (c, 0x49, w)
  | .ember c w => some (c, 0x50, w)
  | .rekindle c w _ => some (c, 0x51, w)
  | .pack c w _ _ _ => some (c, 0x58, w)
  | .unpack c w _ _ _ => some (c, 0x59, w)
  | .tierMove c w => some (c, 0x60, w)
  | .tierPlace c w => some (c, 0x61, w)
  | .streamWeights c w _ _ => some (c, 0x62, w)
  | .adpLoad c w _ _ => some (c, 0x68, w)
  | .adpReplace c w _ _ => some (c, 0x69, w)
  | .adpRetire c w => some (c, 0x6A, w)
  | .winOpen c w _ => some (c, 0x70, w)
  | .winRevoke c w => some (c, 0x71, w)
  | .copy c w _ => some (c, 0x72, w)
  | .sealWin c w => some (c, 0x73, w)
  | .fieldForm c w _ => some (c, 0x78, w)
  | .fieldAdmit c w => some (c, 0x79, w)
  | .fieldExpel c w => some (c, 0x7A, w)
  | .fieldReform c w _ => some (c, 0x7B, w)
  | .meadowDefine c w _ => some (c, 0x80, w)
  | .meadowRole c w => some (c, 0x81, w)
  | .meadowDrain c w => some (c, 0x82, w)
  | .march c w => some (c, 0x88, w)
  | .scrubNow c w _ => some (c, 0x89, w)
  | .flashTrim c w => some (c, 0x8A, w)
  | .fwStage c w _ _ => some (c, 0x8B, w)
  | .fwArm c w _ => some (c, 0x8C, w)
  | .blockReset c w => some (c, 0x8D, w)
  | .attest c w _ _ => some (c, 0x8E, w)
  | .postedInstructionComplete _ _ _ | .lampWaitMet _ | .lampWaitTimeout _ | .parkCommit _ _
  | .resumeCommit _ _ | .reqReleaseTimeout _ | .moveOpenReceive _ _ | .moveDataReceive _ _ _
  | .moveReceiptReceive _ _ | .nackReceive _ _ | .moveKill _ _ | .moveAbortReceive _
  | .receiptDeadlineExpiry _ | .deedQueryRepeat _ | .deedTimeoutOrphan _ | .incomingAbandon _
  | .deedQueryReceive _ _ | .deedAnswerReceive _ _ | .homeNoticeReceive _ _ | .emberNoticeReceive _ _
  | .decreeNoticeReceive _ _ | .decreeNoticeRepeat _ | .decreeAckReceive _ _ | .stepStart _
  | .stepCommit _ _ | .autoShadowRun _ _ _ | .refereeRun _ _ | .tileQuarantineLeave _ | .canaryRun _ _ _
  | .attnPartialRoundAdmit _ | .partialQueryReceive _ _ | .partialRoundStart _
  | .partialResultReceive _ _ | .autoEmber | .trieEviction | .tierMoveCommit _ _ _
  | .winRevokeComplete _ | .copyOpenReceive _ _ | .copyDataReceive _ _ _ _ | .copyCommitReceive _ _
  | .winSealReceive _ _ | .readReceive _ _ _ | .readRespReceive _ _ | .loadTimeout _
  | .fieldReadyReceive _ _ | .fieldCommitBeatReceive _ _ _ | .fieldAbortReceive _ _ _
  | .fieldChangeReceive _ _ | .fieldCommit _ | .fieldFormTimeout _ | .stepReportReceive _ _
  | .fieldStepEvaluation _ | .fieldStepGraceExpiry _ | .followRequestReceive _ | .followLockTimeout
  | .meadowDefineEffect _ | .meadowDrained _ | .marchRunComplete _ _ | .blockRestore _ | .beatBoundary _
  | .deratedExited | .voltageLower | .powerOverDeclared _ | .powerCapAdmit _ | .noDeadlineAdmit _
  | .beatLenWrite _ | .beatLenEffect | .beaconReceive _ _ _ | .beaconLost | .beaconHoldoverEnd
  | .probeSend _ | .probeReceive _ _ _ | .entryAdmission _ _ | .intakeCtrlWrite _ _
  | .resultRecordRetry _ _ _ | .idleTimerExpiry _ | .promisedBeatExpiry _ | .breachStoreDrain
  | .eventStoreDrain | .pendingWriteRelease _ | .routeInstall _ _ | .mapDrainEnd | .frameForward _ _ _ _
  | .ackReceive _ _ | .ackSend _ | .retransmitTimeout _ _ | .collectiveReceive _ _ _ | .helloSend _
  | .helloReceive _ | .joinStart _ | .joinNonceReceive _ _ | .joinProofReceive _ _
  | .joinInitiatorProofReceive _ _ | .joinResultReceive _ _ | .joinRetry _ | .joinTimeout _
  | .heartbeatSend _ | .heartbeatReceive _ | .partnerDeadTimeout _ | .leaveDepartureReceive _
  | .leaveEvictionReceive _ | .fabCtrlLeave | .partnerCmdJoin | .partnerCmdApprove _
  | .partnerCmdRefuse _ | .partnerCmdEvict _ | .portCfgWrite _ _ | .linkUp _ | .linkTrainFail _
  | .linkDown _ | .linkTransmitSelect _ _ | .keyCmdLoad | .keyCmdActivate | .keyCmdDisable
  | .gateCtrlApply _ | .queueSel _ | .partnerSel _ | .winSel _ | .fieldSel _ | .peekSel _
  | .hostedFind _ | .scSnap | .fieldFollow _ | .fieldCtrlRelease _ | .fieldCtrlPrep _
  | .fieldPrepComplete _ | .tileClear _ | .shadowSetWrite _ _ | .shadowSetEffect | .modelCmdInstall _ _
  | .modelCmdRemove _ | .objCmdInstall _ _ | .objCmdRemove _ | .hostRead _ _
  | .readThroughComplete _ _ _ | .hostWrite _ _ | .biSnoopAnswer _ _ _ | .h2dSnoop _
  | .hdmDecoderCommit _ _ | .cxlLinkTrained _ _ | .doeRequest _ _ _ | .cxlIdeFail
  | .commonsPlainWrite _ _ _ | .commonsSetAliasWrite _ _ _ | .commonsClearAliasWrite _ _ _
  | .lampPlainWrite _ _ _ | .lampSetAliasWrite _ _ _ | .lampClearAliasWrite _ _ _
  | .lampAddAliasWrite _ _ _ | .regLowHalfRead _ | .regWrite _ _ _ | .flashTimeSet _
  | .flashCmdCheckpoint | .flashCmdFormat | .flashCheckpointDue | .journalPageDurable | .flashRestart _
  | .gcStart | .gcUnitMove _ _ | .sbVerify _ _ | .sbEraseComplete _ | .flashProgramFail _ _ _ _
  | .flashEraseFail _ _ _ _ | .flashPatrol _ _ _ | .gddrPatrolScrub _ _ _ | .gddrRecalibration _
  | .taperCalibration _ | .bgWindowStart | .telemetrySnapshot | .pldmRequest _ _ _ | .tempSample _
  | .thermalTripRecovery | .powerEnvelope _ | .overcurrentTrip | .powerOnReset | .perstAssert
  | .perstDeassert _ | .pwrFailAssert _ | .cxlReset | .rstArm _ | .rstCmd _ | .blkReset _
  | .watchdogExpiry | .fabricResetFrame _ _ | .boot _ | .bootImgCmd _ | .sdCardInsert _
  | .fwOfferReceive _ _ | .fwFetchRequestReceive _ _ _ | .fwChunkReceive _ _ _ _ | .fwActivation _
  | .fwActResume | .fwCmdCommit | .fwCmdRestage _ | .fwCmdSave | .deedQueryTimeout _
  | .partialRoundEnd _ _ _ | .powerLoss _ | .msixEntryUnmask _ | .regHighHalfRead _ => none

/-! ## Frames -/

/-- A frame of type `kind` passes the link's and the transport's checks and is delivered, its consumer seeing `t` (R360,
R363, R391, R551); a target that it names is accepted here under its routing epoch (R209). -/
abbrev Delivered (s : State) (f : Frame) (kind : FrameKind) (t : State) : Prop :=
  s.arrival f kind = (true, t) ∧ ∀ n, targetOf f kind = some n → t.placed f.routeEpoch n = .accept

/-! ## Tables -/

/-- The registers, the lamps, the commons and the three memories, each held by its differences from a
default, are in their one canonical form (keys strictly rising, no default value listed), and the
reserved bits of every lamp are 0 (R3). -/
def Canonical (s : State) : Prop :=
  Tbl.wf resetOf s.regs = true ∧
  Tbl.wf (fun _ => 0) s.io.lamps = true ∧ (∀ e ∈ s.io.lamps, e.2 &&& lampMask = e.2) ∧
  Tbl.wf (fun _ => 0) s.sys.commons = true ∧
  Tbl.wf (fun _ => 0) s.mem.gddr = true ∧ Tbl.wf (fun _ => 0) s.mem.flash = true ∧
  Tbl.wf (fun _ => 0) s.mem.swap = true

end Sys2Proof
end

