-- ==== Sys2Proof/Certificates/Slice0/Obligations.lean ====
section
/-! DEFINITION. The statements of this model for the provers: one obligation per definition. A command
that carries a program's instruction is stated where the program stands (Safety.lean's Runs and
RunsPosted), a frame where the transport delivers it (Delivered). -/

section

open Sys2Proof Sys2Proof.Machine

/-- The block takes the command at the front of its queue and runs it on the rest.

With no command waiting the block idles (the model's choice, notes/assumptions/3.md). -/
def Obligations.StepRunsFrontCommand : Prop :=
  (∀ (s : State) (c : Instr) (cs : List Instr), s.pending = c :: cs →
    Machine.step s = Machine.exec c { s with pending := cs }) ∧
  (∀ s : State, s.pending = [] → Machine.step s = .next s)

/-- Every table of the state stays in its canonical form, and the reserved lamp bits stay 0 (R3), over
every step of every state.

Model's own choices it rests on: log entries 2, 9. -/
def Obligations.StepKeepsCanonical : Prop :=
  ∀ s t : State, Canonical s → Machine.step s = .next t → Canonical t

/-- Power-on reset leaves canonical tables, no program context, every promise and queue empty, and the
values the spec gives: beat 2,000 ns, beacon state `LOCAL`, timing `NORMAL`, one gate entry that opens
every class all beat, the device not ready.

Model's own choices it rests on: log entries 1, 2. -/
def Obligations.ResetState : Prop :=
  Canonical State.reset ∧ State.reset.pending = [] ∧ State.reset.clk.len = 2000 ∧
  State.reset.clk.beacon = .local_ ∧ State.reset.clk.timing = .normal ∧
  State.reset.fab.gates = [(0xFF, 0x1FFFF)] ∧ State.reset.cdUp = false ∧
  (∀ c, State.reset.ctx c = none) ∧ (∀ l, (State.reset.lan l).state = .closed) ∧
  (∀ r, (State.reset.request r).state = .free) ∧ (∀ j, State.reset.lamp j = 0) ∧
  (∀ off, State.reset.reg off = resetOf off)

/-- Table 5.1: a program word is its opcode and its fields, each bit once: taking a word apart and
putting it together are inverse, for every opcode byte, every field value and every 128-bit word. -/
def Obligations.InstructionWordRoundTrip : Prop :=
  (∀ (op : Nat) (w : IWord), op < 256 → opcodeOf (w.encode op) = op ∧ wordOf (w.encode op) = w) ∧
  (∀ v : BitVec 128, (wordOf v).encode (opcodeOf v) = v)

/-- R133: the Control instructions. `NOP` goes on; `JUMP`, a `BRANCH` whose test holds and `CALL` go to
their target, `CALL` pushing the next index; a `BRANCH` whose test fails goes on; `RET` pops; the test
is count ≥, < or = value.

Model's own choices it rests on: log entries 10, 161. -/
def Obligations.ControlFlow : Prop :=
  ∀ (s : State) (c : Nat) (w : IWord) (x : Ctx),
    (Runs s c 0x00 w x → exec (.nop c w) s = .next (s.advance c)) ∧
    (Runs s c 0x01 w x → exec (.halt c w) s = .next (s.endProgram c)) ∧
    (Runs s c 0x02 w x → w.opb.toNat < x.entry.prog.length →
      exec (.jump c w) s = .next (s.goto c w.opb.toNat)) ∧
    (Runs s c 0x03 w x → w.flags.toNat < 3 →
      let count := (s.lamp w.opa.toNat).toNat % 2 ^ 48
      let value := w.opc.toNat
      let holds := (w.flags.toNat = 0 ∧ value ≤ count) ∨ (w.flags.toNat = 1 ∧ count < value) ∨ (w.flags.toNat = 2 ∧ count = value)
      (¬ holds → exec (.branch c w) s = .next (s.advance c)) ∧
      (holds → w.opb.toNat < x.entry.prog.length → exec (.branch c w) s = .next (s.goto c w.opb.toNat))) ∧
    (Runs s c 0x03 w x → w.flags.toNat = 3 → exec (.branch c w) s = .next (s.failInstr c .badOperand)) ∧
    (Runs s c 0x04 w x → x.stack.length < 8 → w.opb.toNat < x.entry.prog.length →
      exec (.call c w) s = .next ((s.setCtx c { x with stack := (x.pc + 1) :: x.stack }).goto c w.opb.toNat)) ∧
    (Runs s c 0x04 w x → 8 ≤ x.stack.length → w.opb.toNat < x.entry.prog.length → exec (.call c w) s = .next (s.failInstr c .illegalInState)) ∧
    (Runs s c 0x05 w x → ∀ i rest, x.stack = i :: rest → i < x.entry.prog.length →
      exec (.ret c w) s = .next ((s.setCtx c { x with stack := rest }).goto c i)) ∧
    (Runs s c 0x05 w x → ∀ i rest, x.stack = i :: rest → x.entry.prog.length ≤ i →
      exec (.ret c w) s = .next ((s.setCtx c { x with stack := rest }).endProgram c)) ∧
    (Runs s c 0x05 w x → x.stack = [] → exec (.ret c w) s = .next (s.endProgram c))

/-- R124: an instruction of any opcode with a flag or operand bit that its class table does not use, or
posted though Table 5.2 does not list it, or that acts on a meadow carried by an entry without one,
completes with `BAD_OPERAND`, and that is all it does.

R127: an instruction command acts only where the program stands: on a context that does not run, or
waits, or stands at another word, or is held back, it changes nothing.

Model's own choices it rests on: log entries 6, 11. -/
def Obligations.MalformedOrElsewhere : Prop :=
  (∀ (i : Instr) (s : State) (c op : Nat) (w : IWord) (x : Ctx), instrOf i = some (c, op, w) →
    StandsAt s c op w x →
    (shapeOk op w = false ∨ (w.posted = true ∧ mayPost op = false) ∨ (x.entry.meadow = 0xFF ∧ actsOnMeadow op = true)) →
    exec i s = .next (s.failInstr c .badOperand)) ∧
  (∀ (i : Instr) (s : State) (c op : Nat) (w : IWord), instrOf i = some (c, op, w) →
    (¬ ∃ x, StandsAt s c op w x) → exec i s = .next s)

/-- R92, R103, R104: an instruction that completes with a code other than `OK` ends its program in that
beat: one 64-byte record goes to result_base + 64 × result_slot with the tag, the code and the index
of the instruction, and the context no longer holds the entry.

R92, R124: after an instruction that completes with `OK` the program stands at the next one, or at the target of a jump; a word
there whose opcode no class table lists ends it with `BAD_OPERAND`; the end of the program, or `HALT`, with nothing posted and no
request pending ends the entry with `OK`.

R92: `JUMP` and `CALL` to an index outside the program complete with `BAD_OPERAND`, and so does a
`BRANCH` whose test holds. -/
def Obligations.ProgramFlow : Prop :=
  (∀ (s : State) (c : Nat) (x : Ctx) (code : Code) (obs : Nat), s.ctx c = some x → code ≠ .ok →
    let t := s.failInstr c code obs
    t.ctx c = none ∧
    ∃ (b : Bytes) (o : List OutMsg), b.length = 64 ∧ t.out = .hostWrite (x.entry.resultBase + 64 * x.entry.slot) b :: o ∧
      le b 0 2 = x.entry.tag % 2 ^ 16 ∧ le b 2 1 = codeN code ∧ le b 4 2 = x.pc % 2 ^ 16 ∧ le b 24 8 = s.now % 2 ^ 64) ∧
  (∀ (s : State) (c : Nat) (x : Ctx), s.ctx c = some x →
    (x.pc + 1 < x.entry.prog.length → s.advance c = s.goto c (x.pc + 1)) ∧
    (∀ (t : Nat) (v : BitVec 128), x.entry.prog[t]? = some v →
      (listedOp (opcodeOf v) = true → ∃ y, (s.goto c t).ctx c = some y ∧ y.pc = t ∧ y.wait = .none ∧
        y.entry = x.entry ∧ y.posted = x.posted ∧ y.stack = x.stack) ∧
      (listedOp (opcodeOf v) = false → ∃ (u : State) (y : Ctx), s.goto c t = u.failInstr c .badOperand ∧ u.ctx c = some y ∧ y.pc = t ∧ y.entry = x.entry)) ∧
    (∀ op, listedOp op = true ↔ op ∈ [0x00, 0x01, 0x02, 0x03, 0x04, 0x05, 0x06, 0x07, 0x10, 0x11, 0x12, 0x13, 0x18, 0x19, 0x1A, 0x1B, 0x1C,
      0x20, 0x21, 0x22, 0x23, 0x24, 0x28, 0x29, 0x2A, 0x2B, 0x2C, 0x2D, 0x2E, 0x2F, 0x30, 0x38, 0x39, 0x3A, 0x3B, 0x40, 0x41, 0x48, 0x49,
      0x50, 0x51, 0x58, 0x59, 0x60, 0x61, 0x62, 0x68, 0x69, 0x6A, 0x70, 0x71, 0x72, 0x73, 0x78, 0x79, 0x7A, 0x7B, 0x80, 0x81, 0x82,
      0x88, 0x89, 0x8A, 0x8B, 0x8C, 0x8D, 0x8E]) ∧
    (x.entry.prog.length ≤ x.pc + 1 → x.posted = [] → x.request = none → x.reqCode = none →
      s.advance c = s.endEntry c .ok x.pc) ∧
    (∀ w, Runs s c 0x01 w x → x.posted = [] → x.request = none → x.reqCode = none →
      exec (.halt c w) s = .next (s.endEntry c .ok x.pc))) ∧
  (∀ (s : State) (c : Nat) (w : IWord) (x : Ctx), x.entry.prog.length ≤ w.opb.toNat →
    (Runs s c 0x02 w x → exec (.jump c w) s = .next (s.failInstr c .badOperand)) ∧
    (Runs s c 0x04 w x → exec (.call c w) s = .next (s.failInstr c .badOperand)) ∧
    (Runs s c 0x03 w x → branchTest w.flags.toNat (lampCount (s.lamp w.opa.toNat)) w.opc.toNat = some true →
      exec (.branch c w) s = .next (s.failInstr c .badOperand)))

/-- R114, R134: `LAMP_LIGHT` adds to the count and `LAMP_DIM` subtracts from it; both saturate at 2^48 − 1
and at 0 and then set overflow (bit 62) or underflow (bit 61); a `LAMP_DIM` that moves the count from
above 0 to 0 raises `LAMP_ZERO` when notify_zero (bit 63) is set; `LAMP_SET` writes the count. The flags
above the count are otherwise unchanged, and an owned lamp answers only the meadow that owns it.

R134, R135: `LAMP_WAIT` waits; the test of a beat completes it in the first beat in which the count has
reached the target; its timeout ends the program with `OVERDUE` and without effect. -/
def Obligations.LampInstructions : Prop :=
  (∀ (s : State) (c : Nat) (w : IWord) (x : Ctx),
    let j := w.opa.toNat
    let v := s.lamp j
    let count := v.toNat % 2 ^ 48
    let n := w.opc.toNat
    let with_ (k : Nat) : Word := BitVec.ofNat 64 (v.toNat / 2 ^ 48 * 2 ^ 48 + k)
    (lampOpen v x.entry.meadow = true →
      (Runs s c 0x10 w x → count + n < 2 ^ 48 → exec (.lampLight c w) s = .next ((s.setLamp j (with_ (count + n))).advance c)) ∧
      (Runs s c 0x10 w x → 2 ^ 48 ≤ count + n →
        exec (.lampLight c w) s = .next ((s.setLamp j (with_ (2 ^ 48 - 1) ||| 0x4000000000000000#64)).advance c)) ∧
      (Runs s c 0x11 w x → n < count → exec (.lampDim c w) s = .next ((s.setLamp j (with_ (count - n))).advance c)) ∧
      (Runs s c 0x11 w x → n = count → (v.getLsbD 63 = false ∨ count = 0) →
        exec (.lampDim c w) s = .next ((s.setLamp j (with_ 0)).advance c)) ∧
      (Runs s c 0x11 w x → n = count → v.getLsbD 63 = true → 0 < count →
        exec (.lampDim c w) s = .next (((s.setLamp j (with_ 0)).raise Ev.lampZero 0 j).advance c)) ∧
      (Runs s c 0x11 w x → count < n → (v.getLsbD 63 = false ∨ count = 0) →
        exec (.lampDim c w) s = .next ((s.setLamp j (with_ 0 ||| 0x2000000000000000#64)).advance c)) ∧
      (Runs s c 0x11 w x → count < n → v.getLsbD 63 = true → 0 < count →
        exec (.lampDim c w) s = .next (((s.setLamp j (with_ 0 ||| 0x2000000000000000#64)).raise Ev.lampZero 0 j).advance c)) ∧
      (Runs s c 0x12 w x → exec (.lampSet c w) s = .next ((s.setLamp j (with_ n)).advance c))) ∧
    (lampOpen v x.entry.meadow = false →
      (Runs s c 0x10 w x → exec (.lampLight c w) s = .next (s.failInstr c .accessViolation)) ∧
      (Runs s c 0x11 w x → exec (.lampDim c w) s = .next (s.failInstr c .accessViolation)) ∧
      (Runs s c 0x12 w x → exec (.lampSet c w) s = .next (s.failInstr c .accessViolation)))) ∧
  (∀ (s : State) (c : Nat) (w : IWord) (x : Ctx),
    (Runs s c 0x13 w x → w.opb = 0 →
      exec (.lampWait c w) s = .next (s.setCtx c { x with wait := .lamp w.opa.toNat w.opc.toNat none })) ∧
    (Runs s c 0x13 w x → w.opb ≠ 0 →
      exec (.lampWait c w) s = .next (s.setCtx c { x with wait := .lamp w.opa.toNat w.opc.toNat (some (s.now + w.opb.toNat)) })) ∧
    (∀ j target till, s.ctx c = some x → x.wait = .lamp j target till →
      (target ≤ (s.lamp j).toNat % 2 ^ 48 → exec (.lampWaitMet c) s = .next (s.advance c)) ∧
      ((s.lamp j).toNat % 2 ^ 48 < target → exec (.lampWaitMet c) s = .next s) ∧
      (∀ b, till = some b → b ≤ s.now → (s.lamp j).toNat % 2 ^ 48 < target →
        exec (.lampWaitTimeout c) s = .next (s.failInstr c .overdue)) ∧
      (∀ b, till = some b → s.now < b → exec (.lampWaitTimeout c) s = .next s)))

/-- R115, R3: the host's lamp window. An aligned 8-byte write sets the word, or its given bits, clears
them, or adds bits 47:0 as two's complement, each with the reserved bits 59:51 kept 0; a write of another
size changes no lamp and raises a configuration event.

R114, R116: one lamp update acts on the value left by the one before and touches no other lamp: after
any lamp instruction, window write or wait, every other lamp reads as before. -/
def Obligations.LampWindowWrites : Prop :=
  (∀ (s : State) (j size : Nat) (v : Word), s.cdUp = true → j < 16384 →
    (size = 8 →
      exec (.lampPlainWrite j size v) s = .next (s.setLamp j (v &&& lampMask)) ∧
      exec (.lampSetAliasWrite j size v) s = .next (s.setLamp j (s.lamp j ||| (v &&& lampMask))) ∧
      exec (.lampClearAliasWrite j size v) s = .next (s.setLamp j (s.lamp j &&& ~~~v)) ∧
      (v.toNat % 2 ^ 48 < 2 ^ 47 → exec (.lampAddAliasWrite j size v) s = .next (s.lightLamp j (v.toNat % 2 ^ 48))) ∧
      (2 ^ 47 ≤ v.toNat % 2 ^ 48 → exec (.lampAddAliasWrite j size v) s = .next (s.dimLamp j (2 ^ 48 - v.toNat % 2 ^ 48)))) ∧
    (size ≠ 8 →
      exec (.lampPlainWrite j size v) s = .next (s.configReject (0x100000 + 8 * j) v.toNat) ∧
      exec (.lampSetAliasWrite j size v) s = .next (s.configReject (0x140000 + 8 * j) v.toNat) ∧
      exec (.lampClearAliasWrite j size v) s = .next (s.configReject (0x180000 + 8 * j) v.toNat) ∧
      exec (.lampAddAliasWrite j size v) s = .next (s.configReject (0x1C0000 + 8 * j) v.toNat))) ∧
  (∀ (s t : State) (i : Instr) (j k : Nat), k ≠ j →
    ((∃ c w, (i = .lampLight c w ∨ i = .lampDim c w ∨ i = .lampSet c w) ∧ j = w.opa.toNat) ∨
     (∃ size v, i = .lampPlainWrite j size v ∨ i = .lampSetAliasWrite j size v ∨ i = .lampClearAliasWrite j size v ∨ i = .lampAddAliasWrite j size v)) →
    exec i s = .next t →
    t.lamp k = s.lamp k ∧ t.mem = s.mem ∧ t.clk = s.clk ∧ t.cxl = s.cxl ∧ t.sys = s.sys ∧ t.fls = s.fls ∧ t.fld = s.fld ∧
    t.lore.lanterns = s.lore.lanterns ∧ t.lore.deeds = s.lore.deeds ∧
    (∀ off, off ∉ [Reg.EVENT_COUNT, Reg.DEV_CFG_REJECTS, Reg.ADMIT_REFUSALS, Reg.BREACH_COUNT, Reg.BREACH_DROPPED, Reg.BREACH_CTRL, Reg.BREACH_RING_PI] →
      t.reg off = s.reg off))

/-- R118, R133, Table 4.11: `PROGRESS_SET` with a unit outside 1 to 6 is a reserved value, whether or not the entry has a record;
without a record of its own it has no other effect; with one it sets the unit and the total and enters running, or moves the position,
whose basis points follow (open while the total is 0); a second move in a beat shows at the next boundary; a total while running, or a
position below the last one, is a reserved value.

Model's own choices it rests on: log entry 37. -/
def Obligations.ProgressSetEffect : Prop :=
  ∀ (s : State) (c : Nat) (w : IWord) (x : Ctx), Runs s c 0x07 w x →
    let r := x.entry.progress
    let p := s.progress r
    let moved (pos bp : Nat) : Progress := if p.update = s.now then { p with next := some (pos, bp) } else { p with position := pos, bp := bp, update := s.now, next := none }
    (w.flag 8 = true → (w.opa.toNat = 0 ∨ 6 < w.opa.toNat) → exec (.progressSet c w) s = .next (s.failInstr c .badOperand)) ∧
    (s.ownsProgress x = false → (w.flag 8 = true → 1 ≤ w.opa.toNat ∧ w.opa.toNat ≤ 6) → exec (.progressSet c w) s = .next (s.advance c)) ∧
    (s.ownsProgress x = true →
      (w.flag 8 = true → p.state ≠ 1 → 1 ≤ w.opa.toNat → w.opa.toNat ≤ 6 →
        exec (.progressSet c w) s = .next ((s.setProgress r { p with state := 1, unit := w.opa.toNat, total := w.opc.toNat, position := 0, bp := 0, update := s.now, next := none }).advance c)) ∧
      (w.flag 8 = true → p.state = 1 → exec (.progressSet c w) s = .next (s.failInstr c .badOperand)) ∧
      (w.flag 8 = false → p.total ≠ 0 → p.latest ≤ w.opc.toNat →
        let bp := min (10000 * w.opc.toNat / p.total) 9999
        exec (.progressSet c w) s = .next (((s.setProgress r (moved w.opc.toNat bp)).setCtx c { x with progressBp := bp }).advance c)) ∧
      (w.flag 8 = false → p.total = 0 → p.latest ≤ w.opc.toNat → ∃ bp, bp < 10000 ∧
        exec (.progressSet c w) s = .next ((({ s with freeCtr := s.freeCtr + 1 }.setProgress r (moved w.opc.toNat bp)).setCtx c { x with progressBp := bp }).advance c)) ∧
      (w.flag 8 = false → w.opc.toNat < p.latest →
        exec (.progressSet c w) s = .next (s.failInstr c .badOperand)))

/-- R127 to R129: a posted set, hash or codec instruction whose precondition holds goes to its helper, and the program continues with the
next instruction at once; one whose precondition fails has its code from there on; with 16 outstanding it waits.

R129, R131: the completion of a posted instruction: the effect of its helper and its code, with which its
program goes on, or the code it fails with; a lost commons write is counted (R458); while the helper's block is in reset nothing comes
back.

R127, R129: `FENCE` goes on at once with no posted instruction outstanding and none failed; it waits
for those outstanding; it ends the program with the code and the index of the earliest that failed.

Model's own choices it rests on: log entry 7. -/
def Obligations.PostedAndFence : Prop :=
  (∀ (s : State) (c : Nat) (w : IWord) (x : Ctx) (i : Instr) (op : Nat) (pre : Pre),
    ((∃ d, i = .setUnion c w d ∧ op = 0x2C ∧ pre = s.preSet d) ∨ (∃ d, i = .setIntersect c w d ∧ op = 0x2D ∧ pre = s.preSet d) ∨
     (∃ d, i = .setDiff c w d ∧ op = 0x2E ∧ pre = s.preSet d) ∨ (∃ d ts b, i = .setHash c w d ts b ∧ op = 0x2F ∧ pre = s.preHash d ∧ s.tracked (s.hashWrites d ts) = []) ∨
     (∃ d src f, i = .pack c w d src f ∧ op = 0x58 ∧ pre = s.preCodec true w d ∧ s.tracked (s.codecReads w d ++ s.codecWrites w d) = []) ∨
     (∃ d src f, i = .unpack c w d src f ∧ op = 0x59 ∧ pre = s.preCodec false w d ∧ s.tracked (s.codecReads w d ++ s.codecWrites w d) = [])) →
    (RunsPosted s c op w x →
      (pre = none → exec i s = .next ((s.setCtx c { x with posted := x.posted ++ [{ index := x.pc, cmd := i, done := none }] }).advance c)) ∧
      (∀ code obs, pre = some (code, obs) →
        exec i s = .next ((s.setCtx c { x with posted := x.posted ++ [{ index := x.pc, cmd := i, done := some code, obs := obs }] }).advance c))) ∧
    (StandsAt s c op w x → WellShaped op w x → w.posted = true → 16 ≤ x.outstanding → exec i s = .next s)) ∧
  (∀ (s t : State) (c index : Nat) (x : Ctx) (p : Posted), s.ctx c = some x →
    x.posted.find? (fun q => q.index == index && q.done.isNone) = some p → (s.postedBody c index x.entry.meadow p.cmd).isSome = true →
    (s.sys.blocks.any (fun b => b.1 == postedBlock p.cmd) = true → ∀ code, exec (.postedInstructionComplete c index code) s = .next s) ∧
    (s.sys.blocks.any (fun b => b.1 == postedBlock p.cmd) = false →
      (s.postedBody c index x.entry.meadow p.cmd = some (.ok t) → exec (.postedInstructionComplete c index none) s = .next (t.postDone c index .ok)) ∧
      (∀ code obs, s.postedBody c index x.entry.meadow p.cmd = some (.fail code obs) →
        exec (.postedInstructionComplete c index none) s = .next (s.postDone c index code obs)) ∧
      exec (.postedInstructionComplete c index (some .checkFail)) s = .next (s.postDone c index .checkFail) ∧
      exec (.postedInstructionComplete c index (some .writeCollided)) s = .next ((s.bump Reg.COMMONS_COLLISIONS).postDone c index .writeCollided))) ∧
  (∀ (s : State) (c : Nat) (w : IWord) (x : Ctx), Runs s c 0x06 w x →
    (x.posted.any (fun p => p.done.isNone) = true →
      exec (.fence c w) s = .next (s.setCtx c { x with phase := .fencing, wait := .none })) ∧
    (x.posted.all (fun p => p.done == some .ok) = true →
      exec (.fence c w) s = .next ((s.setCtx c { x with posted := [] }).advance c)) ∧
    (∀ p code, x.posted.all (fun q => q.done.isSome) = true → p ∈ x.posted → p.done = some code → code ≠ .ok →
      (∀ q ∈ x.posted, q.done ≠ some .ok → q = p ∨ p.index < q.index) →
      exec (.fence c w) s = .next ((s.setCtx c { x with halted := x.pc + 1 < x.entry.prog.length }).endEntry c code p.index p.obs)))

/-- R162, R136: `LTN_CREATE` with a model installed and a fit adapter opens the named entry, or the lowest free
one when op_b is all ones, in `IDLE` with its record deed `HOME` here at epoch 1 and its idle timer armed;
`LTN_CLOSE` of a lantern that is neither active nor in transfer frees it (a deed still in transfer goes on as a hosted entry);
`LTN_QUERY` writes the 128 bytes of Table 6.1 to op_c; of a lantern kept elsewhere both end with `STALE_MAP`; in every other state of the
lantern `LTN_CLOSE` names what it saw and changes nothing.

Model's own choices it rests on: log entries 40, 42, 154. -/
def Obligations.LanternCreateCloseQuery : Prop :=
  ∀ (s : State) (c : Nat) (w : IWord) (x : Ctx) (d : Bytes),
    (∀ l, Runs s c 0x18 w x → createZero d = true → le d 2 1 ≤ 63 → s.createEntry w = .ok l →
      (s.modelOf (le d 4 2)).isSome = true → s.adapterFit (le d 6 2) = true →
      let idle := if le d 52 4 = 0 then s.regN Reg.LTN_IDLE_DEFAULT else le d 52 4
      let lan : Lantern := { state := .idle, svc := le d 2 1, meadow := 0xFF, model := le d 4 2, adapter := le d 6 2, deeds := 1, idleTimeout := idle, cookie := le d 96 8, create := s.now }
      let record : Deed := { state := .home, home := s.me, epoch := 1, keeper := s.me, keeperLantern := 0xFFFFFFFF }
      exec (.ltnCreate c w d) s = .next (((((s.setLan l lan).startTimer l).setDeed (.own l 0) record).setOut (.instr c) (fun y => { y with lantern := some l })).advance c)) ∧
    (Runs s c 0x18 w x → (createZero d = false ∨ 63 < le d 2 1) → exec (.ltnCreate c w d) s = .next (s.failInstr c .badOperand)) ∧
    (let l := w.opb.toNat
     (Runs s c 0x19 w x → s.keeps l = true →
      ((s.lan l).state = .idle ∨ (s.lan l).state = .toolWait ∨ (s.lan l).state = .swapped ∨ (s.lan l).state = .hibernated ∨ (s.lan l).state = .orphaned) →
      (s.resuming l = false → exec (.ltnClose c w) s = .next ((s.closeLantern l).advance c)) ∧
      (s.resuming l = true → exec (.ltnClose c w) s = .next (s.failInstr c .illegalInState (obsOf 1 (lCode (s.lan l).state))))) ∧
     ((s.deedsOf l).filter (fun e => e.2.state == .lent || e.2.state == .incoming) = [] → s.closeLantern l = (s.freeLantern l).reapAdapters) ∧
     (Runs s c 0x19 w x → s.keeps l = true → ((s.lan l).state = .active ∨ (s.lan l).state = .lent) →
      exec (.ltnClose c w) s = .next (s.failInstr c .illegalInState (obsOf 1 (lCode (s.lan l).state)))) ∧
     (Runs s c 0x19 w x → s.keeps l = false → exec (.ltnClose c w) s = .next (s.failInstr c .staleMap)) ∧
     (Runs s c 0x1C w x → s.tracked (s.hdmSpan w.opc.toNat 128) = [] →
      (s.preQueryLantern l = none → s.splitsAt w.opc.toNat (s.lanternBytes l).length = false →
        exec (.ltnQuery c w) s = .next (((s.writeAt w.opc.toNat (s.lanternBytes l)).setOut (.instr c) (fun y => { y with outLen := 128 })).advance c)) ∧
      (s.preQueryLantern l = none → s.splitsAt w.opc.toNat (s.lanternBytes l).length = true → exec (.ltnQuery c w) s = .next (s.failInstr c .badOperand)) ∧
      ((s.lan l).state ≠ .closed → s.keeps l = false → exec (.ltnQuery c w) s = .next (s.failInstr c .staleMap))))

/-- R18, R136, R276, Table 6.3: `LTN_PARK` to a tier of this Cucia that can hold the lantern's pages makes the lantern
`LENT` with its prior state recorded, its bytes counted in class 3, and waits; without room in class 3 the instruction waits, and an
unpacked lantern does so in the packed tier, if that holds it.

Table 6.3, R71, R276: the commit of a park: packed in its prior state, `SWAPPED`, or `HIBERNATED` with its timer off and its map
records durable; a failure gives the prior state back; a commit to flash comes behind the reads of resumes.

Model's own choices it rests on: log entries 36, 40. -/
def Obligations.LanternPark : Prop :=
  (∀ (s : State) (c : Nat) (w : IWord) (x : Ctx),
    let l := w.opb.toNat
    (Runs s c 0x1A w x → s.keeps l = true → ((s.lan l).state = .idle ∨ (s.lan l).state = .toolWait) → s.resuming l = false → s.packsFor l (.instr c) = false →
      (∀ t, w.flags.toNat % 4 = 0 → s.canHold l 1 = true → s.startPark l 1 (.instr c) = some t →
        exec (.ltnPark c w) s = .next (t.settle c (.wait t .op))) ∧
      (∀ t, w.flags.toNat % 4 = 1 → s.canHold l 2 = true → s.classRoom 3 = true → s.startPark l 2 (.instr c) = some t →
        exec (.ltnPark c w) s = .next (t.settle c (.wait t .op))) ∧
      (∀ t, w.flags.toNat % 4 = 2 → s.canHold l 4 = true → s.fls.state ≠ .readOnly → s.classRoom 3 = true →
        s.startPark l 4 (.instr c) = some t → exec (.ltnPark c w) s = .next (t.settle c (.wait t .op))) ∧
      (w.flags.toNat % 4 = 1 → s.canHold l 2 = true → s.classRoom 3 = false →
        exec (.ltnPark c w) s = .next ((s.waitPacked l (.instr c)).settle c (.wait (s.waitPacked l (.instr c)) (.room 3 s.now)))) ∧
      (w.flags.toNat % 4 = 2 → s.fls.state = .readOnly → exec (.ltnPark c w) s = .next (s.failInstr c .mediaReadOnly)) ∧
      (w.flags.toNat % 4 = 1 → s.canHold l 2 = false → exec (.ltnPark c w) s = .next (s.failInstr c .noSpace))) ∧
    (Runs s c 0x1A w x → s.keeps l = false → exec (.ltnPark c w) s = .next (s.failInstr c .staleMap)) ∧
    (∀ o, (s.lan l).packed = false → s.canHold l 1 = true → s.waitPacked l o = (s.startPark l 1 .engine (some o)).getD s) ∧
    (∀ tier o v t, s.startPark l tier o v = some t →
      ∃ u pages, s.parkPlaces tier (s.parkList l) = some (pages, u) ∧
        (t.lan l).state = .lent ∧ (t.lan l).prior = (s.lan l).state ∧
        t.lore.parks = u.lore.parks ++ [{ lantern := l, tier := tier, owner := o, pages := pages, bytes := if tier = 1 then 0 else ownedBytes (s.parkList l), waiting := v }])) ∧
  (∀ (s : State) (l : Nat) (p : Park) (fail : Option Code), s.lore.parks.find? (·.lantern == l) = some p →
    let s0 := (s.mapLore (fun y => { y with parks := y.parks.filter (·.lantern != l) })).subQueued 3 p.bytes
    let moved := ((s0.copyPages (s0.parkList l) p.pages).freeOld (s0.parkList l) p.pages).replaceList (.lantern l) p.pages
    (p.tier = 1 → fail = none → ∀ m, s0.recodeAt (.lantern l) (s0.lan l).model (s0.packRatio (s0.lan l).model) = some m →
      let n := ownedBytes (m.parkList l)
      let t := m.setLan l { m.lan l with state := (m.lan l).prior, prior := .closed, packed := true, parkTier := 1, parkedBytes := n, timer := m.now }
      exec (.parkCommit l fail) s = .next ((if p.waiting.isSome then t else t.rearm l 0).finish p.owner .ok)) ∧
    (p.tier = 2 → fail = none →
      let n := ownedBytes (moved.parkList l)
      let t := (moved.setLan l { moved.lan l with state := .swapped, prior := .closed, packed := false, parkTier := 2, parkedBytes := n }).rearm l 1
      exec (.parkCommit l fail) s = .next (t.finish p.owner .ok)) ∧
    (p.tier = 4 → fail = none → s.fls.state = .ready → s.flashReads = false →
      let m := moved.journalAll
      let n := ownedBytes (m.parkList l)
      let t := m.setLan l { m.lan l with state := .hibernated, prior := .closed, packed := false, parkTier := 4, parkedBytes := n, timer := 0, cacheRefused := false }
      exec (.parkCommit l fail) s = .next ((t.publish p.owner 1 n n).finish p.owner .ok)) ∧
    (p.tier = 4 → (s.fls.state = .restoring ∨ s.flashReads = true) → exec (.parkCommit l fail) s = .next s) ∧
    (p.tier ≠ 4 → ∀ code, fail = some code → (code = .noSpace ∨ code = .mediaReadOnly ∨ code = .checkFail) →
      exec (.parkCommit l fail) s = .next (s0.parkFailed p code)))

/-- R138, R175, R277, Table 6.3: `LTN_RESUME` that its admission lets go: a lantern in GDDR7 is `IDLE` again at once, a packed one back at
its model's ratio; one in host memory or on flash waits for its pages; a near-state resume (flags[8]) marks the lantern near. A
precondition that fails ends it with its code, and fails the request admitted with it.

R71, R82, R83, R277: the commit of a resume in move mode: the pages are back in GDDR7, the lantern's fields as Table 6.3 says,
its slot free, the promise kept in this beat; a third retry or a rebuild from parity counts as a media fault of the promise; a resume
that fails gives its lantern and request their states back and its owner the code; without room in the pool it waits.

Model's own choices it rests on: log entries 40, 41. -/
def Obligations.LanternResume : Prop :=
  (∀ (s : State) (c : Nat) (w : IWord) (x : Ctx),
    let l := w.opb.toNat
    (Runs s c 0x1B w x → s.preResume w c = none → ∀ t id n, s.admitAt c x (s.itemResume x.pc w c x.entry.meadow) = .go t id n →
      let u := (t.setOut (.instr c) (fun y => { y with lantern := some l })).endPhase id 1 t.now
      let r : Resume := { lantern := l, tier := if w.flag 8 then 0 else resumeTier (t.resumeFrom l c), owner := .instr c, request := if (u.lan l).state = .active then (u.lan l).request else none, promise := id }
      let v := u.mapLore (fun y => { y with resumes := y.resumes ++ [r] })
      (w.flag 8 = true → ∀ z, (u.resumed l true).keepPromise id u.now = (z, .ok) → exec (.ltnResume c w) s = .next (z.advance c)) ∧
      (w.flag 8 = false → resumeTier (t.resumeFrom l c) = 0 → ∀ m, u.unpacked l = some m →
        ∀ z, (m.resumed l false).keepPromise id m.now = (z, .ok) → exec (.ltnResume c w) s = .next (z.advance c)) ∧
      (w.flag 8 = false → (resumeTier (t.resumeFrom l c) ≠ 0 ∨ u.unpacked l = none) → exec (.ltnResume c w) s = .next (v.settle c (.wait v .op)))) ∧
    (Runs s c 0x1B w x → s.keeps l = false → s.preResume w c = some (.staleMap, 0)) ∧
    (Runs s c 0x1B w x → ∀ code obs, s.preResume w c = some (code, obs) →
      exec (.ltnResume c w) s = .next ((s.failAdmitted (s.groupRequest l c) code).failInstr c code obs))) ∧
  (∀ (s : State) (l : Nat) (r : Resume) (rd : ReadReport), s.lore.resumes.find? (·.lantern == l) = some r →
    ¬ (r.tier = 4 ∧ s.fls.state = .restoring) →
    let done (t : State) : State := t.mapLore (fun y => { y with resumes := y.resumes.filter (·.lantern != l) })
    let old := s.parkList l
    exec (.resumeCommit l ⟨some .checkFail, rd⟩) s = .next (((done s).readPhases r.promise r.tier rd false).resumeFailed r .checkFail true) ∧
    (r.tier ≠ 0 → old.any (fun p => p.tier == 2 && (s.flLost p.loc (pageUnits p.ratio) || s.fls.state == .failed)) = false →
      (∀ new t, s.backPlaces old = some (new, t) →
        let u := ((((done t).copyPages old new).freeOld old new).replaceList (.lantern l) new)
        ∀ v code, (((done u).readPhases r.promise r.tier rd true).resumed l false).keepPromise r.promise (((done u).readPhases r.promise r.tier rd true).resumed l false).now = (v, code) →
          exec (.resumeCommit l ⟨none, rd⟩) s = .next (v.finish r.owner code)) ∧
      (s.backPlaces old = none → ∃ t, exec (.resumeCommit l ⟨none, rd⟩) s = .next t ∧ t.lore.lanterns = s.lore.lanterns ∧ t.mem = s.mem ∧
        t.lore.resumes = s.lore.resumes.map (fun q => if q.lantern = l then { q with read := true } else q))) ∧
    (∀ id p, s.promise id = some p → p.id = id → ((s.readPhases (some id) r.tier rd false).promise id).map (·.media) = some (p.media || decide (2 < rd.retries) || rd.rebuilt)))

/-- R20, R33, R168 to R172: at order 6, the entries and resumes of the beat first, a lantern whose idle timer has expired is parked into the
first tier from the chosen one on that can hold it; one that already sits in the chosen tier waits for the next threshold; with no tier it
raises `PARK_NO_SPACE` and tries again LTN_RETRY beats later. Before its time the timer does nothing.

Model's own choices it rests on: log entries 48, 152, 153. -/
def Obligations.IdleTimer : Prop :=
  ∀ (s0 : State) (l : Nat), s0.cdUp = true → s0.sys.blocks.any (fun b => b.1 == 4) = false →
    let s := s0.atOrder 6
    ((s.entriesWait = true ∨ s.resumeWaits l = true) → exec (.idleTimerExpiry l) s0 = .next s) ∧
    (s.entriesWait = false → s.resumeWaits l = false → (s.lan l).timer ≠ 0 → s.resuming l = false →
      (s.now < (s.lan l).timer → exec (.idleTimerExpiry l) s0 = .next s) ∧
      ((s.lan l).timer ≤ s.now → ((s.lan l).state = .idle ∨ (s.lan l).state = .toolWait) →
        (s.chosenTier l = sitsIn (s.lan l) → exec (.idleTimerExpiry l) s0 = .next (s.rearm l (s.chosenTier l - 1))) ∧
        (s.chosenTier l ≠ sitsIn (s.lan l) → ∀ i, s.tierFrom l (s.chosenTier l) = some i →
          exec (.idleTimerExpiry l) s0 = .next (s.enginePark l i)) ∧
        (s.chosenTier l ≠ sitsIn (s.lan l) → s.tierFrom l (s.chosenTier l) = none →
          let t := s.raise Ev.parkNoSpace 0 l 0 none 6
          ∃ u, exec (.idleTimerExpiry l) s0 = .next u ∧ u.io = t.io ∧ u.regs = t.regs ∧
            u.lan l = { t.lan l with timer := t.now + bits (t.regN Reg.LTN_RETRY) 15 0, cacheRefused := false })) ∧
      ((s.lan l).timer ≤ s.now → (s.lan l).state = .swapped → s.chosenTier l = 4 → s.canHold l 4 = true →
        exec (.idleTimerExpiry l) s0 = .next (s.enginePark l 4)))

/-- R139, R174, R180: `REQ_ADMIT` whose precondition holds and whose weighing accepts it takes a free entry and a row of
the meadow's program, reserves both, and makes the lantern `ACTIVE` on the meadow; one without deadline
carries none; one that was admitted with its group only goes on.

Model's own choices it rests on: log entries 30, 31. -/
def Obligations.RequestAdmitted : Prop :=
  ∀ (s : State) (c : Nat) (w : IWord) (d : Bytes) (x : Ctx), Runs s c 0x20 w x →
    (x.grants.any (fun g => g.index == x.pc && g.code == some .ok) = true → x.pc < x.group → exec (.reqAdmit c w d) s = .next (s.advance c)) ∧
    ((x.grants.any (fun g => g.index == x.pc && g.code == some .ok) = false ∨ x.group ≤ x.pc) →
    s.preAdmit w d x.entry.meadow false = none →
    ∀ t id n, s.admitAt c x (s.itemAdmit x.pc w d x.entry.meadow x.entry.fullTurn) = .go t id n →
    ∀ u, t.admitRequest c x w d false id ((if x.pc < x.group then x.admitBeat else t.now) + n) = some u →
      exec (.reqAdmit c w d) s = .next (u.advance c) ∧
      ∃ r h row, t.freeRequest = some r ∧ (t.mdw x.entry.meadow).program = some h ∧ t.freeRow x.entry.meadow h.rows = some row ∧
        (u.request r).state = .admitted ∧ (u.request r).row = some row ∧ (u.request r).lantern = w.opb.toNat ∧
        (u.request r).order = t.lore.nextOrder ∧ u.lore.nextOrder = t.lore.nextOrder + 1 ∧
        (u.request r).pTokens = le d 0 4 ∧ (u.request r).gMax = le d 4 4 ∧ (u.request r).generated = 0 ∧
        (u.lan w.opb.toNat).state = .active ∧ (u.lan w.opb.toNat).request = some r ∧ (u.lan w.opb.toNat).meadow = x.entry.meadow)

/-- R112, R80, R139, R79: the other request instructions on a request that is `ADMITTED` or `RUNNING`: `REQ_KILL` ends it
`KILLED` without a breach record; `REQ_SETPRIO` sets its priority and nothing else; `REQ_SETDEADLINE` succeeds for
every deadline beat that is not before the old one or not before the promised beat, and otherwise completes with
`REFUSED_BOUND` and leaves the old deadline and the bound; of a request without deadline, whose both beats are all
ones, it so takes only the deadline that says none. On a request in another state each names that state and has no effect.

Model's own choices it rests on: log entry 155. -/
def Obligations.RequestInstructions : Prop :=
  ∀ (s : State) (c : Nat) (w : IWord) (x : Ctx),
    let r := w.opb.toNat
    let q := s.request r
    ((q.state = .admitted ∨ q.state = .running) →
      (Runs s c 0x21 w x → exec (.reqKill c w) s = .next ((s.dropRequest r .killed .killed true).advance c)) ∧
      (Runs s c 0x22 w x → exec (.reqSetprio c w) s = .next ((s.setRequest r { q with prio := w.opa.toNat }).advance c)) ∧
      (Runs s c 0x23 w x → q.noDeadline = false → (q.promisedBeat ≤ s.deadlineOf w.opc.toNat ∨ q.deadlineBeat ≤ s.deadlineOf w.opc.toNat) →
        exec (.reqSetdeadline c w) s = .next (((s.setRequest r { q with deadlineBeat := s.deadlineOf w.opc.toNat }).updPromise q.promise (fun p => { p with d := s.deadlineOf w.opc.toNat })).advance c)) ∧
      (Runs s c 0x23 w x → q.noDeadline = false → s.deadlineOf w.opc.toNat < q.promisedBeat → s.deadlineOf w.opc.toNat < q.deadlineBeat →
        exec (.reqSetdeadline c w) s = .next (s.failInstr c .refusedBound)) ∧
      (Runs s c 0x23 w x → q.noDeadline = true → s.deadlineOf w.opc.toNat = 2 ^ 64 - 1 → exec (.reqSetdeadline c w) s = .next (s.advance c)) ∧
      (Runs s c 0x23 w x → q.noDeadline = true → s.deadlineOf w.opc.toNat ≠ 2 ^ 64 - 1 →
        exec (.reqSetdeadline c w) s = .next (s.failInstr c .refusedBound)) ∧
      (((s.failInstr c .refusedBound).request r).deadlineBeat = q.deadlineBeat ∧ ((s.failInstr c .refusedBound).request r).promisedBeat = q.promisedBeat)) ∧
    (q.state ≠ .admitted → q.state ≠ .running →
      (Runs s c 0x21 w x → exec (.reqKill c w) s = .next (s.failInstr c .illegalInState (obsOf 2 (rCode q.state)))) ∧
      (Runs s c 0x22 w x → exec (.reqSetprio c w) s = .next (s.failInstr c .illegalInState (obsOf 2 (rCode q.state)))) ∧
      (Runs s c 0x23 w x → exec (.reqSetdeadline c w) s = .next (s.failInstr c .illegalInState (obsOf 2 (rCode q.state)))))

/-- R139, R175: `REQ_RELEASE` of a `RUNNING` request lets it complete at its next commit, of a `DONE` one frees its entry,
the lantern going to `TOOL_WAIT` with the hint when flags[8] is set; a `DONE` request that software leaves for
REQ_RELEASE_TIMEOUT beats is released by the Cucia, and not before.

Table 6.3: a freed entry whose lantern is `ACTIVE` for it leaves the lantern `IDLE`, or `TOOL_WAIT` with the flag, the hint
and the beat of release noted, and the request entry free.

Model's own choices it rests on: log entry 43. -/
def Obligations.RequestRelease : Prop :=
  (∀ (s : State) (c : Nat) (w : IWord) (x : Ctx) (r : Nat),
    let q := s.request r
    (r = w.opb.toNat → Runs s c 0x24 w x → (s.lan q.lantern).state ≠ .lent →
      (q.state = .running → exec (.reqRelease c w) s = .next ((s.setRequest r { q with releasing := some (w.flag 8, w.opc.toNat) }).advance c)) ∧
      (q.state = .done → exec (.reqRelease c w) s = .next ((s.freeEntry r (if w.flag 8 then some w.opc.toNat else none)).advance c)) ∧
      (q.state ≠ .running → q.state ≠ .done → exec (.reqRelease c w) s = .next (s.failInstr c .illegalInState (obsOf 2 (rCode q.state))))) ∧
    (s.cdUp = true → q.state = .done → (s.lan q.lantern).state ≠ .lent →
      (q.doneBeat + s.regN Reg.REQ_RELEASE_TIMEOUT ≤ s.now → exec (.reqReleaseTimeout r) s = .next (s.freeEntry r none)) ∧
      (s.now < q.doneBeat + s.regN Reg.REQ_RELEASE_TIMEOUT → exec (.reqReleaseTimeout r) s = .next s))) ∧
  (∀ (s : State) (r : Nat) (tool : Option Nat),
    let q := s.request r
    let l := q.lantern
    (s.lan l).state = .active → (s.lan l).request = some r → q.resuming = false → s.mem.adapters = [] →
    let t := s.freeEntry r tool
    (t.request r).state = .free ∧ (t.lan l).request = none ∧ (t.lan l).release = s.now ∧
    (t.lan l).state = (if tool.isSome then LState.toolWait else .idle) ∧ (t.lan l).toolWaitFlag = tool.isSome ∧
    (∀ h, tool = some h → (t.lan l).hintUs = h))

/-- R141, R257, Table 5.10: the page instructions. `PG_ALLOC` appends all its pages or none; `PG_FREE` frees the pages of a list
that no step or move reads; `PG_SHARE` binds shared resident pages to a lantern kept here, each refcount one higher, none past 65,535;
`PG_APPEND` moves the pages of a list of software's own to the end of an unbound one, in order; a list
that the Cucia holds itself is read-only (the model's choice, notes/assumptions/170.md).

R141, R255, R257: the set instructions replace the output list by the union, the intersection or the difference of the two
input lists in ascending page identifier order, each page once; a shared page new to the output gains a reference, one that has 65,535
leaves no space; an input page outside GDDR7 is a reserved operand, a read-only output an access violation. What becomes of the pages
that leave the output is the model's choice (notes/assumptions/140.md). -/
def Obligations.PagesAndSets : Prop :=
  (∀ (s : State) (c : Nat) (w : IWord) (x : Ctx) (d : Bytes),
    (Runs s c 0x28 w x → w.opb ≠ 0 → s.listReadOnly (s.listAt w.opc.toNat) = false →
      (∀ ps t, s.takePages 0 w.opa.toNat w.opb.toNat = some (ps, t) →
        exec (.pgAlloc c w) s = .next ((t.appendPages (s.listAt w.opc.toNat) ps).advance c)) ∧
      (s.takePages 0 w.opa.toNat w.opb.toNat = none → exec (.pgAlloc c w) s = .next (s.failInstr c .noSpace))) ∧
    (Runs s c 0x28 w x → w.opb = 0 → exec (.pgAlloc c w) s = .next (s.failInstr c .badOperand)) ∧
    (Runs s c 0x28 w x → w.opb ≠ 0 → s.listReadOnly (s.listAt w.opc.toNat) = true → exec (.pgAlloc c w) s = .next (s.failInstr c .illegalInState)) ∧
    (let l := s.listAt w.opc.toNat
     (Runs s c 0x29 w x → s.listBusy l = false → s.listReadOnly l = false → exec (.pgFree c w) s = .next (((s.dropPages (s.pagesAt l)).emptyList l).advance c)) ∧
     (Runs s c 0x29 w x → s.listBusy l = false → s.listReadOnly l = true → exec (.pgFree c w) s = .next (s.failInstr c .accessViolation)) ∧
     (Runs s c 0x29 w x → s.listBusy l = true → exec (.pgFree c w) s = .next (s.failInstr c .illegalInState))) ∧
    (Runs s c 0x2A w x → s.keeps w.opb.toNat = false → exec (.pgShare c w d) s = .next (s.failInstr c .staleMap)) ∧
    (Runs s c 0x2A w x → s.keeps w.opb.toNat = true →
      (s.setDesc w.opc.toNat = none → exec (.pgShare c w d) s = .next (s.failInstr c .notResident)) ∧
      (∀ ps a b, s.setDesc w.opc.toNat = some (ps, a, b) →
        ((∃ p ∈ ps, p.shared = false ∨ p.tier ≠ 0 ∨ s.refcount p.loc = 0) → exec (.pgShare c w d) s = .next (s.failInstr c .notResident)) ∧
        ((∀ p ∈ ps, p.shared = true ∧ p.tier = 0 ∧ s.refcount p.loc ≠ 0) →
          ((∃ p ∈ ps, s.refcount p.loc = 65535) → exec (.pgShare c w d) s = .next (s.failInstr c .noSpace)) ∧
          ((∀ p ∈ ps, s.refcount p.loc ≠ 65535) →
            let t := ps.foldl (fun s p => s.setRef p.loc (s.refcount p.loc + 1)) s
            exec (.pgShare c w d) s = .next ((t.setLan w.opb.toNat { t.lan w.opb.toNat with shared := (t.lan w.opb.toNat).shared ++ ps }).advance c))))) ∧
    (∀ a b, Runs s c 0x2B w x → s.listAt (le d 0 8) = .user a → s.listAt (le d 8 8) = .user b →
      ((s.plist a).bound = none → (s.plist b).bound = none → (s.plist a).readOnly = false → (s.plist b).readOnly = false →
        let t := s.setPlist a { s.plist a with pages := [] }
        exec (.pgAppend c w d) s = .next ((t.setPlist b { t.plist b with pages := (t.plist b).pages ++ (s.plist a).pages }).advance c)) ∧
      ((s.plist b).bound ≠ none → (s.plist a).bound ≠ (s.plist b).bound → exec (.pgAppend c w d) s = .next (s.failInstr c .illegalInState))) ∧
    (∀ ps, Runs s c 0x2B w x → s.listAt (le d 0 8) = .held ps → s.listOwner (s.listAt (le d 8 8)) = none →
      exec (.pgAppend c w d) s = .next (s.failInstr c .accessViolation))) ∧
  (∀ (s : State) (c : Nat) (w : IWord) (x : Ctx) (d : Bytes) (i : Instr) (op : Nat) (f : List Page → List Page → List Page),
    let a := s.pagesAt (s.listAt (le d 0 8))
    let b := s.pagesAt (s.listAt (le d 8 8))
    let out := s.listAt (le d 16 8)
    let old := s.pagesAt out
    let ps := sortPages (f a b)
    ((i = .setUnion c w d ∧ op = 0x2C ∧ f = fun a b => a ++ b) ∨
     (i = .setIntersect c w d ∧ op = 0x2D ∧ f = fun a b => a.filter (fun p => b.any (fun q => q.loc == p.loc))) ∨
     (i = .setDiff c w d ∧ op = 0x2E ∧ f = fun a b => a.filter (fun p => !b.any (fun q => q.loc == p.loc)))) →
    Runs s c op w x →
    (zeroAt d 24 8 = true → (∀ p ∈ a ++ b, p.tier = 0) →
      (s.listReadOnly out = true → exec i s = .next (s.failInstr c .accessViolation)) ∧
      (s.listReadOnly out = false →
        ((∃ p ∈ ps, p.shared = true ∧ (∀ q ∈ old, q.loc ≠ p.loc) ∧ 65535 ≤ s.refcount p.loc) → exec i s = .next (s.failInstr c .noSpace)) ∧
        ((∀ p ∈ ps, p.shared = true → (∀ q ∈ old, q.loc ≠ p.loc) → s.refcount p.loc < 65535) →
          exec i s = .next ((((s.relist old ps).emptyList out).appendPages out ps).advance c)))) ∧
    ((zeroAt d 24 8 = false ∨ ∃ p ∈ a ++ b, p.tier ≠ 0) → exec i s = .next (s.failInstr c .badOperand)) ∧
    (∀ ps : List Page, (sortPages ps).Pairwise (fun p q => p.loc < q.loc) ∧ (∀ n, (∃ p ∈ sortPages ps, p.loc = n) ↔ ∃ p ∈ ps, p.loc = n)))

/-- R258 to R263: `SET_HASH` of a list writes the chained hash of every full page group and their number to out_len;
`PREFIX_MATCH` writes the longest chain of trie nodes that the hashes match as a set descriptor and its page count;
with free KV space low and background share left, the eviction takes the least recently used leaf whose pages no one else shares.

Model's own choices it rests on: log entries 21, 42. -/
def Obligations.PrefixInstructions : Prop :=
  ∀ (s : State) (c : Nat) (w : IWord) (x : Ctx) (d : Bytes) (tokens : List (BitVec 16)) (hashes : List Digest),
    (∀ m, Runs s c 0x2F w x → s.tracked (s.hashWrites d tokens) = [] → s.preHash d = none → s.modelOf (le d 24 2) = some m →
      let hs := groupHashes m.model (le d 26 2) (le d 28 2) m.pageTokens (s.fullGroups (s.listAt (le d 0 8)) m.layers m.pageTokens) true 0 tokens
      let b := hs.flatMap digestBytes
      exec (.setHash c w d tokens true) s = .next (s.failInstr c .checkFail) ∧
      (s.splitsAt (le d 16 8) b.length = true → exec (.setHash c w d tokens false) s = .next (s.failInstr c .badOperand)) ∧
      (s.splitsAt (le d 16 8) b.length = false → le d 30 1 = 0 →
        exec (.setHash c w d tokens false) s = .next (((s.writeAt (le d 16 8) b).setOut (.instr c) (fun y => { y with outLen := hs.length })).advance c)) ∧
      (∀ l, s.splitsAt (le d 16 8) b.length = false → le d 30 1 = 1 → s.listAt (le d 0 8) = .lantern l →
        exec (.setHash c w d tokens false) s = .next ((((s.writeAt (le d 16 8) b).publishGroups l m.model (le d 26 2) m.layers m.pageTokens
          ((s.writeAt (le d 16 8) b).pagesAt (.lantern l)) 0 none hs).setOut (.instr c) (fun y => { y with outLen := hs.length })).advance c))) ∧
    (∀ code obs, Runs s c 0x2F w x → s.preHash d = some (code, obs) → exec (.setHash c w d tokens false) s = .next (s.failInstr c code obs)) ∧
    (s.preHash d = none → le d 30 1 ≤ 1 ∧ zeroAt d 31 1 = true ∧ (s.modelOf (le d 24 2)).isSome = true) ∧
    (Runs s c 0x30 w x → zeroAt d 18 14 = false → exec (.prefixMatch c w d hashes) s = .next (s.failInstr c .badOperand)) ∧
    (Runs s c 0x30 w x → zeroAt d 18 14 = true → s.matchChain (le d 12 2) (le d 14 2) none (hashes.take (le d 8 4)) = [] →
      let at_ := Config.structAddr 7 s.mem.setDescs.length
      exec (.prefixMatch c w d hashes) s = .next (((s.mapMem (fun m => { m with setDescs := Tbl.put (Tbl.drop m.setDescs at_) at_ ([], 0, 0) })).setOut (.instr c)
        (fun y => { y with out0 := at_, outLen := 0 })).advance c)) ∧
    (∀ i n, Runs s c 0x30 w x → zeroAt d 18 14 = true → s.matchChain (le d 12 2) (le d 14 2) none (hashes.take (le d 8 4)) = [(i, n)] →
      let at_ := Config.structAddr 7 s.mem.setDescs.length
      let t := s.mapMem (fun m => { m with trie := Tbl.put (Tbl.drop m.trie i) i { n with lastUse := s.now % 2 ^ 32 } })
      exec (.prefixMatch c w d hashes) s = .next (((t.mapMem (fun m => { m with setDescs := Tbl.put (Tbl.drop m.setDescs at_) at_ (n.pages, n.posStart, 1) })).setOut (.instr c)
        (fun y => { y with out0 := at_, outLen := n.pages.length })).advance c)) ∧
    (∀ i n, s.cdUp = true → s.kvLow = true → s.evictable = some (i, n) → s.bgRooms (freeCost n.pages) = true →
      exec .trieEviction s = .next ((((s.bgUses (freeCost n.pages)).dropPages n.pages).mapMem (fun m => { m with trie := Tbl.drop m.trie i })).bump Reg.PREFIX_EVICTED)) ∧
    (∀ i n, s.evictable = some (i, n) → s.bgRooms (freeCost n.pages) = false → exec .trieEviction s = .next s) ∧
    (s.kvLow = false → exec .trieEviction s = .next s)

/-- R272, R273, R148: `EMBER` frees the pages of a `HOME` deed and leaves it an ember of its lantern, or sends the keeper the ember
notice of a deed hosted here; automatic embering, once a beat, begins when free KV space is low and no trie leaf can go, takes at most
EMBER_PER_BEAT deeds a beat, and ends when free space has reached KV_EMBER_HIGH.

Model's own choices it rests on: log entries 43, 44. -/
def Obligations.Embers : Prop :=
  ∀ (s : State) (c : Nat) (w : IWord) (x : Ctx),
    (∀ l i, Runs s c 0x50 w x → s.preEmber w = none → s.deedOperand w = .ok (.own l i) →
      exec (.ember c w) s = .next (((s.freeData (.own l i)).toEmber l i (s.deed (.own l i)).epoch).advance c)) ∧
    (∀ i, Runs s c 0x50 w x → s.preEmber w = none → s.deedOperand w = .ok (.hosted i) →
      let k := s.keyOf (.hosted i)
      exec (.ember c w) s = .next ((((s.freeData (.hosted i)).setDeed (.hosted i) {}).sendDeed k.keeper
        (.emberNote { key := k, home := 0, epoch := (s.deed (.hosted i)).epoch + 1 })).advance c)) ∧
    (∀ code obs, Runs s c 0x50 w x → s.preEmber w = some (code, obs) → exec (.ember c w) s = .next (s.failInstr c code obs)) ∧
    (w.flag 9 = true → s.preEmber w = some (.badOperand, 0)) ∧
    ((s.cdUp = false ∨ s.sys.blocks.any (fun b => b.1 == 4) = true ∨ s.lore.emberBeat = some s.now) → exec .autoEmber s = .next s) ∧
    (s.cdUp = true → s.sys.blocks.any (fun b => b.1 == 4) = false → s.lore.emberBeat ≠ some s.now →
      let t := (s.atOrder 6).mapLore (fun l => { l with emberBeat := some s.now })
      (t.lore.embering = true → 1 ≤ bits (t.regN Reg.EMBER_PER_BEAT) 3 0 → t.regN Reg.KV_EMBER_HIGH ≤ t.kvFree →
        exec .autoEmber s = .next (t.mapLore (fun l => { l with embering := false }))) ∧
      (∀ l r, t.lore.embering = true → bits (t.regN Reg.EMBER_PER_BEAT) 3 0 = 1 → t.kvFree < t.regN Reg.KV_EMBER_HIGH →
        t.emberChoice = some (l, r) → t.bgRooms (freeCost (t.deed r).pages) = true →
        exec .autoEmber s = .next ((((t.bgUses (freeCost (t.deed r).pages)).emberDeed r).bump Reg.EMBER_AUTO_COUNT).raise Ev.emberAuto 0 l (t.keyOf r).deed none 6)) ∧
      (t.lore.embering = false → (t.kvLow = false ∨ ∃ e, t.evictable = some e) → exec .autoEmber s = .next t))

/-- R149, R150, R295, R299 to R302: `PACK` and `UNPACK`. The fixed-rate codec re-encodes a list that no one reads at the ratio (uncompressed
for `UNPACK`), all or nothing; the exact codec writes the packed blocks, or the original, to the destination and its length to out_len;
a destination smaller than the charged size fails with `NO_SPACE`; a lost commons write ends with `WRITE_COLLIDED`.

Model's own choices it rests on: log entry 60. -/
def Obligations.CodecInstructions : Prop :=
  ∀ (s : State) (c : Nat) (w : IWord) (x : Ctx) (d given : Bytes) (i : Instr) (op : Nat) (pack : Bool),
    Runs s c op w x → s.tracked (s.codecReads w d ++ s.codecWrites w d) = [] →
    (∀ code obs, s.preCodec pack w d = some (code, obs) →
      (i = .pack c w d given none ∧ op = 0x58 ∧ pack = true) ∨ (i = .unpack c w d given none ∧ op = 0x59 ∧ pack = false) → exec i s = .next (s.failInstr c code obs)) ∧
    (s.preCodec pack w d = none →
      ((i = .pack c w d given (some .checkFail) ∧ op = 0x58 ∧ pack = true) ∨ (i = .unpack c w d given (some .checkFail) ∧ op = 0x59 ∧ pack = false) →
        exec i s = .next (s.failInstr c .checkFail)) ∧
      ((i = .pack c w d given (some .writeCollided) ∧ op = 0x58 ∧ pack = true) ∨ (i = .unpack c w d given (some .writeCollided) ∧ op = 0x59 ∧ pack = false) →
        exec i s = .next ((s.bump Reg.COMMONS_COLLISIONS).failInstr c .writeCollided)) ∧
      (∀ t, w.flag 8 = false → op = 0x58 → pack = true →
        s.recodeAt (s.listAt (le d 0 8)) (s.modelOfList (s.listAt (le d 0 8))) (b2n (w.flag 9) + 2 * b2n (w.flag 10)) = some t →
        exec (.pack c w d given none) s = .next (t.advance c)) ∧
      (∀ t, w.flag 8 = false → op = 0x59 → pack = false → s.recodeAt (s.listAt (le d 0 8)) (s.modelOfList (s.listAt (le d 0 8))) 0 = some t →
        exec (.unpack c w d given none) s = .next (t.advance c)) ∧
      (∀ src t, w.flag 8 = true → s.sourceAt (le d 0 8) (le d 16 8) given = (some src, t) →
        (∀ out raw, op = 0x58 → pack = true → exactPack (le d 32 1) (bit (le d 33 1) 0) src = (out, raw) → t.splitsAt (le d 8 8) out.length = false →
          exec (.pack c w d given none) s = .next ((((t.writeAt (le d 8 8) out).bump Reg.EXACT_RAW_BLOCKS raw).setOut (.instr c) (fun y => { y with outLen := out.length })).advance c)) ∧
        (op = 0x59 → pack = false →
          (∀ code, expandAll (le d 24 8) (src.length / 32 + 1) [] src = .error code →
            exec (.unpack c w d given none) s = .next ((t.countExpand ((t.expanderOf x.entry.meadow).getD 0) src.length 0 (some code)).failInstr c code)) ∧
          (∀ out, expandAll (le d 24 8) (src.length / 32 + 1) [] src = .ok out →
            let u := t.countExpand ((t.expanderOf x.entry.meadow).getD 0) src.length out.length none
            u.splitsAt (le d 8 8) out.length = false →
            exec (.unpack c w d given none) s = .next (((u.writeAt (le d 8 8) out).setOut (.instr c) (fun y => { y with outLen := out.length })).advance c)))) ∧
      (∀ t, w.flag 8 = true → s.sourceAt (le d 0 8) (le d 16 8) given = (none, t) →
        (op = 0x58 → pack = true → exec (.pack c w d given none) s = .next (t.failInstr c .checkFail)) ∧
        (op = 0x59 → pack = false → exec (.unpack c w d given none) s = .next (t.failInstr c .checkFail)))) ∧
    (w.flag 8 = true → w.flag 9 = false → w.flag 10 = false → codecShape true true d = true →
      (le d 24 8 < chargedSize (le d 16 8) ↔ s.preCodec true w d = some (.noSpace, 0)))

/-- R295: the exact codec gives back what it packed: expanding the packed form of any number of whole elements answers the
original bytes. -/
def Obligations.ExactCodecRoundTrip : Prop :=
  ∀ (kind cap : Nat) (padded : Bool) (src : Bytes), kind ≤ 0xB → src ≠ [] → src.length % exactWidth kind = 0 → src.length ≤ cap →
    expandAll cap ((exactPack kind padded src).1.length / 32 + 1) [] (exactPack kind padded src).1 = .ok src

/-- R142, R195, R203, R205, Table 5.11: the deed instructions. `MOVE_STATE` whose precondition holds and whose weighing accepts it
starts the move and waits for its end; `DEED_QUERY` of this Cucia itself answers at once, of another sends the
query and waits DEED_TIMEOUT beats; `DEED_DECREE` of an orphaned deed to this Cucia makes it `HOME` here at the given
epoch; `DEED_RELEASE` frees a `HOME` deed other than deed 0.

Model's own choices it rests on: log entries 36, 76. -/
def Obligations.DeedInstructions : Prop :=
  ∀ (s : State) (c : Nat) (w : IWord) (x : Ctx) (d : Bytes) (r : DRef), s.deedOperand w = .ok r →
    (∀ t id n, Runs s c 0x38 w x → s.preMove w = none → s.moveOperand w = .ok r →
      s.admitAt c x (s.itemMove x.pc w) = .go t id n →
      let p := t.movePlan (w.flag 8) r
      let k := ((id.bind t.promise).map (·.k)).getD t.now
      let b := ((id.bind t.promise).map (·.n)).getD n
      let u := t.startMove (.instr c) x.entry.ring x.entry.slot w.opc p 1 x.entry.svc k b id (id.getD 0) false
      exec (.moveState c w) s = .next (u.settle c (.wait u .op))) ∧
    (∀ code obs, Runs s c 0x38 w x → s.preMove w = some (code, obs) → exec (.moveState c w) s = .next (s.failInstr c code obs)) ∧
    (Runs s c 0x39 w x → NodeId.valid w.opc = true → w.opc = s.me →
      let a := s.answerFor { key := s.keyOf r, epoch := (s.deed r).epoch, query := s.lore.nextMove, homeAtSender := if (s.deed r).state = .home then some (s.deed r).epoch else none }
      exec (.deedQuery c w) s = .next ((s.setOut (.instr c) (fun y => { y with out0 := s.viewWord a.code a.home a.epoch, out1 := s.localView r })).advance c)) ∧
    (Runs s c 0x39 w x → NodeId.valid w.opc = true → w.opc ≠ s.me →
      let q : DeedQuery := { key := s.keyOf r, epoch := (s.deed r).epoch, query := s.lore.nextMove, homeAtSender := if (s.deed r).state = .home then some (s.deed r).epoch else none }
      let o : QueryOut := { id := s.lore.nextMove, c := c, dst := w.opc, key := s.keyOf r, gap := bits (s.regN Reg.DEED_QUERY_GAP) 15 0, till := s.now + bits (s.regN Reg.DEED_TIMEOUT) 23 0, sentBeat := s.now, localView := s.localView r }
      let t := (s.mapLore (fun l => { l with queries := l.queries ++ [o], nextMove := l.nextMove + 1 })).sendDeed w.opc (.query q)
      exec (.deedQuery c w) s = .next (t.settle c (.wait t .op))) ∧
    (∀ l i, Runs s c 0x3A w x → r = .own l i → i ≠ 0 → (s.deed r).state = .orphaned → (s.deed r).region = false →
      BitVec.ofNat 64 (le d 0 8) = s.me → NodeId.valid s.me = true → zeroAt d 12 4 = true → (s.deed r).epoch < le d 8 4 →
      exec (.deedDecree c w d) s = .next ((s.setDeed r { s.deed r with state := .home, epoch := le d 8 4, home := s.me, peer := 0 }).advance c)) ∧
    (Runs s c 0x3A w x → NodeId.valid (BitVec.ofNat 64 (le d 0 8)) = true → zeroAt d 12 4 = true → (s.deed r).region = false →
      (s.deed r).state ≠ .orphaned → exec (.deedDecree c w d) s = .next (s.failInstr c .illegalInState (obsOf 3 (dCode (s.deed r).state)))) ∧
    (∀ l i, Runs s c 0x3B w x → r = .own l i → s.preRelease w = none →
      exec (.deedRelease c w) s = .next (((s.freeData r).setDeed r { (s.freeData r).deed r with state := .none, home := 0, epoch := 0 }).advance c)) ∧
    (∀ code obs, Runs s c 0x3B w x → s.preRelease w = some (code, obs) → exec (.deedRelease c w) s = .next (s.failInstr c code obs))

/-- R196 to R198, R201: the destination of a move. An open that names a deed held `HOME` here at no lower epoch is refused
with `STALE_EPOCH`, one for which pages or entries lack with `NO_SPACE`; else its deeds enter `INCOMING`. The sealed
last data frame commits the move when every byte arrived and every check held, and else ends it with `CHECK_FAIL`;
an abort abandons it. A keeper's record enters `INCOMING` from `REMOTE` only (Table 7.3).

R199 to R202, R206: the source of a move. Its receipt frees the deeds with the receipt's commit beat; a refusal gives
them back with the refusing code; a kill of a streaming move sends an abort and gives them back `KILLED`; past the
receipt deadline the source asks once, repeats every DEED_QUERY_GAP beats, and DEED_TIMEOUT beats past the deadline leaves the deeds
orphaned; no timer acts before its beat, and a move that has ended hears neither a late receipt nor an answer.

Model's own choices it rests on: log entries 76, 147, 149. -/
def Obligations.MoveTransfer : Prop :=
  (∀ (s t : State) (f : Frame) (o : MoveOpen) (data : Bytes) (ok : Bool) (m : MoveIn),
    (∀ (u : State) (l : Option Nat) (d : OpenDeed) (ds : List OpenDeed),
      (l = none → d.key.keeper = u.me → d.key.region = false → (u.deed (.own d.key.lantern d.key.deed)).state ≠ .none →
        (u.deed (.own d.key.lantern d.key.deed)).state ≠ .remote → u.takeDeeds f.src l (d :: ds) = none) ∧
      (∀ k, l = some k → ∀ ps v, u.takeRatios d.pages = some (ps, v) → ∃ w : State, (w.deed (.own k d.key.deed)).state = .incoming ∧ (w.deed (.own k d.key.deed)).epoch = d.epoch ∧
        u.takeDeeds f.src l (d :: ds) = (w.takeDeeds f.src l ds).map (fun q => (.own k d.key.deed :: q.1, q.2)))) ∧
    (Delivered s f .openK t →
      let u := t.mapLore (fun l => { l with opensSeen := true })
      (∀ d r, o.deeds = [d] → u.findDeed d.key = some r → (u.deed r).state = .home → d.epoch ≤ (u.deed r).epoch →
        exec (.moveOpenReceive f o) s = .next ((u.sendNack f .openK .staleEpoch).acked f)) ∧
      (∀ d refs v, o.deeds = [d] → u.findDeed d.key = none → o.lantern = none → u.lore.movesIn.length < 256 →
        u.takeDeeds f.src none [d] = some (refs, v) →
        exec (.moveOpenReceive f o) s = .next ((v.mapLore (fun l => { l with movesIn := l.movesIn ++
          [{ id := f.ref, src := f.src, op := o, refs := refs, lantern := none, request := none, got := 0, till := o.promised + bits (u.regN Reg.DEED_TIMEOUT) 23 0, badCheck := false, parked := f.tc == 3 }] })).acked f)) ∧
      (∀ d, o.deeds = [d] → u.findDeed d.key = none → o.lantern = none → (256 ≤ u.lore.movesIn.length ∨ u.takeDeeds f.src none [d] = none) →
        exec (.moveOpenReceive f o) s = .next ((u.sendNack f .openK .noSpace).acked f))) ∧
    (Delivered s f .data t → t.lore.movesIn.find? (fun m => m.id == f.ref && m.src == f.src) = some m →
      let pages := m.refs.flatMap (fun r => (t.deed r).pages) ++ (match m.lantern with | none => [] | some l => (t.lan l).shared)
      let m' : MoveIn := { m with got := m.got + data.length, badCheck := m.badCheck || !ok }
      let u := (t.writeStream pages f.offset data).mapLore (fun l => { l with movesIn := l.movesIn.map (fun y => if y.id = m.id ∧ y.src = m.src then m' else y) })
      (f.sealBit = false → exec (.moveDataReceive f data ok) s = .next (u.acked f)) ∧
      (f.sealBit = true → m.got + data.length = m.op.rateSize → m.badCheck = false → ok = true →
        exec (.moveDataReceive f data ok) s = .next ((u.moveCommit m').acked f)) ∧
      (f.sealBit = true → (m.got + data.length ≠ m.op.rateSize ∨ m.badCheck = true ∨ ok = false) →
        exec (.moveDataReceive f data ok) s = .next (((u.abandon m').sendNack f .data .checkFail).acked f))) ∧
    (Delivered s f .deed t → t.lore.movesIn.find? (fun m => m.id == f.ref && m.src == f.src) = some m →
      exec (.moveAbortReceive f) s = .next ((t.abandon m).acked f)) ∧
    (Delivered s f .data t → t.lore.movesIn.find? (fun m => m.id == f.ref && m.src == f.src) = none → f.sealBit = true →
      (∃ r ∈ t.lore.abandoned, r.src = f.src ∧ r.mv = f.ref) → exec (.moveDataReceive f data ok) s = .next ((t.sendNack f .data .staleEpoch).acked f)) ∧
    (∀ mv : Nat, s.lore.movesIn[mv]? = some m →
      (m.till < s.now → exec (.incomingAbandon mv) s = .next (s.abandon m)) ∧
      (s.now ≤ m.till → exec (.incomingAbandon mv) s = .next s))) ∧
  (∀ (s t : State) (f : Frame) (r : MoveReceipt) (n : Nack) (m : MoveOut) (mv : Nat),
    (Delivered s f .commit t → t.lore.movesOut.find? (fun m => m.id == f.ref && m.dst == f.src) = some m →
      exec (.moveReceiptReceive f r) s = .next ((t.moveFreed m r.lantern (some r.commitBeat)).acked f)) ∧
    (Delivered s f .nack t → (n.kind = .openK ∨ n.kind = .data ∨ n.kind = .commit) → t.moveOut n.ref = some m → m.dst = f.src →
      exec (.nackReceive f n) s = .next ((t.moveReturned m n.code).acked f)) ∧
    (∀ cp, Delivered s f .nack t → (n.kind = .openK ∨ n.kind = .data ∨ n.kind = .commit) → t.moveOut n.ref = none →
      t.copyOut n.ref = some cp → cp.dst = f.src → exec (.nackReceive f n) s = .next ((t.copyFailed cp n.code).acked f)) ∧
    (∀ ring slot, s.cdUp = true → s.lore.movesOut.find? (fun m => m.ring == ring && m.slot == slot && !m.parked && m.phase == 2) = some m →
      exec (.moveKill ring slot) s = .next ((s.send m.dst .deed 4 (openLen .deed) .moveAbort m.id).moveReturned m .killed true)) ∧
    (s.moveOut mv = some m → m.phase = 3 →
      (m.queried = 0 → m.deadline < s.now →
        let m' : MoveOut := { m with queried := s.now, gap := bits (s.regN Reg.DEED_QUERY_GAP) 15 0, tmo := bits (s.regN Reg.DEED_TIMEOUT) 23 0 }
        exec (.receiptDeadlineExpiry mv) s = .next ((s.setMove m').queryMove m')) ∧
      (s.now ≤ m.deadline → exec (.receiptDeadlineExpiry mv) s = .next s) ∧
      (m.queried ≠ 0 → m.queried + m.gap ≤ s.now →
        exec (.deedQueryRepeat mv) s = .next ((s.setMove { m with queried := s.now }).queryMove { m with queried := s.now })) ∧
      (m.queried ≠ 0 → s.now < m.queried + m.gap → exec (.deedQueryRepeat mv) s = .next s) ∧
      (m.queried ≠ 0 → m.deadline + m.tmo < s.now → exec (.deedTimeoutOrphan mv) s = .next (s.moveOrphaned m)) ∧
      (m.queried ≠ 0 → s.now ≤ m.deadline + m.tmo → exec (.deedTimeoutOrphan mv) s = .next s)) ∧
    (Delivered s f .commit t → t.lore.movesOut.find? (fun m => m.id == f.ref && m.dst == f.src) = none →
      exec (.moveReceiptReceive f r) s = .next (t.acked f)))

/-- R193, R198, R201, R202, R205: deed queries and answers. A query is answered from what this Cucia holds and logs; a query or an
answer that shows a higher epoch supersedes a deed `HOME` here, and one from a node that says it holds it `HOME` settles the two copies; the
answer to a move's query frees, returns or orphans its deeds by Table 7.5; an answer to a destination's query, by which the source no
longer has the deed `LENT` to it, abandons the transfer; the answer to `DEED_QUERY` completes it with both views; without one in time it
ends `TARGET_DEAD`.

R193, R203 to R205, R207: notices. At the keeper a notice of a new home or an ember with a higher epoch updates a `REMOTE` record, and
one at or below its epoch is ignored; a home notice for a deed `HOME` at a host settles the two copies; a decree's new home raises its
copy's epoch to the decree's, or raises the event, and acknowledges; the decree is repeated until then and forgotten at the
acknowledgement.

Model's own choices it rests on: log entries 76, 148, 149. -/
def Obligations.DeedMessages : Prop :=
  (∀ (s t : State) (f : Frame) (q : DeedQuery) (a : DeedAnswer),
    (Delivered s f .deed t →
      exec (.deedQueryReceive f q) s = .next (((t.sendDeed f.src (.answer (t.answerFor q))).deedMessage q.key f.src (q.homeAtSender.getD q.epoch) q.homeAtSender.isSome).acked f)) ∧
    (∀ (u : State) (r : DRef) (k : DeedKey) (n : NodeId) (e : Nat), u.findDeed k = some r →
      ((u.deed r).state ≠ .home → ∀ there, u.deedMessage k n e there = u) ∧
      ((u.deed r).state = .home →
        u.deedMessage k n e true = u.settle205 r n e ∧
        (e ≤ (u.deed r).epoch → u.deedMessage k n e false = u) ∧
        ((u.deed r).epoch < e → u.deedMessage k n e false = u.supersede r n e false) ∧
        (e < (u.deed r).epoch → u.settle205 r n e = u.raise Ev.deedConflict n (u.keyOf r).lantern (u.keyOf r).deed) ∧
        ((u.deed r).epoch < e → u.settle205 r n e = u.supersede r n e true) ∧
        (e = (u.deed r).epoch → u.settle205 r n e = (u.setDeed r { u.deed r with state := .orphaned }).raise Ev.deedConflict n (u.keyOf r).lantern (u.keyOf r).deed))) ∧
    (∀ m, Delivered s f .deed t → t.askedMove f.src a.query = some m →
      let e1 := ((m.deeds.head?).map (fun r => (t.deed r).epoch)).getD 0
      (∀ cb, table75 a e1 = .free cb → exec (.deedAnswerReceive f a) s = .next ((t.moveFreed m a.lantern cb).acked f)) ∧
      (table75 a e1 = .again → exec (.deedAnswerReceive f a) s = .next (t.acked f)) ∧
      (table75 a e1 = .back → exec (.deedAnswerReceive f a) s = .next ((t.moveReturned m .staleEpoch).acked f)) ∧
      (table75 a e1 = .orphan → exec (.deedAnswerReceive f a) s = .next ((t.moveOrphaned m).acked f))) ∧
    (Delivered s f .deed t → t.askedMove f.src a.query = none →
      let t := t.deedMessage a.key f.src a.epoch (a.code == 1 && a.home == f.src)
      (∀ o, t.lore.queries.find? (fun q => q.id == a.query && q.dst == f.src) = some o →
        let u := t.mapLore (fun l => { l with queries := l.queries.filter (fun y => y.id != o.id) })
        exec (.deedAnswerReceive f a) s = .next (((u.setOut (.instr o.c) (fun x => { x with out0 := u.viewWord a.code a.home a.epoch, out1 := o.localView })).finish (.instr o.c) .ok).acked f)) ∧
      (t.lore.queries.find? (fun q => q.id == a.query && q.dst == f.src) = none →
        (∀ m d, t.lore.movesIn.find? (fun m => m.query != 0 && m.query == a.query && m.src == f.src) = some m → m.op.deeds.find? (fun d => d.key == a.key) = some d →
          (a.code = 2 ∧ a.epoch = d.epoch → exec (.deedAnswerReceive f a) s = .next (t.acked f)) ∧
          (¬ (a.code = 2 ∧ a.epoch = d.epoch) → exec (.deedAnswerReceive f a) s = .next ((t.abandon m).acked f))) ∧
        (t.lore.movesIn.find? (fun m => m.query != 0 && m.query == a.query && m.src == f.src) = none → exec (.deedAnswerReceive f a) s = .next (t.acked f)))) ∧
    (∀ c o, s.lore.queries.find? (·.c == c) = some o →
      (o.till < s.now → exec (.deedQueryTimeout c) s =
        .next ((s.mapLore (fun l => { l with queries := l.queries.filter (fun y => y.id != o.id) })).finish (.instr c) .targetDead)) ∧
      (s.now ≤ o.till → exec (.deedQueryTimeout c) s = .next s))) ∧
  (∀ (s t : State) (f : Frame) (n : DeedNotice) (d : DecreeNotice) (a : DecreeAck) (id : Nat) (k : Decree),
    (Delivered s f .deed t →
      exec (.homeNoticeReceive f n) s = .next ((t.notice n f.src false).acked f) ∧
      exec (.emberNoticeReceive f n) s = .next ((t.notice n f.src true).acked f)) ∧
    (∀ (u : State) (r : DRef) (src : NodeId), u.findDeed n.key = some r →
      (∀ l i, r = .own l i → (u.deed r).state = .remote →
        (∀ b, n.epoch ≤ (u.deed r).epoch → u.notice n src b = u) ∧
        ((u.deed r).epoch < n.epoch → u.notice n src false = u.setDeed r { u.deed r with home := n.home, epoch := n.epoch } ∧ u.notice n src true = u.toEmber l i n.epoch)) ∧
      ((u.deed r).state = .home →
        (n.epoch ≤ (u.deed r).epoch → (u.deed r).keeper = u.me → u.notice n src false = u) ∧
        ((u.deed r).epoch < n.epoch ∨ (u.deed r).keeper ≠ u.me → u.notice n src false = u.settle205 r src n.epoch)) ∧
      ((u.deed r).state ≠ .home → (u.deed r).state ≠ .remote → ∀ b, u.notice n src b = u)) ∧
    (Delivered s f .deed t →
      (∀ r, t.decreed d.key = some r → (t.deed r).state = .home → (t.deed r).epoch < d.epoch →
        exec (.decreeNoticeReceive f d) s = .next (((t.setDeed r { t.deed r with epoch := d.epoch }).sendDeed f.src
          (.decreeAck { id := d.id, lantern := match r with | .own l 0 => l | _ => 0xFFFFFFFF })).acked f)) ∧
      (∀ r, t.decreed d.key = some r → ((t.deed r).state ≠ .home ∨ d.epoch ≤ (t.deed r).epoch) →
        exec (.decreeNoticeReceive f d) s = .next (((t.raise Ev.deedConflict f.src d.key.lantern d.key.deed).sendDeed f.src
          (.decreeAck { id := d.id, lantern := match r with | .own l 0 => l | _ => 0xFFFFFFFF })).acked f)) ∧
      (t.decreed d.key = none →
        exec (.decreeNoticeReceive f d) s = .next (((t.raise Ev.deedConflict f.src d.key.lantern d.key.deed).sendDeed f.src (.decreeAck { id := d.id, lantern := 0xFFFFFFFF })).acked f))) ∧
    (s.lore.decrees.find? (·.id == id) = some k →
      (k.sentBeat + k.gap ≤ s.now → exec (.decreeNoticeRepeat id) s =
        .next ((s.mapLore (fun l => { l with decrees := l.decrees.map (fun y => if y.id = id then { y with sentBeat := s.now } else y) })).sendDeed k.dst (.decree { key := k.key, epoch := k.epoch, id := k.id }))) ∧
      (s.now < k.sentBeat + k.gap → exec (.decreeNoticeRepeat id) s = .next s)) ∧
    (∀ n : NodeId, (s.endDecrees n).lore.decrees = s.lore.decrees.filter (fun d => d.dst != n)) ∧
    (Delivered s f .deed t → t.lore.decrees.find? (fun d => d.id == a.id && d.dst == f.src) = some k → a.lantern = 0xFFFFFFFF →
      exec (.decreeAckReceive f a) s = .next ((t.mapLore (fun l => { l with decrees := l.decrees.filter (fun y => y.id != k.id) })).acked f)))

/-- R57 to R63, Table 3.5: the admission of one promised piece of work with a deadline. In `NORMAL` or `MARGIN_LOW` it is accepted with the
bound n, the sum of its terms, exactly when its beat k + n is not past the deadline beat, its class has a share and
no capacity term fails; refusals come in the order `DERATED`, `BEACON`, `BOUND`, then the failing term of lowest
code, and only then `NO_SPACE` of a full table.

Model's own choices it rests on: log entry 33. -/
def Obligations.AdmissionDecision : Prop :=
  ∀ (s : State) (deadline : Nat) (i : Item), deadline ≠ noDeadline →
    let n := (i.terms.map (·.2)).sum
    let shown := if i.shut then 0xFFFFFFFF else n
    let late := i.shut = true ∨ deadline < s.clk.time ∨ s.deadlineBeat deadline < s.now + n
    (s.clk.timing = .derated → s.weigh deadline [i] = .refuse .derated 0 i.index 0) ∧
    (s.clk.timing ≠ .derated →
      (s.holdoverOver = true → i.hop = true → s.weigh deadline [i] = .refuse .refusedBound 0x17 i.index shown) ∧
      ((s.holdoverOver = false ∨ i.hop = false) →
        (late → s.weigh deadline [i] = .refuse .refusedBound 0x10 i.index shown) ∧
        (¬ late →
          (∀ t, t ∈ [0x11, 0x12, 0x13, 0x14, 0x15, 0x16] → t ∈ i.fails → (∀ u ∈ i.fails, u < t → u < 0x11) →
            s.weigh deadline [i] = .refuse .refusedBound t i.index n) ∧
          ((∀ t ∈ i.fails, t < 0x11 ∨ 0x16 < t) → i.noSpace = true → s.weigh deadline [i] = .refuse .noSpace 0 i.index n) ∧
          ((∀ t ∈ i.fails, t < 0x11 ∨ 0x16 < t) → i.noSpace = false → s.weigh deadline [i] = .accept n))))

/-- R59, R61, R80, R81, R84: what becomes of a promise. Each promised instruction that commits after k + n leaves one breach record, and the
last of them to report ends the promise, with the code `OVERDUE` exactly when the latest commit lies past its deadline beat; a failure ends
it with one breach record, an excused end with none unless the promise was already missed; a beat past k + n with local work open
writes its record once.

Model's own choices it rests on: log entries 30, 38. -/
def Obligations.PromiseKeptOrBreached : Prop :=
  ∀ (s : State) (id b : Nat) (p : Promise) (remote : Bool), s.promise id = some p →
    let last := max p.last b
    let code : Code := if p.d < last then .overdue else .ok
    let u := s.writeBreach p code (b - p.k)
    let more (q : Promise) : Promise := { q with left := q.left - 1, remoteLeft := q.remoteLeft - b2n remote, last := last }
    (p.left ≤ 1 → b ≤ p.k + p.n → s.keepPromise (some id) b remote = (s.dropPromise p.id, code)) ∧
    (p.left ≤ 1 → p.k + p.n < b → s.keepPromise (some id) b remote = (u.dropPromise p.id, code)) ∧
    (1 < p.left → b ≤ p.k + p.n → s.keepPromise (some id) b remote = (s.updPromise (some p.id) more, .ok)) ∧
    (1 < p.left → p.k + p.n < b → s.keepPromise (some id) b remote = (u.updPromise (some p.id) more, .ok)) ∧
    (∀ code, s.failPromise (some id) code false = (s.writeBreach p code (s.now - p.k)).dropPromise p.id) ∧
    (let v := s.writeBreach p (if p.d < s.now then .overdue else .ok) (s.now - p.k)
     (∀ code, p.k + p.n < s.now → p.remoteLeft < p.left → s.failPromise (some id) code true = v.dropPromise p.id) ∧
     (∀ code, (s.now ≤ p.k + p.n ∨ p.left ≤ p.remoteLeft) → s.failPromise (some id) code true = s.dropPromise p.id) ∧
     (s.cdUp = true → p.k + p.n < s.now → p.remoteLeft < p.left →
       (v.promiseHeld p = true → exec (.promisedBeatExpiry id) s = .next v) ∧
       (v.promiseHeld p = false → exec (.promisedBeatExpiry id) s = .next (v.dropPromise p.id)))) ∧
    ((s.now ≤ p.k + p.n ∨ p.left ≤ p.remoteLeft) → exec (.promisedBeatExpiry id) s = .next s) ∧
    (p.breached = true → ∀ code n, s.writeBreach p code n = s)

/-- R34, R50, R53, R108, R144, R549: `STEP_RUN` whose precondition holds and whose weighing accepts it becomes the meadow's program and is
scheduled behind the steps already admitted, its start in the beat after, and its program waits for it; one that its group admitted waits
for the group's step, or ends with the code that this step had.

R34, R52, R145, R158, R178, R247, R427, R441, R453: the start and the commit of a meadow's head step. It starts in its start beat at the
earliest and not while the field forms or a definition or membership change is due; in the pause of an activation only one whose
instruction has started does; a step of an older membership ends with `FIELD_CHANGED` there. It commits when its beats have passed and no
snoop of its lines is open, as its tiles ran it, and fails with the code that was reported, or with `CHECK_FAIL` on a word that could not be
corrected; with a member of its field dead it is abandoned once the grace has passed, and its meadow runs no other.

Model's own choices it rests on: log entries 51, 86, 142, 143, 160. -/
def Obligations.StepsOfAMeadow : Prop :=
  (∀ (s : State) (c : Nat) (w : IWord) (x : Ctx), Runs s c 0x40 w x →
    let m := x.entry.meadow
    (∀ g, x.grants.find? (fun g => g.index == x.pc && (g.step.isSome || g.code.isSome)) = some g →
      (g.code = none → exec (.stepRun c w) s = .next ((s.takeStep m (g.step.getD 0) (.instr c)).settle c (.wait (s.takeStep m (g.step.getD 0) (.instr c)) .op))) ∧
      (g.code = some .ok → exec (.stepRun c w) s = .next (s.advance c)) ∧
      (∀ code, g.code = some code → code ≠ .ok → exec (.stepRun c w) s = .next (s.failInstr c code))) ∧
    (x.grants.find? (fun g => g.index == x.pc && (g.step.isSome || g.code.isSome)) = none →
      (∀ h t id n, s.preStep w.opc.toNat m = none → s.hdrAt w.opc.toNat = some h →
        (s.noteBody h).admitAt c x ((s.noteBody h).stepItem x.pc m h false) = .go t id n →
        let u := (t.scheduleStep m h (.instr c) id x.pc none).1
        exec (.stepRun c w) s = .next (u.settle c (.wait u .op)) ∧
        ∃ st, (u.mdw m).steps = (t.mdw m).steps ++ [st] ∧ st.started = false ∧ st.due = t.now + t.stepW m + 1 + h.pLen ∧
          st.commit = st.start + h.pLen ∧ st.promise = id ∧ (u.mdw m).program = some h ∧
          ((t.mdw m).steps = [] → st.start = t.now + 1) ∧
          (∀ l, (t.mdw m).steps.getLast? = some l → st.start = max (t.now + (l.due - t.now) + 1) (l.commit + 1))) ∧
      (∀ code obs, s.preStep w.opc.toNat m = some (code, obs) →
        (s.hdrAt w.opc.toNat = none → exec (.stepRun c w) s = .next (s.failInstr c code obs)) ∧
        (∀ h, s.hdrAt w.opc.toNat = some h → exec (.stepRun c w) s = .next ((s.noteBody h).failInstr c code obs))))) ∧
  (∀ (s : State) (m : Nat) (t : Step) (rest : List Step) (r : StepResult), (s.mdw m).steps = t :: rest → s.cdUp = true →
    (s.mayStart m t = true ↔ (s.field m).state ≠ 1 ∧ (s.mdw m).pendingDef = none ∧ t.started = false ∧ t.start ≤ s.now ∧
      (∀ k ∈ (s.field m).changes, ∀ b, k.commitAt = some b → s.now < b) ∧ (∀ a ∈ (s.field m).announced, ∀ b, a.commitAt = some b → s.now < b) ∧
      ¬ (s.sys.paused = true ∧ t.owner = .engine ∧ t.rekindle = none)) ∧
    (s.mayStart m t = false → exec (.stepStart m) s = .next s) ∧
    (s.mayStart m t = true →
      let u := s.stepBoundary m
      (t.epoch ≠ u.fieldEpoch m → exec (.stepStart m) s = .next ((u.abortStep m t .fieldChanged).failRekindle t.rekindle .fieldChanged)) ∧
      (t.epoch = u.fieldEpoch m → (u.field m).halted = true → exec (.stepStart m) s = .next ((u.abortStep m t .targetDead).failRekindle t.rekindle .targetDead)) ∧
      (t.epoch = u.fieldEpoch m → (u.field m).halted = false → (u.mdw m).stuck = true →
        exec (.stepStart m) s = .next (u.abortStep m t .illegalInState (obsOf 6 (mCode (u.mdw m).state)))) ∧
      (t.epoch = u.fieldEpoch m → (u.field m).halted = false → (u.mdw m).stuck = false →
        let v := u.beginStep m t
        ∃ t' rest', (v.mdw m).steps = t' :: rest' ∧ t'.started = true ∧ t'.start = v.now ∧ t'.commit = v.now + t.hdr.pLen ∧ t'.id = t.id ∧
          exec (.stepStart m) s = .next (v.callBack (v.stepSpans t').1 (v.stepSpans t').2))) ∧
    (t.started = true →
      let used := t.used.getD r.usedBeats
      ((s.now < t.start + max t.hdr.pLen used ∨ s.deadMember m = true ∨ s.stepSnooped t = true) → exec (.stepCommit m r) s = .next s) ∧
      (t.start + max t.hdr.pLen used ≤ s.now → s.deadMember m = false → s.stepSnooped t = false →
        exec (.stepCommit m r) s = .next (s.atCommit.endStep m t used r))) ∧
    (t.started = false → exec (.stepCommit m r) s = .next s) ∧
    (∀ (u v : State) (used : Nat) (ids : Option (List (RowUse × List (BitVec 16)))), (u.markStep t r).stepTokens t.rows = (ids, v) →
      let rows := ids.getD []
      let run := v.runStep m t rows
      let v' := ((v.tilesRan m run.1).sendContributions m t run.1.outgoing).noteSlack m t used r.stallBeats
      let splits := t.rows.any (fun a => a.emits && v'.splitsAt ((v'.request a.request).outAddr + 2 * (v'.request a.request).generated) 2)
      (∀ code, r.fail = some code → failsRequests code = true → u.endStep m t used r = v'.failStep m t code (code == .isolated)) ∧
      (r.fail = none → (ids = none ∨ 0 < run.1.lost) → u.endStep m t used r = v'.failStep m t .checkFail) ∧
      (r.fail = none → ids.isSome = true → run.1.lost = 0 → splits = true → u.endStep m t used r = v'.failStep m t .badOperand) ∧
      (r.fail = none → ids.isSome = true → run.1.lost = 0 → splits = false →
        u.endStep m t used r = v'.commitStep m t used run.2 (tileCrcs run.2 r.faults) run.1.stores (rows.map (fun e => (e.1, e.2, v.rowToken m t.hdr e))))) ∧
    (t.started = true → exec (.tileQuarantineLeave m) s = .next s) ∧
    ((s.mdw m).steps.any (·.started) = false → exec (.tileQuarantineLeave m) s = .next ((s.mdw m).quarantined.foldl (fun s i => s.leaveTile m i) s)) ∧
    (t.started = true → s.deadMember m = true →
      (s.now ≤ t.start + t.hdr.pLen + bits (s.regN Reg.FIELD_GRACE) 15 0 → exec (.fieldStepGraceExpiry m) s = .next s) ∧
      (t.start + t.hdr.pLen + bits (s.regN Reg.FIELD_GRACE) 15 0 < s.now →
        let u := (s.setField m { s.field m with halted := true }).updPromise t.promise (fun p => { p with path := true })
        exec (.fieldStepGraceExpiry m) s = .next (((u.chargeStep t).abortStep m t .targetDead).failRekindle t.rekindle .targetDead))))

/-- R146, R243 to R246: shadow runs. `SHADOW` of a captured step of the same program starts a shadow run and waits for it, and a run that has
had its beats shows the combined CRC of the replayed virtual tiles in out0; a due automatic run starts only with two tiles in the set and no
run under way; the referee's third signature decides: the losing tile set is quarantined, an original that lost is reported with the
requests of its rows, and three different signatures split.

R13, R247 to R249: quarantined tiles. A canary run in the tile's temperature band, within the background share, that passes brings it one
pass nearer the set, which it joins after CANARY_PASSES passes in a row; a failure begins again, and the third retires it; only software
clears a retired tile; a legal new shadow set, with no tile that a meadow has or is about to have, waits until no shadow or referee run is
under way.

Model's own choices it rests on: log entries 52, 53, 144, 171. -/
def Obligations.ShadowsAndCanaries : Prop :=
  (∀ (s : State) (c m seq : Nat) (w : IWord) (x : Ctx) (faults : List (Nat × Word)) (vts : List Nat) (cs : List Word) (faulty : Bool) (formed : Word),
    (∀ h k t id n, Runs s c 0x41 w x → s.preShadow w.opc.toNat w.opb.toNat x.entry.meadow = none → s.hdrAt w.opc.toNat = some h →
      s.captureOf x.entry.meadow w.opb.toNat = some k →
      (s.noteBody h).admitAt c x ((s.noteBody h).stepItem x.pc x.entry.meadow h true) = .go t id n →
      let u := t.startShadow x.entry.meadow k (some c) id h.watts faults
      exec (.shadow c w faults) s = .next (u.settle c (.wait u .op))) ∧
    (Runs s c 0x41 w x → s.hdrAt w.opc.toNat = none → exec (.shadow c w faults) s = .next (s.failInstr c .badOperand)) ∧
    (∀ (k : Capture) (o id : Option Nat) (watts : Nat), ∃ r, (s.startShadow m k o id watts faults).eng.shadow = some r ∧
      r.crcs = (s.virtuals m).map (fun e => ((faults.find? (·.1 == e.1)).map (·.2)).getD (k.truth.getD e.1 0)) ∧
      r.due = s.now + 1 + k.hdr.pLen ∧ r.owner = o) ∧
    (s.eng.shadowPending.find? (·.1 == m) = some (m, seq) →
      ((s.cdUp = false ∨ s.shadowList.length < 2 ∨ s.eng.shadow.isSome = true) → exec (.autoShadowRun m vts cs) s = .next s) ∧
      (s.cdUp = true → 2 ≤ s.shadowList.length → s.eng.shadow = none →
        let t := s.mapEng (fun e => { e with shadowPending := e.shadowPending.erase (m, seq) })
        ((t.mdw m).captures.find? (fun k => k.seq == seq && k.lost == 0) = none → exec (.autoShadowRun m vts cs) s = .next t) ∧
        (∀ k, (t.mdw m).captures.find? (fun k => k.seq == seq && k.lost == 0) = some k →
          exec (.autoShadowRun m vts cs) s = .next (t.startShadow m k none none 0 (vts.zip cs))))) ∧
    ((s.cdUp = false ∨ s.jobDone 3 1 = false) → exec (.refereeRun faulty formed) s = .next s) ∧
    (∀ (r : ShadowRun) rest v orig sh a b, s.cdUp = true → s.jobDone 3 1 = true → s.eng.referee = r :: rest → r.mismatch = some (v, orig, sh, a, b) →
      let t := ((s.mapEng (fun e => { e with referee := rest })).dropJob 3 1).queueReferee
      let crc := if faulty then formed else r.truth
      let u := t.quarantine orig (t.bandOf orig) r.hdr.pattern
      (crc = a → exec (.refereeRun faulty formed) s = .next (t.quarantine sh (t.bandOf sh) r.hdr.pattern)) ∧
      (crc ≠ a → crc ≠ b → exec (.refereeRun faulty formed) s =
        .next ((t.setMdw r.meadow { t.mdw r.meadow with resplit := some v }).raise Ev.shadowSplit 0 r.seq v (some r.meadow))) ∧
      (crc ≠ a → crc = b →
        (r.requests = [] → exec (.refereeRun faulty formed) s = .next (u.raise Ev.shadowOriginalLost 0 r.seq 0 (some r.meadow))) ∧
        (∀ q qs, r.requests = q :: qs → exec (.refereeRun faulty formed) s =
          .next ((q :: qs).foldl (fun s i => s.raise Ev.shadowOriginalLost 0 r.seq i (some r.meadow)) u))))) ∧
  (∀ (s : State) (i word : Nat) (v : BitVec 32) (got want : Word), s.cdUp = true →
    ((s.tile i).state = 3 → s.bandOf i = (s.tile i).band → s.bgRoom (resTile i) s.clk.len = true →
      let t := s.bgUse (resTile i) s.clk.len
      ((s.tile i).passes + 1 < bits (t.regN Reg.CANARY_PASSES) 7 0 →
        exec (.canaryRun i want want) s = .next (t.setTile i { s.tile i with passes := (s.tile i).passes + 1 })) ∧
      (bits (t.regN Reg.CANARY_PASSES) 7 0 ≤ (s.tile i).passes + 1 →
        exec (.canaryRun i want want) s = .next ((t.setTile i { s.tile i with state := 2, passes := (s.tile i).passes + 1 }).raise Ev.tileReadmitted 0 i)) ∧
      (got ≠ want → (s.tile i).fails < 2 → exec (.canaryRun i got want) s = .next (t.setTile i { s.tile i with passes := 0, fails := (s.tile i).fails + 1 })) ∧
      (got ≠ want → 2 ≤ (s.tile i).fails → exec (.canaryRun i got want) s = .next (t.setTile i { s.tile i with passes := 0, fails := (s.tile i).fails + 1, state := 4 }))) ∧
    (((s.tile i).state ≠ 3 ∨ s.bandOf i ≠ (s.tile i).band ∨ s.bgRoom (resTile i) s.clk.len = false) → exec (.canaryRun i got want) s = .next s) ∧
    ((s.tile i).state = 4 → exec (.tileClear i) s = .next (s.setTile i {})) ∧
    ((s.tile i).state ≠ 4 → exec (.tileClear i) s = .next s) ∧
    (word < 4 →
      let l := s.shadowNamed word v.toNat
      (l.length % 2 = 0 → 2 ≤ l.length → l.length ≤ 16 → (∀ j ∈ l, (s.tile j).state ≠ 1 ∧ j ∉ s.claimedTiles) →
        exec (.shadowSetWrite word v) s = .next ((s.setRegN (Reg.SHADOW_SET word) v.toNat).mapEng (fun e => { e with shadowSet := some l }))) ∧
      ((l.length % 2 ≠ 0 ∨ l.length < 2 ∨ 16 < l.length ∨ ∃ j ∈ l, (s.tile j).state = 1 ∨ j ∈ s.claimedTiles) →
        exec (.shadowSetWrite word v) s = .next (s.configReject (Reg.SHADOW_SET word) v.toNat))) ∧
    (∀ l, s.eng.shadowSet = some l →
      ((s.eng.shadow.isSome = true ∨ s.eng.referee ≠ []) → exec .shadowSetEffect s = .next s) ∧
      (s.eng.shadow = none → s.eng.referee = [] →
        exec .shadowSetEffect s = .next ((List.range 128).foldl (fun s i =>
          if (s.tile i).state = 2 ∧ !l.contains i then s.setTile i { s.tile i with state := 0 }
          else if (s.tile i).state = 0 ∧ l.contains i ∧ !s.claimedTiles.contains i then s.setTile i { s.tile i with state := 2 } else s)
          (s.mapEng (fun e => { e with shadowSet := none }))))))

/-- R147, R175, R213, R265 to R269: near-state attention. An unbound `ATTN_PARTIAL` that admission accepts sends its query and waits; a
step-bound one is held; each further round of it is admitted anew; one refused at its start fails the running request it was for; a query
that arrives is taken or refused, its round starts in the beat after its arrival, and its end answers the sender: with the record over the
deed's range at its epoch, with `CHECK_FAIL` where a page could not be read, with `STALE_EPOCH` where the deed is gone; an answer of the
wrong epoch is refused.

R5, R147, R269, R270: `ATTN_MERGE` of 1 to 64 records of one query over contiguous ascending ranges writes their merge to the output
address; ranges with a gap are a reserved operand, which comes first, records that differ in their query are illegal, and one that could
not be read is a failed check. R275: `REKINDLE` that admission accepts starts the prefill of the range and waits.

Model's own choices it rests on: log entries 54, 57, 165, 166. -/
def Obligations.AttentionAndRekindle : Prop :=
  (∀ (s t : State) (c m id : Nat) (w : IWord) (x : Ctx) (d : Bytes) (f : Frame) (q : PartialQuery) (a : PartialAnswer),
    (Runs s c 0x48 w x → s.prePartial w d = none →
      (le d 24 8 ≠ 2 ^ 64 - 1 →
        let u := s.addPartial (s.makePartial (.instr c) w d none x.entry.deadline)
        exec (.attnPartial c w d) s = .next (u.settle c (.wait u .op))) ∧
      (∀ v pr n, le d 24 8 = 2 ^ 64 - 1 →
        let p := s.makePartial (.instr c) w d none x.entry.deadline
        s.admitAt c x (attnItem x.pc p.dst p.hops p.pAttn (2 ^ 40)) = .go v pr n →
        let u := (v.addPartial { p with promise := pr }).sendQuery { p with promise := pr } p.layerFirst p.layers
        exec (.attnPartial c w d) s = .next (u.settle c (.wait u .op)))) ∧
    (∀ code obs, Runs s c 0x48 w x → s.prePartial w d = some (code, obs) →
      (s.keeps w.opb.toNat = false → exec (.attnPartial c w d) s = .next (s.failInstr c code obs)) ∧
      (s.keeps w.opb.toNat = true → exec (.attnPartial c w d) s = .next ((s.failRunning (s.lan w.opb.toNat).request code).failInstr c code obs))) ∧
    (∀ p st y n, s.cdUp = true → s.eng.partials.find? (·.id == id) = some p → p.stepSeq.bind s.stepOf = some st →
      p.sentLayers = p.doneLayers → p.sentLayers < p.layers → p.owner = .instr c → s.ctx c = some y → p.promise.isSome = true →
      s.weigh p.deadline [attnItem st.index p.dst p.hops p.pAttn st.hdr.allow] = .accept n →
      let u := s.updPromise p.promise (fun q => { q with k := s.now, terms := (attnItem st.index p.dst p.hops p.pAttn st.hdr.allow).terms, ends := [] })
      exec (.attnPartialRoundAdmit id) s = .next (u.sendQuery p (p.layerFirst + p.sentLayers) 1)) ∧
    (Delivered s f .partialK t →
      (∀ u, t.takeQuery f.src q = .ok u → exec (.partialQueryReceive f q) s = .next (u.acked f)) ∧
      (∀ e, t.takeQuery f.src q = .error e → exec (.partialQueryReceive f q) s = .next ((t.answerPartial f.src e).acked f)) ∧
      (∀ u, f.forwarded = false → t.takeAnswer a = (u, false) → exec (.partialResultReceive f a) s = .next (u.acked f)) ∧
      (∀ u, f.forwarded = false → t.takeAnswer a = (u, true) → exec (.partialResultReceive f a) s = .next ((u.sendNack f .partialK .staleEpoch).acked f)) ∧
      (∀ p u, f.forwarded = true → t.eng.partials.find? (·.id == (match a with | .record r => r.id | .refused id _ _ _ => id)) = some p →
        (t.updPromise p.promise (fun q => { q with path := true })).takeAnswer a = (u, false) → exec (.partialResultReceive f a) s = .next (u.acked f))) ∧
    (∀ r, s.cdUp = true → s.eng.rounds = [r] → r.meadow = m → r.row = none →
      (r.arrived < s.now → exec (.partialRoundStart m) s = .next (s.startRound m r)) ∧
      (s.now ≤ r.arrived → exec (.partialRoundStart m) s = .next s)) ∧
    (∀ r bad, s.cdUp = true → s.eng.rounds.find? (fun r => r.meadow == m && r.id == id && r.row.isSome && decide (r.due ≤ s.now)) = some r →
      let q := r.query
      let u := s.mapEng (fun e => { e with rounds := e.rounds.erase r })
      (u.findDeed q.key = none →
        exec (.partialRoundEnd m id bad) s = .next (u.answerPartial r.src (.refused id .staleEpoch (u.loggedHome q.key).1 (u.loggedHome q.key).2))) ∧
      (∀ ref, u.findDeed q.key = some ref →
        let v := u.addPartials ref false
        let e := v.deed ref
        (bad = true → exec (.partialRoundEnd m id bad) s = .next (v.answerPartial r.src (.refused id .checkFail s.me e.epoch))) ∧
        (bad = false → exec (.partialRoundEnd m id bad) s = .next (v.answerPartial r.src (.record
          { id := id, lantern := q.key.lantern, deed := q.key.deed, rows := q.rows, epoch := e.epoch, placement := q.placement, posStart := e.posStart, posCount := e.posCount,
            layerFirst := q.layerFirst, layerCount := q.layerCount, headDim := ((v.modelOf q.model).map (·.headDim)).getD 0, stepSeq := 0, blocks := v.rangeBlocks e q }))))) ∧
    ((s.cdUp = false ∨ s.eng.rounds.find? (fun r => r.meadow == m && r.id == id && r.row.isSome && decide (r.due ≤ s.now)) = none) →
      ∀ bad, exec (.partialRoundEnd m id bad) s = .next s)) ∧
  (∀ (s : State) (c : Nat) (w : IWord) (x : Ctx) (d : Bytes) (recs : List PartialRec) (bad : Bool),
    (Runs s c 0x49 w x →
      let out := mergeOut (le d 2 1 == 1) (mergeRecs recs)
      ((le d 0 2 = 0 ∨ 64 < le d 0 2 ∨ 1 < le d 2 1 ∨ zeroAt d 3 5 = false ∨ contiguous recs = false) → exec (.attnMerge c w d ⟨recs, bad⟩) s = .next (s.failInstr c .badOperand)) ∧
      (1 ≤ le d 0 2 → le d 0 2 ≤ 64 → le d 2 1 ≤ 1 → zeroAt d 3 5 = true → contiguous recs = true →
        ((recs.length ≠ le d 0 2 ∨ oneQuery recs = false) → exec (.attnMerge c w d ⟨recs, bad⟩) s = .next (s.failInstr c .illegalInState)) ∧
        (∀ read t, recs.length = le d 0 2 → oneQuery recs = true → s.tracked (s.hdmSpan (le d 8 8) out.length) = [] → s.readRecords d recs 0 = (read, t) →
          ((bad = true ∨ read = false) → exec (.attnMerge c w d ⟨recs, bad⟩) s = .next (t.failInstr c .checkFail)) ∧
          (bad = false → read = true → t.splitsAt (le d 8 8) out.length = true → exec (.attnMerge c w d ⟨recs, bad⟩) s = .next (t.failInstr c .badOperand)) ∧
          (bad = false → read = true → t.splitsAt (le d 8 8) out.length = false → exec (.attnMerge c w d ⟨recs, bad⟩) s = .next ((t.writeAt (le d 8 8) out).advance c))))) ∧
    (∀ t id n, Runs s c 0x51 w x → s.preRekindle w d x.entry.meadow = none →
      s.admitAt c x (s.itemRekindle x.pc w d x.entry.meadow) = .go t id n →
      let u := t.startRekindle (.instr c) w.opb.toNat (le d 0 2) (le d 2 2) x.entry.meadow ((t.emberTokens w.opb.toNat (le d 0 2) (le d 2 2)).getD 0) (x.entry.deadline ≠ noDeadline) id
      exec (.rekindle c w d) s = .next (u.settle c (.wait u .op))) ∧
    (∀ code obs, Runs s c 0x51 w x → s.preRekindle w d x.entry.meadow = some (code, obs) →
      exec (.rekindle c w d) s = .next (s.failInstr c code obs)))

/-- R312, R313, R314, R151: objects and their tiers. A descriptor is installed at a free index where the decoder is committed, its range free and its home has room, and
removed only when resident and unused, while no object command is still under way; `TIER_MOVE` of a resident object starts the move, whose commit brings the stored bytes to the new home,
frees the old place and applies the writes held meanwhile; `TIER_PLACE` sets placement and touch.

Model's own choices it rests on: log entries 60, 61, 64. -/
def Obligations.ObjectsAndTierMoves : Prop :=
  ∀ (s : State) (c i : Nat) (w : IWord) (x : Ctx) (d data : Bytes),
    let busy (t : State) : State := { t with sys := { t.sys with busy := Reg.OBJ_CMD :: t.sys.busy } }
    (s.cdUp = true → s.busy Reg.OBJ_CMD = true → exec (.objCmdInstall i d) s = .next (s.configReject Reg.OBJ_CMD (2 ^ 31 + i)) ∧
      exec (.objCmdRemove i) s = .next (s.configReject Reg.OBJ_CMD (2 ^ 31 + 2 ^ 29 + i))) ∧
    (s.cdUp = true → s.busy Reg.OBJ_CMD = false → (s.obj i).state = 0 →
      (∀ b span loc t, s.cxl.decoder = some (b, span) → s.objShape d = true → le d 0 8 + le d 8 8 ≤ span →
        s.mem.objs.any (fun e => e.2.state != 0 && decide (e.2.base < le d 0 8 + le d 8 8 ∧ le d 0 8 < e.2.base + e.2.size)) = false → le d 16 1 = 0 →
        s.takeObj 0 (ceilDiv (objStored (le d 8 8) (bits (le d 17 1) 2 1) (bit (le d 17 1) 0)) 4096) = some (loc, t) →
        let o : Obj := { base := le d 0 8, size := le d 8 8, home := 0, exact := bit (le d 17 1) 0, ratio := bits (le d 17 1) 2 1, touch := bit (le d 17 1) 3, readOnly := bit (le d 17 1) 4, fmt := le d 18 1, state := 1, loc := loc, node := 0, window := le d 32 4, stored := objStored (le d 8 8) (bits (le d 17 1) 2 1) (bit (le d 17 1) 0), cookie := le d 56 8, placement := 0 }
        exec (.objCmdInstall i d) s = .next (busy ((t.setObj i o).objDone i 0x00))) ∧
      (s.cxl.decoder = none → exec (.objCmdInstall i d) s = .next (busy (s.objDone i 0x01)))) ∧
    (s.cdUp = true → s.busy Reg.OBJ_CMD = false → (s.obj i).state ≠ 0 → exec (.objCmdInstall i d) s = .next (busy (s.objDone i 0x02))) ∧
    (s.cdUp = true → s.busy Reg.OBJ_CMD = false → (s.obj i).state = 1 → s.objInUse (s.obj i) = false →
      exec (.objCmdRemove i) s = .next (busy (((s.freeObj (s.obj i).home (s.obj i).loc (s.obj i).units).setObj i {}).objDone i 0x00))) ∧
    (s.cdUp = true → s.busy Reg.OBJ_CMD = false → ((s.obj i).state ≠ 1 ∨ s.objInUse (s.obj i) = true) → exec (.objCmdRemove i) s = .next (busy (s.objDone i 0x04))) ∧
    (s.objByBase w.opc.toNat = some i →
      (∀ t, Runs s c 0x60 w x → (s.obj i).state = 1 → (s.obj i).home = 0 → (w.opa.toNat = 1 ∨ (w.opa.toNat = 2 ∧ s.fls.state ≠ .readOnly)) →
        s.startTierMove i w.opa.toNat (.instr c) none 0 = some t → exec (.tierMove c w) s = .next (t.settle c (.wait t .op))) ∧
      (Runs s c 0x60 w x → (s.obj i).state ≠ 1 → w.opa.toNat ≠ 3 → exec (.tierMove c w) s = .next (s.failInstr c .illegalInState (obsOf 3 (s.obj i).state))) ∧
      (Runs s c 0x61 w x → w.opa.toNat ≠ 3 → (s.obj i).state ≠ 4 →
        exec (.tierPlace c w) s = .next ((s.setObj i { s.obj i with placement := w.opa.toNat, touch := w.flag 8 }).advance c))) ∧
    (s.objByBase w.opc.toNat = none →
      (Runs s c 0x60 w x → exec (.tierMove c w) s = .next (s.failInstr c .badOperand)) ∧
      (Runs s c 0x61 w x → exec (.tierPlace c w) s = .next (s.failInstr c .badOperand))) ∧
    (∀ (tm : TierMv) (rd : ReadReport), s.mem.tierMoves.find? (·.obj == i) = some tm →
      ((s.cdUp = false ∨ s.objSnooped (s.obj i) = true ∨ (tm.owner = .engine ∧ s.jobDone 7 i = false)) → ∀ fail, exec (.tierMoveCommit i data ⟨fail, rd⟩) s = .next s) ∧
      (s.cdUp = true → s.objSnooped (s.obj i) = false → (tm.owner = .engine → s.jobDone 7 i = true) → (s.obj i).home = 0 → tm.target = 1 →
        (∀ code ∈ [Code.noSpace, .mediaReadOnly, .checkFail], exec (.tierMoveCommit i data ⟨some code, rd⟩) s = .next ((s.readPhases tm.promise 0 rd false).failTierMove tm code)) ∧
        (tm.held = [] →
          let t := ((s.readPhases tm.promise 0 rd true).dropJob 7 i).mapMem (fun m => { m with tierMoves := m.tierMoves.filter (fun y => y.obj != i) })
          let u := ((t.emit (.hostWrite tm.loc (Tbl.readBytes (t.bytesOf 0) (4096 * (s.obj i).loc) (s.obj i).stored))).freeObj 0 (s.obj i).loc (s.obj i).units).setObj i
            { s.obj i with home := 1, loc := tm.loc, state := 1, migrateFail := none }
          ∀ v code, u.keepPromise tm.promise u.now = (v, code) → exec (.tierMoveCommit i data ⟨none, rd⟩) s = .next (v.finish tm.owner code))) ∧
      (s.cdUp = true → s.objSnooped (s.obj i) = false → (tm.owner = .engine → s.jobDone 7 i = true) → (s.obj i).home = 2 → tm.target ≠ 2 → s.fls.state = .ready →
        s.flLost (s.obj i).loc (s.obj i).units = true →
        exec (.tierMoveCommit i data ⟨none, rd⟩) s = .next (((s.flFault (s.obj i).loc (s.obj i).units).readPhases tm.promise 4 rd false).failTierMove tm .checkFail)))

/-- R252 to R254, R278 to R282: models, adapters and weights. A well-formed model descriptor goes into a free slot under a number not yet in use, and is removed
only when nothing uses it; `ADP_LOAD` and `ADP_REPLACE` verify the payload's SHA-256 and answer the new version's number in
out0, a replaced version learning its successor; `ADP_RETIRE` retires a resident version, freed with its last
reference; `STREAM_WEIGHTS` points the meadow's weight window between steps.

Model's own choices it rests on: log entry 64. -/
def Obligations.ModelsAdaptersWeights : Prop :=
  ∀ (s : State) (c slot : Nat) (w : IWord) (x : Ctx) (d payload : Bytes),
    let busy (t : State) : State := { t with sys := { t.sys with busy := Reg.MODEL_CMD :: t.sys.busy } }
    (s.cdUp = true → s.busy Reg.MODEL_CMD = true → exec (.modelCmdInstall slot d) s = .next (s.configReject Reg.MODEL_CMD (2 ^ 31 + slot)) ∧
      exec (.modelCmdRemove slot) s = .next (s.configReject Reg.MODEL_CMD (2 ^ 31 + 2 ^ 30 + slot))) ∧
    (s.cdUp = true → s.busy Reg.MODEL_CMD = false →
      (∀ m, parseModel d = some m →
        (s.mem.models.find slot = none → s.modelOf m.model = none →
          exec (.modelCmdInstall slot d) s = .next (busy ((s.mapMem (fun y => { y with models := Tbl.put (Tbl.drop y.models slot) slot m })).modelDone slot 0x00))) ∧
        ((s.mem.models.find slot).isSome = true ∨ (s.modelOf m.model).isSome = true → exec (.modelCmdInstall slot d) s = .next (busy (s.modelDone slot 0x02)))) ∧
      (parseModel d = none → exec (.modelCmdInstall slot d) s = .next (busy (s.modelDone slot 0x01))) ∧
      (∀ m, s.mem.models.find slot = some m →
        (s.modelUsed m = false → exec (.modelCmdRemove slot) s = .next (busy ((s.mapMem (fun y => { y with models := Tbl.drop y.models slot })).modelDone slot 0x00))) ∧
        (s.modelUsed m = true → exec (.modelCmdRemove slot) s = .next (busy (s.modelDone slot 0x03)))) ∧
      (s.mem.models.find slot = none → exec (.modelCmdRemove slot) s = .next (busy (s.modelDone slot 0x04)))) ∧
    ((s.objByBase w.opc.toNat).isSome = true → adapterShape d = true → le d 16 8 = payload.length →
      ((digestBytes (sha256 payload)).take 24 = (d.drop 40).take 24 → ∀ v, s.mem.adapters.lowestFree 0 4096 = some v →
        let a : Adapter := { state := 1, model := le d 4 2, payload := payload, object := w.opc.toNat }
        let t := s.mapMem (fun m => { m with adapters := Tbl.put (Tbl.drop m.adapters v) v a })
        (Runs s c 0x68 w x → exec (.adpLoad c w d payload) s = .next ((t.setOut (.instr c) (fun y => { y with out0 := v })).advance c)) ∧
        (Runs s c 0x69 w x → (s.adapter w.opa.toNat).state = 1 →
          let u := t.mapMem (fun m => { m with adapters := Tbl.put (Tbl.drop m.adapters w.opa.toNat) w.opa.toNat { t.adapter w.opa.toNat with successor := some v } })
          exec (.adpReplace c w d payload) s = .next ((u.setOut (.instr c) (fun y => { y with out0 := v })).advance c))) ∧
      ((digestBytes (sha256 payload)).take 24 ≠ (d.drop 40).take 24 → Runs s c 0x68 w x →
        exec (.adpLoad c w d payload) s = .next (s.failInstr c .checkFail))) ∧
    (Runs s c 0x6A w x → (s.adapter w.opa.toNat).state = 1 →
      exec (.adpRetire c w) s = .next (((s.mapMem (fun m => { m with adapters := Tbl.put (Tbl.drop m.adapters w.opa.toNat) w.opa.toNat { s.adapter w.opa.toNat with state := 2 } })).reapAdapters).advance c)) ∧
    (Runs s c 0x6A w x → (s.adapter w.opa.toNat).state ≠ 1 → exec (.adpRetire c w) s = .next (s.failInstr c .illegalInState)) ∧
    (Runs s c 0x62 w x → w.opb ≠ 0 → (s.objByBase w.opc.toNat).isSome = true → weightShape d = true →
      let g := s.mdw x.entry.meadow
      (g.state ≠ .free → g.role ≠ 2 → g.steps.any (·.started) = false →
        (∀ i, s.objByBase w.opc.toNat = some i → ((s.obj i).exact = false ∨ (s.expanderOf x.entry.meadow).isSome = true) →
          exec (.streamWeights c w d none) s = .next ((s.setMdw x.entry.meadow { g with window := some (w.opc.toNat, w.opb.toNat, le d 6 2) }).advance c) ∧
          (∀ code ∈ [Code.noSpace, .notResident, .sizeExceeded, .sizeShort, .checkFail], exec (.streamWeights c w d (some code)) s = .next (s.failInstr c code))) ∧
        (∀ i, s.objByBase w.opc.toNat = some i → (s.obj i).exact = true → s.expanderOf x.entry.meadow = none →
          ∀ fail, exec (.streamWeights c w d fail) s = .next (s.failInstr c .notResident))) ∧
      (g.steps.any (·.started) = true → ∀ fail,
        exec (.streamWeights c w d fail) s = .next (s.failInstr c .illegalInState (obsOf 6 (mCode g.state)))))

/-- R315, R324, R437 to R442, R450: the host's accesses. A read of an object homed in GDDR7 answers its bytes and grants the line while the
snoop filter has room, and waits for room otherwise; an uncorrectable one answers all ones with the error counted; an address no object
holds reads ones; a write to a resident object homed in GDDR7 goes to its bytes, one to an object being moved is held, one where no
write is admitted is discarded with its event; an access to a line being called back waits for the answer.

R324, R326, R436, R437, R441, R443, R448 to R450: completions and link events on the host's side. A read-through fetch serves every read that joined it and
the next one in the ingress; a snoop's answer frees its line and wakes what waited, and a late one is a path fault of the promises that
wait for it; a host-to-device snoop is always answered with a miss; the decoder commits only 256 MiB aligned ranges while no object is
installed; NEGOTIATE_ALGORITHMS settles on what both sides offer or ends in ERROR, and GET_MEASUREMENTS reports the measurements of the
boot; a failed IDE stream drops writes until a secured session keys it again.

Model's own choices it rests on: log entries 65, 66. -/
def Obligations.HostInterface : Prop :=
  (∀ (s : State) (off i : Nat) (data : Bytes),
    (s.cdUp = false → (∀ u, exec (.hostRead off u) s = .next (s.emit (.hdmOnes off 64))) ∧ exec (.hostWrite off data) s = .next s) ∧
    (s.cdUp = true → s.cxl.snoops.contains (lineOf off) = true →
      (∀ u, exec (.hostRead off u) s = .next (s.mapCxl (fun c => { c with waiting := c.waiting ++ [(off, none)] }))) ∧
      (s.cxl.ideInsecure = false → exec (.hostWrite off data) s = .next (s.mapCxl (fun c => { c with waiting := c.waiting ++ [(off, some data)] })))) ∧
    (s.cdUp = true → s.cxl.ideInsecure = true → exec (.hostWrite off data) s = .next s) ∧
    (s.cdUp = true → s.cxl.snoops.contains (lineOf off) = false → s.objAt off = none →
      (∀ u, exec (.hostRead off u) s = .next (s.hdmUnmapped.emit (.hdmOnes off 64))) ∧
      (s.cxl.ideInsecure = false → exec (.hostWrite off data) s = .next s.hdmUnmapped)) ∧
    (s.cdUp = true → s.cxl.snoops.contains (lineOf off) = false → s.objAt off = some i →
      let t := s.setObj i { s.obj i with touchBeat := s.now }
      let o := t.obj i
      let place := 4096 * o.loc + (off - o.base)
      let stored (a n : Nat) : Bytes := Tbl.readBytes t.mem.gddr (4096 * o.loc + a) n
      let v := (t.countRead o stored (off - o.base) 64).emit (.hdmData off (objRead o stored (off - o.base) 64))
      (o.home = 0 → (o.state ≠ 1 ∨ o.readOnly = true) → exec (.hostRead off false) s = .next v) ∧
      (o.home = 0 → o.state = 1 → o.readOnly = false → t.filterFull (lineOf off) = false → exec (.hostRead off false) s = .next (v.grantLine (lineOf off))) ∧
      (o.home = 0 → o.state = 1 → o.readOnly = false → t.filterFull (lineOf off) = true → exec (.hostRead off false) s = .next (t.waitRoom off)) ∧
      (o.home = 0 → exec (.hostRead off true) s =
        .next (((t.bump (Reg.GDDR_UE (place / 4096 % 24))).raise Ev.gddrUe 0 (place / 4096 % 24) place).emit (.hdmOnes off 64))) ∧
      (o.home = 3 → ∀ u, exec (.hostRead off u) s = .next (t.partnerRead o off)) ∧
      ((o.home = 1 ∨ o.home = 2) → ∀ u, exec (.hostRead off u) s = .next ((t.readThrough i off).touchMigrate i)) ∧
      (s.cxl.ideInsecure = false → o.state = 2 →
        exec (.hostWrite off data) s = .next (t.mapMem (fun m => { m with tierMoves := m.tierMoves.map (fun y => if y.obj = i then { y with held := y.held ++ [(off, data)] } else y) }))) ∧
      (s.cxl.ideInsecure = false → o.state ≠ 2 → o.home = 0 → o.readOnly = false →
        exec (.hostWrite off data) s = .next ((t.objWrite o (off - o.base) data).touchMigrate i)) ∧
      (s.cxl.ideInsecure = false → o.state ≠ 2 → (o.home ≠ 0 ∨ o.readOnly = true) →
        exec (.hostWrite off data) s = .next (((t.bump Reg.HDM_WRITE_DISCARD).raise Ev.hdmWriteDiscard).touchMigrate i)))) ∧
  (∀ (s : State) (data : Bytes) (r : ReadThrough) (line base size width rate code : Nat) (addr : BitVec 64) (req : Bytes) (algs : List SpdmAlg),
    (s.cdUp = true → s.mem.rts.find? (·.tier == 2) = some r → s.cxl.ingress = [] →
      let t := s.mapMem (fun m => { m with rts := m.rts.erase r })
      let o := s.obj r.obj
      let stored (a n : Nat) : Bytes := (data.drop (a - 4096 * r.unit)).take n ++ List.replicate (n - ((data.drop (a - 4096 * r.unit)).take n).length) 0
      exec (.readThroughComplete 2 data false) s =
        .next (r.offs.foldl (fun (s : State) off => (s.countRead o stored (off - o.base) 64).emit (.hdmData off (objRead o stored (off - o.base) 64))) t) ∧
      exec (.readThroughComplete 2 data true) s =
        .next ((r.offs.foldl (fun (s : State) off => s.emit (.hdmOnes off 64)) t).raise Ev.gddrUe 0 r.obj)) ∧
    (s.cxl.snoops.contains line = true →
      let t := s.mapCxl (fun c => { c with snoops := c.snoops.filter (· != line), lines := c.lines.filter (· != line) })
      let woken (t : State) : State := ((t.mapCxl (fun c => { c with snoopFor := c.snoopFor.filter (·.1 != line) })).wake line).wakeFilter
      exec (.biSnoopAnswer line none false) s = .next (woken t) ∧
      exec (.biSnoopAnswer line none true) s = .next (woken ((t.awaiting line).foldl State.lateFor ((t.mapCxl (fun c => { c with biLate := satInc 32 c.biLate })).raise Ev.biLate))) ∧
      (∀ i d, t.objAt line = some i → (t.obj i).home = 0 →
        exec (.biSnoopAnswer line (some d) false) s = .next (woken (t.objWrite (t.obj i) (line - (t.obj i).base) d)))) ∧
    (s.cxl.snoops.contains line = false → ∀ m l, exec (.biSnoopAnswer line m l) s = .next s) ∧
    exec (.h2dSnoop addr) s = .next (s.emit (.snoopReply addr)) ∧
    ((base % 268435456 = 0 ∧ size % 268435456 = 0 ∧ size ≤ 2 ^ 46 ∧ s.mem.objs.any (fun e => e.2.state != 0) = false →
        exec (.hdmDecoderCommit base size) s = .next (s.mapCxl (fun c => { c with decoder := some (base, size) }))) ∧
      (base % 268435456 ≠ 0 → exec (.hdmDecoderCommit base size) s = .next s) ∧
      (s.mem.objs.any (fun e => e.2.state != 0) = true → exec (.hdmDecoderCommit base size) s = .next s)) ∧
    (s.sys.perst = false → s.sys.clkSel ≠ 3 → ∃ v,
      let t := { s with freeCtr := s.freeCtr + 1 }.mapCxl (fun c => { c with up := true, width := width, rate := rate, bar2 := some (268435456 * v) })
      (16 ≤ width → 64 ≤ rate → exec (.cxlLinkTrained width rate) s = .next t) ∧
      ((width < 16 ∨ rate < 64) → exec (.cxlLinkTrained width rate) s = .next (t.raise Ev.cxlLinkDegraded 0 width rate))) ∧
    (req.length ≤ 65536 →
      (spdmCodes.contains code = false → exec (.doeRequest 1 code ⟨req, algs⟩) s = .next (s.emit (.doe [0x13, 0x7F, 0x07, BitVec.ofNat 8 code]))) ∧
      (let both := [SpdmAlg.sha256, .slhDsaSha2128f, .secp384r1, .aes256gcm].filter algs.contains
       (both = [] → exec (.doeRequest 1 0xE3 ⟨req, algs⟩) s = .next (((s.mapCxl (fun c => { c with algs := none })).mapSession 0).emit (.doe [0x13, 0x7F, 0x01, 0x00]))) ∧
       (both ≠ [] → exec (.doeRequest 1 0xE3 ⟨req, algs⟩) s =
         .next (((s.mapCxl (fun c => { c with algs := some both })).mapSession 0).emit (.doe (Config.standardReply 1 0xE3 req))))) ∧
      exec (.doeRequest 1 0xE0 ⟨req, algs⟩) s = .next (s.emit (.doe (Config.standardReply 1 0xE0 req ++ s.sys.meas.flatMap digestBytes))) ∧
      (s.cxl.algs = some [.sha256, .slhDsaSha2128f, .secp384r1, .aes256gcm] →
        exec (.doeRequest 1 0xE4 ⟨req, algs⟩) s = .next ((s.mapSession 1).emit (.doe (Config.standardReply 1 0xE4 req)))) ∧
      (s.cxl.session = 2 → exec (.doeRequest 2 0xFE ⟨req, algs⟩) s =
        .next ((s.mapCxl (fun c => { c with ideInsecure := false })).emit (.doe (Config.standardReply 2 0xFE req)))) ∧
      (s.cxl.session ≠ 2 → exec (.doeRequest 2 0xFE ⟨req, algs⟩) s = .next (s.emit (.doe [0x13, 0x7F, 0x04, 0x00])))) ∧
    exec .cxlIdeFail s = .next ((s.mapCxl (fun c => { c with ideInsecure := true })).raise Ev.cxlIdeFail))

/-- R375 to R378: windows. `WIN_OPEN` of a closed window over a list of its own takes the staging pages and opens it under the next generation, which out0 answers;
`WIN_REVOKE` closes the check in the beat it starts and is complete three beats later at the earliest, when no
sealed copy is left to land: then the window is closed, its staging pages free and its lamp lit.

Model's own choices it rests on: log entry 71. -/
def Obligations.WindowOpenRevoke : Prop :=
  ∀ (s : State) (c i : Nat) (w : IWord) (x : Ctx) (d : Bytes), 
    (∀ r stage t, Runs s c 0x70 w x → i = w.opb.toNat → winShape d = true → (s.window i).state = 0 → (s.window i).deed.state = .none →
      s.listAt (le d 0 8) = .user r → (s.plist r).bound = none → (s.plist r).readOnly = false → sameRatio (s.plist r).pages = true →
      let ratio := ((s.plist r).pages.head?.map (·.ratio)).getD 0
      le d 24 8 + 8 ≤ (s.plist r).pages.length * pageBytes ratio → s.takePages 0 ratio (le d 16 4) = some (stage, t) →
      let u := t.takeRegion i (le d 0 8) (.user r) (s.plist r).pages
      let gen := nextGen (u.window i).generation
      let lamp := le d 22 2
      let win : Window := { u.window i with state := 1, generation := gen, peer := BitVec.ofNat 64 (le d 8 8), rights := le d 20 1, tcMask := le d 21 1, lamp := (if bit lamp 15 then none else some (lamp % 2 ^ 14)), sealOff := le d 24 8, staging := stage, ratio := ratio }
      exec (.winOpen c w d) s = .next (((u.setWindow i win).setOut (.instr c) (fun y => { y with out0 := gen })).advance c)) ∧
    (Runs s c 0x70 w x → i = w.opb.toNat → winShape d = true → (s.window i).state ≠ 0 →
      exec (.winOpen c w d) s = .next (s.failInstr c .illegalInState (obsOf 4 (s.window i).state))) ∧
    (Runs s c 0x71 w x → i = w.opb.toNat →
      ((s.window i).state = 1 →
        let t := s.setWindow i { s.window i with state := 2, revokeBeat := s.now, revokeLamp := w.opa.toNat, revokeCtx := some c }
        exec (.winRevoke c w) s = .next (t.settle c (.wait t .op))) ∧
      ((s.window i).state ≠ 1 → exec (.winRevoke c w) s = .next (s.failInstr c .illegalInState (obsOf 4 (s.window i).state)))) ∧
    (s.cdUp = true → (s.window i).state = 2 →
      (s.now < (s.window i).revokeBeat + 3 → exec (.winRevokeComplete i) s = .next s) ∧
      (s.fab.copiesIn.any (fun y => y.window == i && y.sealedAt) = true → exec (.winRevokeComplete i) s = .next s) ∧
      ((s.window i).revokeBeat + 3 ≤ s.now → s.fab.copiesIn.any (fun y => y.window == i && y.sealedAt) = false → (s.window i).revokeCtx = some c →
        let t := (s.dropPages ((s.window i).staging ++ (s.fab.copiesIn.filter (·.window == i)).flatMap (·.stage))).mapFab (fun f => { f with copiesIn := f.copiesIn.filter (fun y => y.window != i) })
        let u := t.setWindow i { t.window i with state := 0, staging := [], revokeCtx := none }
        exec (.winRevokeComplete i) s = .next ((u.lightLamp (s.window i).revokeLamp 1).finish (.instr c) .ok)))

/-- R153, R188, R377, R383 to R386: frames that name a window are checked in the order generation, state, then rights, and served only while
the region's deed is `HOME`; each refusal has its code, counter and event; a `WIN_SEAL` adds 1 to the seal word and lights the lamp; a read
answers the region's bytes; an answer completes its load, whose timeout answers ones; `SEAL` sends the frame and
waits for its acknowledgement, and a refusal that arrives meanwhile ends it with its code.

Model's own choices it rests on: log entries 72, 73. -/
def Obligations.WindowFrames : Prop :=
  ∀ (s t : State) (f : Frame) (c i len : Nat) (wn : Nat) (w : IWord) (x : Ctx) (data : Bytes) (y : Load),
    (f.window = some wn →
      (∀ right inside,
        (f.generation ≠ (s.window wn).generation → s.windowCheck f right inside = some 1) ∧
        (f.generation = (s.window wn).generation → (s.window wn).state ≠ 1 → s.windowCheck f right inside = some 2) ∧
        (f.generation = (s.window wn).generation → (s.window wn).state = 1 →
          (s.admitted (s.window wn) f.src = false ∨ bit (s.window wn).rights right = false ∨ bit (s.window wn).tcMask f.tc = false ∨ inside (s.window wn) = false) →
          s.windowCheck f right inside = some 3) ∧
        (f.generation = (s.window wn).generation → (s.window wn).state = 1 → s.admitted (s.window wn) f.src = true → bit (s.window wn).rights right = true →
          bit (s.window wn).tcMask f.tc = true → inside (s.window wn) = true →
          ((s.window wn).deed.state ≠ .home → s.windowCheck f right inside = some 4) ∧ ((s.window wn).deed.state = .home → s.windowCheck f right inside = none))) ∧
      (∀ kind, s.refuseWindow f kind 4 = s.sendNack f kind .staleEpoch ∧
        s.refuseWindow f kind 1 = ((s.sendNack f kind .staleWindow).bump Reg.WIN_STALE).raise Ev.windowStale f.src wn f.generation ∧
        s.refuseWindow f kind 2 = ((s.sendNack f kind .accessRevoked).bump Reg.WIN_REVOKED).raise Ev.windowRevokedArrival f.src wn f.generation ∧
        s.refuseWindow f kind 3 = ((s.sendNack f kind .accessViolation).bump Reg.WIN_VIOLATIONS).raise Ev.windowViolation f.src wn f.generation) ∧
      (Delivered s f .winSeal t → t.windowCheck f 2 (fun _ => true) = none →
        let ps := (t.window wn).deed.pages
        let u := t.writeStream ps (t.window wn).sealOff (leBytes 8 (leVal (pageStream ps t (t.window wn).sealOff 8) + 1))
        exec (.winSealReceive f false) s = .next (u.acked f) ∧
        (∀ j, (t.window wn).lamp = some j → exec (.winSealReceive f true) s = .next ((u.lightLamp j 1).acked f))) ∧
      (∀ k, Delivered s f .winSeal t → t.windowCheck f 2 (fun _ => true) = some k →
        ∀ l, exec (.winSealReceive f l) s = .next ((t.refuseWindow f .winSeal k).acked f)) ∧
      (Delivered s f .read t → f.offset % 64 = 0 → len % 64 = 0 → 64 ≤ len → len ≤ 4096 → f.offset + len ≤ (t.window wn).size →
        f.generation = (t.window wn).generation → (t.window wn).state = 1 → t.admitted (t.window wn) f.src = true → bit (t.window wn).rights 0 = true →
        bit (t.window wn).tcMask f.tc = true → (t.window wn).deed.state = .home →
        exec (.readReceive f len true) s = .next ((t.send f.src .readResp 3 len (.bytes (pageStream (t.window wn).deed.pages t f.offset len)) f.ref none 0 f.offset).acked f))) ∧
    (Delivered s f .readResp t → t.fab.loads.find? (fun x => x.id == f.ref && x.dst == f.src) = some y →
      exec (.readRespReceive f data) s = .next (((t.dropLoad y.id).emit (.hdmData y.hdm data)).acked f)) ∧
    (s.fab.loads.find? (·.id == i) = some y →
      (s.clk.time < y.sentNs + 1000 * bits (s.regN Reg.LOAD_TIMEOUT) 7 0 → exec (.loadTimeout i) s = .next s) ∧
      (y.sentNs + 1000 * bits (s.regN Reg.LOAD_TIMEOUT) 7 0 ≤ s.clk.time →
        exec (.loadTimeout i) s = .next ((((s.dropLoad i).bump Reg.LOAD_TIMEOUTS).raise Ev.remoteLoadTimeout y.dst y.window y.off).emit (.hdmOnes y.hdm y.len)))) ∧
    (∀ gen u, Runs s c 0x73 w x → s.preSeal w x = none → s.knownGen w.opc w.opb.toNat = (gen, u) →
      let v := (u.mapFab (fun f => { f with nextId := s.fab.nextId + 1, seals := f.seals ++ [{ id := s.fab.nextId, owner := .instr c, node := w.opc }] })).send w.opc .winSeal 4 8
        (.sealW (w.flag 8) s.fab.nextId) s.fab.nextId (some w.opb.toNat) gen 0 0 false none x.entry.svc
      exec (.sealWin c w) s = .next (v.settle c (.wait v .op))) ∧
    (∀ code obs, Runs s c 0x73 w x → s.preSeal w x = some (code, obs) → exec (.sealWin c w) s = .next (s.failInstr c code obs)) ∧
    (∀ n z, Delivered s f .nack t → n.kind = .winSeal → t.fab.seals.find? (fun z => z.node == f.src && z.id == n.ref) = some z →
      exec (.nackReceive f n) s = .next ((t.endSeal z n.code).acked f))

/-- R379 to R381, R394, R440, R441: copies. `COPY` of lines that a host cache holds calls them back and has not started; one that admission
accepts starts its stream and waits; at the target the open takes staging pages that hold the present bytes; each data
frame goes to them, the region unchanged until the last one with the sealed bit has arrived, and then in one step; a
frame that fails its check drops the copy; the commit at the initiator keeps the promise by the commit beat.

Model's own choices it rests on: log entry 73. -/
def Obligations.Copies : Prop :=
  ∀ (s t : State) (f : Frame) (c beat : Nat) (w : IWord) (x : Ctx) (d data : Bytes) (o : CopyOpen) (y : CopyIn) (z : CopyOut),
    (let lines := s.tracked (s.gddrSpan (le d 0 8) (le d 32 8))
     Runs s c 0x72 w x → s.copyShape d x.entry.svc = true → lines ≠ [] →
      exec (.copy c w d) s = .next ((s.callBack (s.gddrSpan (le d 0 8) (le d 32 8)) []).mapCxl (fun y => { y with snoopFor := (y.snoopFor ++ lines.map (·, c)).eraseDups }))) ∧
    (∀ u id n, Runs s c 0x72 w x → s.tracked (s.gddrSpan (le d 0 8) (le d 32 8)) = [] → s.preCopy d x.entry.svc = none → s.admitAt c x (s.itemCopy x.pc d) = .go u id n →
      let v := u.startCopy d (.instr c) x.entry.svc (((id.bind u.promise).map (·.k)).getD u.now) (((id.bind u.promise).map (·.n)).getD n) id
      exec (.copy c w d) s = .next (v.settle c (.wait v .op))) ∧
    (∀ code obs, Runs s c 0x72 w x → s.tracked (s.gddrSpan (le d 0 8) (le d 32 8)) = [] → s.preCopy d x.entry.svc = some (code, obs) → exec (.copy c w d) s = .next (s.failInstr c code obs)) ∧
    (Delivered s f .openK t →
      let wi := f.window.getD 0
      let win := t.window wi
      (t.windowCheck f 1 (fun w => decide (1 ≤ o.len ∧ o.dstOff + o.len ≤ w.size ∧ (touched w.ratio o.dstOff o.len).2 ≤ w.staging.length)) = none →
        let first := (touched win.ratio o.dstOff o.len).1
        let n := (touched win.ratio o.dstOff o.len).2
        let u := (t.setWindow wi { win with staging := win.staging.drop n }).copyPages ((win.deed.pages.drop first).take n) (win.staging.take n)
        exec (.copyOpenReceive f o) s = .next ((u.mapFab (fun g => { g with copiesIn := g.copiesIn ++
          [{ id := f.ref, src := f.src, window := wi, op := o, firstPage := first, stage := win.staging.take n, got := 0, sealedAt := false, till := o.promised + bits (u.regN Reg.DEED_TIMEOUT) 23 0 }] })).acked f)) ∧
      (∀ k, t.windowCheck f 1 (fun w => decide (1 ≤ o.len ∧ o.dstOff + o.len ≤ w.size ∧ (touched w.ratio o.dstOff o.len).2 ≤ w.staging.length)) = some k →
        exec (.copyOpenReceive f o) s = .next ((t.refuseCopy f .openK k).acked f))) ∧
    (Delivered s f .data t → t.copyInOf f = some y →
      t.windowCheck f 1 (fun _ => decide (y.op.dstOff ≤ f.offset ∧ f.offset + data.length ≤ y.op.dstOff + y.op.len)) = none →
      let u := t.writeStream y.stage (f.offset - y.firstPage * pageBytes (t.window y.window).ratio) data
      let y' : CopyIn := { y with got := y.got + 1, sealedAt := y.sealedAt || f.sealBit }
      (∀ col, exec (.copyDataReceive f data false col) s = .next (((t.dropCopyIn y).sendNack f .data .checkFail).acked f)) ∧
      (∀ col, (y.got + 1 < y.op.frames ∨ (y.sealedAt || f.sealBit) = false) → exec (.copyDataReceive f data true col) s =
        .next ((u.mapFab (fun g => { g with copiesIn := g.copiesIn.map (fun q => if q.id = y.id ∧ q.src = y.src then y' else q) })).acked f)) ∧
      (y.op.frames ≤ y.got + 1 → (y.sealedAt || f.sealBit) = true → (u.window y.window).deed.state ≠ .home →
        ∀ col, exec (.copyDataReceive f data true col) s = .next (((u.dropCopyIn y').sendNack f .data .staleEpoch).acked f)) ∧
      (y.op.frames ≤ y.got + 1 → (y.sealedAt || f.sealBit) = true → (u.window y.window).deed.state = .home →
        exec (.copyDataReceive f data true false) s = .next ((u.landCopy y').acked f) ∧
        exec (.copyDataReceive f data true true) s = .next ((((u.bump Reg.COMMONS_COLLISIONS).dropCopyIn y').sendNack f .data .writeCollided).acked f))) ∧
    (∀ u code, Delivered s f .commit t → t.fab.copies.find? (fun x => x.id == f.ref && x.dst == f.src) = some z →
      (t.dropCopy z).keepPromise z.promise beat true = (u, code) → exec (.copyCommitReceive f beat) s = .next ((u.finish z.owner code).acked f))

/-- R414, R416, R419, R423, Table 5.19: the field instructions. One whose precondition holds starts the form or the membership change and waits for
it; one whose precondition fails ends with the precondition's code and changes nothing. A form at a member other
than the root sends READY with its free beat to the root; every change goes from the root to every member, the
old ones and the new, and its issuer answers for itself.

R414, R415: forming. READY under another check, or from a node outside the list, changes nothing; the root's commit beat is taken
when it is still to come, and one that has passed ends the form here with `FIELD_CHANGED` and an event; an abort, or
FIELD_FORM_TIMEOUT beats without a commit beat, ends it with `TARGET_DEAD` and the node in out0; at the commit beat
the field runs at membership epoch 1 with every health score at 1,000.

Model's own choices it rests on: log entry 81. -/
def Obligations.FieldForming : Prop :=
  (∀ (s : State) (c : Nat) (w : IWord) (x : Ctx) (d : Bytes) (code : Code) (obs : Nat),
    let m := x.entry.meadow
    let f := s.field m
    (Runs s c 0x78 w x →
      (s.preForm w.opa.toNat d = none → (parseField d).root ≠ s.me →
        let t := (s.setField w.opa.toNat (FieldSt.forming (parseField d) c s.now)).sendMgmt (parseField d).root
          (.fieldReady { fieldId := (parseField d).fieldId, crc := (parseField d).crc, freeBeat := s.freeBeat w.opa.toNat, refused := false })
        exec (.fieldForm c w d) s = .next (t.settle c (.wait t .op))) ∧
      (s.preForm w.opa.toNat d = none → (parseField d).root = s.me → exec (.fieldForm c w d) s =
        .next ((s.startForm w.opa.toNat c (parseField d)).settle c (.wait (s.startForm w.opa.toNat c (parseField d)) .op))) ∧
      (s.preForm w.opa.toNat d = some (code, obs) → exec (.fieldForm c w d) s = .next (s.failInstr c code obs))) ∧
    (Runs s c 0x79 w x →
      (s.preFieldAdmit m w.opc = none →
        let top := f.members.foldl (fun a e => max a e.weight) 1
        let t := s.startChange m .join (f.descOf (f.members ++ [{ node := w.opc, meadow := 0, weight := top }])) w.opc (some c)
        exec (.fieldAdmit c w) s = .next (t.settle c (.wait t .op))) ∧
      (s.preFieldAdmit m w.opc = some (code, obs) → exec (.fieldAdmit c w) s = .next (s.failInstr c code obs))) ∧
    (Runs s c 0x7A w x →
      (s.preExpel m w.opc = none →
        let t := s.startChange m .expel (f.descOf (f.members.filter (fun e => e.node != w.opc))) w.opc (some c)
        exec (.fieldExpel c w) s = .next (t.settle c (.wait t .op))) ∧
      (s.preExpel m w.opc = some (code, obs) → exec (.fieldExpel c w) s = .next (s.failInstr c code obs))) ∧
    (Runs s c 0x7B w x →
      (s.preReform m d = none → s.answerTo m { kind := .reform, desc := parseField d, subject := (parseField d).root } ≠ some true →
        let u := (s.withdrawAll m (droppedBy (parseField d)) .fieldChanged).publish (.instr c) 4 0 (parseField d).members.length
        let t := u.startChange m .reform (parseField d) (parseField d).root (some c)
        exec (.fieldReform c w d) s = .next (t.settle c (.wait t .op))) ∧
      (s.preReform m d = none → s.answerTo m { kind := .reform, desc := parseField d, subject := (parseField d).root } = some true →
        exec (.fieldReform c w d) s =
          .next ((s.setOut (.instr c) (fun y => { y with out0 := s.me.toNat })).failInstr c .illegalInState (obsOf 5 (s.field m).state))) ∧
      (s.preReform m d = some (code, obs) → exec (.fieldReform c w d) s = .next (s.failInstr c code obs)))) ∧
  (∀ (s t : State) (f : Frame) (r : FieldReady) (m c : Nat) (node : NodeId) (x : FieldSt),
    (Delivered s f .mgmt t → t.fld.find? (fun e => e.2.id == r.fieldId && e.2.state == 1 && e.2.root == t.me) = some (m, x) →
      ((x.desc.map (·.crc) ≠ some r.crc ∨ ¬ ∃ e ∈ x.members, e.node = f.src) → exec (.fieldReadyReceive f r) s = .next (t.acked f)) ∧
      (x.desc.map (·.crc) = some r.crc → (∃ e ∈ x.members, e.node = f.src) →
        exec (.fieldReadyReceive f r) s = .next (((t.setField m { x with ready := x.ready.filter (fun e => e.1 != f.src) ++ [(f.src, r)] }).tryForm m).acked f))) ∧
    (Delivered s f .mgmt t → t.fld.find? (fun e => e.2.id == x.id && e.2.state == 1 && e.2.root == f.src) = some (m, x) →
      (t.now ≤ c → exec (.fieldCommitBeatReceive f x.id c) s = .next ((t.setField m { x with commitAt := some c }).acked f)) ∧
      (c < t.now → exec (.fieldCommitBeatReceive f x.id c) s =
        .next (((t.endForm m .fieldChanged none).raise Ev.fieldCommitLate f.src x.id c (some m)).acked f)) ∧
      exec (.fieldAbortReceive f x.id node) s = .next ((t.endForm m .targetDead (some node)).acked f)) ∧
    ((s.field m).state = 1 →
      let till := (s.field m).since + bits (s.regN Reg.FIELD_FORM_TIMEOUT) 23 0
      (s.now < till → exec (.fieldFormTimeout m) s = .next s) ∧
      ((s.field m).commitAt.isSome = true → exec (.fieldFormTimeout m) s = .next s) ∧
      ((s.field m).commitAt = none → till ≤ s.now → (s.field m).root ≠ s.me →
        exec (.fieldFormTimeout m) s = .next (s.endForm m .targetDead (some (s.field m).root))) ∧
      (s.cdUp = true → (s.mdw m).steps.any (·.started) = false →
        (∀ b, (s.field m).commitAt = some b → s.now < b → exec (.fieldCommit m) s = .next s) ∧
        (∀ b, (s.field m).commitAt = some b → b ≤ s.now → (s.field m).owner = none →
          ∃ u, exec (.fieldCommit m) s = .next u ∧ (u.field m).state = 2 ∧ (u.field m).epoch = 1 ∧ (u.field m).members = (s.field m).members ∧
            (u.field m).root = (s.field m).root ∧ (u.field m).health = (s.field m).members.map (fun e => (e.node, 1000)) ∧
            (u.mdw m).captures = loseCaptures 2 (s.mdw m).captures ∧ (u.mdw m).steps = (s.mdw m).steps ∧
            u.mem = s.mem ∧ u.lore = s.lore ∧ u.io = s.io ∧ u.clk = s.clk ∧ u.regs = s.regs))))

/-- R417, R419, R421 to R423, R212, R213, R428: a field at work. A change that arrives is announced to its meadow and answered, but for one
that names a new root whose count differs, which is reported and gets no READY; a hold or a release counts from the root alone.
Step data under another placement or deed epoch is discarded, counted and refused with `STALE_EPOCH`. The root
evaluates a step in the beat after every member reported it, or once a later one committed, each health score going up by the
reward of a clean step and down by Table 15.6's deductions; a held field keeps its scores.

R426, R430, R433: FIELD_CTRL. A release ends the hold of a field that this Cucia leads and is told to the members; a preparation of a `DRAINED`
meadow sets busy and waits for the background share, and its end shows ready with no failure, or the failures, with the tiles' SRAM zero; of
another meadow, or while one runs, it is refused with a configuration event.

Model's own choices it rests on: log entries 82, 85, 143. -/
def Obligations.FieldsAtWork : Prop :=
  (∀ (s t : State) (f : Frame) (ch : FieldChange) (r : StepReport) (m seq row : Nat) (same : Bool) (deeds : List (Nat × Nat)) (data : Bytes) (x : FieldSt),
    (Delivered s f .mgmt t →
      (t.changeMeadow ch = none → exec (.fieldChangeReceive f ⟨ch, same⟩) s = .next (t.acked f)) ∧
      (t.changeMeadow ch = some m → isHold ch.kind = false → ch.kind ≠ .withdraw →
        let g := t.field m
        let a : Announced := { change := ch, issuer := f.src, answered := false, commitAt := none, hold := decide (ch.kind = .expel ∧ g.state = 3) }
        ((ch.kind ≠ .reform ∨ g.root = 0 ∨ ch.desc.root = g.root ∨ same = true) →
          exec (.fieldChangeReceive f ⟨ch, same⟩) s =
            .next (((t.setField m { g with announced := g.announced ++ [a] }).answerChange m g.announced.length).acked f)) ∧
        (ch.kind = .reform → g.root ≠ 0 → ch.desc.root ≠ g.root → same = false →
          exec (.fieldChangeReceive f ⟨ch, same⟩) s =
            .next (((t.raise Ev.beaconConflict ch.desc.root 0 t.now).setField m { g with announced := g.announced ++ [{ a with answered := true }] }).acked f))) ∧
      (∀ reason, ch.kind = .hold reason → t.changeMeadow ch = some m →
        ((t.field m).root = f.src → (t.field m).state = 2 →
          exec (.fieldChangeReceive f ⟨ch, same⟩) s = .next ((t.enterHold m ch.subject reason).acked f)) ∧
        ((t.field m).root ≠ f.src → exec (.fieldChangeReceive f ⟨ch, same⟩) s = .next (t.acked f))) ∧
      (ch.kind = .release → t.changeMeadow ch = some m → (t.field m).root = f.src → (t.field m).state = 3 →
        exec (.fieldChangeReceive f ⟨ch, same⟩) s = .next ((t.setField m { t.field m with state := 2 }).acked f)) ∧
      (t.fieldBy r.fieldId = some m → (t.field m).root = t.me → (∃ e ∈ (t.field m).members, e.node = f.src) →
        exec (.stepReportReceive f r) s = .next ((t.setField m { t.field m with
          reports := (t.field m).reports ++ [(f.src, r)], evalSeq := some ((t.field m).evalSeq.getD r.stepSeq), reportBeat := t.now }).acked f)) ∧
      (t.fieldBy r.fieldId = none → exec (.stepReportReceive f r) s = .next (t.acked f))) ∧
    (Delivered s f .collective t → f.forwarded = false → t.fld.find? (fun e => t.fielded e.1 && e.2.members.any (·.node == f.src)) = some (m, x) →
      (t.contributionOk m f.stamp row deeds = false → exec (.collectiveReceive f ⟨seq, row, deeds⟩ data) s =
        .next (((t.bump Reg.STALE_DISCARDS).sendNack f .collective .staleEpoch).acked f)) ∧
      (t.contributionOk m f.stamp row deeds = true → exec (.collectiveReceive f ⟨seq, row, deeds⟩ data) s =
        .next ((t.setField m { x with data := x.data.filter (fun e => decide (t.regN (Reg.STEP_SEQ m) ≤ e.2.1)) ++ [(f.src, seq, data)] }).acked f))) ∧
    (∀ k q, t.lore.requests.find? (fun e => e.2.meadow == m && e.2.state.live && e.2.row == some row) = some (k, q) →
      (t.contributionOk m f.stamp row deeds = true ↔
        f.stamp = q.placement ∧ ∀ e ∈ deeds, (t.deed (.own q.lantern e.1)).epoch = e.2)) ∧
    (∀ q, s.cdUp = true → s.leads m = true → (s.field m).evalSeq = some q →
      let g := s.field m
      let of (n : NodeId) : Option StepReport := (g.reports.find? (fun r => r.1 == n && r.2.stepSeq == q)).map (·.2)
      let old (n : NodeId) : Nat := ((g.health.find? (·.1 == n)).map (·.2)).getD 1000
      (s.regN (Reg.STEP_SEQ m) ≤ q → ((∃ e ∈ g.members, of e.node = none) ∨ s.now ≤ g.reportBeat) → exec (.fieldStepEvaluation m) s = .next s) ∧
      ((∀ e ∈ g.members, (of e.node).isSome = true) → g.reportBeat < s.now → g.state = 3 →
        ∃ u, exec (.fieldStepEvaluation m) s = .next u ∧ (u.field m).health = g.members.map (fun e => (e.node, old e.node)) ∧
          (u.field m).reports = g.reports.filter (fun r => decide (q < r.2.stepSeq))) ∧
      (((∀ e ∈ g.members, (of e.node).isSome = true) ∧ g.reportBeat < s.now ∨ q < s.regN (Reg.STEP_SEQ m)) → g.state = 2 →
        let h := g.members.map (fun e => (e.node, scoreAfter (s.regN Reg.HEALTH_PEN) (old e.node) (of e.node)))
        ∃ v : State, exec (.fieldStepEvaluation m) s = .next ((v.straggle m).expelCandidate m) ∧ (v.field m).health = h ∧
          (v.field m).reports = g.reports.filter (fun r => decide (q < r.2.stepSeq)) ∧ v.regs = s.regs ∧ v.eng = s.eng ∧ v.lore = s.lore)) ∧
    (∀ pen score r, deduction pen (some r) = 0 → scoreAfter pen score (some r) = min 1000 (score + pen % 256)) ∧
    (∀ pen score r, deduction pen r ≠ 0 → scoreAfter pen score r = score - deduction pen r)) ∧
  (∀ (s : State) (m failures : Nat), s.cdUp = true →
    (s.leads m = true → (s.field m).state = 3 → exec (.fieldCtrlRelease m) s =
      .next ((s.setField m { s.field m with state := 2 }).tellMembers m .release s.me)) ∧
    ((s.leads m = false ∨ (s.field m).state ≠ 3) → exec (.fieldCtrlRelease m) s = .next s) ∧
    ((s.mdw m).state = .drained → bit (s.regN Reg.FIELD_READY) 30 = false →
      exec (.fieldCtrlPrep m) s = .next ((s.setRegN Reg.FIELD_READY (2 ^ 30 + 256 * m)).addJob 8 prepJob ((s.mdw m).tiles.map (fun t => (resTile t, s.prepNs))))) ∧
    (((s.mdw m).state ≠ .drained ∨ bit (s.regN Reg.FIELD_READY) 30 = true) →
      exec (.fieldCtrlPrep m) s = .next (s.configReject Reg.FIELD_CTRL (0x90000000 + m))) ∧
    (bit (s.regN Reg.FIELD_READY) 30 = true → s.jobDone 8 prepJob = false → exec (.fieldPrepComplete failures) s = .next s) ∧
    (bit (s.regN Reg.FIELD_READY) 30 = true → s.jobDone 8 prepJob = true →
      let m := bits (s.regN Reg.FIELD_READY) 10 8
      let u := s.dropJob 8 prepJob
      let t := (u.mdw m).tiles.foldl State.zeroTile u
      (failures = 0 → exec (.fieldPrepComplete failures) s = .next (t.setRegN Reg.FIELD_READY (2 ^ 31 + 256 * m))) ∧
      (failures ≠ 0 → exec (.fieldPrepComplete failures) s = .next (t.setRegN Reg.FIELD_READY (256 * m + min failures 255)))) ∧
    (bit (s.regN Reg.FIELD_READY) 30 = false → exec (.fieldPrepComplete failures) s = .next s))

/-- R30 to R32, R548: a write of BEAT_LEN outside a field with a legal length that every gate list fits pends; it takes effect at a
boundary outside a field, once no admitted step, shadow run or promise granted under a shorter beat stands in the way; any other write is refused with a
configuration event and changes neither register nor clock.

R29, R36: the beat boundary. BEAT_NOW goes up by 1, BEAT_TIME by the beat length and the part of the beacon's correction that one
boundary takes, at most 8 ns either way, and the correction loses that part; while a reset holds the block or before boot
has ended no boundary passes. The voltage loop of order 7 first brings the beat to that order (R33; log entry 162).

Model's own choices it rests on: log entries 121, 135, 162. -/
def Obligations.BeatClock : Prop :=
  (∀ (s : State) (v : BitVec 32),
    let b := v.toNat % 2 ^ 17
    (s.cdUp = true → s.anyField = false → beatLegal b = true → s.gatesFit b = true →
      (b ≠ s.clk.len → exec (.beatLenWrite v) s = .next ((s.setRegN Reg.BEAT_LEN b).mapClk (fun c => { c with lenPending := some b }))) ∧
      (b = s.clk.len → exec (.beatLenWrite v) s = .next ((s.setRegN Reg.BEAT_LEN b).mapClk (fun c => { c with lenPending := none })))) ∧
    (s.cdUp = true → (s.anyField = true ∨ beatLegal b = false ∨ s.gatesFit b = false) →
      exec (.beatLenWrite v) s = .next (s.configReject Reg.BEAT_LEN v.toNat)) ∧
    (∀ p, s.clk.lenPending = some p → s.cdUp = true →
      ((∀ e ∈ s.eng.meadows, e.2.steps = []) → s.eng.shadow = none → s.eng.referee = [] → (∀ q ∈ s.io.promises, p ≤ q.b) →
        s.clk.order ≤ 2 → s.anyField = false →
        exec .beatLenEffect s = .next ((s.mapClk (fun c => { c with len := p, lenPending := none })).refraction)) ∧
      (((∃ e ∈ s.eng.meadows, e.2.steps ≠ []) ∨ s.eng.shadow.isSome = true ∨ s.eng.referee ≠ [] ∨ (∃ q ∈ s.io.promises, q.b < p) ∨
          2 < s.clk.order ∨ s.anyField = true) →
        exec .beatLenEffect s = .next s)) ∧
    (s.clk.lenPending = none → exec .beatLenEffect s = .next s)) ∧
  (∀ (s : State) (i : BeatInput),
    (s.cdUp = true → ∃ t, exec (.beatBoundary i) s = .next t ∧ t.clk.now = s.clk.now + 1 ∧ t.clk.len = s.clk.len ∧
      (8 < s.clk.correction → t.clk.time = s.clk.time + s.clk.len + 8 ∧ t.clk.correction = s.clk.correction - 8) ∧
      (-8 ≤ s.clk.correction → s.clk.correction ≤ 8 → (t.clk.time : Int) = max 0 ((s.clk.time : Int) + s.clk.len + s.clk.correction) ∧ t.clk.correction = 0) ∧
      (s.clk.correction < -8 → 8 ≤ s.clk.time + s.clk.len → t.clk.time = s.clk.time + s.clk.len - 8 ∧ t.clk.correction = s.clk.correction + 8)) ∧
    (s.cdUp = true → exec .voltageLower s = .next (s.atOrder 7).lowerVoltage ∧
      (s.clk.order = 6 → exec .voltageLower s = .next (s.voltage.mapClk (fun c => { c with order := 7 })).lowerVoltage)) ∧
    (s.cdUp = false → exec (.beatBoundary i) s = .next s))

/-- R43 to R47: the timing state and the voltage. A least reading below 1.2 × 10⁹ derates and is reported; below the margin it is
`MARGIN_LOW`; only DERATED_EXIT beats in a row at or above the margin leave `DERATED`, with an event; at order 7 a least
reading below the margin raises an adaptive voltage by 5 mV, not above 850, and 64 high beats in a row lower it by 5 mV, not below
650; a fixed one stands as VOLT_CTRL says. -/
def Obligations.TimingAndVoltage : Prop :=
  ∀ (s : State) (tapers : List Nat) (rate : Nat), rate ∈ tapers → (∀ r ∈ tapers, rate ≤ r) →
    (rate < 1200000000 → (s.timing tapers).clk.timing = .derated) ∧
    (s.clk.timing = .derated → (s.timing tapers).clk.timing = .derated) ∧
    (s.clk.timing ≠ .derated → 1200000000 ≤ rate →
      (1200000000 * (1024 + s.regN Reg.TAPER_MARGIN % 256) ≤ 1024 * rate → (s.timing tapers).clk.timing = .normal) ∧
      (1024 * rate < 1200000000 * (1024 + s.regN Reg.TAPER_MARGIN % 256) → (s.timing tapers).clk.timing = .marginLow)) ∧
    (1200000000 * (1024 + s.regN Reg.TAPER_MARGIN % 256) ≤ 1024 * rate → (s.timing tapers).clk.exitCount = s.clk.exitCount + 1) ∧
    (1024 * rate < 1200000000 * (1024 + s.regN Reg.TAPER_MARGIN % 256) → (s.timing tapers).clk.exitCount = 0) ∧
    (s.cdUp = true →
      (s.clk.timing = .derated → bits (s.regN Reg.DERATED_EXIT) 15 0 ≤ s.clk.exitCount →
        exec .deratedExited s = .next ((s.mapClk (fun c => { c with timing := .normal })).raise Ev.deratedExited 0 0 0 none 2)) ∧
      (s.clk.timing ≠ .derated → exec .deratedExited s = .next s) ∧
      (s.clk.exitCount < bits (s.regN Reg.DERATED_EXIT) 15 0 → exec .deratedExited s = .next s) ∧
      (7 ≤ s.clk.order →
        (bit (s.regN Reg.VOLT_CTRL) 31 = false → 64 ≤ s.clk.highCount →
          exec .voltageLower s = .next (s.mapClk (fun c => { c with volt := max 650 (c.volt - 5), highCount := 0 }))) ∧
        ((bit (s.regN Reg.VOLT_CTRL) 31 = true ∨ s.clk.highCount < 64) → exec .voltageLower s = .next s))) ∧
    (bit (s.regN Reg.VOLT_CTRL) 31 = true → s.voltage = s.mapClk (fun c => { c with volt := bits (s.regN Reg.VOLT_CTRL) 25 16 })) ∧
    (bit (s.regN Reg.VOLT_CTRL) 31 = false → s.clk.tapers = tapers →
      (1200000000 * (1024 + s.regN Reg.TAPER_MARGIN % 256) ≤ 1024 * rate → s.voltage = s) ∧
      (1024 * rate < 1200000000 * (1024 + s.regN Reg.TAPER_MARGIN % 256) →
        s.voltage = s.mapClk (fun c => { c with volt := min 850 (c.volt + 5), highCount := 0 })))

/-- R35, R38 to R42, R411, R412: following a root and its beacons. FIELD_FOLLOW outside a field makes the Cucia `LOCAL`, the
master, or `ACQUIRING`, and asks the root for a place; the root gives one, and tells the follower above it, while the
distribution tree has room; a beacon with an error is discarded and counted; the sixteenth in a row in the band locks, one
outside it unlocks; a follower that hears none for BEACON_LOSS whole beats, or is not `LOCKED` 1,024 beats after its request, runs
free from its own timebase.

Model's own choices it rests on: log entries 87, 101, 136. -/
def Obligations.Beacons : Prop :=
  ∀ (s t : State) (f : Frame) (b : Beacon) (arrival : Nat) (v : BitVec 64) (n : NodeId),
    let free := ((s.mapClk (fun c => { c with beacon := .freeRun, freeSince := c.now, correction := 0, inBand := 0, followAt := none })).raise
      Ev.beaconLost s.clk.root).beaconFault
    (s.cdUp = true → s.anyField = false → v ≠ BitVec.allOnes 64 →
      (v ≠ 0 → v ≠ s.me →
        exec (.fieldFollow v) s = .next (((s.setReg Reg.FIELD_FOLLOW v).mapClk (fun c =>
          { c with beacon := .acquiring, root := v, inBand := 0, correction := 0, lastBeacon := c.now, children := [], followers := [], followAt := some c.now })).sendMgmt v (.follow none))) ∧
      (v = 0 → ∃ u, exec (.fieldFollow v) s = .next u ∧ u.clk.beacon = .local_ ∧ u.clk.root = 0 ∧ u.clk.correction = 0) ∧
      (v ≠ 0 → v = s.me → ∃ u, exec (.fieldFollow v) s = .next u ∧ u.clk.beacon = .master ∧ u.clk.root = s.me ∧ u.clk.correction = 0)) ∧
    (s.cdUp = true → (s.anyField = true ∨ v = BitVec.allOnes 64) → exec (.fieldFollow v) s = .next (s.configReject Reg.FIELD_FOLLOW v.toNat)) ∧
    (Delivered s f .mgmt t → t.clk.beacon = .master → f.src ∉ t.clk.followers →
      let l := t.clk.followers ++ [f.src]
      let u := t.mapClk (fun c => { c with followers := l, children := l.take 8 })
      (t.clk.followers.length < 8 → exec (.followRequestReceive ⟨f, none⟩) s = .next (u.acked f)) ∧
      (8 ≤ t.clk.followers.length → t.clk.followers.length < treeMax → ∃ p, t.clk.followers[(t.clk.followers.length - 8) / 8]? = some p ∧
        exec (.followRequestReceive ⟨f, none⟩) s = .next ((u.sendMgmt p (.follow (some f.src))).acked f)) ∧
      (treeMax ≤ t.clk.followers.length → exec (.followRequestReceive ⟨f, none⟩) s = .next ((t.sendNack f .mgmt .noSpace).acked f))) ∧
    (Delivered s f .mgmt t → t.clk.beacon = .locked → f.src = t.clk.root → n ∉ t.clk.children → t.clk.children.length < 8 →
      exec (.followRequestReceive ⟨f, some n⟩) s = .next ((t.mapClk (fun c => { c with children := c.children ++ [n] })).acked f)) ∧
    (∀ k, s.clk.followAt = some k →
      (s.now < k + 1024 → exec .followLockTimeout s = .next s) ∧
      (k + 1024 ≤ s.now → s.clk.beacon = .locked → exec .followLockTimeout s = .next (s.mapClk (fun c => { c with followAt := none }))) ∧
      (k + 1024 ≤ s.now → s.clk.beacon ≠ .locked → exec .followLockTimeout s = .next free)) ∧
    (Delivered s f .beacon t → (t.clk.beacon = .acquiring ∨ t.clk.beacon = .locked) →
      (beaconValid b f.payloadLen = false → exec (.beaconReceive f b arrival) s = .next ((t.bump Reg.BEACON_DISCARDS).acked f)) ∧
      (beaconValid b f.payloadLen = true → b.rootId ≠ t.clk.root → exec (.beaconReceive f b arrival) s = .next ((t.bump Reg.BEACON_DISCARDS).acked f)) ∧
      (beaconValid b f.payloadLen = true → b.rootId = t.clk.root →
        ∃ u : State, exec (.beaconReceive f b arrival) s = .next (u.acked f) ∧
          (-25 ≤ t.beaconOffset f.link b arrival → t.beaconOffset f.link b arrival ≤ 25 →
            u.clk.beacon = (if t.clk.beacon = .locked ∨ 16 ≤ t.clk.inBand + 1 then .locked else .acquiring)) ∧
          ((t.beaconOffset f.link b arrival < -25 ∨ 25 < t.beaconOffset f.link b arrival) → u.clk.beacon = .acquiring))) ∧
    (s.cdUp = true → (s.clk.beacon = .acquiring ∨ s.clk.beacon = .locked) →
      (s.clk.lastBeacon + bits (s.regN Reg.BEACON_LOSS) 7 0 < s.now → exec .beaconLost s = .next free) ∧
      (s.now ≤ s.clk.lastBeacon + bits (s.regN Reg.BEACON_LOSS) 7 0 → exec .beaconLost s = .next s)) ∧
    (s.holdoverOver = true → s.cdUp = true → exec .beaconHoldoverEnd s = .next s.beaconFault) ∧
    (s.holdoverOver = false → exec .beaconHoldoverEnd s = .next s)

/-- R48, R49: what slack is used for. Background work has a tile only in beats that its meadow's next step does not need; a tile without background work is
gated when 4 or more beats of slack are left, stays gated down to the second beat before the step's commit, and is awake in the last one and
whenever no slack is left or work waits for it. That 4 beats are looked for at each boundary is read from the text (log entry 164).

R320, R321, R525 to R527, R531, R532: background work and telemetry. Each piece of background work runs while its resource has share left
in the window and uses it up, taper calibration also only while both its tiles are free; a corrected line counts, and a unit corrected in its third pass is retired when free; the
24th recalibrated channel ends the pass, as the 64th taper pair does; at a window's start the use
counts from 0 and the new settings hold; a snapshot is written while its ring has room, else counted; a PLDM request of
type 0 or 2 is answered.

Model's own choices it rests on: log entries 130, 131, 132, 164. -/
def Obligations.BackgroundWork : Prop :=
  (∀ (s : State) (tile : Nat), tile < 128 →
    (s.headStep tile = none → tile ∉ s.gateTiles.eng.gated) ∧
    (∀ t : Step, s.headStep tile = some t →
      let n := t.start + t.hdr.pLen - s.now
      let slack := t.started = true ∧ t.used.isSome = true
      (slack → s.tileWanted tile = false → 4 ≤ n → tile ∈ s.gateTiles.eng.gated) ∧
      (slack → s.tileWanted tile = false → 2 ≤ n → tile ∈ s.eng.gated → tile ∈ s.gateTiles.eng.gated) ∧
      (n < 4 → tile ∉ s.eng.gated → tile ∉ s.gateTiles.eng.gated) ∧
      ((n < 2 ∨ ¬ slack ∨ s.tileWanted tile = true) → tile ∉ s.gateTiles.eng.gated) ∧
      (∀ j : BgJob, j.act ≠ 8 →
        ((slack ∧ 1 ≤ n) → s.mayServe j (resTile tile) = true) ∧
        ((t.started = true → slack → n = 0) → t.started = true → s.mayServe j (resTile tile) = false) ∧
        (t.started = false → t.start ≤ s.now → s.mayServe j (resTile tile) = false))) ∧
    s.gateTiles.eng.meadows = s.eng.meadows ∧ s.gateTiles.sys = s.sys ∧ s.gateTiles.clk = s.clk) ∧
  (∀ (s : State) (frame channel pair type cmd arg : Nat), s.cdUp = true →
    (let ch := frame % 24
     let t := s.bgUse ch 4096
     frame + 1 < 23592960 →
      (s.bgRoom ch 4096 = false → ∀ a b, exec (.gddrPatrolScrub frame a b) s = .next s) ∧
      (s.bgRoom ch 4096 = true →
        (exec (.gddrPatrolScrub frame false false) s = .next (t.mapMem (fun m => { m with ceRuns := Tbl.set (fun _ => 0) m.ceRuns frame 0 }))) ∧
        (exec (.gddrPatrolScrub frame false true) s = .next ((t.bump (Reg.GDDR_UE ch)).mapMem (fun m => { m with ceRuns := Tbl.set (fun _ => 0) m.ceRuns frame 0 }))) ∧
        (Tbl.get (fun _ => 0) s.mem.ceRuns frame < 2 → exec (.gddrPatrolScrub frame true false) s =
          .next ((t.bump (Reg.GDDR_CE ch)).mapMem (fun m => { m with ceRuns := Tbl.set (fun _ => 0) m.ceRuns frame (Tbl.get (fun _ => 0) s.mem.ceRuns frame + 1) }))) ∧
        (Tbl.get (fun _ => 0) s.mem.ceRuns frame = 2 → s.mem.retired.contains frame = false → s.unitFree frame = true → ∃ u : State,
          exec (.gddrPatrolScrub frame true false) s = .next (u.retireUnit frame) ∧ u.regN (Reg.GDDR_CE ch) = satAdd 32 (s.regN (Reg.GDDR_CE ch)) 1))) ∧
    (channel < 24 → s.sys.bg.recalDone.contains channel = false → s.bgRoom channel 288000 = true → s.sys.bg.recalDone.length < 23 →
      exec (.gddrRecalibration channel) s = .next ((s.bgUse channel 288000).mapBg (fun b => { b with recalDone := channel :: b.recalDone }))) ∧
    (channel < 24 → s.bgRoom channel 288000 = false → exec (.gddrRecalibration channel) s = .next s) ∧
    (channel < 24 → s.sys.bg.recalDone.contains channel = false → s.bgRoom channel 288000 = true → s.sys.bg.recalDone.length = 23 →
      ∃ t, exec (.gddrRecalibration channel) s = .next t ∧ t.sys.bg.recalDone = []) ∧
    (let need := [(resTile (2 * pair), s.clk.len), (resTile (2 * pair + 1), s.clk.len)]
     pair < 64 → s.sys.bg.taperDone.contains pair = false →
      ((s.tileFree (2 * pair) = false ∨ s.tileFree (2 * pair + 1) = false ∨ s.bgRooms need = false) → exec (.taperCalibration pair) s = .next s) ∧
      (s.tileFree (2 * pair) = true → s.tileFree (2 * pair + 1) = true → s.bgRooms need = true →
        (s.sys.bg.taperDone.length < 63 → exec (.taperCalibration pair) s = .next ((s.bgUses need).mapBg (fun b => { b with taperDone := pair :: b.taperDone }))) ∧
        (s.sys.bg.taperDone.length = 63 → ∃ t, exec (.taperCalibration pair) s = .next t ∧ t.sys.bg.taperDone = []))) ∧
    (s.now % 1024 ≠ 0 ∨ s.sys.bg.windowAt = some s.now → exec .bgWindowStart s = .next s) ∧
    (s.now % 1024 = 0 → s.sys.bg.windowAt ≠ some s.now → ∃ t, exec .bgWindowStart s = .next t ∧ t.sys.bg.windowAt = some s.now ∧ t.sys.bg.share = s.regN Reg.BG_SHARE % 1024 ∧ t.sys.bg.calMs = s.regN Reg.CAL_PERIOD % 65536 ∧
      t.sys.bg.days = s.regN Reg.FLASH_PATROL_DAYS % 256 ∧ t.sys.bg.used = [] ∧ t.regN Reg.BG_PEAK = s.bgPeak) ∧
    (bit (s.regN Reg.TELEM_CTRL) 31 = true → s.now % bits (s.regN Reg.TELEM_CTRL) 23 0 = 0 → s.sys.telem.tried ≠ s.now → s.sys.blocks.any (fun b => b.1 == 10) = false →
      (s.regN Reg.TELEM_RING_BASE = 0 → ∃ t, exec .telemetrySnapshot s = .next t ∧ t.regN Reg.TELEM_DROPPED = satAdd 32 (s.regN Reg.TELEM_DROPPED) 1 ∧ t.out = s.out) ∧
      (let pi := s.regN Reg.TELEM_RING_PI
       let size := 2 ^ bits (s.regN Reg.TELEM_RING_SIZE) 3 0
       s.regN Reg.TELEM_RING_BASE ≠ 0 → (pi + 4096 - s.regN Reg.TELEM_RING_CI % 4096) % 4096 < min size 4095 → s.bgRoom resCxl 4096 = true →
        ∃ t b, exec .telemetrySnapshot s = .next t ∧ t.out = .hostWrite (s.regN Reg.TELEM_RING_BASE + 4096 * (pi % size)) (b ++ leBytes 4 (crc32c b)) :: s.out ∧
          le b 0 4 = 0x4D4C4554 ∧ t.regN Reg.TELEM_RING_PI = (pi + 1) % 4096 ∧ t.sys.telem.seq = s.sys.telem.seq + 1)) ∧
    (s.now % bits (s.regN Reg.TELEM_CTRL) 23 0 ≠ 0 → exec .telemetrySnapshot s = .next s) ∧
    (s.sys.powered = true → (type = 0 ∨ type = 2) → ∃ b, exec (.pldmRequest type cmd arg) s = .next (s.emit (.pldm b))) ∧
    (type ≠ 0 → type ≠ 2 → exec (.pldmRequest type cmd arg) s = .next s))

/-- R58, R105, R106, R108, R62, R95, R33: an entry at its admission, at order 5 behind the steps that start or commit, in the order of
presentation. A malformed entry, or one whose group holds a reserved operand, ends with `BAD_OPERAND` at the index of the first; a
group of which a precondition fails with its code; one that the weighing refuses with the refusing code, the term and the
bound; each without side effect. One that the weighing accepts starts its program in this beat with the bound n. Work without
deadline that waited for the power cap or for room starts when there is room and it has waited longest.

Model's own choices it rests on: log entries 32, 35, 162. -/
def Obligations.EntryAdmitted : Prop :=
  ∀ (s : State) (c : Nat) (x : Ctx) (descs : List Bytes), s.cdUp = true →
    let u := s.atOrder 5
    (s.stepsWait = true → exec (.entryAdmission c descs) s = .next s) ∧
    (s.sys.hold = true ∨ s.sys.paused = true → exec (.entryAdmission c descs) s = .next s) ∧
    (s.stepsWait = false → u.ctx c = some x →
      (s.sys.hold = false → s.sys.paused = false → s.sys.blocks.any (fun b => b.1 == 3) = false →
        ((x.phase ≠ .presented ∨ u.firstTurn x = false) → exec (.entryAdmission c descs) s = .next u) ∧
        (x.phase = .presented → (∀ e ∈ u.io.ctxs, e.2.phase = .presented → x.turn ≤ e.2.turn) →
          let t := u.tryGroup c x descs
          (x.entry.bad = true → exec (.entryAdmission c descs) s = .next (u.refuseEntry c x .badOperand 0 0 0 0)) ∧
          (∀ i obs, x.entry.bad = false → t.first = some (i, .badOperand, obs) →
            exec (.entryAdmission c descs) s = .next (u.refuseEntry c x .badOperand i obs 0 0)) ∧
          (x.entry.bad = false → (∀ i obs, t.first ≠ some (i, .badOperand, obs)) → x.entry.meadow ≠ 0xFF → (u.mdw x.entry.meadow).state = .free →
            exec (.entryAdmission c descs) s = .next (u.refuseEntry c x .illegalInState 0 (obsOf 6 0) 0 0)) ∧
          (x.entry.bad = false → (x.entry.meadow = 0xFF ∨ (u.mdw x.entry.meadow).state ≠ .free) →
            (∀ i code obs, t.first = some (i, code, obs) → exec (.entryAdmission c descs) s = .next (u.refuseEntry c x code i obs 0 0)) ∧
            (∀ code term i n, t.first = none → u.weigh x.entry.deadline t.items = .refuse code term i n →
              exec (.entryAdmission c descs) s = .next (u.refuseEntry c x code i 0 term n)) ∧
            (∀ n, t.first = none → u.weigh x.entry.deadline t.items = .accept n →
              exec (.entryAdmission c descs) s = .next (u.acceptEntry c x descs t.items n))))) ∧
      (∀ watts since, x.wait = .power watts since →
        (longest u.powerWaits = some c → u.powerFail watts = false → exec (.powerCapAdmit c) s = .next (u.rouse c x)) ∧
        (u.powerFail watts = true → exec (.powerCapAdmit c) s = .next u)) ∧
      (∀ cls, longest (u.roomWaits cls) = some c →
        (u.classRoom cls = true → exec (.noDeadlineAdmit cls) s = .next (u.rouse c x)) ∧
        (u.classRoom cls = false → exec (.noDeadlineAdmit cls) s = .next u)))

/-- R96, R99, R104, R120, R87, R77: rings and stores of the host side. INTAKE_CTRL is refused when the enabled rings' bursts would pass 1,024, and
disables its ring at once; a record whose write failed is written once more, counted as written or as an error; what the
breach and event stores hold goes out while their rings have room; a held register value comes into force when the
promises that drew on it have ended.

Model's own choices it rests on: log entries 98, 125, 128. -/
def Obligations.RingsAndStores : Prop :=
  ∀ (s : State) (ring slot off : Nat) (v : BitVec 32), s.cdUp = true →
    (∀ r, ring < 256 → findReg (Reg.INTAKE_CTRL ring) = some r →
      let new := (r.write (s.regN (Reg.INTAKE_CTRL ring)) v.toNat).1
      let others := s.burstSum - (if s.ringOn ring then s.ringBurst ring else 0)
      (bit new 31 = true → 1024 < others + bits new 6 0 → exec (.intakeCtrlWrite ring v) s = .next (s.configReject (Reg.INTAKE_CTRL ring) v.toNat)) ∧
      ((r.write (s.regN (Reg.INTAKE_CTRL ring)) v.toNat).2 = false →
        (bit new 31 = true → others + bits new 6 0 ≤ 1024 → exec (.intakeCtrlWrite ring v) s = .next (s.setRegN (Reg.INTAKE_CTRL ring) new)) ∧
        (bit new 31 = false → let t := s.setRegN (Reg.INTAKE_CTRL ring) new
          exec (.intakeCtrlWrite ring v) s = .next (t.setRing ring { t.ring ring with state := 0 })))) ∧
    (∀ r, s.io.retries.find? (fun r => r.ring == ring && r.slot == slot) = some r →
      let t := (s.mapIo (fun io => { io with retries := io.retries.erase r })).emit (.hostWrite r.addr r.bytes)
      (s.cxl.up = true → exec (.resultRecordRetry ring slot true) s = .next (t.recordDone r)) ∧
      exec (.resultRecordRetry ring slot false) s = .next ((t.bump Reg.RESULT_WRITE_ERRORS).setRegN Reg.RESULT_ERR_LAST (r.ring * 2 ^ 24 + r.status * 2 ^ 16 + r.slot))) ∧
    (∀ b rest, s.io.brStore = b :: rest →
      let base := s.regN Reg.BREACH_RING_BASE
      let pi := s.regN Reg.BREACH_RING_PI
      let size := 2 ^ s.regN Reg.BREACH_RING_SIZE
      (base = 0 → exec .breachStoreDrain s = .next s) ∧
      (base ≠ 0 → ringRoom base (s.regN Reg.BREACH_RING_SIZE) pi (s.regN Reg.BREACH_RING_CI) = 1 → exec .breachStoreDrain s =
        .next (((s.emit (.hostWrite (base + 64 * (pi % size)) b)).setRegN Reg.BREACH_RING_PI ((pi + 1) % 2 ^ 20)).mapIo (fun io => { io with brStore := rest, brWrote := true })))) ∧
    (∀ e rest, s.io.evStore = e :: rest → s.io.evLost = false →
      let base := s.regN Reg.EVENT_RING_BASE
      let pi := s.regN Reg.EVENT_RING_PI
      let size := 2 ^ s.regN Reg.EVENT_RING_SIZE
      (base = 0 → exec .eventStoreDrain s = .next s) ∧
      (base ≠ 0 → ringRoom base (s.regN Reg.EVENT_RING_SIZE) pi (s.regN Reg.EVENT_RING_CI) = 1 →
        ∃ t, exec .eventStoreDrain s = .next t ∧ t.io.evStore = rest ∧ t.regN Reg.EVENT_RING_PI = (pi + 1) % 2 ^ 20 ∧
          OutMsg.hostWrite (base + 32 * (pi % size)) (evBytes e.1 e.2) ∈ t.out)) ∧
    (∀ w, off ≠ Reg.GATE_CTRL → (∀ k < 8, off ≠ Reg.GATE_FRACTION k) → off ≠ Reg.LEN_OVERHEAD → s.io.pendingWrites.find? (·.off == off) = some w →
      ((∃ p ∈ w.promises, (s.promise p).isSome = true) → exec (.pendingWriteRelease off) s = .next s) ∧
      ((∀ p ∈ w.promises, s.promise p = none) →
        exec (.pendingWriteRelease off) s = .next ((s.mapIo (fun io => { io with pendingWrites := io.pendingWrites.filter (fun x => x.off != off) })).inForce off w.value)))

/-- R156, R406 to R410: meadows. `MEADOW_DEFINE` of a `FREE` or `DRAINED` meadow with a well-formed descriptor and room pends, and takes
effect in the beat after or at its step boundary: the meadow runs with the tiles, the role, the channels and the port
shares of the descriptor, or is `FREE` with an empty one; `MEADOW_ROLE` of a `DRAINED` meadow waits for its boundary;
`MEADOW_DRAIN` of a `RUNNING` one leaves it `DRAINING` until its last request has ended.

Model's own choices it rests on: log entry 99. -/
def Obligations.Meadows : Prop :=
  ∀ (s : State) (c : Nat) (w : IWord) (x : Ctx) (d : Bytes) (code : Code) (obs : Nat),
    let m := w.opa.toNat
    let g := s.mdw m
    (Runs s c 0x80 w x →
      (s.preDefine m d = none → (g.state ≠ .free ∨ descTiles d ≠ []) →
        let t := s.setMdw m { g with pendingDef := some (d, s.now), defOwner := some c }
        exec (.meadowDefine c w d) s = .next (t.settle c (.wait t .op))) ∧
      (s.preDefine m d = none → g.state = .free → descTiles d = [] → exec (.meadowDefine c w d) s = .next (s.advance c)) ∧
      (s.preDefine m d = some (code, obs) → exec (.meadowDefine c w d) s = .next (s.failInstr c code obs))) ∧
    (∀ since, g.pendingDef = some (d, since) →
      (s.now ≤ since → exec (.meadowDefineEffect m) s = .next s) ∧
      (g.steps.any (·.started) = true → exec (.meadowDefineEffect m) s = .next s) ∧
      (s.cdUp = true → since < s.now → g.steps.any (·.started) = false → exec (.meadowDefineEffect m) s = .next (s.defineNow m d))) ∧
    (g.defOwner = none →
      let u := s.defineNow m d
      (descTiles d ≠ [] → (u.mdw m).state = .running ∧ (u.mdw m).tiles = descTiles d ∧ (u.mdw m).role = descRole d ∧
        (u.mdw m).chans = descChans d ∧ (u.mdw m).portShares = descShares d ∧ (u.mdw m).pendingDef = none ∧ (u.mdw m).program = none) ∧
      (descTiles d = [] → (u.mdw m).state = .free ∧ (u.mdw m).tiles = [] ∧ (u.mdw m).chans = 0 ∧ (u.mdw m).pendingDef = none)) ∧
    (Runs s c 0x81 w x →
      (s.preRole m w.opb.toNat = none →
        let t := (s.setMdw m { g with pendingRole := some w.opb.toNat, roleOwner := some c }).publish (.instr c) 4 0 1
        exec (.meadowRole c w) s = .next (t.settle c (.wait t .op))) ∧
      (s.preRole m w.opb.toNat = some (code, obs) → exec (.meadowRole c w) s = .next (s.failInstr c code obs))) ∧
    (Runs s c 0x82 w x →
      (g.state = .running → let t := s.setMdw m { g with state := .draining, drainOwner := some c }
        exec (.meadowDrain c w) s = .next (t.settle c (.wait t .op))) ∧
      (g.state ≠ .running → exec (.meadowDrain c w) s = .next (s.failInstr c .illegalInState (obsOf 6 (mCode g.state))))) ∧
    (s.cdUp = true → g.state = .draining →
      ((∀ e ∈ s.lore.requests, e.2.meadow = m → e.2.state.inFlight = false) → g.drainOwner = some c →
        exec (.meadowDrained m) s = .next ((s.setMdw m { g with state := .drained, drainOwner := none }).finish (.instr c) .ok)) ∧
      ((∃ e ∈ s.lore.requests, e.2.meadow = m ∧ e.2.state.inFlight = true) → exec (.meadowDrained m) s = .next s))

/-- R157, R445, R446, R453, R455, R459 to R466: on the chip. An aligned 8-byte host write in the host region of the commons writes, sets or
clears its word; below the region it is discarded, counted and reported. A word with one bit in error is corrected, written back
and counted as it is read, one with two is counted and gives nothing, all ones to the host; a host read gives the word as it
stood before the beat's writes. `MARCH` of a target that no work uses starts a run that counts its failing rows and repairs
from the spares when asked; a preserving one and `SCRUB_NOW` wait for their background share; unmasking an MSI-X entry
sends what was pending.

Model's own choices it rests on: log entries 106, 133, 134, 151, 158. -/
def Obligations.OnChipEngines : Prop :=
  ∀ (s : State) (c off size run entry failing : Nat) (bad : Bool) (v : Word) (w : IWord) (x : Ctx) (code : Code) (obs : Nat),
    (s.cdUp = true → size = 8 → off % 8 = 0 → s.hostRegion ≤ off → off < 2 ^ 26 → s.bankHeld (off / 2 ^ 20) = false →
      let t := (s.readWord (off / 8)).2
      exec (.commonsPlainWrite off size v) s = .next (s.setCommons (off / 8) v) ∧
      exec (.commonsSetAliasWrite off size v) s = .next (t.setCommons (off / 8) (t.commonsWord (off / 8) ||| v)) ∧
      exec (.commonsClearAliasWrite off size v) s = .next (t.setCommons (off / 8) (t.commonsWord (off / 8) &&& ~~~v))) ∧
    (s.cdUp = true → size = 8 → off % 8 = 0 → (off < s.hostRegion ∨ s.bankHeld (off / 2 ^ 20) = true) →
      let t := (s.bump Reg.COMMONS_HOST_DISCARD).raise Ev.commonsHostDiscard 0 off
      exec (.commonsPlainWrite off size v) s = .next t ∧ exec (.commonsSetAliasWrite off size v) s = .next t ∧ exec (.commonsClearAliasWrite off size v) s = .next t) ∧
    (∀ k, (s.setCommons k v).commonsWord k = v ∧ (Tbl.find (s.setCommons k v).sys.upsets k = none) ∧
      (∀ j, j ≠ k → (s.setCommons k v).commonsWord j = s.commonsWord j)) ∧
    (∀ k, (Tbl.find s.sys.upsets k = none → s.readWord k = (some (s.commonsWord k), s)) ∧
      (Tbl.find s.sys.upsets k = some 1 → s.readWord k = (some (s.commonsWord k), (s.setCommons k (s.commonsWord k)).bump Reg.SRAM_CE)) ∧
      (∀ n, n ≠ 1 → Tbl.find s.sys.upsets k = some n → s.readWord k = (none, s.bump Reg.SRAM_UE))) ∧
    (off % 8 = 0 → off < 3 * 2 ^ 26 → s.bankHeld (off % 2 ^ 26 / 2 ^ 20) = false →
      let k := off % 2 ^ 26 / 8
      (Tbl.find s.sys.upsets k = none → s.bar2Read off 8 = s.emit (.bar2Data off (leBytes 8 (s.commonsWord k).toNat))) ∧
      (Tbl.find s.sys.upsets k = some 2 → s.bar2Read off 8 =
        ((s.bump Reg.SRAM_UE).raise Ev.sramUe 0 (off % 2 ^ 26 / 2 ^ 20) (off % 2 ^ 26 % 2 ^ 20)).emit (.bar2Data off (leBytes 8 (2 ^ 64 - 1))))) ∧
    (Runs s c 0x88 w x →
      (s.preMarch w = none →
        let r : MarchRun := { id := s.sys.nextMarch, owner := .instr c, kind := w.opa.toNat / 256, index := w.opa.toNat % 256, destructive := w.flag 8, repair := w.flag 9 }
        let r := { r with work := s.marchWork r }
        let u := s.mapSys (fun y => { y with marches := y.marches ++ [r], nextMarch := y.nextMarch + 1 })
        let t (u : State) := u.publish (.instr c) 5 0 r.work
        (w.flag 8 = true → exec (.march c w) s = .next ((t u).settle c (.wait (t u) .op))) ∧
        (w.flag 8 = false → let u := u.addJob 8 r.id [(r.resource, r.ns)]
          exec (.march c w) s = .next ((t u).settle c (.wait (t u) .op)))) ∧
      (s.preMarch w = some (code, obs) → exec (.march c w) s = .next (s.failInstr c code obs))) ∧
    (∀ r, s.cdUp = true → (s.sys.marches.take 8).find? (·.id == run) = some r → r.destructive = false →
      let t := (s.mapSys (fun y => { y with marches := y.marches.filter (·.id != run) })).dropJob 8 run
      let done (u : State) (code : Code) : State := ((u.publish r.owner 5 r.work r.work).setOut r.owner (fun x => { x with outLen := failing })).finish r.owner code
      (s.jobDone 8 run = false → exec (.marchRunComplete run failing) s = .next s) ∧
      (s.jobDone 8 run = true →
        (failing = 0 → r.repair = false → exec (.marchRunComplete run failing) s = .next (done t .ok)) ∧
        (failing ≠ 0 → r.repair = false → exec (.marchRunComplete run failing) s = .next (done t .checkFail)) ∧
        (failing ≤ t.regN r.spares → r.repair = true →
          exec (.marchRunComplete run failing) s = .next (done (t.setRegN r.spares (t.regN r.spares - failing)) .ok)))) ∧
    ((s.sys.marches.take 8).find? (·.id == run) = none → exec (.marchRunComplete run failing) s = .next s) ∧
    (Runs s c 0x89 w x →
      let n := s.sys.bg.nextJob
      let flash := bit w.opa.toNat 0
      let r : ScrubRun := { job := n, owner := .instr c, flash := flash, start := w.opc.toNat, mib := w.opb.toNat, bad := bad }
      let t := (s.addJob (if flash then 6 else 5) n (scrubNeed flash w.opb.toNat)).mapBg (fun b => { b with scrubs := b.scrubs ++ [r], nextJob := n + 1 })
      exec (.scrubNow c w bad) s = .next (t.settle c (.wait t .op))) ∧
    (∀ r : ScrubRun, s.sys.bg.scrubs = [r] →
      let act := if r.flash then 6 else 5
      let t := (s.dropJob act r.job).mapBg (fun b => { b with scrubs := [] })
      (s.jobDone act r.job = false → s.endScrubs = s) ∧
      (s.jobDone act r.job = true → r.bad = false → s.endScrubs = t.finish r.owner .ok) ∧
      (s.jobDone act r.job = true → r.bad = true → s.endScrubs = (t.scrubFault r.flash r.start r.mib).finish r.owner .checkFail)) ∧
    (entry < 256 → s.cxl.vecPending.contains entry = true →
      let t := s.setVector (4 * entry + 3) (s.vector (4 * entry + 3) / 2 * 2)
      exec (.msixEntryUnmask entry) s = .next (({ t with cxl := { t.cxl with vecPending := t.cxl.vecPending.filter (· != entry) } }).emit (.msix entry))) ∧
    (entry < 256 → s.cxl.vecPending.contains entry = false →
      exec (.msixEntryUnmask entry) s = .next (s.setVector (4 * entry + 3) (s.vector (4 * entry + 3) / 2 * 2)))

/-- R157, R337, R339, R344, R345, R351, R355: the flash steward. `FLASH_TRIM` of a legal range that no move holds journals the loss
of every granule, and publishes its bytes; FLASH_TIME_SET sets the flash time to the value written; a checkpoint is
written on command, and by itself only when its period has passed or half the journal ring is used; a format is taken
in `FAILED` alone; a journal page brings its records into effect; a restart serves again, in `READ_ONLY` when its
record says so, and fails without a checkpoint.

Model's own choices it rests on: log entries 102, 103, 168. -/
def Obligations.FlashSteward : Prop :=
  ∀ (s : State) (c : Nat) (w : IWord) (x : Ctx) (v : BitVec 64) (i : RestartInput) (code : Code) (obs : Nat),
    (Runs s c 0x8A w x →
      (s.preTrim w = none → w.flag 8 = false →
        let t := (s.trimRange (w.opc.toNat / 65536) w.opb.toNat).journalAll
        exec (.flashTrim c w) s = .next ((t.publish (.instr c) 1 (65536 * w.opb.toNat) (65536 * w.opb.toNat)).advance c)) ∧
      (s.preTrim w = none → w.flag 8 = true →
        let sbs := (s.sbsOf (w.opc.toNat / 65536) w.opb.toNat)
        let t := (s.trimRange (w.opc.toNat / 65536) w.opb.toNat).journalAll
        let u := t.mapFls (fun f => { f with gcQueue := f.gcQueue ++ (sbs.filter t.halfEmpty).filter (fun b => !f.gcQueue.contains b) })
        exec (.flashTrim c w) s = .next ((u.publish (.instr c) 1 (65536 * w.opb.toNat) (65536 * w.opb.toNat)).advance c)) ∧
      (s.preTrim w = some (code, obs) → exec (.flashTrim c w) s = .next (s.failInstr c code obs))) ∧
    (∃ t, exec (.flashTimeSet v) s = .next t ∧ t.flashTime = v.toNat ∧ t.fls.timeSet = true ∧ t.fls.map = s.fls.map ∧ t.fls.recs = s.fls.recs ∧
      t.clk = s.clk ∧ t.mem = s.mem ∧ t.regs = s.regs) ∧
    (s.flashRuns = true →
      exec .flashCmdCheckpoint s = .next s.checkpoint ∧
      exec .journalPageDurable s = .next s.journalPage ∧
      (let due := s.fls.ckptTime + s.regN Reg.FLASH_CKPT_PERIOD % 65536 * 1000000000
       ((due ≤ s.clk.time ∨ 131072 ≤ s.fls.pages) → exec .flashCheckpointDue s = .next s.checkpoint) ∧
       (s.clk.time < due → s.fls.pages < 131072 → exec .flashCheckpointDue s = .next s))) ∧
    (s.flashRuns = false → exec .flashCmdCheckpoint s = .next s ∧ exec .journalPageDurable s = .next s ∧ exec .flashCheckpointDue s = .next s) ∧
    (s.fls.state ≠ .failed → exec .flashCmdFormat s = .next (s.configReject Reg.FLASH_CMD 0x80000001)) ∧
    (s.fls.state = .failed → ∃ t, exec .flashCmdFormat s = .next t ∧ t.fls.state = .ready ∧ t.fls.map = [] ∧ t.mem.flash = [] ∧ t.mem.flashUsed = [] ∧
      t.fls.spares = s.fls.spares ∧ t.fls.system = [] ∧ t.fls.formats = s.fls.formats + 1 ∧ t.fw.slotA.state = 0 ∧ t.fw.slotB.state = 0 ∧
      t.fw.store = none ∧ t.fw.settings = [] ∧ t.fw.running = s.fw.running ∧ t.lore = s.lore) ∧
    (s.fls.state ≠ .restoring → exec (.flashRestart i) s = .next s) ∧
    (s.fls.state = .restoring → s.fls.held = false →
      (i.checkpointValid = false → exec (.flashRestart i) s = .next (s.mapFls (fun f => { f with state := .failed }))) ∧
      (i.checkpointValid = true → ∃ t, exec (.flashRestart i) s = .next t ∧ (t.fls.state = .ready ∨ t.fls.state = .readOnly) ∧
        (i.readOnlyRecord = true → t.fls.state = .readOnly)))

/-- R347, R349 to R351: spares and thresholds. A hole's spare is a free spare block of its die, of its own plane while that has one
left; attached, it stands in the spare records and the hole is gone. The first sense of a page takes the age of its block and the
difference of its die's temperature to the one at the block's opening; a retry takes the next older age; a block of an earlier reset
has age bucket 7 while the time is not set.

R335: parity. A unit slot is handed out with its four parity pages programmed, ahead of the record that maps it; the XOR of the other
15 pages of a group with their parity page is the page that is missing; the parity of a superblock is released when it is `VERIFIED`
or erased, and no other superblock's; a parity block begins again only once all its parity is released.

R336, R340 to R342, R346, R347, R350, R353, R354: flash media. Collection starts below the low mark or with a queued victim; a
unit of the victim is copied to the collection stream while no read waits, and one that cannot be read is rebuilt while its parity is
held, else lost and counted; a closed superblock is `VERIFIED` once every page read back, what failed being rebuilt and moved, and
its parity released; an erased one is `FREE` with one more erase; a failed program or erase retires the block as a hole; a
patrol read that fails rebuilds the unit or loses it, and one that took two retries moves it.

Model's own choices it rests on: log entries 60, 104, 105, 157, 168. -/
def Obligations.FlashMedia : Prop :=
  (∀ (s : State) (hole b page : Nat),
    (s.spareFor hole = some b → bits b 27 25 = bits hole 27 25 ∧ bits b 31 28 = bits hole 31 28 ∧ (∀ e ∈ s.fls.spares, e.2 ≠ b) ∧
      (bits b 24 23 ≠ bits hole 24 23 → ∀ i, i < 80 → ∃ e ∈ s.fls.spares, e.2 = blockAddr (2404 + i) (bits hole 27 25) (bits hole 24 23) (bits hole 31 28))) ∧
    (s.spareFor hole = some b → let t := s.attachSpare hole
      t.fls.spares = (hole, b) :: s.fls.spares ∧ hole ∉ t.fls.holes) ∧
    (let x := s.sb (physSb page)
     let d := dieTemp s.fls.dieTemps (blockDie page) - dieTemp x.temps (blockDie page)
     let age := (s.flashTime - x.opened).toNat
     (x.aged = true → s.fls.timeSet = false → s.thresholds page = (7, diffBucket d)) ∧
     (x.aged = false ∨ s.fls.timeSet = true → s.thresholds page = (ageBucket age, diffBucket d)) ∧
     s.retrySet page = (min 7 ((s.thresholds page).1 + 1), diffBucket d) ∧
     (7 * 24 * 3600 * 10 ^ 9 ≤ age → age < 30 * 24 * 3600 * 10 ^ 9 → ageBucket age = 3) ∧
     (21 ≤ d → d ≤ 40 → diffBucket d = 6) ∧ (d ≤ -40 → diffBucket d = 0) ∧ (41 ≤ d → diffBucket d = 7))) ∧
  (∀ (s : State) (unit k sb phys stream : Nat),
    (∀ p t, s.nextSlot stream = some (p, t) → t.parityHeld p = true) ∧
    (s.programParity phys).parityHeld phys = true ∧
    (k < 64 → s.rebuiltPage unit k = s.unitPage unit k) ∧
    (physSb phys = sb → (s.releaseParity sb).parityHeld phys = false) ∧
    (physSb phys ≠ sb → (s.releaseParity sb).parityHeld phys = s.parityHeld phys) ∧
    (s.fls.parityNext % paritySlots = 0 → (∀ e ∈ s.fls.parity, e.1 / paritySlots ≠ s.fls.parityNext / paritySlots) →
      (s.programParity phys).fls.parity = (s.fls.parityNext, phys) :: s.fls.parity) ∧
    (s.fls.parityNext % paritySlots ≠ 0 → (s.programParity phys).fls.parity = (s.fls.parityNext, phys) :: s.fls.parity)) ∧
  (∀ (s : State) (unit sb die plane channel : Nat) (bad : List Nat),
    (s.fls.state = .ready → s.fls.held = false → s.fls.gcActive = false →
      (s.freeSbs < s.gcLow → exec .gcStart s = .next s.gcNext) ∧
      (s.fls.gcQueue ≠ [] → exec .gcStart s = .next s.gcNext) ∧
      (s.gcLow ≤ s.freeSbs → s.fls.gcQueue = [] → exec .gcStart s = .next s)) ∧
    (let e := s.mapEnt unit
     s.fls.state = .ready → s.fls.held = false → e.lost = false → e.phys ≠ 0xFFFFFFFF →
      ((s.fls.gc ≠ some (physSb e.phys) ∨ s.flashReads = true) → ∀ b, exec (.gcUnitMove unit b) s = .next s) ∧
      (s.fls.gc = some (physSb e.phys) → s.flashReads = false →
        (s.parityHeld e.phys = false → exec (.gcUnitMove unit true) s = .next ((s.readFault unit).journalAll.eraseIfEmpty (physSb e.phys))) ∧
        (s.parityHeld e.phys = true →
          let t := (((s.bump Reg.FLASH_RETRY1).bump Reg.FLASH_RETRY2).bump Reg.FLASH_REBUILDS).moveUnit unit
          (s.fls.recs.length < t.fls.recs.length → exec (.gcUnitMove unit true) s = .next (t.bump Reg.FLASH_GC_BYTES (2 ^ 20) 64)) ∧
          (t.fls.recs.length ≤ s.fls.recs.length → exec (.gcUnitMove unit true) s = .next t)) ∧
        (e.valid ≠ 0 → s.fls.recs.any (fun r => r.typ == 3 && r.index == unit) = false → ∀ p t, s.nextSlot 1 = some (p, t) →
          s.fls.recs.length ≤ t.fls.recs.length → t.fls.state ≠ .readOnly →
          exec (.gcUnitMove unit false) s = .next ((t.journal { typ := 0x03, index := unit, oldPhys := e.phys, newPhys := p, valid := e.valid }).bump Reg.FLASH_GC_BYTES (2 ^ 20) 64)))) ∧
    (s.flashRuns = true →
      ((s.sb sb).state = 2 → s.hasJob 6 (verifyJob sb) = true → s.jobDone 6 (verifyJob sb) = true →
        let ends (t : State) : State := (((t.setSb sb { t.sb sb with state := 3 }).journal { typ := 0x08, index := sb }).releaseParity sb).dropJob 6 (verifyJob sb)
        (bad = [] → exec (.sbVerify sb bad) s = .next (ends s)) ∧
        (bad = [unit] → unit ∈ s.unitsIn sb → exec (.sbVerify sb bad) s = .next (ends ((s.bump Reg.FLASH_REBUILDS).moveUnit unit)))) ∧
      (((s.sb sb).state ≠ 2 ∨ s.hasJob 6 (verifyJob sb) = false ∨ s.jobDone 6 (verifyJob sb) = false) → exec (.sbVerify sb bad) s = .next s) ∧
      ((s.sb sb).state = 4 → s.flashReads = false → s.fls.gc ≠ some sb →
        let t := s.setSb sb { erases := (s.sb sb).erases + 1 }
        exec (.sbEraseComplete sb) s = .next ((t.journal { typ := 0x09, index := sb, aux := s.eraseCount sb + 1 }).releaseParity sb)) ∧
      (((s.sb sb).state ≠ 4 ∨ s.flashReads = true) → exec (.sbEraseComplete sb) s = .next s) ∧
      (die < 8 → plane < 4 → channel < 16 → s.fls.holes.contains (blockAddr sb die plane channel) = false →
        ((s.sb sb).state = 4 → exec (.flashEraseFail sb die plane channel) s = .next (s.retireBlock (blockAddr sb die plane channel))) ∧
        ((s.sb sb).state = 1 → s.fls.recs = [] → s.unitsIn sb = [] →
          ∃ t, exec (.flashProgramFail sb die plane channel) s = .next t ∧ t.fls.holes = s.fls.holes ++ [blockAddr sb die plane channel] ∧
            t.fls.retired = s.fls.retired + 1 ∧ t.fls.recs = [{ typ := 0x0A, index := blockAddr sb die plane channel, aux := 0xFFFFFFFF }])) ∧
      (let e := s.mapEnt unit
       e.lost = false → e.phys ≠ 0xFFFFFFFF → s.bgRooms unitRead = true → (∃ k ∈ s.fls.map, unit < k.1) →
        let t := s.bgUses unitRead
        let u := (t.bump Reg.FLASH_RETRY1).bump Reg.FLASH_RETRY2
        (t.wearVictim ≠ some (physSb e.phys) → exec (.flashPatrol unit 0 false) s = .next t) ∧
        exec (.flashPatrol unit 2 false) s = .next (u.moveUnit unit) ∧
        (t.parityHeld e.phys = false → exec (.flashPatrol unit 2 true) s = .next (u.unitFault unit)) ∧
        (t.parityHeld e.phys = true → exec (.flashPatrol unit 2 true) s = .next ((u.bump Reg.FLASH_REBUILDS).moveUnit unit)))))

/-- R508, R512 to R516, R158, R519, R521, R522: firmware on the device. `FW_STAGE` of a valid package that reads back fills the inactive slot; an
invalid one empties it and ends `CHECK_FAIL`; a page reserved, an armed package or a busy steward stops it first; `FW_ARM`
at least 1,024 beats ahead and past every promised beat arms the staged package, its flag disarms; at the still point
of the pause the device switches to the loaded parts on trial, or keeps its own and says so; the pause ends; a commit
ends the trial and raises the floor; a save keeps the persistent registers.

Model's own choices it rests on: log entries 113, 168. -/
def Obligations.FirmwareUpdate : Prop :=
  ∀ (s : State) (c : Nat) (w : IWord) (x : Ctx) (p q : FwPackage) (ok : Bool),
    let j := 1 - s.fw.active
    (Runs s c 0x8B w x →
      (w.opc.toNat % 4096 ≠ 0 → exec (.fwStage c w p ok) s = .next ((s.fwDone .badOperand).failInstr c .badOperand)) ∧
      (w.opc.toNat % 4096 = 0 → s.fw.armed.isSome = true → exec (.fwStage c w p ok) s = .next ((s.fwDone .illegalInState).failInstr c .illegalInState)) ∧
      (w.opc.toNat % 4096 = 0 → s.fw.armed = none → s.fls.state ≠ .ready →
        exec (.fwStage c w p ok) s = .next ((s.fwDone .illegalInState).failInstr c .illegalInState (obsOf 8 (fCode s.fls.state)))) ∧
      (w.opc.toNat % 4096 = 0 → s.fw.armed = none → s.fls.state = .ready → (w.opc = 0 → s.fw.store = some q) → (w.opc ≠ 0 → q = p) →
        let emptied := (s.mapFw (fun f => f.setSlot (1 - f.active) { state := 0, pkg := none })).systemWrite 3 (2 ^ 20)
        let written := emptied.systemWrite (1 - s.fw.active) q.len
        (maxPackage < q.len → exec (.fwStage c w p ok) s = .next ((s.fwDone .noSpace).failInstr c .noSpace)) ∧
        (q.len ≤ maxPackage → s.fwValid q = true → ok = true → exec (.fwStage c w p ok) s =
          .next (((((written.mapFw (fun f => f.setSlot (1 - f.active) { state := 1, pkg := some q })).systemWrite 3 (2 ^ 20)).fwDone .ok).publish (.instr c) 6 6 6).advance c)) ∧
        (q.len ≤ maxPackage → s.fwValid q = false → exec (.fwStage c w p ok) s = .next ((emptied.fwDone .checkFail).failInstr c .checkFail)) ∧
        (q.len ≤ maxPackage → s.fwValid q = true → ok = false →
          exec (.fwStage c w p ok) s = .next ((written.fwDone .checkFail).failInstr c .checkFail)))) ∧
    (∀ kind n, (s.systemWrite kind n).sys = s.sys ∧ (s.systemWrite kind n).lore = s.lore ∧ (s.systemWrite kind n).mem.gddr = s.mem.gddr) ∧
    (Runs s c 0x8C w x →
      (w.flag 8 = true → s.fw.armed.isSome = true →
        exec (.fwArm c w ok) s = .next (((s.mapFw (fun f => { f with armed := none, loaded := none })).fwDone .ok).advance c)) ∧
      (w.flag 8 = true → s.fw.armed = none → exec (.fwArm c w ok) s = .next ((s.fwDone .illegalInState).failInstr c .illegalInState)) ∧
      (w.flag 8 = false → s.fw.spare.state = 1 → s.fw.armed = none → s.now + 1024 ≤ w.opc.toNat → s.promisedMax < w.opc.toNat →
        exec (.fwArm c w true) s = .next (((s.mapFw (fun f => { f with armed := some w.opc.toNat, loaded := f.spare.pkg })).fwDone .ok).advance c) ∧
        exec (.fwArm c w false) s = .next ((s.fwDone .checkFail).failInstr c .checkFail)) ∧
      (w.flag 8 = false → (s.fw.spare.state ≠ 1 ∨ s.fw.armed.isSome = true ∨ w.opc.toNat < s.now + 1024 ∨ w.opc.toNat ≤ s.promisedMax) →
        exec (.fwArm c w ok) s = .next ((s.fwDone .illegalInState).failInstr c .illegalInState))) ∧
    (∀ a, s.cdUp = true → s.sys.paused = true → s.fw.armed = some a →
      let settled (t : State) : State := (t.mapFw (fun f => { f with armed := none, loaded := none })).mapSys (fun y => { y with actEnd := s.now })
      (s.stillness = false → exec (.fwActivation ok) s = .next s) ∧
      (s.stillness = true → s.fw.loaded = some p →
        exec (.fwActivation true) s = .next (settled (s.switchFw p)) ∧
        exec (.fwActivation false) s = .next (settled (s.raise Ev.fwActivateFailed))) ∧
      (s.fw.active < 2 → s.fw.settings = [] →
        let t := s.switchFw p
        t.fw.active = j ∧ t.fw.trial = true ∧ t.fw.kept = s.fw.active ∧ t.fw.running = some p ∧ t.fw.slot j = { state := 2, pkg := some p } ∧ t.sys.meas = s.measure p j ∧
          t.sys.patches = patchTable p)) ∧
    (s.sys.paused = true →
      (s.fw.armed.isSome = true → exec .fwActResume s = .next s) ∧
      (s.now < s.sys.resumeAt → exec .fwActResume s = .next s) ∧
      (s.fw.armed = none → s.sys.resumeAt ≤ s.now → s.sys.actEnd < s.now →
        let t := s.mapSys (fun y => { y with paused := false })
        (s.sys.actEnd < s.sys.resumeAt → exec .fwActResume s = .next t) ∧
        (s.sys.resumeAt ≤ s.sys.actEnd → exec .fwActResume s = .next (t.raise Ev.fwActLate)))) ∧
    (∃ t, exec .fwCmdCommit s = .next t ∧ t.fw.trial = false ∧ t.fw.kept = s.fw.active ∧ t.fw.active = s.fw.active ∧ s.fw.floor ≤ t.fw.floor ∧
      (∀ p, (s.fw.slot s.fw.active).pkg = some p → p.security ≤ t.fw.floor) ∧ t.mem.gddr = s.mem.gddr ∧ t.lore = s.lore) ∧
    (s.fw.spare.state ≠ 0 → p.partsOk = true → s.fw.floor ≤ p.security →
      exec (.fwCmdRestage p) s = .next ((s.mapFw (fun f => f.setSlot (1 - f.active) { state := 1, pkg := some p })).systemWrite 3 (2 ^ 20))) ∧
    (s.fw.spare.state = 0 → exec (.fwCmdRestage p) s = .next (s.configReject Reg.FW_CMD 0x80000001)) ∧
    (s.fw.running = some p → exec .fwCmdSave s = .next ((s.mapFw (fun f =>
      { f with settings := (p.settings, (persistentRegs p.settings).map (fun o => (o, s.reg o))) :: f.settings.filter (fun e => e.1 != p.settings), applied := p.settings })).systemWrite 4 (2 ^ 20)))

/-- R484, R497 to R502, R509 to R511, R506: boot, the spread of packages and `ATTEST`. Of the 64 patch entries each that the part gives
replaces the ROM word it names. A boot from a slot runs the package of the active one when
it verifies, with its measurements, and falls back to the other; without one, or with BOOT_SEL 0b11, it waits for an
image; a newer package offered is fetched in chunks from its offerer and stored or refused; a report holds the head
that the measurements and the nonce give, 17,472 bytes, at the descriptor's address, once the lines there in a host cache are
called back.

Model's own choices it rests on: log entries 23, 110, 111, 114, 163. -/
def Obligations.BootAndAttestation : Prop :=
  ∀ (s t : State) (f : Frame) (c off : Nat) (w : IWord) (x : Ctx) (d data : Bytes) (i : BootInput) (o : FwOffer) (p q : FwPackage) (a : Option FwPackage),
    (s.bootable = true → s.sys.ready = false → s.regN Reg.BOOT_STATUS = 0 →
      let b := ((s.setRegN Reg.BOOT_STATUS (bootStatus 1 0 0 false false)).stages 1 4).bootMarch i
      let first := if b.fw.trial then b.fw.kept else b.fw.active
      (b.sys.bootSel = 0 → b.slotImage i first = some p → imageError b.fw.floor (some p) = 0 →
        exec (.boot i) s = .next (b.bootSlot first first p 0)) ∧
      (b.sys.bootSel = 0 → b.slotImage i first = some p → imageError b.fw.floor (some p) ≠ 0 →
        b.slotImage i (1 - first) = some q → imageError b.fw.floor (some q) = 0 →
        exec (.boot i) s = .next (b.bootSlot (1 - first) first q (imageError b.fw.floor (some p)))) ∧
      (b.sys.bootSel = 3 → exec (.boot i) s = .next ((b.setRegN Reg.BOOT_STATUS (bootStatus 0xE 3 0 false false)).emit (.uart 0 0xE)))) ∧
    ((s.bootable = false ∨ s.sys.ready = true ∨ s.regN Reg.BOOT_STATUS ≠ 0) → exec (.boot i) s = .next s) ∧
    (∀ source error fb,
      let b := s.bootFrom p source error fb
      b.sys.patches = patchTable p ∧
      (s.sys.clkSel = 3 → b.sys.ready = s.sys.ready ∧ b.sys.meas = s.measure p source ∧ b.regN Reg.BOOT_STATUS = bootStatus 6 source error fb false % 2 ^ 64) ∧
      (s.sys.clkSel ≠ 3 → s.fw.settings = [] → b.sys.ready = true ∧ b.sys.meas = s.measure p source ∧ b.fw.running = some p ∧
        b.regN Reg.BOOT_STATUS = bootStatus 7 source error fb true % 2 ^ 64)) ∧
    (∀ k < 64, (patchTable p).length = 64 ∧ ((patchTable p)[k]? = p.patches[k]? ∨ p.patches.length ≤ k ∧ (patchTable p)[k]? = some 0xFFFFFFFF00000000)) ∧
    (∀ at_, (∀ e ∈ s.sys.patches, e.toNat / 2 ^ 32 ≠ at_) → s.romWord at_ = Config.romWord at_) ∧
    (∀ at_ e rest, at_ ≠ 0xFFFFFFFF → s.sys.patches = e :: rest → e.toNat / 2 ^ 32 = at_ → s.romWord at_ = BitVec.ofNat 32 e.toNat) ∧
    (s.bootWaits = true → s.bootable = true →
      exec (.bootImgCmd a) s = .next (s.offerImage a 3) ∧
      (s.sys.bootSel ≤ 1 → exec (.sdCardInsert a) s = .next (s.offerImage a 2)) ∧
      (1 < s.sys.bootSel → exec (.sdCardInsert a) s = .next s)) ∧
    (s.bootWaits = false → exec (.bootImgCmd a) s = .next s ∧
      (s.cdUp = true → s.fwValid q = true → q.len ≤ maxPackage → exec (.sdCardInsert (some q)) s = .next (s.storePackage q Ev.fwPackageFound 0))) ∧
    (Delivered s f .mgmt t →
      (bit (t.regN Reg.FW_CTRL) 1 = true → (t.fw.slot t.fw.active).version < o.version → (t.fw.store.map (·.version)).getD 0 < o.version →
        t.fw.fetch = none → t.fw.refused.contains o.digest = false →
        exec (.fwOfferReceive f o) s = .next (((t.mapFw (fun g => { g with fetch := some (f.src, o, 0) })).sendMgmt f.src (.fwFetch 0 (min chunkMax o.len))).acked f)) ∧
      ((bit (t.regN Reg.FW_CTRL) 1 = false ∨ o.version ≤ (t.fw.slot t.fw.active).version ∨ t.fw.fetch.isSome = true ∨ t.fw.refused.contains o.digest = true) →
        exec (.fwOfferReceive f o) s = .next (t.acked f)) ∧
      (∀ len, t.fw.store = some p → off < p.len →
        let n := min (min len chunkMax) (p.len - off)
        exec (.fwFetchRequestReceive f off len) s = .next ((t.send f.src .mgmt 4 n (.fwChunk p.manifestDigest off n)).acked f)) ∧
      (t.fw.fetch = some (f.src, o, off) →
        let n := off + data.length
        (n < o.len → exec (.fwChunkReceive f off data a) s =
          .next (((t.mapFw (fun g => { g with fetch := some (f.src, o, n) })).sendMgmt f.src (.fwFetch n (min chunkMax (o.len - n)))).acked f)) ∧
        (o.len ≤ n → exec (.fwChunkReceive f off data a) s = .next ((t.fetchEnds f.src o a).acked f)))) ∧
    (Runs s c 0x8E w x →
      let lines := s.tracked (s.hdmSpan (le d 32 8) attestLen)
      let report := s.reportHead (d.take 32) ++ (Config.sign (s.reportHead (d.take 32))).take 17088
      (lines ≠ [] → ∀ fail, exec (.attest c w d fail) s =
        .next ((s.callBack [] (s.hdmSpan (le d 32 8) attestLen)).mapCxl (fun y => { y with snoopFor := (y.snoopFor ++ lines.map (·, c)).eraseDups }))) ∧
      (lines = [] → (le d 40 4 < 17472 ∨ zeroAt d 44 20 = false) → ∀ fail, exec (.attest c w d fail) s = .next (s.failInstr c .badOperand)) ∧
      (lines = [] → 17472 ≤ le d 40 4 → zeroAt d 44 20 = true →
        exec (.attest c w d true) s = .next (s.failInstr c .checkFail) ∧
        (s.splitsAt (le d 32 8) report.length = false → exec (.attest c w d false) s =
          .next (((s.writeAt (le d 32 8) report).setOut (.instr c) (fun x => { x with outLen := 17472 })).advance c))))

/-- R486 to R494, R495, R496, R545: resets. Each source that is armed or present clears what its reach clears; the watchdog resets when its
timeout has passed since the last beat in which the firmware ran; an unarmed
RST_CMD is refused; a reset frame that fails a check is refused and counted with the check's number, and one that
passes all resets; the reset of a block completes what was outstanding at it with `ISOLATED`, and the block answers again
once restored.

Model's own choices it rests on: log entries 117, 118, 119. -/
def Obligations.Resets : Prop :=
  ∀ (s t : State) (f : Frame) (r : ResetFrame) (c n : Nat) (w : IWord) (x : Ctx) (v : BitVec 32) (st : Straps),
    exec .powerOnReset s = .next ((s.mapSys (fun y => { y with powered := true, switchOpen := false, perst := true })).resetTo .power 0) ∧
    (s.sys.powered = true → s.sys.perst = false →
      exec .perstAssert s = .next ((s.mapSys (fun y => { y with perst := true })).resetTo .perst 2) ∧
      exec .cxlReset s = .next (s.resetTo .device 4) ∧
      (s.cdUp = true → bit (s.regN Reg.WDOG_CTRL) 31 = true → s.sys.fed + bits (s.regN Reg.WDOG_CTRL) 23 0 ≤ s.now →
        exec .watchdogExpiry s = .next (s.resetTo .device 0x20)) ∧
      ((bit (s.regN Reg.WDOG_CTRL) 31 = false ∨ s.now < s.sys.fed + bits (s.regN Reg.WDOG_CTRL) 23 0) → exec .watchdogExpiry s = .next s)) ∧
    (∀ stalled, (s.feed stalled).sys.fed = (if stalled then s.sys.fed else s.clk.now)) ∧
    (s.sys.powered = true → s.sys.perst = true →
      (s.sys.hold = false → exec (.perstDeassert st) s = .next (s.mapSys (fun y => { y with perst := false, bootSel := st.bootSel.toNat, clkSel := st.clkSel.toNat }))) ∧
      (s.sys.hold = true → exec (.perstDeassert st) s =
        .next (((s.resetTo .power 0).setRegN Reg.DEV_LATCH 1).mapSys (fun y => { y with perst := false, bootSel := st.bootSel.toNat, clkSel := st.clkSel.toNat })))) ∧
    ((s.sys.powered = false ∨ s.sys.perst = false) → exec (.perstDeassert st) s = .next s) ∧
    (exec (.rstArm 0xA55A) s = .next (s.mapSys (fun y => { y with armBeat := some s.now })) ∧ (v ≠ 0xA55A → exec (.rstArm v) s = .next s)) ∧
    ((∀ b, s.sys.armBeat = some b → b + 1024 < s.now) → exec (.rstCmd v) s = .next (s.configReject Reg.RST_CMD v.toNat)) ∧
    (∀ b, s.sys.armBeat = some b → s.now ≤ b + 1024 → v.getLsbD 31 = true →
      (v.getLsbD 0 = true → exec (.rstCmd v) s = .next (s.resetTo .core 0x88)) ∧
      (v.getLsbD 0 = false → exec (.rstCmd v) s = .next (s.resetTo .device 8))) ∧
    (∀ reach mask, let u := s.resetTo reach mask
      u.pending = s.pending ∧ u.io.ctxs = [] ∧ u.io.promises = [] ∧ u.lore = {} ∧ u.fld = [] ∧ u.mem.gddr = [] ∧ u.mem.swap = [] ∧ u.mem.flash = s.mem.flash ∧
      u.sys.ready = false ∧ u.fls.state = .restoring ∧ u.fls.map = s.fls.map ∧ u.clk = {} ∧ u.sys.blocks = [] ∧ u.sys.upsets = [] ∧
      (∀ e ∈ u.eng.tiles, e.2.state = 4)) ∧
    ((s.partnerState f.src = .live ∨ s.partnerState f.src = .dead ∨ s.partnerState f.src = .left) → Delivered s f .mgmt t →
      let ok := match t.partnerOf f.src with | none => false | some i => (t.partner i).attest == 1
      (∀ k, t.resetCheck ok r = some k → exec (.fabricResetFrame f r) s = .next ((t.refuseReset f.src k).acked f)) ∧
      (t.resetCheck ok r = none → exec (.fabricResetFrame f r) s = .next ((t.takeReset f.src r).acked f))) ∧
    (t.resetCheck true r = none → r.target = t.me ∧ t.regN Reg.RST_FRAME_CTR < r.counter ∧ hmac t.resetKey r.macInput = r.mac ∧ (r.reach = 0 ∨ r.reach = 1)) ∧
    (Runs s c 0x8D w x →
      (3 ≤ w.opa.toNat % 256 → w.opa.toNat % 256 ≤ 15 → exec (.blockReset c w) s = .next ((s.resetBlock (w.opa.toNat % 256)).advance c)) ∧
      ((w.opa.toNat % 256 < 3 ∨ 15 < w.opa.toNat % 256) → exec (.blockReset c w) s = .next (s.failInstr c .badOperand))) ∧
    (n < 16 → v = BitVec.twoPow 32 n → exec (.blkReset v) s = .next (s.resetBlock n)) ∧
    (∀ k, (k = 3 ∨ k = 10) → (∀ b ∈ s.sys.blocks, b.1 ≠ k) → s.resetBlock k = s.mapSys (fun y => { y with blocks := y.blocks ++ [(k, s.now)] })) ∧
    ((∀ b ∈ s.sys.blocks, b.1 ≠ 9) → s.sys.marches = [] → bit (s.regN Reg.FIELD_READY) 30 = false →
      s.resetBlock 9 = (s.mapSys (fun y => { y with blocks := y.blocks ++ [(9, s.now)] })).mapBg (fun b => { b with jobs := b.jobs.filter (fun j => j.act != 8) })) ∧
    (∀ k, (∃ b ∈ s.sys.blocks, b.1 = k) → s.resetBlock k = s) ∧
    exec (.blockRestore n) s = .next (s.mapSys (fun y => { y with blocks := y.blocks.filter (·.1 != n) }))

/-- R343, R470, R472, R474 to R481, R485, R55: power and temperature. PWR_FAIL# low for 1 µs journals, holds the admission and tells the
partners; a loss of power takes everything volatile; above 850 W an event is raised; two samples in a row at 115 °C trip
the core's supplies, which come back below 95 °C; measured power above 1.1 times the declared one for 16 beats in a row is
reported once.

R483, Table 18.10: the status LEDs, the state that stands highest in the table first. PWR shows the input and the rails, STAT a trip or a
failed steward, then derating, heat, a power-fail hold or a read-only steward, then a start, then readiness; LOC shows DEV_LED.locate.
That no LED is lit without input is the model's choice (log entry 117).

Model's own choices it rests on: log entries 117, 119, 121, 137. -/
def Obligations.PowerAndTemperature : Prop :=
  (∀ (s : State) (ns watts : Nat) (t : Temps),
    (s.sys.powered = true →
      (s.sys.hold = false → 1000 ≤ ns → s.fls.state = .ready → s.cdUp = true →
        exec (.pwrFailAssert ns) s = .next (((s.journalAll.mapSys (fun y => { y with hold := true })).mapFls (fun f => { f with held := true })).leaveAll)) ∧
      ((ns < 1000 ∨ s.sys.hold = true) → exec (.pwrFailAssert ns) s = .next s) ∧
      exec (.powerLoss s.sys.hold) s = .next s.powerOff ∧
      exec .overcurrentTrip s = .next (s.powerOff.mapSys (fun y => { y with switchOpen := true })) ∧
      (watts ≤ 850 → exec (.powerEnvelope watts) s = .next (s.setRegN Reg.DEV_POWER watts)) ∧
      (850 < watts → exec (.powerEnvelope watts) s = .next ((s.setRegN Reg.DEV_POWER (min watts 4095)).raise Ev.powerEnvelope 0 watts))) ∧
    (s.powerOff.sys.powered = false ∧ s.powerOff.io.ctxs = [] ∧ s.powerOff.mem.gddr = [] ∧ s.powerOff.mem.flash = s.mem.flash ∧ s.powerOff.cdUp = false) ∧
    (s.sys.powered = true → s.sys.coreOff = false → ∃ u, exec (.tempSample t) s = .next u ∧
      (115 ≤ maxOf t.junction → 1 ≤ s.sys.tripCount → u.sys.coreOff = true ∧ u.cdUp = false) ∧
      ((maxOf t.junction < 115 ∨ s.sys.tripCount = 0) → u.sys.coreOff = false ∧ u.sys.tripCount = (if 115 ≤ maxOf t.junction then 1 else 0) ∧
        u.io.ctxs = s.io.ctxs ∧ u.lore = s.lore ∧ u.mem = s.mem)) ∧
    (∀ k rest, s.sys.samples = k :: rest →
      (s.sys.coreOff = true → maxOf k.junction < 95 → exec .thermalTripRecovery s = .next (s.mapSys (fun y => { y with coreOff := false }))) ∧
      (95 ≤ maxOf k.junction → exec .thermalTripRecovery s = .next s)) ∧
    (s.cdUp = true →
      (10 * watts ≤ 11 * s.powerSum → exec (.powerOverDeclared watts) s = .next (s.mapClk (fun c => { c with overBeats := 0, overRaised := false }))) ∧
      (11 * s.powerSum < 10 * watts → s.clk.overBeats = 15 → s.clk.overAt + 1 = s.now → s.clk.overRaised = false →
        exec (.powerOverDeclared watts) s = .next ((s.mapClk (fun c => { c with overBeats := 16, overAt := c.now, overRaised := true })).raise Ev.powerOverDeclared 0 watts s.powerSum)) ∧
      (11 * s.powerSum < 10 * watts → s.clk.overBeats = 0 →
        exec (.powerOverDeclared watts) s = .next (s.mapClk (fun c => { c with overBeats := 1, overAt := c.now, overRaised := false }))))) ∧
  (∀ s : State,
    let amber := s.clk.timing = .derated ∨ (∃ t rest, s.sys.samples = t :: rest ∧ 105 ≤ maxOf t.junction) ∨ s.sys.hold = true ∨ s.fls.state = .readOnly
    let trip := s.sys.coreOff = true ∨ s.sys.switchOpen = true
    (s.sys.powered = true →
      (s.sys.switchOpen = false → s.sys.coreOff = false → s.pwrLed = .green 0) ∧
      (trip → s.pwrLed = .green 1) ∧
      ((trip ∨ s.fls.state = .failed) → s.statLed = .amber 2) ∧
      (¬ trip → s.fls.state ≠ .failed → amber → s.statLed = .amber 0) ∧
      (¬ trip → s.fls.state ≠ .failed → ¬ amber → (s.sys.ready = false ∨ s.fls.state = .restoring) → s.statLed = .green 1) ∧
      (¬ trip → ¬ amber → s.sys.ready = true → s.fls.state = .ready → s.statLed = .green 0) ∧
      ((s.regN Reg.DEV_LED) % 2 = 1 → s.locLed = .blue 1) ∧
      ((s.regN Reg.DEV_LED) % 2 = 0 → s.locLed = .off)) ∧
    (s.sys.powered = false → s.sys.switchOpen = false → s.pwrLed = .off ∧ s.statLed = .off ∧ s.locLed = .off))

/-- R356 to R358, R389, R390, R368: ports, links and keys. PORT_CFG of a disabled port is taken, and enabling starts its links; another change of an
enabled port, or the reserved split, is refused; a link that trains is `UP`, one that does not within 200 ms has failed, one
lost trains again, each said; a key loads into the slot that is not the transmit slot, an empty slot does not activate;
`HELLO` goes out each 1,024 beats and names the neighbour.

Model's own choices it rests on: log entry 97. -/
def Obligations.PortsLinksKeys : Prop :=
  ∀ (s t : State) (f : Frame) (port link : Nat) (v : BitVec 32),
    (port < 8 →
      let old := s.regN (Reg.PORT_CFG port)
      let new := v.toNat % 8 + (if v.getLsbD 31 = true ∧ s.me ≠ 0 then 2 ^ 31 else 0)
      (bit old 31 = true → v.toNat % 8 ≠ old % 8 → exec (.portCfgWrite port v) s = .next (s.configReject (Reg.PORT_CFG port) v.toNat)) ∧
      (bit old 31 = false → v.toNat % 4 = 3 → (v.getLsbD 31 = false ∨ s.me = 0) → exec (.portCfgWrite port v) s =
        .next ((s.configReject (Reg.PORT_CFG port) v.toNat).setRegN (Reg.PORT_CFG port) (v.toNat % 8 / 4 * 4 + old % 4))) ∧
      (v.toNat % 4 ≠ 3 → bit old 31 = false →
        (v.getLsbD 31 = true → s.me ≠ 0 → exec (.portCfgWrite port v) s = .next ((s.setRegN (Reg.PORT_CFG port) new).openPort port (v.toNat % 4))) ∧
        ((v.getLsbD 31 = false ∨ s.me = 0) → exec (.portCfgWrite port v) s = .next (s.setRegN (Reg.PORT_CFG port) new))) ∧
      (v.toNat % 4 ≠ 3 → bit old 31 = true → v.toNat % 8 = old % 8 → (v.getLsbD 31 = false ∨ s.me = 0) →
        exec (.portCfgWrite port v) s = .next ((s.setRegN (Reg.PORT_CFG port) new).closePort port))) ∧
    (let l := s.link link
     (l.state = 1 → exec (.linkUp link) s = .next (s.setLink link { l with state := 2, trained := true, authFails := 0 })) ∧
     (l.state ≠ 1 → exec (.linkUp link) s = .next s) ∧
     (l.state = 1 → l.trained = false → l.enabledAt + 200000000 ≤ s.clk.time → exec (.linkTrainFail link) s = .next ((s.setLink link { l with state := 3 }).raise Ev.linkTrainFail 0 link)) ∧
     (s.clk.time < l.enabledAt + 200000000 → exec (.linkTrainFail link) s = .next s) ∧
     (l.state = 2 → exec (.linkDown link) s = .next (((s.linkFault link).setLink link { l with state := 1 }).raise Ev.linkDown 0 link)) ∧
     (l.state ≠ 2 → exec (.linkDown link) s = .next s) ∧
     (l.state = 2 → (l.lastHello = 0 ∨ l.lastHello + 1024 ≤ s.now) → exec (.helloSend link) s =
       .next ((s.setLink link { l with lastHello := s.now }).enqueue link 4 (.frame (s.mkFrame l.neighbour .hello 4 8 (.bytes (leBytes 8 s.me.toNat))) false false none 0 s.now))) ∧
     (l.state ≠ 2 → exec (.helloSend link) s = .next s) ∧
     (l.state = 2 → (l.lastProbe = 0 ∨ l.lastProbe + 1024 ≤ s.now) → exec (.probeSend link) s = .next ((s.setLink link { l with lastProbe := s.now }).sendProbe link false)) ∧
     (l.state ≠ 2 → exec (.probeSend link) s = .next s)) ∧
    (let l := s.link s.keyLink
     (¬ (l.encrypted = true ∧ l.slot = s.keySlot) → exec .keyCmdLoad s = .next (s.setLink s.keyLink { l with keys := l.keys.set s.keySlot (some s.keyHeld) })) ∧
     (l.encrypted = true → l.slot = s.keySlot → exec .keyCmdLoad s = .next (s.configReject Reg.KEY_CMD 0x80000000)) ∧
     (∀ k, l.keys.getD s.keySlot none = some k → exec .keyCmdActivate s = .next (s.setLink s.keyLink { l with encrypted := true, slot := s.keySlot, counter := 0 })) ∧
     (l.keys.getD s.keySlot none = none → exec .keyCmdActivate s = .next (s.configReject Reg.KEY_CMD 0x80000001)) ∧
     exec .keyCmdDisable s = .next (s.setLink s.keyLink { l with encrypted := false })) ∧
    (Delivered s f .hello t →
      let u := t.setLink f.link { t.link f.link with neighbour := f.src }
      ((u.partnerOf f.src).isSome = true → exec (.helloReceive f) s = .next (u.acked f)) ∧
      (u.partnerOf f.src = none → exec (.helloReceive f) s = .next ((u.startJoin f.src).acked f))) ∧
    (Delivered s f .probe t → ∀ ns,
      exec (.probeReceive f false ns) s = .next ((t.sendProbe f.link true).acked f) ∧
      exec (.probeReceive f true ns) s = .next ((t.mapClk (fun c => { c with delays := Tbl.set (fun _ => 0) c.delays f.link (ns / 2) })).acked f))

/-- R208 to R210, R366, R369, R402: routes. A map of the next epoch in R366's layout is taken for the next boundary, any other is refused; the
old map and its stubs end with the drain. A frame for another node goes on by the route with one more hop, and drops without a
route or after 15; one that names a target that has left goes on to where its stub says, under the new epoch, marked. A frame
that names a target is accepted under the epoch in force, in the drain under the one before where the target is here, and under a
later one where it is here; else it is refused `STALE_MAP` and counted, under a later one with `MAP_BEHIND`. A forwarded frame of TC1
to TC3 that waited longer than a beat is counted.

Model's own choices it rests on: log entries 98, 146. -/
def Obligations.RoutesAndStubs : Prop :=
  ∀ (s t : State) (f : Frame) (kind : FrameKind) (v : BitVec 32) (map : Bytes) (e n ns seq row : Nat) (deeds : List (Nat × Nat)) (data : Bytes),
    (v.toNat ≠ (s.fab.epoch + 1) % 2 ^ 32 → exec (.routeInstall v map) s = .next (s.configReject Reg.ROUTE_INSTALL v.toNat)) ∧
    (v.toNat = (s.fab.epoch + 1) % 2 ^ 32 →
      (∀ r, parseMap map = some r → exec (.routeInstall v map) s = .next (s.mapFab (fun f => { f with newMap := some r }))) ∧
      (parseMap map = none → exec (.routeInstall v map) s = .next (s.raise Ev.routeMapBad 0 (s.regN Reg.ROUTE_MAP_BASE)))) ∧
    (s.fab.oldMap.isSome = true → s.fab.drainEnd ≤ s.now → exec .mapDrainEnd s = .next (s.mapFab (fun f => { f with oldMap := none, stubs := [] }))) ∧
    (s.now < s.fab.drainEnd → exec .mapDrainEnd s = .next s) ∧
    (s.linkCheck f = (t, true) → f.dst ≠ t.me → kind ≠ .hello → kind ≠ .probe → kind ≠ .beacon →
      (t.route f.dst = none → exec (.frameForward f kind ns data) s = .next (t.bump Reg.FWD_DROPS)) ∧
      (∀ l r, t.route f.dst = some (l, r) →
        (15 ≤ f.hops → exec (.frameForward f kind ns data) s = .next (t.bump Reg.FWD_DROPS)) ∧
        (f.hops < 15 → exec (.frameForward f kind ns data) s =
          .next (t.enqueue l f.tc (.frame (onward f kind ns data f.dst f.routeEpoch false) (kind == .read || kind == .readResp) true none 0 t.now))))) ∧
    (∀ moved l r, s.linkCheck f = (t, true) → f.dst = t.me → (kind = .partialK ∨ kind = .collective) → f.ref ≠ 0 → t.placed f.routeEpoch f.ref = .stub →
      t.stubFor f.routeEpoch f.ref = some moved → t.route moved = some (l, r) → f.hops < 15 →
      exec (.frameForward f kind ns data) s =
        .next ((t.bump Reg.MAP_FORWARDS).enqueue l f.tc (.frame (onward f kind ns data moved t.fab.epoch true) false true none 0 t.now))) ∧
    (s.linkCheck f = (t, true) → f.dst = t.me → t.stubMet f kind = none → exec (.frameForward f kind ns data) s = .next t) ∧
    (s.linkCheck f = (t, false) → exec (.frameForward f kind ns data) s = .next t) ∧
    (let here := s.placedAt n = some s.me
     let drain := e + 1 = s.fab.epoch ∧ s.now < s.fab.drainEnd
     (e = s.fab.epoch → s.placed e n = .accept) ∧
     (drain → here → s.placed e n = .accept) ∧
     (∀ moved, drain → ¬ here → (s.fab.stubs.find? (·.1 == n)).map (·.2) = some moved → s.placed e n = .stub ∧ s.stubFor e n = some moved) ∧
     (e < s.fab.epoch → ¬ drain → s.placed e n = .stale) ∧
     (drain → ¬ here → (∀ x ∈ s.fab.stubs, x.1 ≠ n) → s.placed e n = .stale) ∧
     (s.fab.epoch < e → here → s.placed e n = .accept) ∧
     (s.fab.epoch < e → ¬ here → s.placed e n = .behind)) ∧
    (s.arrival f .collective = (true, t) → f.ref ≠ 0 →
      (t.placed f.routeEpoch f.ref = .stale → exec (.collectiveReceive f ⟨seq, row, deeds⟩ data) s =
        .next (((t.bump Reg.MAP_STALE).sendNack f .collective .staleMap).acked f)) ∧
      (t.placed f.routeEpoch f.ref = .behind → exec (.collectiveReceive f ⟨seq, row, deeds⟩ data) s =
        .next ((((t.bump Reg.MAP_STALE).sendNack f .collective .staleMap).raise Ev.mapBehind f.src f.ref f.routeEpoch).acked f)))

/-- R396, R397, R399 to R404, R407, R77: gates and queues. A legal gate list outside a field takes effect at the next boundary, or when the
promises that a lower fraction would hurt have ended; the link sends the first item of the lowest open class with credit, else
of the lowest open class, of what may be sent: a meadow's step data while its share of the beat is not used up; QUEUE_SEL takes
the sample. That the share may be passed by the last frame is the model's choice (log entry 167).

Model's own choices it rests on: log entries 100, 125, 167. -/
def Obligations.GatesAndQueues : Prop :=
  ∀ (s : State) (link ns : Nat) (v : BitVec 32) (e : BitVec 4),
    (let u := s.setRegN Reg.GATE_CTRL (setBits (s.regN Reg.GATE_CTRL) 3 0 e.toNat)
     let l := u.stagedGates e.toNat
     let b := min u.clk.len (u.clk.lenPending.getD u.clk.len)
     ((u.gatesLegal b l = false ∨ ∃ g ∈ u.fld, g.2.state ≠ 0) → exec (.gateCtrlApply e) s = .next (u.configReject Reg.GATE_CTRL (0x80000000 + e.toNat))) ∧
     (u.gatesLegal b l = true → (∀ g ∈ u.fld, g.2.state = 0) →
       (∀ c < 8, (gateFractions u.clk.len u.overhead l).getD c 0 < u.fab.gateFrac.getD c 0 → u.drewOn (Reg.GATE_FRACTION c) = []) →
       exec (.gateCtrlApply e) s = .next (u.mapFab (fun f => { f with gatesPending := some l, gatesWait := none }))) ∧
     (∀ c p, c < 8 → u.gatesLegal b l = true → (∀ g ∈ u.fld, g.2.state = 0) →
       (gateFractions u.clk.len u.overhead l).getD c 0 < u.fab.gateFrac.getD c 0 → p ∈ u.drewOn (Reg.GATE_FRACTION c) →
       ∃ k : State, exec (.gateCtrlApply e) s = .next k ∧ k.fab.gatesPending = none ∧ k.fab.gates = s.fab.gates ∧ ∃ ps, k.fab.gatesWait = some (l, ps) ∧ p ∈ ps)) ∧
    (s.cdUp = true → (s.link link).state = 2 → (s.link link).counter < 2 ^ 63 → ns < s.clk.len →
      let able (c : Nat) : Prop := c < 8 ∧ gateOpen (gateSpans s.clk.len 0 s.fab.gates) (s.guardNs (s.link link).lanes) c ns = true ∧ (s.queue link c).any (fun q => s.canSend link q) = true
      ((∀ c, ¬ able c) → exec (.linkTransmitSelect link ns) s = .next s) ∧
      (∀ c i q u, able c → 0 < s.credit link c → (∀ d, able d → 0 < s.credit link d → c ≤ d) → s.nextItem link c = (some (i, q), u) →
        exec (.linkTransmitSelect link ns) s = .next (u.sendItem link ns c i q true)) ∧
      (∀ c i q u, able c → (∀ d, able d → s.credit link d ≤ 0 ∧ c ≤ d) → s.nextItem link c = (some (i, q), u) →
        exec (.linkTransmitSelect link ns) s = .next (u.sendItem link ns c i q false))) ∧
    (let k := 8 * (v.toNat / 256 % 32) + v.toNat % 8
     let o := Tbl.get (fun _ => ({} : QSample)) s.fab.samples k
     let u := ((s.setRegN Reg.QUEUE_SEL (v.toNat / 256 % 32 * 256 + v.toNat % 8)).mapFab (fun f => { f with queueSnap := o })).mapSys
       (fun y => { y with busy := Reg.QUEUE_SEL :: y.busy })
     (s.busy Reg.QUEUE_SEL = true → exec (.queueSel v) s = .next (s.configReject Reg.QUEUE_SEL v.toNat)) ∧
     (s.busy Reg.QUEUE_SEL = false → v.getLsbD 30 = false → exec (.queueSel v) s = .next u) ∧
     (s.busy Reg.QUEUE_SEL = false → v.getLsbD 30 = true →
       exec (.queueSel v) s = .next (u.mapFab (fun f => { f with samples := Tbl.set (fun _ => {}) f.samples k { o with depthMax := 0, delayMax := 0 } })))) ∧
    (∀ (f : OutFrame) (m : Nat) (a b : Nat) (p : Option Nat), shareOwner f false = some m →
      s.canSend link (.frame f false false p a b) = (s.sendable f false && decide (s.tc0Used link m < s.tc0Share link m))) ∧
    (∀ (f : OutFrame) (tc pos svc since : Nat) (p : Option Nat), f.payload = .none →
      let r := s.setQueue link tc ((s.queue link tc).eraseIdx pos)
      (1 ≤ tc → tc ≤ 3 → (since + 1 < s.now ∨ (since + 1 = s.now ∧ f.cameNs < ns)) → s.sendItem link ns tc pos (.frame f false true p svc since) true =
        ((s.bump Reg.FWD_LATE).setQueue link tc ((s.queue link tc).eraseIdx pos)).transmit link ns f true true p svc) ∧
      (s.now < since + 1 ∨ (s.now = since + 1 ∧ ns ≤ f.cameNs) → s.sendItem link ns tc pos (.frame f false true p svc since) true = r.transmit link ns f true true p svc))

/-- R362 to R364, R373, R374, R550, Table 13.8: the transport. Of transported frames one already seen, or outside the window, is not delivered, and a
duplicate is acknowledged again; an acknowledgement owed goes out; one received frees what it names; a frame
unacknowledged for its time is sent again, at most RETX_LIMIT times, then the partner is `DEAD`; a `LIVE` partner silent
for PARTNER_DEAD_BEATS is `DEAD`; a heartbeat goes out every HEARTBEAT_GAP beats; a departure leaves the partner `LEFT`, an eviction
frees its entry unless something holds it.

Model's own choices it rests on: log entry 93. -/
def Obligations.Transport : Prop :=
  ∀ (s t : State) (f : Frame) (i seq : Nat) (kind : FrameKind) (map : List Nat),
    let p := s.partner i
    (s.cdUp = true → s.linkCheck f = (t, true) → f.dst = t.me → transported kind = true → t.partnerOf f.src = some i → (t.partner i).state = .live →
      let q := { t.partner i with heard := t.now }
      let u := t.setPartner i q
      u.partnerOf f.src = some i →
      (seqClass q.rxNext q.rxSeen f.seq = .outside → s.arrival f kind = (false, (u.bump Reg.TP_OUT_OF_WINDOW).acked f)) ∧
      (seqClass q.rxNext q.rxSeen f.seq = .duplicate → s.arrival f kind = (false, ((u.bump Reg.TP_DUPLICATES).setPartner i { q with ackOwed := true }).acked f)) ∧
      (seqClass q.rxNext q.rxSeen f.seq = .fresh → ∃ v, s.arrival f kind = (true, v) ∧ (v.partner i).ackOwed = true ∧ (v.partner i).heard = t.now)) ∧
    (s.cdUp = true → p.state = .live →
      (p.ackOwed = true → p.sent < s.now → exec (.ackSend i) s = .next ((s.setPartner i { p with ackOwed := false }).sendAck p)) ∧
      (p.ackOwed = false → exec (.ackSend i) s = .next s) ∧
      (p.sent + bits (s.regN Reg.HEARTBEAT_GAP) 15 0 ≤ s.now → exec (.heartbeatSend i) s =
        .next ((s.setPartner i { p with sent := s.now }).queueFrame (s.mkFrame p.node .heartbeat 4 (openLen .heartbeat) .none))) ∧
      (s.now < p.sent + bits (s.regN Reg.HEARTBEAT_GAP) 15 0 → exec (.heartbeatSend i) s = .next s) ∧
      (p.heard + bits (s.regN Reg.PARTNER_DEAD_BEATS) 23 0 ≤ s.now → exec (.partnerDeadTimeout i) s = .next ((s.partnerGone i .dead).raise Ev.partnerDead p.node)) ∧
      (s.now < p.heard + bits (s.regN Reg.PARTNER_DEAD_BEATS) 23 0 → exec (.partnerDeadTimeout i) s = .next s) ∧
      (∀ g sentAt n, p.unacked.find? (·.1 == seq) = some (seq, g, sentAt, n) →
        let h := ((s.route p.node).map (fun r => r.2.2.1)).getD 1
        let due := sentAt + 2 * h + bits (s.regN Reg.RETX_MARGIN) 7 0
        (s.now < due → exec (.retransmitTimeout i seq) s = .next s) ∧
        (due ≤ s.now → bits (s.regN Reg.RETX_LIMIT) 3 0 ≤ n → exec (.retransmitTimeout i seq) s = .next ((s.partnerGone i .dead).raise Ev.partnerDead p.node)) ∧
        (∀ l a b c, due ≤ s.now → n < bits (s.regN Reg.RETX_LIMIT) 3 0 → s.route p.node = some (l, a, b, c) →
          let u := s.setPartner i { p with unacked := p.unacked.map (fun u => if u.1 = seq then (seq, g, s.now, n + 1) else u) }
          exec (.retransmitTimeout i seq) s = .next ((((u.bump Reg.TP_RETX).pathFault g.promise).countRetx p.node).enqueue (if c = 0xFF then l else c) g.tc
            (.frame { g with retransmit := true } (g.kind == .read || g.kind == .readResp) false g.promise g.svc s.now))))) ∧
    (p.unacked.find? (·.1 == seq) = none → exec (.retransmitTimeout i seq) s = .next s) ∧
    (Delivered s f .ack t → t.partnerOf f.src = some i → exec (.ackReceive f map) s =
      .next ((t.released i (fun q => decide (seqDist q f.ack < 2 ^ 31) || map.any (fun k => decide (k < 1024) && seqDist (nextSeq f.ack) q == k))).acked f)) ∧
    (Delivered s f .heartbeat t → exec (.heartbeatReceive f) s = .next (t.acked f)) ∧
    (Delivered s f .leave t → t.partnerOf f.src = some i →
      exec (.leaveDepartureReceive f) s = .next ((((t.partnerGone i .left).raise Ev.partnerLeft f.src).sendAck (t.partner i)).acked f) ∧
      ((t.pins f.src ≠ 0 ∨ t.waitsOn f.src = true) → exec (.leaveEvictionReceive f) s = .next ((t.sendNack f .leave .illegalInState).acked f)) ∧
      (t.pins f.src = 0 → t.waitsOn f.src = false → exec (.leaveEvictionReceive f) s =
        .next ((((t.setPartner i {}).dropFrames (fun g => g.dst == f.src)).sendAck (t.partner i)).acked f))) ∧
    (s.cdUp = true → exec .fabCtrlLeave s = .next s.leaveAll)

/-- R370 to R372, R392, Table 13.7: joins. A nonce from a node without an entry makes one and is answered with a proof; the initiator answers a proof that holds with
its own and ends a join whose proof does not; the responder then takes the partner in, or holds it for the host under join policy 1; an
accepted result makes the initiator's entry `LIVE`, a refusal frees it; the current step is sent again after 64 beats, and
JOIN_TIMEOUT beats after its start the join is abandoned; PARTNER_CMD joins, approves, refuses and evicts. A join that waits
for an eviction goes on waiting, and a node that is a partner again is asked about the deeds that it may hold too.

Model's own choices it rests on: log entries 90, 91, 92, 150. -/
def Obligations.Joins : Prop :=
  ∀ (s t : State) (f : Frame) (i : Nat) (nonce : Digest) (q : JoinProof) (node : NodeId),
    (s.cdUp = true →
      exec (.joinStart node) s = .next (s.startJoin node) ∧
      (NodeId.valid (s.reg Reg.PARTNER_CMD_NODE) = true → exec .partnerCmdJoin s = .next (s.startJoin (s.reg Reg.PARTNER_CMD_NODE))) ∧
      (NodeId.valid (s.reg Reg.PARTNER_CMD_NODE) = false → exec .partnerCmdJoin s = .next s)) ∧
    (Delivered s f .join t →
      (∀ u, t.partnerOf f.src = none → t.entryFor f.src false = (some i, u) → exec (.joinNonceReceive f nonce) s = .next ((u.respond i f.src nonce).acked f)) ∧
      (∀ u, t.partnerOf f.src = none → t.entryFor f.src false = (none, u) → exec (.joinNonceReceive f nonce) s = .next (u.acked f)) ∧
      (t.partnerOf f.src = some i →
        let x := t.partner i
        (x.state = .joining → x.initiator = true → f.src < t.me → exec (.joinNonceReceive f nonce) s = .next ((t.respond i f.src nonce).acked f)) ∧
        (x.state = .joining → x.initiator = true → t.me < f.src → exec (.joinNonceReceive f nonce) s = .next (t.acked f)) ∧
        (x.state = .live → exec (.joinNonceReceive f nonce) s = .next (t.acked f)) ∧
        (x.state = .joining → x.initiator = true → x.attest ≠ 2 →
          ((q.chainOk = false ∨ q.sigOk = false) → exec (.joinProofReceive f q) s = .next (((t.joinEnds i Ev.partnerRefused).sendResult f.src false).acked f)) ∧
          (q.chainOk = true → q.sigOk = true →
            let y := { x with nonce := q.nonce, digest := q.digest, joinStep := 3, joinSent := t.now }
            exec (.joinProofReceive f q) s = .next (((t.setPartner i y).sendProof y).acked f)) ∧
          (x.joinStep = 3 → exec (.joinResultReceive f true) s = .next (((t.setPartner i { x with joinStep := 4 }).verified i).acked f)) ∧
          exec (.joinResultReceive f false) s = .next ((t.joinEnds i Ev.partnerRefused).acked f)) ∧
        (x.state = .joining → x.initiator = false → x.attest ≠ 2 →
          ((q.chainOk = false ∨ q.sigOk = false) → exec (.joinInitiatorProofReceive f q) s = .next (((t.joinEnds i Ev.partnerRefused).sendResult f.src false).acked f)) ∧
          (q.chainOk = true → q.sigOk = true →
            let u := t.setPartner i { x with digest := q.digest, joinStep := 4 }
            (bit (u.regN Reg.FAB_CTRL) 0 = false → ((u.becomeLive i).partner i).state = .live → exec (.joinInitiatorProofReceive f q) s = .next (((u.becomeLive i).sendResult f.src true).acked f)) ∧
            (bit (u.regN Reg.FAB_CTRL) 0 = true → ∃ v : State, exec (.joinInitiatorProofReceive f q) s = .next (v.acked f) ∧ (v.partner i).state = .joining ∧ (v.partner i).attest = 2))))) ∧
    (s.cdUp = true →
      let p := s.partner i
      let till := p.joinStart + bits (s.regN Reg.JOIN_TIMEOUT) 23 0
      (s.now < till → exec (.joinTimeout i) s = .next s) ∧
      (p.state = .joining →
        (till ≤ s.now → exec (.joinTimeout i) s = .next (s.joinEnds i Ev.partnerJoinFailed)) ∧
        (s.now < p.joinSent + 64 → exec (.joinRetry i) s = .next s) ∧
        (p.joinSent + 64 ≤ s.now →
          let u := s.setPartner i { p with joinSent := s.now }
          (p.joinStep = 1 → exec (.joinRetry i) s = .next (u.sendNonce p.node p.myNonce)) ∧
          ((p.joinStep = 2 ∨ p.joinStep = 3) → exec (.joinRetry i) s = .next (u.sendProof p))) ∧
        (p.attest = 2 →
          (p.initiator = true → exec (.partnerCmdApprove i) s = .next (s.becomeLive i)) ∧
          (p.initiator = false → exec (.partnerCmdApprove i) s = .next ((s.becomeLive i).sendResult p.node true)) ∧
          exec (.partnerCmdRefuse i) s = .next ((s.joinEnds i Ev.partnerRefused).sendResult p.node false))) ∧
      ((p.state = .dead ∨ p.state = .left) → s.pins p.node = 0 → exec (.partnerCmdEvict i) s = .next (s.setPartner i {})) ∧
      (s.pins p.node ≠ 0 → exec (.partnerCmdEvict i) s = .next s)) ∧
    (∀ p : Partner, NodeId.valid node = true → s.sharedKeys node = [] → ((s.setPartner i { p with node := node }).becomeLive i).partner i =
      { p with node := node, state := .live, attest := 1, txNext := 1, rxNext := 1, rxSeen := [], unacked := [], joinBeat := s.now, heard := s.now, sent := s.now, leaving := false, evicting := false, evictRefused := false }) ∧
    (∀ k r, s.sharedKeys node = [k] → s.findDeed k = some r →
      ((s.deed r).state = .home → s.reconnect node = s.sendDeed node (.query { key := k, epoch := (s.deed r).epoch, query := 0, homeAtSender := some (s.deed r).epoch })) ∧
      ((s.deed r).state ≠ .home → s.reconnect node = s)) ∧
    (s.evictingFor node = true → s.startJoin node = s) ∧
    (∀ b, s.partnerOf node = none → s.evictingFor node = true → s.entryFor node b = (none, s))

/-- R3, R4, R534 to R540: registers. A write of a register's own width at its own offset is taken field by field, one of another size or alignment is
refused with a configuration event; a read-only register, an offset of no register and a block that does not answer take nothing; the low half
of a 64-bit register is held until its high half is written; a 4-byte read of the low half answers it and latches the high
half, which the next read of that high half answers; a read of a lamp's window answers half of the lamp through each of its four views (R115).

R4, R185, R186, R206, R392, R383, R433, R554: snapshots. A selection register takes the entry it names and one consistent copy of that entry, or zeros where
there is none, and reads busy; a write while it is busy is ignored with a configuration event. A request index of 262,144 or more is reserved: it
raises the event and the index stays, while the kind, which is legal, is taken. SC_SNAP reads busy up to the next boundary, which latches the counters. That
busy lasts to the boundary and that the counters are latched there is the model's choice (log entry 129).

Model's own choices it rests on: log entries 126, 127, 129. -/
def Obligations.RegistersAndSnapshots : Prop :=
  (∀ (s : State) (off size : Nat) (v : BitVec 64) (r : RegSpec), (cdBlock off = false ∨ s.cdUp = true) →
    (off < 0xD0000 ∨ 0xD0213 < off) → (off < 0x100000 ∨ 0x1E0000 ≤ off) → (off < 0x300000 ∨ 0x301000 ≤ off) → off % 4 = 0 →
    (ownerOf off = some (r, off, false) → r.width = 32 →
      (size ≠ 4 → exec (.regWrite off size v) s = .next (s.configReject off v.toNat)) ∧
      (size = 4 → r.acc = .ro → exec (.regWrite off size v) s = .next s) ∧
      (size = 4 → r.acc = .rw → s.rowWrite off (v.toNat % 2 ^ 32) = none → findReg off = some r → lengthens off 0 1 = false → lengthens off 1 0 = false →
        off ≠ Reg.FLASH_GC_MARKS → off ≠ Reg.RESUME_SLOTS → off ≠ Reg.EVENT_CTRL → off ≠ Reg.BREACH_CTRL → off ≠ Reg.EVENT_RING_BASE → s.io.pendingWrites = [] → s.fab.shareNext = [] → s.writable off (r.write (s.regN off) (v.toNat % 2 ^ 32)).1 = true →
        let new := (r.write (s.regN off) (v.toNat % 2 ^ 32)).1
        ((r.write (s.regN off) (v.toNat % 2 ^ 32)).2 = false → exec (.regWrite off size v) s = .next (s.setRegN off new)) ∧
        ((r.write (s.regN off) (v.toNat % 2 ^ 32)).2 = true → exec (.regWrite off size v) s = .next ((s.setRegN off new).configReject off (v.toNat % 2 ^ 32))))) ∧
    (ownerOf off = none → exec (.regWrite off size v) s = .next s) ∧
    (∀ o, ownerOf off = some (r, o, false) → r.width = 64 → r.acc = .rw → size = 4 → off = o →
      exec (.regWrite off size v) s = .next (s.setHalf off (some (v.toNat % 2 ^ 32)))) ∧
    (∀ o h, ownerOf off = some (r, o, true) → r.width = 64 → r.acc = .rw → size = 4 → s.sys.halves.find o = some h → off ≠ o →
      exec (.regWrite off size v) s = .next ((s.setHalf o none).wholeWrite r o (v.toNat % 2 ^ 32 * 2 ^ 32 + h))) ∧
    (ownerOf off = some (r, off, false) → r.width = 64 →
      exec (.regLowHalfRead off) s = .next ((s.emit (.regRead off (BitVec.ofNat 64 (s.regValue off % 2 ^ 32)))).mapSys (fun y => { y with latch := some (off, s.regValue off / 2 ^ 32) }))) ∧
    (∀ o h, ownerOf off = some (r, o, true) →
      (s.sys.latch = some (o, h) → exec (.regHighHalfRead off) s = .next ((s.mapSys (fun y => { y with latch := none })).emit (.regRead off (BitVec.ofNat 64 h)))) ∧
      ((∀ h, s.sys.latch ≠ some (o, h)) → exec (.regHighHalfRead off) s = .next (s.emit (.regRead off (BitVec.ofNat 64 (s.read4 off)))))) ∧
    (ownerOf off = some (r, off, false) → r.width = 32 → exec (.regLowHalfRead off) s = .next (s.emit (.regRead off (BitVec.ofNat 64 (s.regValue off % 2 ^ 32))))) ∧
    (∀ view lamp high, view < 4 → lamp < 16384 → high < 2 → s.cdUp = true →
      let at_ := 0x100000 + 0x40000 * view + 8 * lamp + 4 * high
      exec (.regLowHalfRead at_) s = .next (s.emit (.regRead at_ (BitVec.ofNat 64 ((s.lamp lamp).toNat / 2 ^ (32 * high) % 2 ^ 32)))))) ∧
  (∀ (s : State) (v : BitVec 32) (d : BitVec 64), s.cdUp = true →
    let held (off : Nat) (t : State) : State := t.mapSys (fun y => { y with busy := off :: y.busy })
    (let i := v.toNat % 2 ^ 12
     (s.busy Reg.PARTNER_SEL = false →
       exec (.partnerSel v) s = .next (held Reg.PARTNER_SEL ((s.setRegN Reg.PARTNER_SEL i).mapFab (fun f => { f with partnerSnap := s.partnerBytes i })))) ∧
     (s.busy Reg.WIN_SEL = false → exec (.winSel v) s = .next (held Reg.WIN_SEL ((s.setRegN Reg.WIN_SEL i).mapFab (fun f =>
       { f with winSnap := ((s.window i).state * 65536 + (s.window i).generation, (s.window i).staging.length, (s.window i).root) }))))) ∧
    (s.busy Reg.PARTNER_SEL = true → exec (.partnerSel v) s = .next (s.configReject Reg.PARTNER_SEL v.toNat)) ∧
    (s.busy Reg.WIN_SEL = true → exec (.winSel v) s = .next (s.configReject Reg.WIN_SEL v.toNat)) ∧
    (s.busy Reg.FIELD_SEL = true → exec (.fieldSel v) s = .next (s.configReject Reg.FIELD_SEL v.toNat)) ∧
    (s.busy Reg.PEEK_SEL = true → exec (.peekSel v) s = .next (s.configReject Reg.PEEK_SEL v.toNat)) ∧
    (s.busy Reg.HOSTED_FIND = true → exec (.hostedFind d) s = .next (s.configReject Reg.HOSTED_FIND d.toNat)) ∧
    (s.busy Reg.FIELD_SEL = false → let m := v.toNat / 2 ^ 12 % 8
     let rank := v.toNat % 2 ^ 9
     let t := s.setRegN Reg.FIELD_SEL (4096 * m + rank)
     ((s.field m).members.length ≤ rank → exec (.fieldSel v) s = .next (held Reg.FIELD_SEL (t.mapFab (fun g => { g with fieldSnap := (0, 0, 0) })))) ∧
     (∀ e, (s.field m).members[rank]? = some e → (s.field m).root ≠ (t.me) →
       exec (.fieldSel v) s = .next (held Reg.FIELD_SEL (t.mapFab (fun g => { g with fieldSnap := (e.node.toNat, 2 ^ 30 * t.memberCode (s.field m) e.node 0 + e.weight, 0) }))))) ∧
    (s.busy Reg.PEEK_SEL = false → let i := v.toNat % 2 ^ 22
     let t (i : Nat) (b : Bytes) : State := (s.setRegN Reg.PEEK_SEL i).mapLore (fun l => { l with peek := b })
     (v.getLsbD 22 = false → exec (.peekSel v) s = .next (held Reg.PEEK_SEL (t i (s.lanternBytes i)))) ∧
     (v.getLsbD 22 = true → i < 262144 → exec (.peekSel v) s = .next (held Reg.PEEK_SEL (t (2 ^ 22 + i) (s.requestBytes i)))) ∧
     (v.getLsbD 22 = true → 262144 ≤ i → let i := s.regN Reg.PEEK_SEL % 2 ^ 22
       exec (.peekSel v) s = .next (held Reg.PEEK_SEL ((t (2 ^ 22 + i) (s.requestBytes i)).configReject Reg.PEEK_SEL v.toNat)))) ∧
    (s.busy Reg.HOSTED_FIND = false → let l := if d.getLsbD 63 = true then 0xFFFFFFFF else d.toNat / 2 ^ 10 % 2 ^ 22
     let hit := s.lore.hosted.find? (fun e => e.2.keeper == s.reg Reg.HOSTED_KEEPER && e.2.keeperLantern == l && e.2.deed == d.toNat % 2 ^ 10)
     let t (n : Nat) : State := held Reg.HOSTED_FIND ((s.setRegN Reg.HOSTED_FIND (d.toNat / 2 ^ 63 * 2 ^ 63 + d.toNat % 2 ^ 32)).mapLore (fun y => { y with hostedFind := n }))
     (∀ i x, hit = some (i, x) → exec (.hostedFind d) s = .next (t (2 ^ 30 + i))) ∧ (hit = none → exec (.hostedFind d) s = .next (t 0))) ∧
    (s.busy Reg.SC_SNAP = false → exec .scSnap s = .next (held Reg.SC_SNAP s)) ∧ (s.busy Reg.SC_SNAP = true → exec .scSnap s = .next s) ∧
    (s.busy Reg.SC_SNAP = true → s.endBusy.lore = { s.lore with scTileSnap := s.lore.scTile, scLinkSnap := s.lore.scLink } ∧ s.endBusy.sys.busy = []))

/-- The instructions that store data do so where the descriptor or operand says and nowhere else: LTN_QUERY its 128 bytes at op_c, ATTN_MERGE
its record at the output address, SET_HASH the hashes, `ATTEST` its report, the exact codec its output, also when they wait for lines the host holds, are
refused or fail. The bytes stored are those from the address on in an object kept as it is, or the whole groups they encode to in a fixed-rate
object, or words of the commons' host region, or host memory. Every other byte of GDDR7 and word of the commons, every byte of flash and of the swap
region, the clock, the flash steward, the lamps and the lanterns read as before, and so do the deeds unless SET_HASH publishes.

Frame of the instructions that store nothing: control flow, progress, lamps, request changes, page lists, sets, tier placement and the
meadow instructions leave every byte of GDDR7, flash and the swap region, the clock, the flash steward, the partners and the
lanterns' states as they were, whether they complete, wait or fail; those that change no lamp leave every lamp.

Model's own choices it rests on: log entry 94. -/
def Obligations.InstructionMemoryFrames : Prop :=
  (∀ (s t : State) (c : Nat) (w : IWord) (d src : Bytes) (recs : List PartialRec) (tokens : List (BitVec 16)) (bad : Bool) (fail : Option Code) (i : Instr) (addr n : Nat),
    ((i = .ltnQuery c w ∧ addr = w.opc.toNat ∧ n = 128) ∨
     (i = .attnMerge c w d ⟨recs, bad⟩ ∧ addr = le d 8 8 ∧ n = (mergeOut (le d 2 1 == 1) (mergeRecs recs)).length) ∨
     (i = .setHash c w d tokens bad ∧ addr = le d 16 8 ∧ ∃ m, s.modelOf (le d 24 2) = some m ∧
       n = 32 * (groupHashes m.model (le d 26 2) (le d 28 2) m.pageTokens (s.fullGroups (s.listAt (le d 0 8)) m.layers m.pageTokens) true 0 tokens).length) ∨
     (i = .attest c w d bad ∧ addr = le d 32 8 ∧ n = (s.reportHead (d.take 32) ++ (Config.sign (s.reportHead (d.take 32))).take 17088).length) ∨
     (∃ x, (s.sourceAt (le d 0 8) (le d 16 8) src).1 = x ∧ w.flag 8 = true ∧ addr = le d 8 8 ∧
       ((i = .pack c w d src fail ∧ n = (x.map (fun b => (exactPack (le d 32 1) (bit (le d 33 1) 0) b).1.length)).getD 0) ∨
        (i = .unpack c w d src fail ∧ n = (x.map (fun b => match expandAll (le d 24 8) (b.length / 32 + 1) [] b with
          | .ok out => out.length
          | .error _ => 0)).getD 0)))) →
    exec i s = .next t →
    (∀ k, (∀ o rel, s.gddrObj addr = some (o, rel) → o.readOnly = false →
        let e := 32 * kvWidth o.fmt
        let g := groupBytes o.fmt o.ratio
        (o.plain = true → k < 4096 * o.loc + rel ∨ 4096 * o.loc + rel + n ≤ k) ∧
        (o.plain = false → k < 4096 * o.loc + rel / e * g ∨ 4096 * o.loc + (rel / e + n / e) * g ≤ k)) →
      Tbl.get (fun _ => 0) t.mem.gddr k = Tbl.get (fun _ => 0) s.mem.gddr k) ∧
    (∀ k, (∀ off, s.commonsAt addr = some off → k < off / 8 ∨ (off + n + 7) / 8 ≤ k) → t.commonsWord k = s.commonsWord k) ∧
    t.mem.flash = s.mem.flash ∧ t.mem.swap = s.mem.swap ∧ t.clk = s.clk ∧ t.fls = s.fls ∧ t.io.lamps = s.io.lamps ∧
    t.lore.lanterns = s.lore.lanterns ∧ ((∀ b, i ≠ .setHash c w d tokens b ∨ bit (le d 30 1) 0 = false) → t.lore.deeds = s.lore.deeds)) ∧
  (∀ (s t : State) (c : Nat) (w : IWord) (d : Bytes) (i : Instr),
    (i ∈ [.nop c w, .halt c w, .jump c w, .branch c w, .call c w, .ret c w, .fence c w, .progressSet c w, .lampLight c w, .lampDim c w,
      .lampSet c w, .lampWait c w, .reqSetprio c w, .reqSetdeadline c w, .pgAppend c w d, .setUnion c w d, .setIntersect c w d, .setDiff c w d,
      .tierPlace c w, .meadowRole c w, .meadowDrain c w, .meadowDefine c w d]) →
    exec i s = .next t →
    t.mem.gddr = s.mem.gddr ∧ t.mem.flash = s.mem.flash ∧ t.mem.swap = s.mem.swap ∧ t.clk = s.clk ∧ t.fls = s.fls ∧ t.pending = s.pending ∧
    t.fab.partners = s.fab.partners ∧ t.fld = s.fld ∧ t.cxl = s.cxl ∧
    (∀ l, (t.lan l).state = (s.lan l).state) ∧
    (i ∉ [.lampLight c w, .lampDim c w, .lampSet c w] → t.io.lamps = s.io.lamps))

end
end

