-- ==== Sys2Proof/Laws/Tables.lean ====
section
/-! SUPPORT. Sparse tables: a read after a write, a write leaves every other key alone, and every table operation keeps
the canonical form. -/

namespace Sys2Proof.Machine

variable {α : Type}

/-! ## Reads -/

@[simp] theorem Tbl.get_nil (d : Nat → α) (k : Nat) : Tbl.get d [] k = d k := rfl

theorem Tbl.find_drop (t : Tbl α) (j k : Nat) : Tbl.find (Tbl.drop t j) k = if j = k then none else Tbl.find t k := by
  induction t with
  | nil => simp [Tbl.drop, Tbl.find]
  | cons e t ih =>
    obtain ⟨i, v⟩ := e
    by_cases hij : i = j
    · subst hij
      by_cases hik : i = k
      · subst hik; simpa [Tbl.drop] using ih
      · simp [Tbl.drop, Tbl.find, ih, hik]
    · by_cases hik : i = k
      · subst hik; simp [Tbl.drop, Tbl.find, hij, Ne.symm hij]
      · simp [Tbl.drop, Tbl.find, hij, hik, ih]

theorem Tbl.find_put (t : Tbl α) (j k : Nat) (v : α) (h : Tbl.find t j = none) :
    Tbl.find (Tbl.put t j v) k = if j = k then some v else Tbl.find t k := by
  induction t with
  | nil => simp [Tbl.put, Tbl.find]
  | cons e t ih =>
    obtain ⟨i, w⟩ := e
    have hij : i ≠ j := by intro he; simp [Tbl.find, he] at h
    have ht : Tbl.find t j = none := by simpa [Tbl.find, hij] using h
    by_cases hlt : j < i
    · simp [Tbl.put, hlt, Tbl.find]
    · by_cases hik : i = k
      · subst hik; simp [Tbl.put, hlt, Tbl.find, Ne.symm hij]
      · simp [Tbl.put, hlt, Tbl.find, hik, ih ht]

/-- A read after a write: the key written reads the value, every other key reads as before. -/
theorem Tbl.get_set [DecidableEq α] (d : Nat → α) (t : Tbl α) (j k : Nat) (v : α) :
    Tbl.get d (Tbl.set d t j v) k = if j = k then v else Tbl.get d t k := by
  by_cases hv : v = d j
  · by_cases hjk : j = k
    · subst hjk; simp [Tbl.get, Tbl.set, hv, Tbl.find_drop]
    · simp [Tbl.get, Tbl.set, hv, Tbl.find_drop, hjk]
  · have hf : Tbl.find (Tbl.drop t j) j = none := by simp [Tbl.find_drop]
    by_cases hjk : j = k
    · subst hjk; simp [Tbl.get, Tbl.set, hv, Tbl.find_put _ _ _ _ hf]
    · simp [Tbl.get, Tbl.set, hv, Tbl.find_put _ _ _ _ hf, hjk, Tbl.find_drop]

@[simp] theorem Tbl.get_set_self [DecidableEq α] (d : Nat → α) (t : Tbl α) (k : Nat) (v : α) :
    Tbl.get d (Tbl.set d t k v) k = v := by simp [Tbl.get_set]

theorem Tbl.get_set_ne [DecidableEq α] (d : Nat → α) (t : Tbl α) {j k : Nat} (v : α) (h : j ≠ k) :
    Tbl.get d (Tbl.set d t j v) k = Tbl.get d t k := by simp [Tbl.get_set, h]

/-! ## The canonical form -/

theorem Tbl.sortedFrom_mono {t : Tbl α} {i j : Nat} (hij : i ≤ j) (h : Tbl.sortedFrom (some j) t = true) :
    Tbl.sortedFrom (some i) t = true := by
  cases t with
  | nil => rfl
  | cons e t =>
    obtain ⟨k, v⟩ := e
    simp only [Tbl.sortedFrom, Bool.and_eq_true, decide_eq_true_eq] at h ⊢
    exact ⟨by omega, h.2⟩

theorem Tbl.sortedFrom_none {t : Tbl α} {i : Nat} (h : Tbl.sortedFrom (some i) t = true) : Tbl.sortedFrom none t = true := by
  cases t with
  | nil => rfl
  | cons e t =>
    obtain ⟨k, v⟩ := e
    simp only [Tbl.sortedFrom, Bool.and_eq_true, decide_eq_true_eq] at h ⊢
    exact h.2

/-- Keys above a bound. -/
theorem Tbl.lt_of_sortedFrom {t : Tbl α} {i : Nat} (h : Tbl.sortedFrom (some i) t = true) : ∀ e ∈ t, i < e.1 := by
  induction t generalizing i with
  | nil => simp
  | cons e t ih =>
    obtain ⟨k, v⟩ := e
    simp only [Tbl.sortedFrom, Bool.and_eq_true, decide_eq_true_eq] at h
    intro x hx
    rcases List.mem_cons.mp hx with rfl | hx
    · exact h.1
    · have := ih h.2 x hx; omega

theorem Tbl.sortedFrom_filter {t : Tbl α} (p : Nat × α → Bool) {o : Option Nat} (h : Tbl.sortedFrom o t = true) :
    Tbl.sortedFrom o (t.filter p) = true := by
  induction t generalizing o with
  | nil => cases o <;> simpa using h
  | cons e t ih =>
    obtain ⟨k, v⟩ := e
    by_cases hp : p (k, v) = true
    · cases o with
      | none =>
        simp only [Tbl.sortedFrom] at h
        simpa [List.filter_cons, hp, Tbl.sortedFrom] using ih h
      | some i =>
        simp only [Tbl.sortedFrom, Bool.and_eq_true, decide_eq_true_eq] at h
        simpa [List.filter_cons, hp, Tbl.sortedFrom, h.1] using ih h.2
    · cases o with
      | none =>
        simp only [Tbl.sortedFrom] at h
        simpa [List.filter_cons, hp] using Tbl.sortedFrom_none (ih h)
      | some i =>
        simp only [Tbl.sortedFrom, Bool.and_eq_true, decide_eq_true_eq] at h
        simpa [List.filter_cons, hp] using Tbl.sortedFrom_mono (Nat.le_of_lt h.1) (ih h.2)

theorem Tbl.drop_eq_filter (t : Tbl α) (k : Nat) : Tbl.drop t k = t.filter (fun e => decide (e.1 ≠ k)) := by
  induction t with
  | nil => rfl
  | cons e t ih =>
    obtain ⟨j, v⟩ := e
    by_cases h : j = k <;> simp [Tbl.drop, h, ih]

theorem Tbl.sortedFrom_put {t : Tbl α} {k : Nat} (v : α) {o : Option Nat} (h : Tbl.sortedFrom o t = true)
    (hk : ∀ e ∈ t, e.1 ≠ k) (ho : ∀ i, o = some i → i < k) : Tbl.sortedFrom o (Tbl.put t k v) = true := by
  induction t generalizing o with
  | nil => cases o with
    | none => rfl
    | some i => simp [Tbl.put, Tbl.sortedFrom, ho i rfl]
  | cons e t ih =>
    obtain ⟨j, w⟩ := e
    have hjk : j ≠ k := hk (j, w) (by simp)
    by_cases hlt : k < j
    · cases o with
      | none =>
        simp only [Tbl.sortedFrom] at h
        simp [Tbl.put, hlt, Tbl.sortedFrom, h]
      | some i =>
        simp only [Tbl.sortedFrom, Bool.and_eq_true, decide_eq_true_eq] at h
        simp [Tbl.put, hlt, Tbl.sortedFrom, h.2, ho i rfl]
    · have hj : j < k := by omega
      have hk' : ∀ e ∈ t, e.1 ≠ k := fun e he => hk e (by simp [he])
      cases o with
      | none =>
        simp only [Tbl.sortedFrom] at h
        simpa [Tbl.put, hlt, Tbl.sortedFrom] using ih h hk' (by rintro i ⟨⟩; exact hj)
      | some i =>
        simp only [Tbl.sortedFrom, Bool.and_eq_true, decide_eq_true_eq] at h
        simpa [Tbl.put, hlt, Tbl.sortedFrom, h.1] using ih h.2 hk' (by rintro i ⟨⟩; exact hj)

theorem Tbl.mem_put {t : Tbl α} {k : Nat} {v : α} {e : Nat × α} (h : e ∈ Tbl.put t k v) : e = (k, v) ∨ e ∈ t := by
  induction t with
  | nil => simpa [Tbl.put] using h
  | cons x t ih =>
    obtain ⟨j, w⟩ := x
    by_cases hlt : k < j
    · simpa [Tbl.put, hlt] using h
    · simp only [Tbl.put, hlt, if_false, List.mem_cons] at h
      rcases h with h | h
      · exact .inr (by simp [h])
      · rcases ih h with h | h
        · exact .inl h
        · exact .inr (by simp [h])

@[simp] theorem Tbl.wf_nil [DecidableEq α] (d : Nat → α) : Tbl.wf d [] = true := rfl

theorem Tbl.wf_iff [DecidableEq α] (d : Nat → α) (t : Tbl α) :
    Tbl.wf d t = true ↔ Tbl.sortedFrom none t = true ∧ ∀ e ∈ t, e.2 ≠ d e.1 := by
  simp [Tbl.wf, List.all_eq_true]

/-- Entries taken out. -/
theorem Tbl.wf_filter [DecidableEq α] {d : Nat → α} {t : Tbl α} (p : Nat × α → Bool) (h : Tbl.wf d t = true) :
    Tbl.wf d (t.filter p) = true := by
  rw [Tbl.wf_iff] at h ⊢
  exact ⟨Tbl.sortedFrom_filter p h.1, fun e he => h.2 e (List.mem_of_mem_filter he)⟩

/-- A write keeps the canonical form. -/
theorem Tbl.wf_set [DecidableEq α] {d : Nat → α} {t : Tbl α} (k : Nat) (v : α) (h : Tbl.wf d t = true) :
    Tbl.wf d (Tbl.set d t k v) = true := by
  have hd : Tbl.wf d (Tbl.drop t k) = true := by rw [Tbl.drop_eq_filter]; exact Tbl.wf_filter _ h
  by_cases hv : v = d k
  · simpa [Tbl.set, hv] using hd
  · rw [Tbl.wf_iff] at hd ⊢
    have hk : ∀ e ∈ Tbl.drop t k, e.1 ≠ k := by
      rw [Tbl.drop_eq_filter]; intro e he; simpa using (List.mem_filter.mp he).2
    refine ⟨by simpa [Tbl.set, hv] using Tbl.sortedFrom_put v hd.1 hk (by simp), ?_⟩
    intro e he
    simp only [Tbl.set, hv, if_false] at he
    rcases Tbl.mem_put he with rfl | he
    · exact hv
    · exact hd.2 e he

/-! ## Byte memories -/

theorem Tbl.wf_writeBytes {m : Tbl (BitVec 8)} (bs : List (BitVec 8)) (a : Nat) (h : Tbl.wf (fun _ => 0) m = true) :
    Tbl.wf (fun _ => 0) (Tbl.writeBytes m a bs) = true := by
  induction bs generalizing m a with
  | nil => simpa [Tbl.writeBytes] using h
  | cons b bs ih => exact ih (a + 1) (Tbl.wf_set a b h)

/-- A byte outside the written run reads as before. -/
theorem Tbl.get_writeBytes_out (m : Tbl (BitVec 8)) (bs : List (BitVec 8)) (a k : Nat) (h : k < a ∨ a + bs.length ≤ k) :
    Tbl.get (fun _ => 0) (Tbl.writeBytes m a bs) k = Tbl.get (fun _ => 0) m k := by
  induction bs generalizing m a with
  | nil => simp [Tbl.writeBytes]
  | cons b bs ih =>
    simp only [List.length_cons] at h
    rw [Tbl.writeBytes, ih _ _ (by omega), Tbl.get_set_ne _ _ _ (by omega)]

/-- A byte of the written run reads what was written there. -/
theorem Tbl.get_writeBytes_in (m : Tbl (BitVec 8)) (bs : List (BitVec 8)) (a i : Nat) (h : i < bs.length) :
    Tbl.get (fun _ => 0) (Tbl.writeBytes m a bs) (a + i) = bs[i] := by
  induction bs generalizing m a i with
  | nil => simp at h
  | cons b bs ih =>
    cases i with
    | zero =>
      have := Tbl.get_writeBytes_out (Tbl.set (fun _ => 0) m a b) bs (a + 1) a (by omega)
      simpa [Tbl.writeBytes] using this
    | succ i =>
      have := ih (Tbl.set (fun _ => 0) m a b) (a + 1) i (by simpa using h)
      simpa [Tbl.writeBytes, Nat.add_assoc, Nat.add_comm 1 i] using this

/-- What was written is read back. -/
theorem Tbl.readBytes_writeBytes (m : Tbl (BitVec 8)) (a : Nat) (bs : List (BitVec 8)) :
    Tbl.readBytes (Tbl.writeBytes m a bs) a bs.length = bs := by
  apply List.ext_getElem
  · simp [Tbl.readBytes]
  · intro i h1 h2
    simp only [Tbl.readBytes, List.getElem_map, List.getElem_range]
    exact Tbl.get_writeBytes_in m bs a i h2

end Sys2Proof.Machine
end

