-- ==== Sys2Proof/Laws/Programs.lean ====
section
/-! SUPPORT. What running an instruction of a program can do, said once: the lemmas every claim about
an instruction command goes through. -/

namespace Sys2Proof.Machine

/-- A well-shaped instruction that is not posted: its result is settled. -/
theorem State.runInstr_runs {s : State} {c op : Nat} {w : IWord} {x : Ctx} (h : Runs s c op w x) (cmd : Instr) (p e : Bool) (body : Ctx → IRes) (pre : Ctx → Pre) :
    s.runInstr c op w cmd (shapeOk op w) p e body pre = s.settle c (body x) := by
  obtain ⟨⟨h1, h2, h3, h4, h5, h6⟩, ⟨h7, h8⟩, h9⟩ := h
  simp [State.runInstr, h1, h2, h3, h4, h5, h6, h7, h9, h8]

/-- A posted instruction is handed over: it waits for its completion, or has the failure of its precondition. -/
theorem State.runInstr_posted {s : State} {c op : Nat} {w : IWord} {x : Ctx} (h : RunsPosted s c op w x) (cmd : Instr) (body : Ctx → IRes) (pre : Ctx → Pre) :
    s.runInstr c op w cmd (shapeOk op w) true false body pre =
      (s.setCtx c { x with posted := x.posted ++ [{ index := x.pc, cmd := cmd, done := (pre x).map (·.1), obs := ((pre x).map (·.2)).getD 0 }] }).advance c := by
  obtain ⟨⟨h1, h2, h3, h4, h5, h6⟩, ⟨h7, h8⟩, h9, -, h10⟩ := h
  cases hp : pre x <;> simp [State.runInstr, h1, h2, h3, h4, h5, h6, h7, h9, h8, Nat.not_le.mpr h10, hp]

/-- A malformed instruction (R124). -/
theorem State.runInstr_malformed {s : State} {c op : Nat} {w : IWord} {x : Ctx} {shape p : Bool} (h : StandsAt s c op w x)
    (hs : shape = false ∨ (w.posted = true ∧ p = false) ∨ (x.entry.meadow = 0xFF ∧ actsOnMeadow op = true))
    (cmd : Instr) (e : Bool) (body : Ctx → IRes) (pre : Ctx → Pre) :
    s.runInstr c op w cmd shape p e body pre = s.failInstr c .badOperand := by
  obtain ⟨h1, h2, h3, h4, h5, h6⟩ := h
  rcases hs with hs | ⟨ha, hb⟩ | ⟨ha, hb⟩
  · simp [State.runInstr, h1, h2, h3, h4, h5, h6, hs]
  · simp [State.runInstr, h1, h2, h3, h4, h5, h6, ha, hb]
  · simp [State.runInstr, h1, h2, h3, h4, h5, h6, ha, hb]

/-- Elsewhere it changes nothing. -/
theorem State.runInstr_elsewhere {s : State} {c op : Nat} {w : IWord} (h : ¬ ∃ x, StandsAt s c op w x) (cmd : Instr)
    (shape p e : Bool) (body : Ctx → IRes) (pre : Ctx → Pre) : s.runInstr c op w cmd shape p e body pre = s := by
  unfold State.runInstr
  split
  · rfl
  · next x hx =>
    rw [if_pos]
    by_contra hn
    simp only [not_or, not_not, ne_eq, Bool.not_eq_true] at hn
    exact h ⟨x, hx, hn.1, hn.2.1, hn.2.2.1, hn.2.2.2.1, hn.2.2.2.2⟩

/-! ## How an instruction settles -/

@[simp] theorem State.settle_ok (s t : State) (c : Nat) : s.settle c (.ok t) = t.advance c := rfl
@[simp] theorem State.settle_fail (s : State) (c : Nat) (code : Code) (obs : Nat) : s.settle c (.fail code obs) = s.failInstr c code obs := rfl
@[simp] theorem State.settle_failAs (s t : State) (c : Nat) (code : Code) (obs : Nat) :
    s.settle c (.failAs t code obs) = t.failInstr c code obs := rfl
@[simp] theorem State.settle_halt (s t : State) (c : Nat) : s.settle c (.halt t) = t.endProgram c := rfl

theorem State.settle_wait {t : State} {c : Nat} {x : Ctx} (h : t.ctx c = some x) (s : State) (v : Wait) :
    s.settle c (.wait t v) = t.setCtx c { x with wait := v } := by simp [State.settle, h]

theorem State.settle_jump {t : State} {c : Nat} {x : Ctx} (h : t.ctx c = some x) (s : State) (i : Nat) :
    s.settle c (.jump t i) = if i < x.entry.prog.length then t.goto c i else t.failInstr c .badOperand := by simp [State.settle, h]

theorem State.settle_failAt {t : State} {c : Nat} {x : Ctx} (h : t.ctx c = some x) (s : State) (code : Code) (i obs : Nat) :
    s.settle c (.failAt t code i obs) = (t.setCtx c { x with halted := x.pc + 1 < x.entry.prog.length }).endEntry c code i obs := by
  simp [State.settle, h]

/-! ## Lines that the host holds (R440, R441) -/

/-- With no line of its operands in a host cache an instruction starts as if there were none. -/
theorem State.coherent_starts {s : State} {reads writes : List (Nat × Nat)} (h : s.tracked (reads ++ writes) = []) (c op : Nat) (w : IWord)
    (ok : Bool) (go : State → State) : s.coherent c op w ok reads writes go = go s := by
  simp [State.coherent, h]

/-- Away from its turn, or malformed, it calls nothing back. -/
theorem State.coherent_away {s : State} {c op : Nat} {w : IWord} (h : s.turnOf c op w = false) (ok : Bool) (reads writes : List (Nat × Nat))
    (go : State → State) : s.coherent c op w ok reads writes go = go s := by
  simp [State.coherent, h]

@[simp] theorem State.tracked_nil {s : State} (h : s.cxl.lines = []) (spans : List (Nat × Nat)) : s.tracked spans = [] := by
  simp [State.tracked, h]

theorem State.turnOf_elsewhere {s : State} {c op : Nat} {w : IWord} (h : ¬ ∃ x, StandsAt s c op w x) : s.turnOf c op w = false := by
  unfold State.turnOf
  split
  · rfl
  · next x hx =>
    by_contra hn
    simp only [Bool.not_eq_false, decide_eq_true_eq] at hn
    exact h ⟨x, hx, hn.1, hn.2.1, hn.2.2.1, by simpa using hn.2.2.2.1, by simpa using hn.2.2.2.2.1⟩

theorem State.turnOf_malformed {s : State} {c op : Nat} {w : IWord} {x : Ctx} (h : s.ctx c = some x)
    (hs : shapeOk op w = false ∨ (w.posted = true ∧ mayPost op = false) ∨ (x.entry.meadow = 0xFF ∧ actsOnMeadow op = true)) :
    s.turnOf c op w = false := by
  unfold State.turnOf
  rcases hs with hs | ⟨ha, hb⟩ | ⟨ha, hb⟩ <;> simp_all

/-! ## The context a program runs in -/

@[simp] theorem Tbl.find_putDrop_self {α : Type} (t : Tbl α) (k : Nat) (v : α) : Tbl.find (Tbl.put (Tbl.drop t k) k v) k = some v := by
  simp [Tbl.find_put, Tbl.find_drop]

@[simp] theorem State.ctx_setCtx_self (s : State) (c : Nat) (x : Ctx) : (s.setCtx c x).ctx c = some x := by
  simp [State.ctx, State.setCtx, State.mapIo]

theorem State.goto_eq {s : State} {c t : Nat} {x : Ctx} (h : s.ctx c = some x) :
    s.goto c t = (s.setCtx c { x with pc := t, wait := .none, powerSince := none, group := if t < x.group ∧ x.pc < t then x.group else 0 }).checkWord c := by
  simp [State.goto, h]

/-- The program stands at a word whose opcode a class table lists, or past its end. -/
theorem State.checkWord_listed {s : State} {c : Nat} {x : Ctx} (h : s.ctx c = some x)
    (hl : ∀ v, x.entry.prog[x.pc]? = some v → listedOp (v.toNat % 256) = true) : s.checkWord c = s := by
  unfold State.checkWord
  simp only [h]
  split
  · rfl
  · next v hv => simp [hl v hv]

theorem State.advance_next {s : State} {c : Nat} {x : Ctx} (h : s.ctx c = some x) (hn : x.pc + 1 < x.entry.prog.length) :
    s.advance c = s.goto c (x.pc + 1) := by
  simp [State.advance, h, hn]

theorem State.advance_end {s : State} {c : Nat} {x : Ctx} (h : s.ctx c = some x) (hn : x.entry.prog.length ≤ x.pc + 1) :
    s.advance c = s.endProgram c := by
  simp [State.advance, h, Nat.not_lt.mpr hn]

end Sys2Proof.Machine
end

