-- ==== Sys2Proof/Laws/State.lean ====
section
/-! SUPPORT. What each update of the state leaves and sets, field by field: true by unfolding the update, so that no
later proof unfolds one. -/

namespace Sys2Proof.Machine

/-! ## `mapClk` -/

@[simp] theorem State.mapClk_pending (s : State) (f : Clock → Clock) : (s.mapClk f).pending = s.pending := rfl
@[simp] theorem State.mapClk_regs (s : State) (f : Clock → Clock) : (s.mapClk f).regs = s.regs := rfl
@[simp] theorem State.mapClk_clk (s : State) (f : Clock → Clock) : (s.mapClk f).clk = f s.clk := rfl
@[simp] theorem State.mapClk_io (s : State) (f : Clock → Clock) : (s.mapClk f).io = s.io := rfl
@[simp] theorem State.mapClk_lore (s : State) (f : Clock → Clock) : (s.mapClk f).lore = s.lore := rfl
@[simp] theorem State.mapClk_mem (s : State) (f : Clock → Clock) : (s.mapClk f).mem = s.mem := rfl
@[simp] theorem State.mapClk_eng (s : State) (f : Clock → Clock) : (s.mapClk f).eng = s.eng := rfl
@[simp] theorem State.mapClk_fab (s : State) (f : Clock → Clock) : (s.mapClk f).fab = s.fab := rfl
@[simp] theorem State.mapClk_cxl (s : State) (f : Clock → Clock) : (s.mapClk f).cxl = s.cxl := rfl
@[simp] theorem State.mapClk_sys (s : State) (f : Clock → Clock) : (s.mapClk f).sys = s.sys := rfl
@[simp] theorem State.mapClk_fls (s : State) (f : Clock → Clock) : (s.mapClk f).fls = s.fls := rfl
@[simp] theorem State.mapClk_fld (s : State) (f : Clock → Clock) : (s.mapClk f).fld = s.fld := rfl
@[simp] theorem State.mapClk_early (s : State) (f : Clock → Clock) : (s.mapClk f).early = s.early := rfl
@[simp] theorem State.mapClk_out (s : State) (f : Clock → Clock) : (s.mapClk f).out = s.out := rfl
@[simp] theorem State.mapClk_freeCtr (s : State) (f : Clock → Clock) : (s.mapClk f).freeCtr = s.freeCtr := rfl

/-! ## `mapIo` -/

@[simp] theorem State.mapIo_pending (s : State) (f : Intake → Intake) : (s.mapIo f).pending = s.pending := rfl
@[simp] theorem State.mapIo_regs (s : State) (f : Intake → Intake) : (s.mapIo f).regs = s.regs := rfl
@[simp] theorem State.mapIo_clk (s : State) (f : Intake → Intake) : (s.mapIo f).clk = s.clk := rfl
@[simp] theorem State.mapIo_io (s : State) (f : Intake → Intake) : (s.mapIo f).io = f s.io := rfl
@[simp] theorem State.mapIo_lore (s : State) (f : Intake → Intake) : (s.mapIo f).lore = s.lore := rfl
@[simp] theorem State.mapIo_mem (s : State) (f : Intake → Intake) : (s.mapIo f).mem = s.mem := rfl
@[simp] theorem State.mapIo_eng (s : State) (f : Intake → Intake) : (s.mapIo f).eng = s.eng := rfl
@[simp] theorem State.mapIo_fab (s : State) (f : Intake → Intake) : (s.mapIo f).fab = s.fab := rfl
@[simp] theorem State.mapIo_cxl (s : State) (f : Intake → Intake) : (s.mapIo f).cxl = s.cxl := rfl
@[simp] theorem State.mapIo_sys (s : State) (f : Intake → Intake) : (s.mapIo f).sys = s.sys := rfl
@[simp] theorem State.mapIo_fls (s : State) (f : Intake → Intake) : (s.mapIo f).fls = s.fls := rfl
@[simp] theorem State.mapIo_fld (s : State) (f : Intake → Intake) : (s.mapIo f).fld = s.fld := rfl
@[simp] theorem State.mapIo_early (s : State) (f : Intake → Intake) : (s.mapIo f).early = s.early := rfl
@[simp] theorem State.mapIo_out (s : State) (f : Intake → Intake) : (s.mapIo f).out = s.out := rfl
@[simp] theorem State.mapIo_freeCtr (s : State) (f : Intake → Intake) : (s.mapIo f).freeCtr = s.freeCtr := rfl

/-! ## `mapLore` -/

@[simp] theorem State.mapLore_pending (s : State) (f : Lore → Lore) : (s.mapLore f).pending = s.pending := rfl
@[simp] theorem State.mapLore_regs (s : State) (f : Lore → Lore) : (s.mapLore f).regs = s.regs := rfl
@[simp] theorem State.mapLore_clk (s : State) (f : Lore → Lore) : (s.mapLore f).clk = s.clk := rfl
@[simp] theorem State.mapLore_io (s : State) (f : Lore → Lore) : (s.mapLore f).io = s.io := rfl
@[simp] theorem State.mapLore_lore (s : State) (f : Lore → Lore) : (s.mapLore f).lore = f s.lore := rfl
@[simp] theorem State.mapLore_mem (s : State) (f : Lore → Lore) : (s.mapLore f).mem = s.mem := rfl
@[simp] theorem State.mapLore_eng (s : State) (f : Lore → Lore) : (s.mapLore f).eng = s.eng := rfl
@[simp] theorem State.mapLore_fab (s : State) (f : Lore → Lore) : (s.mapLore f).fab = s.fab := rfl
@[simp] theorem State.mapLore_cxl (s : State) (f : Lore → Lore) : (s.mapLore f).cxl = s.cxl := rfl
@[simp] theorem State.mapLore_sys (s : State) (f : Lore → Lore) : (s.mapLore f).sys = s.sys := rfl
@[simp] theorem State.mapLore_fls (s : State) (f : Lore → Lore) : (s.mapLore f).fls = s.fls := rfl
@[simp] theorem State.mapLore_fld (s : State) (f : Lore → Lore) : (s.mapLore f).fld = s.fld := rfl
@[simp] theorem State.mapLore_early (s : State) (f : Lore → Lore) : (s.mapLore f).early = s.early := rfl
@[simp] theorem State.mapLore_out (s : State) (f : Lore → Lore) : (s.mapLore f).out = s.out := rfl
@[simp] theorem State.mapLore_freeCtr (s : State) (f : Lore → Lore) : (s.mapLore f).freeCtr = s.freeCtr := rfl

/-! ## `mapMem` -/

@[simp] theorem State.mapMem_pending (s : State) (f : Store → Store) : (s.mapMem f).pending = s.pending := rfl
@[simp] theorem State.mapMem_regs (s : State) (f : Store → Store) : (s.mapMem f).regs = s.regs := rfl
@[simp] theorem State.mapMem_clk (s : State) (f : Store → Store) : (s.mapMem f).clk = s.clk := rfl
@[simp] theorem State.mapMem_io (s : State) (f : Store → Store) : (s.mapMem f).io = s.io := rfl
@[simp] theorem State.mapMem_lore (s : State) (f : Store → Store) : (s.mapMem f).lore = s.lore := rfl
@[simp] theorem State.mapMem_mem (s : State) (f : Store → Store) : (s.mapMem f).mem = f s.mem := rfl
@[simp] theorem State.mapMem_eng (s : State) (f : Store → Store) : (s.mapMem f).eng = s.eng := rfl
@[simp] theorem State.mapMem_fab (s : State) (f : Store → Store) : (s.mapMem f).fab = s.fab := rfl
@[simp] theorem State.mapMem_cxl (s : State) (f : Store → Store) : (s.mapMem f).cxl = s.cxl := rfl
@[simp] theorem State.mapMem_sys (s : State) (f : Store → Store) : (s.mapMem f).sys = s.sys := rfl
@[simp] theorem State.mapMem_fls (s : State) (f : Store → Store) : (s.mapMem f).fls = s.fls := rfl
@[simp] theorem State.mapMem_fld (s : State) (f : Store → Store) : (s.mapMem f).fld = s.fld := rfl
@[simp] theorem State.mapMem_early (s : State) (f : Store → Store) : (s.mapMem f).early = s.early := rfl
@[simp] theorem State.mapMem_out (s : State) (f : Store → Store) : (s.mapMem f).out = s.out := rfl
@[simp] theorem State.mapMem_freeCtr (s : State) (f : Store → Store) : (s.mapMem f).freeCtr = s.freeCtr := rfl

/-! ## `mapEng` -/

@[simp] theorem State.mapEng_pending (s : State) (f : Engine → Engine) : (s.mapEng f).pending = s.pending := rfl
@[simp] theorem State.mapEng_regs (s : State) (f : Engine → Engine) : (s.mapEng f).regs = s.regs := rfl
@[simp] theorem State.mapEng_clk (s : State) (f : Engine → Engine) : (s.mapEng f).clk = s.clk := rfl
@[simp] theorem State.mapEng_io (s : State) (f : Engine → Engine) : (s.mapEng f).io = s.io := rfl
@[simp] theorem State.mapEng_lore (s : State) (f : Engine → Engine) : (s.mapEng f).lore = s.lore := rfl
@[simp] theorem State.mapEng_mem (s : State) (f : Engine → Engine) : (s.mapEng f).mem = s.mem := rfl
@[simp] theorem State.mapEng_eng (s : State) (f : Engine → Engine) : (s.mapEng f).eng = f s.eng := rfl
@[simp] theorem State.mapEng_fab (s : State) (f : Engine → Engine) : (s.mapEng f).fab = s.fab := rfl
@[simp] theorem State.mapEng_cxl (s : State) (f : Engine → Engine) : (s.mapEng f).cxl = s.cxl := rfl
@[simp] theorem State.mapEng_sys (s : State) (f : Engine → Engine) : (s.mapEng f).sys = s.sys := rfl
@[simp] theorem State.mapEng_fls (s : State) (f : Engine → Engine) : (s.mapEng f).fls = s.fls := rfl
@[simp] theorem State.mapEng_fld (s : State) (f : Engine → Engine) : (s.mapEng f).fld = s.fld := rfl
@[simp] theorem State.mapEng_early (s : State) (f : Engine → Engine) : (s.mapEng f).early = s.early := rfl
@[simp] theorem State.mapEng_out (s : State) (f : Engine → Engine) : (s.mapEng f).out = s.out := rfl
@[simp] theorem State.mapEng_freeCtr (s : State) (f : Engine → Engine) : (s.mapEng f).freeCtr = s.freeCtr := rfl

/-! ## `mapFab` -/

@[simp] theorem State.mapFab_pending (s : State) (f : Fabric → Fabric) : (s.mapFab f).pending = s.pending := rfl
@[simp] theorem State.mapFab_regs (s : State) (f : Fabric → Fabric) : (s.mapFab f).regs = s.regs := rfl
@[simp] theorem State.mapFab_clk (s : State) (f : Fabric → Fabric) : (s.mapFab f).clk = s.clk := rfl
@[simp] theorem State.mapFab_io (s : State) (f : Fabric → Fabric) : (s.mapFab f).io = s.io := rfl
@[simp] theorem State.mapFab_lore (s : State) (f : Fabric → Fabric) : (s.mapFab f).lore = s.lore := rfl
@[simp] theorem State.mapFab_mem (s : State) (f : Fabric → Fabric) : (s.mapFab f).mem = s.mem := rfl
@[simp] theorem State.mapFab_eng (s : State) (f : Fabric → Fabric) : (s.mapFab f).eng = s.eng := rfl
@[simp] theorem State.mapFab_fab (s : State) (f : Fabric → Fabric) : (s.mapFab f).fab = f s.fab := rfl
@[simp] theorem State.mapFab_cxl (s : State) (f : Fabric → Fabric) : (s.mapFab f).cxl = s.cxl := rfl
@[simp] theorem State.mapFab_sys (s : State) (f : Fabric → Fabric) : (s.mapFab f).sys = s.sys := rfl
@[simp] theorem State.mapFab_fls (s : State) (f : Fabric → Fabric) : (s.mapFab f).fls = s.fls := rfl
@[simp] theorem State.mapFab_fld (s : State) (f : Fabric → Fabric) : (s.mapFab f).fld = s.fld := rfl
@[simp] theorem State.mapFab_early (s : State) (f : Fabric → Fabric) : (s.mapFab f).early = s.early := rfl
@[simp] theorem State.mapFab_out (s : State) (f : Fabric → Fabric) : (s.mapFab f).out = s.out := rfl
@[simp] theorem State.mapFab_freeCtr (s : State) (f : Fabric → Fabric) : (s.mapFab f).freeCtr = s.freeCtr := rfl

/-! ## `mapCxl` -/

@[simp] theorem State.mapCxl_pending (s : State) (f : Cxl → Cxl) : (s.mapCxl f).pending = s.pending := rfl
@[simp] theorem State.mapCxl_regs (s : State) (f : Cxl → Cxl) : (s.mapCxl f).regs = s.regs := rfl
@[simp] theorem State.mapCxl_clk (s : State) (f : Cxl → Cxl) : (s.mapCxl f).clk = s.clk := rfl
@[simp] theorem State.mapCxl_io (s : State) (f : Cxl → Cxl) : (s.mapCxl f).io = s.io := rfl
@[simp] theorem State.mapCxl_lore (s : State) (f : Cxl → Cxl) : (s.mapCxl f).lore = s.lore := rfl
@[simp] theorem State.mapCxl_mem (s : State) (f : Cxl → Cxl) : (s.mapCxl f).mem = s.mem := rfl
@[simp] theorem State.mapCxl_eng (s : State) (f : Cxl → Cxl) : (s.mapCxl f).eng = s.eng := rfl
@[simp] theorem State.mapCxl_fab (s : State) (f : Cxl → Cxl) : (s.mapCxl f).fab = s.fab := rfl
@[simp] theorem State.mapCxl_cxl (s : State) (f : Cxl → Cxl) : (s.mapCxl f).cxl = f s.cxl := rfl
@[simp] theorem State.mapCxl_sys (s : State) (f : Cxl → Cxl) : (s.mapCxl f).sys = s.sys := rfl
@[simp] theorem State.mapCxl_fls (s : State) (f : Cxl → Cxl) : (s.mapCxl f).fls = s.fls := rfl
@[simp] theorem State.mapCxl_fld (s : State) (f : Cxl → Cxl) : (s.mapCxl f).fld = s.fld := rfl
@[simp] theorem State.mapCxl_early (s : State) (f : Cxl → Cxl) : (s.mapCxl f).early = s.early := rfl
@[simp] theorem State.mapCxl_out (s : State) (f : Cxl → Cxl) : (s.mapCxl f).out = s.out := rfl
@[simp] theorem State.mapCxl_freeCtr (s : State) (f : Cxl → Cxl) : (s.mapCxl f).freeCtr = s.freeCtr := rfl

/-! ## `mapSys` -/

@[simp] theorem State.mapSys_pending (s : State) (f : Sys → Sys) : (s.mapSys f).pending = s.pending := rfl
@[simp] theorem State.mapSys_regs (s : State) (f : Sys → Sys) : (s.mapSys f).regs = s.regs := rfl
@[simp] theorem State.mapSys_clk (s : State) (f : Sys → Sys) : (s.mapSys f).clk = s.clk := rfl
@[simp] theorem State.mapSys_io (s : State) (f : Sys → Sys) : (s.mapSys f).io = s.io := rfl
@[simp] theorem State.mapSys_lore (s : State) (f : Sys → Sys) : (s.mapSys f).lore = s.lore := rfl
@[simp] theorem State.mapSys_mem (s : State) (f : Sys → Sys) : (s.mapSys f).mem = s.mem := rfl
@[simp] theorem State.mapSys_eng (s : State) (f : Sys → Sys) : (s.mapSys f).eng = s.eng := rfl
@[simp] theorem State.mapSys_fab (s : State) (f : Sys → Sys) : (s.mapSys f).fab = s.fab := rfl
@[simp] theorem State.mapSys_cxl (s : State) (f : Sys → Sys) : (s.mapSys f).cxl = s.cxl := rfl
@[simp] theorem State.mapSys_sys (s : State) (f : Sys → Sys) : (s.mapSys f).sys = f s.sys := rfl
@[simp] theorem State.mapSys_fls (s : State) (f : Sys → Sys) : (s.mapSys f).fls = s.fls := rfl
@[simp] theorem State.mapSys_fld (s : State) (f : Sys → Sys) : (s.mapSys f).fld = s.fld := rfl
@[simp] theorem State.mapSys_early (s : State) (f : Sys → Sys) : (s.mapSys f).early = s.early := rfl
@[simp] theorem State.mapSys_out (s : State) (f : Sys → Sys) : (s.mapSys f).out = s.out := rfl
@[simp] theorem State.mapSys_freeCtr (s : State) (f : Sys → Sys) : (s.mapSys f).freeCtr = s.freeCtr := rfl

/-! ## `mapFls` -/

@[simp] theorem State.mapFls_pending (s : State) (f : Flash → Flash) : (s.mapFls f).pending = s.pending := rfl
@[simp] theorem State.mapFls_regs (s : State) (f : Flash → Flash) : (s.mapFls f).regs = s.regs := rfl
@[simp] theorem State.mapFls_clk (s : State) (f : Flash → Flash) : (s.mapFls f).clk = s.clk := rfl
@[simp] theorem State.mapFls_io (s : State) (f : Flash → Flash) : (s.mapFls f).io = s.io := rfl
@[simp] theorem State.mapFls_lore (s : State) (f : Flash → Flash) : (s.mapFls f).lore = s.lore := rfl
@[simp] theorem State.mapFls_mem (s : State) (f : Flash → Flash) : (s.mapFls f).mem = s.mem := rfl
@[simp] theorem State.mapFls_eng (s : State) (f : Flash → Flash) : (s.mapFls f).eng = s.eng := rfl
@[simp] theorem State.mapFls_fab (s : State) (f : Flash → Flash) : (s.mapFls f).fab = s.fab := rfl
@[simp] theorem State.mapFls_cxl (s : State) (f : Flash → Flash) : (s.mapFls f).cxl = s.cxl := rfl
@[simp] theorem State.mapFls_sys (s : State) (f : Flash → Flash) : (s.mapFls f).sys = s.sys := rfl
@[simp] theorem State.mapFls_fls (s : State) (f : Flash → Flash) : (s.mapFls f).fls = f s.fls := rfl
@[simp] theorem State.mapFls_fld (s : State) (f : Flash → Flash) : (s.mapFls f).fld = s.fld := rfl
@[simp] theorem State.mapFls_early (s : State) (f : Flash → Flash) : (s.mapFls f).early = s.early := rfl
@[simp] theorem State.mapFls_out (s : State) (f : Flash → Flash) : (s.mapFls f).out = s.out := rfl
@[simp] theorem State.mapFls_freeCtr (s : State) (f : Flash → Flash) : (s.mapFls f).freeCtr = s.freeCtr := rfl

/-! ## `setReg`, `setRegN`, `emit` -/

@[simp] theorem State.setReg_pending (s : State) (off : Nat) (v : Word) : (s.setReg off v).pending = s.pending := rfl
@[simp] theorem State.setReg_regs (s : State) (off : Nat) (v : Word) : (s.setReg off v).regs = Tbl.set resetOf s.regs off v := rfl
@[simp] theorem State.setReg_clk (s : State) (off : Nat) (v : Word) : (s.setReg off v).clk = s.clk := rfl
@[simp] theorem State.setReg_io (s : State) (off : Nat) (v : Word) : (s.setReg off v).io = s.io := rfl
@[simp] theorem State.setReg_lore (s : State) (off : Nat) (v : Word) : (s.setReg off v).lore = s.lore := rfl
@[simp] theorem State.setReg_mem (s : State) (off : Nat) (v : Word) : (s.setReg off v).mem = s.mem := rfl
@[simp] theorem State.setReg_eng (s : State) (off : Nat) (v : Word) : (s.setReg off v).eng = s.eng := rfl
@[simp] theorem State.setReg_fab (s : State) (off : Nat) (v : Word) : (s.setReg off v).fab = s.fab := rfl
@[simp] theorem State.setReg_cxl (s : State) (off : Nat) (v : Word) : (s.setReg off v).cxl = s.cxl := rfl
@[simp] theorem State.setReg_sys (s : State) (off : Nat) (v : Word) : (s.setReg off v).sys = s.sys := rfl
@[simp] theorem State.setReg_fls (s : State) (off : Nat) (v : Word) : (s.setReg off v).fls = s.fls := rfl
@[simp] theorem State.setReg_fld (s : State) (off : Nat) (v : Word) : (s.setReg off v).fld = s.fld := rfl
@[simp] theorem State.setReg_early (s : State) (off : Nat) (v : Word) : (s.setReg off v).early = s.early := rfl
@[simp] theorem State.setReg_out (s : State) (off : Nat) (v : Word) : (s.setReg off v).out = s.out := rfl
@[simp] theorem State.setReg_freeCtr (s : State) (off : Nat) (v : Word) : (s.setReg off v).freeCtr = s.freeCtr := rfl
@[simp] theorem State.setRegN_pending (s : State) (off v : Nat) : (s.setRegN off v).pending = s.pending := rfl
@[simp] theorem State.setRegN_regs (s : State) (off v : Nat) : (s.setRegN off v).regs = Tbl.set resetOf s.regs off (BitVec.ofNat 64 v) := rfl
@[simp] theorem State.setRegN_clk (s : State) (off v : Nat) : (s.setRegN off v).clk = s.clk := rfl
@[simp] theorem State.setRegN_io (s : State) (off v : Nat) : (s.setRegN off v).io = s.io := rfl
@[simp] theorem State.setRegN_lore (s : State) (off v : Nat) : (s.setRegN off v).lore = s.lore := rfl
@[simp] theorem State.setRegN_mem (s : State) (off v : Nat) : (s.setRegN off v).mem = s.mem := rfl
@[simp] theorem State.setRegN_eng (s : State) (off v : Nat) : (s.setRegN off v).eng = s.eng := rfl
@[simp] theorem State.setRegN_fab (s : State) (off v : Nat) : (s.setRegN off v).fab = s.fab := rfl
@[simp] theorem State.setRegN_cxl (s : State) (off v : Nat) : (s.setRegN off v).cxl = s.cxl := rfl
@[simp] theorem State.setRegN_sys (s : State) (off v : Nat) : (s.setRegN off v).sys = s.sys := rfl
@[simp] theorem State.setRegN_fls (s : State) (off v : Nat) : (s.setRegN off v).fls = s.fls := rfl
@[simp] theorem State.setRegN_fld (s : State) (off v : Nat) : (s.setRegN off v).fld = s.fld := rfl
@[simp] theorem State.setRegN_early (s : State) (off v : Nat) : (s.setRegN off v).early = s.early := rfl
@[simp] theorem State.setRegN_out (s : State) (off v : Nat) : (s.setRegN off v).out = s.out := rfl
@[simp] theorem State.setRegN_freeCtr (s : State) (off v : Nat) : (s.setRegN off v).freeCtr = s.freeCtr := rfl
@[simp] theorem State.emit_pending (s : State) (m : OutMsg) : (s.emit m).pending = s.pending := rfl
@[simp] theorem State.emit_regs (s : State) (m : OutMsg) : (s.emit m).regs = s.regs := rfl
@[simp] theorem State.emit_clk (s : State) (m : OutMsg) : (s.emit m).clk = s.clk := rfl
@[simp] theorem State.emit_io (s : State) (m : OutMsg) : (s.emit m).io = s.io := rfl
@[simp] theorem State.emit_lore (s : State) (m : OutMsg) : (s.emit m).lore = s.lore := rfl
@[simp] theorem State.emit_mem (s : State) (m : OutMsg) : (s.emit m).mem = s.mem := rfl
@[simp] theorem State.emit_eng (s : State) (m : OutMsg) : (s.emit m).eng = s.eng := rfl
@[simp] theorem State.emit_fab (s : State) (m : OutMsg) : (s.emit m).fab = s.fab := rfl
@[simp] theorem State.emit_cxl (s : State) (m : OutMsg) : (s.emit m).cxl = s.cxl := rfl
@[simp] theorem State.emit_sys (s : State) (m : OutMsg) : (s.emit m).sys = s.sys := rfl
@[simp] theorem State.emit_fls (s : State) (m : OutMsg) : (s.emit m).fls = s.fls := rfl
@[simp] theorem State.emit_fld (s : State) (m : OutMsg) : (s.emit m).fld = s.fld := rfl
@[simp] theorem State.emit_early (s : State) (m : OutMsg) : (s.emit m).early = s.early := rfl
@[simp] theorem State.emit_out (s : State) (m : OutMsg) : (s.emit m).out = m :: s.out := rfl
@[simp] theorem State.emit_freeCtr (s : State) (m : OutMsg) : (s.emit m).freeCtr = s.freeCtr := rfl

/-! ## Lamps, contexts, lanterns, requests, meadows -/

@[simp] theorem State.setLamp_pending (s : State) (j : Nat) (v : Word) : (s.setLamp j v).pending = s.pending := rfl
@[simp] theorem State.setLamp_regs (s : State) (j : Nat) (v : Word) : (s.setLamp j v).regs = s.regs := rfl
@[simp] theorem State.setLamp_clk (s : State) (j : Nat) (v : Word) : (s.setLamp j v).clk = s.clk := rfl
@[simp] theorem State.setLamp_io (s : State) (j : Nat) (v : Word) : (s.setLamp j v).io = { s.io with lamps := Tbl.set (fun _ => 0) s.io.lamps j v } := rfl
@[simp] theorem State.setLamp_lore (s : State) (j : Nat) (v : Word) : (s.setLamp j v).lore = s.lore := rfl
@[simp] theorem State.setLamp_mem (s : State) (j : Nat) (v : Word) : (s.setLamp j v).mem = s.mem := rfl
@[simp] theorem State.setLamp_eng (s : State) (j : Nat) (v : Word) : (s.setLamp j v).eng = s.eng := rfl
@[simp] theorem State.setLamp_fab (s : State) (j : Nat) (v : Word) : (s.setLamp j v).fab = s.fab := rfl
@[simp] theorem State.setLamp_cxl (s : State) (j : Nat) (v : Word) : (s.setLamp j v).cxl = s.cxl := rfl
@[simp] theorem State.setLamp_sys (s : State) (j : Nat) (v : Word) : (s.setLamp j v).sys = s.sys := rfl
@[simp] theorem State.setLamp_fls (s : State) (j : Nat) (v : Word) : (s.setLamp j v).fls = s.fls := rfl
@[simp] theorem State.setLamp_fld (s : State) (j : Nat) (v : Word) : (s.setLamp j v).fld = s.fld := rfl
@[simp] theorem State.setLamp_early (s : State) (j : Nat) (v : Word) : (s.setLamp j v).early = s.early := rfl
@[simp] theorem State.setLamp_out (s : State) (j : Nat) (v : Word) : (s.setLamp j v).out = s.out := rfl
@[simp] theorem State.setLamp_freeCtr (s : State) (j : Nat) (v : Word) : (s.setLamp j v).freeCtr = s.freeCtr := rfl
@[simp] theorem State.setCtx_pending (s : State) (c : Nat) (x : Ctx) : (s.setCtx c x).pending = s.pending := rfl
@[simp] theorem State.setCtx_regs (s : State) (c : Nat) (x : Ctx) : (s.setCtx c x).regs = s.regs := rfl
@[simp] theorem State.setCtx_clk (s : State) (c : Nat) (x : Ctx) : (s.setCtx c x).clk = s.clk := rfl
@[simp] theorem State.setCtx_io (s : State) (c : Nat) (x : Ctx) : (s.setCtx c x).io = { s.io with ctxs := Tbl.put (Tbl.drop s.io.ctxs c) c x } := rfl
@[simp] theorem State.setCtx_lore (s : State) (c : Nat) (x : Ctx) : (s.setCtx c x).lore = s.lore := rfl
@[simp] theorem State.setCtx_mem (s : State) (c : Nat) (x : Ctx) : (s.setCtx c x).mem = s.mem := rfl
@[simp] theorem State.setCtx_eng (s : State) (c : Nat) (x : Ctx) : (s.setCtx c x).eng = s.eng := rfl
@[simp] theorem State.setCtx_fab (s : State) (c : Nat) (x : Ctx) : (s.setCtx c x).fab = s.fab := rfl
@[simp] theorem State.setCtx_cxl (s : State) (c : Nat) (x : Ctx) : (s.setCtx c x).cxl = s.cxl := rfl
@[simp] theorem State.setCtx_sys (s : State) (c : Nat) (x : Ctx) : (s.setCtx c x).sys = s.sys := rfl
@[simp] theorem State.setCtx_fls (s : State) (c : Nat) (x : Ctx) : (s.setCtx c x).fls = s.fls := rfl
@[simp] theorem State.setCtx_fld (s : State) (c : Nat) (x : Ctx) : (s.setCtx c x).fld = s.fld := rfl
@[simp] theorem State.setCtx_early (s : State) (c : Nat) (x : Ctx) : (s.setCtx c x).early = s.early := rfl
@[simp] theorem State.setCtx_out (s : State) (c : Nat) (x : Ctx) : (s.setCtx c x).out = s.out := rfl
@[simp] theorem State.setCtx_freeCtr (s : State) (c : Nat) (x : Ctx) : (s.setCtx c x).freeCtr = s.freeCtr := rfl
@[simp] theorem State.setProgress_pending (s : State) (i : Nat) (p : Progress) : (s.setProgress i p).pending = s.pending := rfl
@[simp] theorem State.setProgress_regs (s : State) (i : Nat) (p : Progress) : (s.setProgress i p).regs = s.regs := rfl
@[simp] theorem State.setProgress_clk (s : State) (i : Nat) (p : Progress) : (s.setProgress i p).clk = s.clk := rfl
@[simp] theorem State.setProgress_io (s : State) (i : Nat) (p : Progress) : (s.setProgress i p).io = { s.io with progress := Tbl.set (fun _ => {}) s.io.progress i p } := rfl
@[simp] theorem State.setProgress_lore (s : State) (i : Nat) (p : Progress) : (s.setProgress i p).lore = s.lore := rfl
@[simp] theorem State.setProgress_mem (s : State) (i : Nat) (p : Progress) : (s.setProgress i p).mem = s.mem := rfl
@[simp] theorem State.setProgress_eng (s : State) (i : Nat) (p : Progress) : (s.setProgress i p).eng = s.eng := rfl
@[simp] theorem State.setProgress_fab (s : State) (i : Nat) (p : Progress) : (s.setProgress i p).fab = s.fab := rfl
@[simp] theorem State.setProgress_cxl (s : State) (i : Nat) (p : Progress) : (s.setProgress i p).cxl = s.cxl := rfl
@[simp] theorem State.setProgress_sys (s : State) (i : Nat) (p : Progress) : (s.setProgress i p).sys = s.sys := rfl
@[simp] theorem State.setProgress_fls (s : State) (i : Nat) (p : Progress) : (s.setProgress i p).fls = s.fls := rfl
@[simp] theorem State.setProgress_fld (s : State) (i : Nat) (p : Progress) : (s.setProgress i p).fld = s.fld := rfl
@[simp] theorem State.setProgress_early (s : State) (i : Nat) (p : Progress) : (s.setProgress i p).early = s.early := rfl
@[simp] theorem State.setProgress_out (s : State) (i : Nat) (p : Progress) : (s.setProgress i p).out = s.out := rfl
@[simp] theorem State.setProgress_freeCtr (s : State) (i : Nat) (p : Progress) : (s.setProgress i p).freeCtr = s.freeCtr := rfl
@[simp] theorem State.setLan_pending (s : State) (i : Nat) (l : Lantern) : (s.setLan i l).pending = s.pending := rfl
@[simp] theorem State.setLan_regs (s : State) (i : Nat) (l : Lantern) : (s.setLan i l).regs = s.regs := rfl
@[simp] theorem State.setLan_clk (s : State) (i : Nat) (l : Lantern) : (s.setLan i l).clk = s.clk := rfl
@[simp] theorem State.setLan_io (s : State) (i : Nat) (l : Lantern) : (s.setLan i l).io = s.io := rfl
@[simp] theorem State.setLan_lore (s : State) (i : Nat) (l : Lantern) : (s.setLan i l).lore = { s.lore with lanterns := Tbl.set (fun _ => {}) s.lore.lanterns i l } := rfl
@[simp] theorem State.setLan_mem (s : State) (i : Nat) (l : Lantern) : (s.setLan i l).mem = s.mem := rfl
@[simp] theorem State.setLan_eng (s : State) (i : Nat) (l : Lantern) : (s.setLan i l).eng = s.eng := rfl
@[simp] theorem State.setLan_fab (s : State) (i : Nat) (l : Lantern) : (s.setLan i l).fab = s.fab := rfl
@[simp] theorem State.setLan_cxl (s : State) (i : Nat) (l : Lantern) : (s.setLan i l).cxl = s.cxl := rfl
@[simp] theorem State.setLan_sys (s : State) (i : Nat) (l : Lantern) : (s.setLan i l).sys = s.sys := rfl
@[simp] theorem State.setLan_fls (s : State) (i : Nat) (l : Lantern) : (s.setLan i l).fls = s.fls := rfl
@[simp] theorem State.setLan_fld (s : State) (i : Nat) (l : Lantern) : (s.setLan i l).fld = s.fld := rfl
@[simp] theorem State.setLan_early (s : State) (i : Nat) (l : Lantern) : (s.setLan i l).early = s.early := rfl
@[simp] theorem State.setLan_out (s : State) (i : Nat) (l : Lantern) : (s.setLan i l).out = s.out := rfl
@[simp] theorem State.setLan_freeCtr (s : State) (i : Nat) (l : Lantern) : (s.setLan i l).freeCtr = s.freeCtr := rfl
@[simp] theorem State.setRequest_pending (s : State) (r : Nat) (q : Request) : (s.setRequest r q).pending = s.pending := rfl
@[simp] theorem State.setRequest_regs (s : State) (r : Nat) (q : Request) : (s.setRequest r q).regs = s.regs := rfl
@[simp] theorem State.setRequest_clk (s : State) (r : Nat) (q : Request) : (s.setRequest r q).clk = s.clk := rfl
@[simp] theorem State.setRequest_io (s : State) (r : Nat) (q : Request) : (s.setRequest r q).io = s.io := rfl
@[simp] theorem State.setRequest_lore (s : State) (r : Nat) (q : Request) : (s.setRequest r q).lore = { s.lore with requests := Tbl.set (fun _ => {}) s.lore.requests r q } := rfl
@[simp] theorem State.setRequest_mem (s : State) (r : Nat) (q : Request) : (s.setRequest r q).mem = s.mem := rfl
@[simp] theorem State.setRequest_eng (s : State) (r : Nat) (q : Request) : (s.setRequest r q).eng = s.eng := rfl
@[simp] theorem State.setRequest_fab (s : State) (r : Nat) (q : Request) : (s.setRequest r q).fab = s.fab := rfl
@[simp] theorem State.setRequest_cxl (s : State) (r : Nat) (q : Request) : (s.setRequest r q).cxl = s.cxl := rfl
@[simp] theorem State.setRequest_sys (s : State) (r : Nat) (q : Request) : (s.setRequest r q).sys = s.sys := rfl
@[simp] theorem State.setRequest_fls (s : State) (r : Nat) (q : Request) : (s.setRequest r q).fls = s.fls := rfl
@[simp] theorem State.setRequest_fld (s : State) (r : Nat) (q : Request) : (s.setRequest r q).fld = s.fld := rfl
@[simp] theorem State.setRequest_early (s : State) (r : Nat) (q : Request) : (s.setRequest r q).early = s.early := rfl
@[simp] theorem State.setRequest_out (s : State) (r : Nat) (q : Request) : (s.setRequest r q).out = s.out := rfl
@[simp] theorem State.setRequest_freeCtr (s : State) (r : Nat) (q : Request) : (s.setRequest r q).freeCtr = s.freeCtr := rfl
@[simp] theorem State.setMdw_pending (s : State) (m : Nat) (x : Meadow) : (s.setMdw m x).pending = s.pending := rfl
@[simp] theorem State.setMdw_regs (s : State) (m : Nat) (x : Meadow) : (s.setMdw m x).regs = s.regs := rfl
@[simp] theorem State.setMdw_clk (s : State) (m : Nat) (x : Meadow) : (s.setMdw m x).clk = s.clk := rfl
@[simp] theorem State.setMdw_io (s : State) (m : Nat) (x : Meadow) : (s.setMdw m x).io = s.io := rfl
@[simp] theorem State.setMdw_lore (s : State) (m : Nat) (x : Meadow) : (s.setMdw m x).lore = s.lore := rfl
@[simp] theorem State.setMdw_mem (s : State) (m : Nat) (x : Meadow) : (s.setMdw m x).mem = s.mem := rfl
@[simp] theorem State.setMdw_eng (s : State) (m : Nat) (x : Meadow) : (s.setMdw m x).eng = { s.eng with meadows := Tbl.set (fun _ => {}) s.eng.meadows m x } := rfl
@[simp] theorem State.setMdw_fab (s : State) (m : Nat) (x : Meadow) : (s.setMdw m x).fab = s.fab := rfl
@[simp] theorem State.setMdw_cxl (s : State) (m : Nat) (x : Meadow) : (s.setMdw m x).cxl = s.cxl := rfl
@[simp] theorem State.setMdw_sys (s : State) (m : Nat) (x : Meadow) : (s.setMdw m x).sys = s.sys := rfl
@[simp] theorem State.setMdw_fls (s : State) (m : Nat) (x : Meadow) : (s.setMdw m x).fls = s.fls := rfl
@[simp] theorem State.setMdw_fld (s : State) (m : Nat) (x : Meadow) : (s.setMdw m x).fld = s.fld := rfl
@[simp] theorem State.setMdw_early (s : State) (m : Nat) (x : Meadow) : (s.setMdw m x).early = s.early := rfl
@[simp] theorem State.setMdw_out (s : State) (m : Nat) (x : Meadow) : (s.setMdw m x).out = s.out := rfl
@[simp] theorem State.setMdw_freeCtr (s : State) (m : Nat) (x : Meadow) : (s.setMdw m x).freeCtr = s.freeCtr := rfl

end Sys2Proof.Machine
end

