-- ==== Sys2Proof/Laws/Frames.lean ====
section
/-! SUPPORT. What ending, failing or continuing an instruction leaves alone: one relation between the states before and
after, kept by every shared operation a program goes through. -/

namespace Sys2Proof.Machine

/-- The registers that ending an entry, a breach or an event may change. -/
def noted : List Nat :=
  [Reg.EVENT_COUNT, Reg.DEV_CFG_REJECTS, Reg.ADMIT_REFUSALS, Reg.BREACH_COUNT, Reg.BREACH_DROPPED, Reg.BREACH_CTRL, Reg.BREACH_RING_PI]

/-- Nothing but the intake (its lamps apart), the noted registers, the output, the requests, the queues of accepted work and the steps of
the meadows differs, and the registers keep their canonical form. -/
structure Still (s t : State) : Prop where
  pending : t.pending = s.pending
  clk : t.clk = s.clk
  mem : t.mem = s.mem
  cxl : t.cxl = s.cxl
  sys : t.sys = s.sys
  fls : t.fls = s.fls
  fld : t.fld = s.fld
  early : t.early = s.early
  freeCtr : t.freeCtr = s.freeCtr
  lamps : t.io.lamps = s.io.lamps
  regs : ∀ off, off ∉ noted → t.reg off = s.reg off
  wf : Tbl.wf resetOf s.regs = true → Tbl.wf resetOf t.regs = true
  lore : ∃ r, t.lore = { s.lore with requests := r }
  fab : ∃ q, t.fab = { s.fab with admitQueued := q }
  eng : ∃ m, t.eng = { s.eng with meadows := m }

theorem Still.rfl {s : State} : Still s s :=
  ⟨Eq.refl _, Eq.refl _, Eq.refl _, Eq.refl _, Eq.refl _, Eq.refl _, Eq.refl _, Eq.refl _, Eq.refl _, Eq.refl _, fun _ _ => Eq.refl _, id, ⟨_, Eq.refl _⟩, ⟨_, Eq.refl _⟩, ⟨_, Eq.refl _⟩⟩

theorem Still.trans {s t u : State} (h : Still s t) (k : Still t u) : Still s u := by
  obtain ⟨a1, a2, a3, a4, a5, a6, a7, a8, a9, a10, ag, aw, ⟨r, ar⟩, ⟨q, aq⟩, ⟨m, am⟩⟩ := h
  obtain ⟨b1, b2, b3, b4, b5, b6, b7, b8, b9, b10, bg, bw, ⟨r', br⟩, ⟨q', bq⟩, ⟨m', bm⟩⟩ := k
  exact ⟨b1.trans a1, b2.trans a2, b3.trans a3, b4.trans a4, b5.trans a5, b6.trans a6, b7.trans a7, b8.trans a8, b9.trans a9, b10.trans a10,
    fun o h => (bg o h).trans (ag o h), fun h => bw (aw h),
    ⟨r', by rw [br, ar]⟩, ⟨q', by rw [bq, aq]⟩, ⟨m', by rw [bm, am]⟩⟩

theorem Still.mapIo (s : State) (f : Intake → Intake) (h : (f s.io).lamps = s.io.lamps) : Still s (s.mapIo f) :=
  { Still.rfl (s := s) with lamps := h }

theorem Still.mapRequests (s : State) (f : Lore → Tbl Request) : Still s (s.mapLore (fun l => { l with requests := f l })) :=
  { Still.rfl (s := s) with lore := ⟨_, Eq.refl _⟩ }

theorem Still.mapMeadows (s : State) (f : Engine → Tbl Meadow) : Still s (s.mapEng (fun e => { e with meadows := f e })) :=
  { Still.rfl (s := s) with eng := ⟨_, Eq.refl _⟩ }

theorem Still.setReg (s : State) {o : Nat} (v : Word) (h : o ∈ noted) : Still s (s.setReg o v) :=
  { Still.rfl (s := s) with
    regs := fun _ hk => Tbl.get_set_ne _ _ _ (fun e => hk (e ▸ h))
    wf := fun hw => Tbl.wf_set _ _ hw }
theorem Still.setRegN (s : State) {o : Nat} (v : Nat) (h : o ∈ noted) : Still s (s.setRegN o v) := Still.setReg _ _ h
theorem Still.bump (s : State) {o : Nat} (n w : Nat) (h : o ∈ noted) : Still s (s.bump o n w) := Still.setReg _ _ h
theorem Still.emit (s : State) (m : OutMsg) : Still s (s.emit m) := { Still.rfl (s := s) with }
theorem Still.subQueued (s : State) (c n : Nat) : Still s (s.subQueued c n) := { Still.rfl (s := s) with fab := ⟨_, Eq.refl _⟩ }
theorem Still.setCtx (s : State) (c : Nat) (x : Ctx) : Still s (s.setCtx c x) := Still.mapIo _ _ (Eq.refl _)
theorem Still.setProgress (s : State) (i : Nat) (p : Progress) : Still s (s.setProgress i p) := Still.mapIo _ _ (Eq.refl _)

theorem Still.raise (s : State) (code : Nat) (node : NodeId) (d0 d1 : Nat) (m : Option Nat) (o : Nat) : Still s (s.raise code node d0 d1 m o) := by
  unfold State.raise
  extract_lets attr r s1 s2
  have h : Still s s2 := (Still.mapIo _ _ (Eq.refl _)).trans (Still.bump _ _ _ (by decide))
  split
  · exact h.trans (Still.bump _ _ _ (by decide))
  · exact h

theorem Still.ringWrite (base lg len : Nat) (bs : List Bytes) (pi : Nat) (s : State) : Still s (s.ringWrite base lg len pi bs) := by
  induction bs generalizing s pi with
  | nil => exact Still.rfl
  | cons b bs ih => exact (Still.emit _ _).trans (ih _ _)

theorem Still.drainBreaches (s : State) : Still s s.drainBreaches := by
  unfold State.drainBreaches
  extract_lets base lg pi n s1
  split
  · exact Still.rfl
  · exact ((Still.ringWrite _ _ _ _ _ _).trans (Still.setRegN _ _ (by decide))).trans (Still.mapIo _ _ (Eq.refl _))

theorem Still.setPromise (s : State) (p : Promise) : Still s (s.setPromise p) := Still.mapIo _ _ (Eq.refl _)
theorem Still.dropPromise (s : State) (i : Nat) : Still s (s.dropPromise i) := Still.mapIo _ _ (Eq.refl _)
theorem Still.updPromise (s : State) (i : Option Nat) (f : Promise → Promise) : Still s (s.updPromise i f) := by
  unfold State.updPromise
  split
  · exact Still.rfl
  · exact Still.mapIo _ _ (Eq.refl _)

theorem Still.writeBreach (s : State) (p : Promise) (code : Code) (used : Nat) : Still s (s.writeBreach p code used) := by
  unfold State.writeBreach
  split
  · exact Still.rfl
  · extract_lets seq n32 s1 s2 s3 s4 room
    have h2 : Still s s2 := ((Still.bump _ _ _ (by decide)).trans (Still.mapIo _ _ (Eq.refl _))).trans (Still.setPromise _ _)
    have h3 : Still s s3 := by
      refine h2.trans ?_
      simp only [s3]
      split
      · exact Still.rfl
      · exact Still.mapRequests _ _
    have h4 : Still s s4 := h3.trans (Still.mapIo _ _ (Eq.refl _))
    split
    extract_lets rcd
    split
    · exact (h4.trans (Still.mapIo _ _ (Eq.refl _))).trans (Still.drainBreaches _)
    · exact ((h4.trans (Still.bump _ _ _ (by decide))).trans (Still.setReg _ _ (by decide))).trans (Still.raise _ _ _ _ _ _ _)

theorem Still.breachOf (s : State) (p : Promise) (code : Code) (e : Bool) : Still s (s.breachOf p code e) := by
  unfold State.breachOf
  split
  · exact Still.writeBreach _ _ _ _
  · split
    · exact Still.writeBreach _ _ _ _
    · exact Still.rfl

theorem Still.failPromise (s : State) (i : Option Nat) (code : Code) (e : Bool) : Still s (s.failPromise i code e) := by
  unfold State.failPromise
  split
  · exact Still.rfl
  · exact (Still.breachOf _ _ _ _).trans (Still.dropPromise _ _)

theorem Still.abandonPromise (s : State) (i : Option Nat) (code : Code) : Still s (s.abandonPromise i code) := by
  unfold State.abandonPromise
  split
  · exact Still.rfl
  · extract_lets n e
    split
    · exact Still.rfl
    · split
      · exact Still.failPromise _ _ _ _
      · exact (Still.breachOf _ _ _ _).trans (Still.updPromise _ _ _)

theorem Still.freeCtx (s : State) (c : Nat) : Still s (s.freeCtx c) := Still.mapIo _ _ (Eq.refl _)

theorem Still.foldl {β : Type} (f : State → β → State) (hf : ∀ s b, Still s (f s b)) (l : List β) (s : State) : Still s (l.foldl f s) := by
  induction l generalizing s with
  | nil => exact Still.rfl
  | cons b l ih => exact (hf s b).trans (ih _)

theorem Still.closeEntry (s : State) (c : Nat) (code : Code) (idx obs : Nat) : Still s (s.closeEntry c code idx obs) := by
  unfold State.closeEntry
  split
  · exact Still.rfl
  · extract_lets live x p s1 s2 s3 s4 un s5 bytes r s6
    have h1 : Still s s1 := by
      simp only [s1]
      split
      · exact Still.setProgress _ _ _
      · exact Still.rfl
    have h2 : Still s s2 := by
      refine h1.trans ?_
      simp only [s2]
      split
      · exact Still.bump _ _ _ (by decide)
      · exact Still.rfl
    have h3 : Still s s3 := h2.trans (Still.mapRequests _ _)
    have h4 : Still s s4 := h3.trans (Still.foldl _ (fun _ _ => Still.subQueued _ _ _) _ _)
    have h5 : Still s s5 := h4.trans (Still.mapMeadows _ _)
    exact ((h5.trans (Still.emit _ _)).trans (Still.mapIo _ _ (Eq.refl _))).trans (Still.freeCtx _ _)

theorem Still.endEntry (s : State) (c : Nat) (code : Code) (idx obs : Nat) : Still s (s.endEntry c code idx obs) := by
  unfold State.endEntry
  split
  · exact Still.rfl
  · exact (Still.abandonPromise _ _ _).trans (Still.closeEntry _ _ _ _ _)

theorem Still.endProgram (s : State) (c : Nat) : Still s (s.endProgram c) := by
  unfold State.endProgram
  split
  · exact Still.rfl
  · split
    · exact Still.setCtx _ _ _
    · split
      · exact Still.endEntry _ _ _ _ _
      · split
        · exact Still.setCtx _ _ _
        · exact Still.endEntry _ _ _ _ _

theorem Still.failInstr (s : State) (c : Nat) (code : Code) (obs : Nat) : Still s (s.failInstr c code obs) := by
  unfold State.failInstr
  split
  · exact Still.rfl
  · exact (Still.setCtx _ _ _).trans (Still.endEntry _ _ _ _ _)

theorem Still.checkWord (s : State) (c : Nat) : Still s (s.checkWord c) := by
  unfold State.checkWord
  split
  · exact Still.rfl
  · split
    · exact Still.rfl
    · split
      · exact Still.rfl
      · exact Still.failInstr _ _ _ _

theorem Still.goto (s : State) (c t : Nat) : Still s (s.goto c t) := by
  unfold State.goto
  split
  · exact Still.rfl
  · exact (Still.setCtx _ _ _).trans (Still.checkWord _ _)

theorem Still.advance (s : State) (c : Nat) : Still s (s.advance c) := by
  unfold State.advance
  split
  · exact Still.rfl
  · split
    · exact Still.goto _ _ _
    · exact Still.endProgram _ _

theorem Still.setOut (s : State) (o : Owner) (f : Ctx → Ctx) : Still s (s.setOut o f) := by
  unfold State.setOut
  split <;> first | exact Still.rfl | (split <;> first | exact Still.rfl | exact Still.setCtx _ _ _)

/-- The state an instruction's body leaves, when it leaves one of its own. -/
def IRes.state (s : State) : IRes → State
  | .ok t => t
  | .jump t _ => t
  | .fail _ _ => s
  | .failAs t _ _ => t
  | .failAt t _ _ _ => t
  | .wait t _ => t
  | .halt t => t

theorem Still.settle (s : State) (c : Nat) (r : IRes) : Still (r.state s) (s.settle c r) := by
  cases r with
  | ok t => exact Still.advance _ _
  | jump t i =>
    simp only [State.settle, IRes.state]
    split
    · exact Still.rfl
    · split
      · exact Still.goto _ _ _
      · exact Still.failInstr _ _ _ _
  | fail code obs => exact Still.failInstr _ _ _ _
  | failAs t code obs => exact Still.failInstr _ _ _ _
  | failAt t code i obs =>
    simp only [State.settle, IRes.state]
    split
    · exact Still.rfl
    · exact (Still.setCtx _ _ _).trans (Still.endEntry _ _ _ _ _)
  | wait t w =>
    simp only [State.settle, IRes.state]
    split
    · exact Still.rfl
    · exact Still.setCtx _ _ _
  | halt t => exact Still.endProgram _ _

/-- An instruction that starts no transfer of its own: nothing but what its body changed, and what every instruction may change, differs. -/
theorem Still.runInstr (s : State) (c op : Nat) (w : IWord) (cmd : Instr) (shape postable : Bool) (body : Ctx → IRes) (pre : Ctx → Pre) :
    Still s (s.runInstr c op w cmd shape postable false body pre) ∨ ∃ x, s.ctx c = some x ∧ Still ((body x).state s) (s.runInstr c op w cmd shape postable false body pre) := by
  unfold State.runInstr
  split
  · exact .inl Still.rfl
  · next x hx =>
    split
    · exact .inl Still.rfl
    · split
      · exact .inl (Still.failInstr _ _ _ _)
      · split
        · split
          · exact .inl Still.rfl
          · have note : ∀ (done : Option Code) (obs : Nat), Still s (match s.ctx c with
                | none => s
                | some y => (s.setCtx c { y with posted := y.posted ++ [{ index := x.pc, cmd := cmd, done := done, obs := obs }] }).advance c) := by
              intro done obs
              split
              · exact Still.rfl
              · exact (Still.setCtx _ _ _).trans (Still.advance _ _)
            refine .inl ?_
            simp only [Bool.false_eq_true, if_false]
            split <;> exact note _ _
        · exact .inr ⟨x, hx, Still.settle _ _ _⟩

/-- What is still keeps the state canonical. -/
theorem Still.canonical {s t : State} (h : Still s t) (k : Canonical s) : Canonical t := by
  obtain ⟨k1, k2, k3, k4, k5, k6, k7⟩ := k
  exact ⟨h.wf k1, h.lamps ▸ k2, h.lamps ▸ k3, h.sys ▸ k4, h.mem ▸ k5, h.mem ▸ k6, h.mem ▸ k7⟩

end Sys2Proof.Machine
end

