-- ==== Sys2Proof/Laws/Memory.lean ====
section
/-! SUPPORT. Every operation over the three byte memories keeps their canonical form. -/

namespace Sys2Proof.Machine

variable {α : Type}

/-- The canonical order of a table, as a relation between any two of its entries. -/
theorem Tbl.sortedFrom_iff (t : Tbl α) (o : Option Nat) :
    Tbl.sortedFrom o t = true ↔ (∀ i, o = some i → ∀ e ∈ t, i < e.1) ∧ t.Pairwise (fun x y => x.1 < y.1) := by
  induction t generalizing o with
  | nil => cases o <;> simp [Tbl.sortedFrom]
  | cons e t ih =>
    obtain ⟨k, v⟩ := e
    cases o with
    | none => simp [Tbl.sortedFrom, ih]
    | some i =>
      simp only [Tbl.sortedFrom, Bool.and_eq_true, decide_eq_true_eq, ih, List.pairwise_cons, List.mem_cons]
      constructor
      · rintro ⟨hk, h1, h2⟩
        refine ⟨?_, h1 k rfl, h2⟩
        rintro j ⟨⟩ e (rfl | he)
        · exact hk
        · exact Nat.lt_trans hk (h1 k rfl e he)
      · rintro ⟨h0, h1, h2⟩
        exact ⟨h0 i rfl _ (.inl rfl), (by rintro j ⟨⟩ e he; exact h1 e he), h2⟩

/-- The canonical form of a byte memory: rising addresses and no byte 0 listed. -/
theorem Tbl.wf_bytes_iff (m : Tbl Byte) :
    Tbl.wf (fun _ => 0) m = true ↔ m.Pairwise (fun x y => x.1 < y.1) ∧ ∀ e ∈ m, e.2 ≠ 0 := by
  simp [Tbl.wf_iff, Tbl.sortedFrom_iff]

/-- A slice is canonical. -/
theorem wf_sliceBytes {m : Tbl Byte} (a n : Nat) (h : Tbl.wf (fun _ => 0) m = true) :
    Tbl.wf (fun _ => 0) (sliceBytes m a n) = true := by
  rw [Tbl.wf_bytes_iff] at h ⊢
  constructor
  · refine List.pairwise_map.mpr (List.Pairwise.imp_of_mem ?_ (h.1.filter _))
    intro x y hx hy hxy
    have hx := (List.mem_filter.mp hx).2
    simp only [decide_eq_true_eq] at hx
    show x.1 - a < y.1 - a
    omega
  · intro e he
    obtain ⟨x, hx, rfl⟩ := List.mem_map.mp he
    exact h.2 x (List.mem_of_mem_filter hx)

/-- A memory with one run replaced by a slice is canonical. -/
theorem wf_pasteBytes {m x : Tbl Byte} (a n : Nat) (h : Tbl.wf (fun _ => 0) m = true) (hx : Tbl.wf (fun _ => 0) x = true) :
    Tbl.wf (fun _ => 0) (pasteBytes m a n x) = true := by
  rw [Tbl.wf_bytes_iff] at h hx ⊢
  have key : ∀ e, e ∈ (x.filter (fun e => decide (e.1 < n))).map (fun e => (e.1 + a, e.2)) →
      a ≤ e.1 ∧ e.1 < a + n ∧ e.2 ≠ 0 := by
    intro e he
    obtain ⟨y, hy, rfl⟩ := List.mem_map.mp he
    obtain ⟨hy, hn⟩ := List.mem_filter.mp hy
    simp only [decide_eq_true_eq] at hn
    exact ⟨by simp, by simp; omega, hx.2 y hy⟩
  refine ⟨List.pairwise_append.mpr ⟨List.pairwise_append.mpr ⟨h.1.filter _, ?_, ?_⟩, h.1.filter _, ?_⟩, ?_⟩
  · exact List.pairwise_map.mpr ((hx.1.filter _).imp (fun hab => by simpa using hab))
  · intro e he f hf
    have he := (List.mem_filter.mp he).2
    simp only [decide_eq_true_eq] at he
    have := (key f hf).1; omega
  · intro e he f hf
    have hf := (List.mem_filter.mp hf).2
    simp only [decide_eq_true_eq] at hf
    rcases List.mem_append.mp he with he | he
    · have he := (List.mem_filter.mp he).2
      simp only [decide_eq_true_eq] at he
      omega
    · have := (key e he).2.1; omega
  · intro e he
    rcases List.mem_append.mp he with he | he
    · rcases List.mem_append.mp he with he | he
      · exact h.2 e (List.mem_of_mem_filter he)
      · exact (key e he).2.2
    · exact h.2 e (List.mem_of_mem_filter he)

/-- Every memory of a canonical state is canonical. -/
theorem wf_bytesOf {s : State} (tier : Nat) (h : Canonical s) : Tbl.wf (fun _ => 0) (s.bytesOf tier) = true := by
  obtain ⟨-, -, -, -, hg, hf, hw⟩ := h
  unfold State.bytesOf
  split <;> assumption

/-- A canonical memory put in place keeps the state canonical. -/
theorem canonical_setBytes {s : State} (tier : Nat) {b : Tbl Byte} (h : Canonical s) (hb : Tbl.wf (fun _ => 0) b = true) :
    Canonical (s.setBytes tier b) := by
  obtain ⟨hr, hl, hm, hc, hg, hf, hw⟩ := h
  unfold State.setBytes State.mapMem
  split
  · exact ⟨hr, hl, hm, hc, hg, hf, hb⟩
  · exact ⟨hr, hl, hm, hc, hg, hb, hw⟩
  · exact ⟨hr, hl, hm, hc, hb, hf, hw⟩

/-- A copy between or within memories keeps the state canonical. -/
theorem canonical_copyStored {s : State} (t1 a1 t2 a2 n : Nat) (h : Canonical s) :
    Canonical (s.copyStored t1 a1 t2 a2 n) :=
  canonical_setBytes t2 h (wf_pasteBytes a2 n (wf_bytesOf t2 h) (wf_sliceBytes a1 n (wf_bytesOf t1 h)))

/-- An erased run keeps the state canonical. -/
theorem canonical_eraseBytes {s : State} (tier a n : Nat) (h : Canonical s) :
    Canonical (s.setBytes tier (pasteBytes (s.bytesOf tier) a n [])) :=
  canonical_setBytes tier h (wf_pasteBytes a n (wf_bytesOf tier h) (Tbl.wf_nil _))

/-- Bytes written to a memory keep the state canonical. -/
theorem canonical_writeBytes {s : State} (tier a : Nat) (b : List Byte) (h : Canonical s) :
    Canonical (s.setBytes tier (Tbl.writeBytes (s.bytesOf tier) a b)) :=
  canonical_setBytes tier h (Tbl.wf_writeBytes b a (wf_bytesOf tier h))

end Sys2Proof.Machine
end

