-- ==== Sys2Proof/Laws/Steward.lean ====
section
/-! SUPPORT. What the flash steward's operations leave alone: its own state, the space in use of the tier, and what an event
writes are all that differ. -/

namespace Sys2Proof.Machine

/-- Nothing but the steward, the places in use of its tier, the intake, the registers and the output differs. -/
structure Steward (s t : State) : Prop where
  pending : t.pending = s.pending
  clk : t.clk = s.clk
  lore : t.lore = s.lore
  mem : ∃ u, t.mem = { s.mem with flashUsed := u }
  eng : t.eng = s.eng
  fab : t.fab = s.fab
  cxl : t.cxl = s.cxl
  sys : t.sys = s.sys
  fld : t.fld = s.fld
  early : t.early = s.early
  freeCtr : t.freeCtr = s.freeCtr

theorem Steward.rfl {s : State} : Steward s s :=
  ⟨Eq.refl _, Eq.refl _, Eq.refl _, ⟨_, Eq.refl _⟩, Eq.refl _, Eq.refl _, Eq.refl _, Eq.refl _, Eq.refl _, Eq.refl _, Eq.refl _⟩

theorem Steward.trans {s t u : State} (h : Steward s t) (k : Steward t u) : Steward s u := by
  obtain ⟨a1, a2, a3, ⟨m, a4⟩, a5, a6, a7, a8, a9, a10, a11⟩ := h
  obtain ⟨b1, b2, b3, ⟨n, b4⟩, b5, b6, b7, b8, b9, b10, b11⟩ := k
  exact ⟨b1.trans a1, b2.trans a2, b3.trans a3, ⟨n, by rw [b4, a4]⟩, b5.trans a5, b6.trans a6, b7.trans a7, b8.trans a8, b9.trans a9,
    b10.trans a10, b11.trans a11⟩

theorem Steward.foldl {α : Type} (f : State → α → State) (h : ∀ s a, Steward s (f s a)) (l : List α) (s : State) :
    Steward s (l.foldl f s) := by
  induction l generalizing s with
  | nil => exact .rfl
  | cons a l ih => exact (h s a).trans (ih _)

theorem Steward.mapFls (s : State) (f : Flash → Flash) : Steward s (s.mapFls f) := { Steward.rfl (s := s) with }
theorem Steward.journal (s : State) (r : JRec) : Steward s (s.journal r) := Steward.mapFls _ _
theorem Steward.setSb (s : State) (i : Nat) (x : Superblock) : Steward s (s.setSb i x) := Steward.mapFls _ _
theorem Steward.setReg (s : State) (o : Nat) (v : Word) : Steward s (s.setReg o v) := { Steward.rfl (s := s) with }
theorem Steward.mapIo (s : State) (f : Intake → Intake) : Steward s (s.mapIo f) := { Steward.rfl (s := s) with }
theorem Steward.setUsed (s : State) (u : Extents) : Steward s (s.mapMem (fun m => { m with flashUsed := u })) :=
  { Steward.rfl (s := s) with mem := ⟨u, Eq.refl _⟩ }

theorem Steward.raise (s : State) (code : Nat) (node : NodeId) (a b : Nat) (m : Option Nat) (o : Nat) :
    Steward s (s.raise code node a b m o) := by
  unfold State.raise
  simp only
  split
  · exact ((Steward.mapIo _ _).trans (Steward.setReg _ _ _)).trans (Steward.setReg _ _ _)
  · exact (Steward.mapIo _ _).trans (Steward.setReg _ _ _)

theorem Steward.enterReadOnly (s : State) : Steward s s.enterReadOnly := by
  unfold State.enterReadOnly
  split
  · exact .rfl
  · exact (((Steward.mapFls _ _).trans (Steward.mapFls _ _)).trans (Steward.mapFls _ _)).trans (Steward.raise _ _ _ _ _ _ _)

theorem Steward.attachSpare (s : State) (hole : Nat) : Steward s (s.attachSpare hole) := by
  unfold State.attachSpare
  split
  · exact .rfl
  · simp only
    split
    · exact ((Steward.mapFls _ _).trans (Steward.mapFls _ _)).trans (Steward.enterReadOnly _)
    · exact (Steward.mapFls _ _).trans (Steward.mapFls _ _)

theorem Steward.closeSb (s : State) (sb : Nat) : Steward s (s.closeSb sb) := by
  unfold State.closeSb
  exact ((Steward.setSb s _ _).trans (Steward.journal _ _)).trans (Steward.mapFls _ _)

theorem Steward.programParity (s : State) (phys : Nat) : Steward s (s.programParity phys) := by
  unfold State.programParity
  exact Steward.mapFls _ _

theorem Steward.openSb {s t : State} {stream sb : Nat} (h : s.openSb stream = some (sb, t)) : Steward s t := by
  unfold State.openSb at h
  split at h
  · cases h
  · simp only [Option.some.injEq, Prod.mk.injEq] at h
    rw [← h.2]
    exact ((((Steward.foldl _ Steward.attachSpare _ _).trans (Steward.mapFls _ _)).trans (Steward.mapFls _ _)).trans
      (Steward.foldl _ (fun _ _ => Steward.mapFls _ _) _ _)).trans (Steward.mapFls _ _)

theorem Steward.slotIn {s t : State} {sb p : Nat} (h : s.slotIn sb = some (p, t)) : Steward s t := by
  unfold State.slotIn at h
  split at h
  · cases h
  · simp only [Option.some.injEq, Prod.mk.injEq] at h
    rw [← h.2]
    refine Steward.trans ?_ (Steward.programParity _ _)
    split
    · exact (Steward.setSb _ _ _).trans (Steward.closeSb _ _)
    · exact Steward.setSb _ _ _

theorem Steward.nextSlot {s t : State} {stream p : Nat} (h : s.nextSlot stream = some (p, t)) : Steward s t := by
  unfold State.nextSlot at h
  split at h
  · split at h
    · next h' => cases h; exact Steward.slotIn h'
    · split at h
      · cases h
      · next h' => exact ((Steward.closeSb _ _).trans (Steward.openSb h')).trans (Steward.slotIn h)
  · split at h
    · cases h
    · next h' => exact (Steward.openSb h').trans (Steward.slotIn h)

theorem Steward.eraseIfEmpty (s : State) (sb : Nat) : Steward s (s.eraseIfEmpty sb) := by
  unfold State.eraseIfEmpty
  simp only
  split
  · exact Steward.mapFls _ _
  · exact .rfl

theorem Steward.unmapUnit (s : State) (u : Nat) : Steward s (s.unmapUnit u) := (Steward.mapFls _ _).trans (Steward.setUsed _ _)

theorem Steward.applyRec (s : State) (r : JRec) : Steward s (s.applyRec r) := by
  unfold State.applyRec
  split
  · exact Steward.mapFls _ _
  · simp only
    split
    · exact .rfl
    · refine Steward.trans ?_ (Steward.eraseIfEmpty _ _)
      split
      · exact Steward.unmapUnit _ _
      · exact Steward.mapFls _ _
  · simp only
    split
    · exact .rfl
    · exact (Steward.mapFls _ _).trans (Steward.eraseIfEmpty _ _)
  · exact Steward.mapFls _ _
  · refine Steward.foldl _ (fun s u => ?_) _ _
    split
    · exact Steward.unmapUnit _ _
    · exact .rfl
  · exact .rfl

theorem Steward.journalPage (s : State) : Steward s s.journalPage := by
  unfold State.journalPage
  simp only
  split
  · exact .rfl
  · exact (Steward.mapFls _ _).trans (Steward.foldl _ Steward.applyRec _ _)

theorem Steward.journalAll (s : State) : Steward s s.journalAll := Steward.foldl _ (fun s _ => Steward.journalPage s) _ _

theorem Steward.writeSystemUnits (n : Nat) (s : State) (u : Nat) : Steward s (s.writeSystemUnits u n) := by
  induction n generalizing s u with
  | zero => exact .rfl
  | succ n ih =>
    unfold State.writeSystemUnits
    split
    · exact .rfl
    · next h => exact (((Steward.nextSlot h).trans (Steward.foldl _ (fun _ _ => Steward.mapFls _ _) _ _)).trans (Steward.mapFls _ _)).trans (ih _ _)

/-- A write to the system partition touches the steward alone. -/
theorem Steward.systemWrite (s : State) (kind bytes : Nat) : Steward s (s.systemWrite kind bytes) := by
  unfold State.systemWrite
  split
  · exact .rfl
  · simp only
    split
    · exact .rfl
    · refine Steward.trans ?_ (Steward.mapFls _ _)
      split
      · exact (Steward.writeSystemUnits _ _ _).trans (Steward.journalAll _)
      · exact (((Steward.writeSystemUnits _ _ _).trans (Steward.journalAll _)).trans
          (Steward.foldl _ (fun _ _ => (Steward.foldl _ (fun _ _ => Steward.mapFls _ _) _ _).trans (Steward.mapFls _ _)) _ _)).trans (Steward.journalAll _)

end Sys2Proof.Machine
end

