-- ==== Sys2Proof/WellFormed.lean ====
section
/-! DEFINITION. Well-formed commands: every index within its table (R124), every descriptor of the length its table
gives, every frame header within its fields (Table 13.2). The meanings are total: a command that is not well-formed
changes nothing or completes as the spec's operand rules say. -/

namespace Sys2Proof

/-- 256 program contexts (R93). -/
def ctxOk (c : Nat) : Bool := decide (c < 256)
/-- 8 meadows. -/
def meadowOk (m : Nat) : Bool := decide (m < 8)
/-- 256 intake rings (R102). -/
def ringOk (r : Nat) : Bool := decide (r < 256)
/-- 4,194,304 lanterns. -/
def lanternOk (l : Nat) : Bool := decide (l < 4194304)
/-- 32 links (R356) and 8 ports. -/
def linkOk (l : Nat) : Bool := decide (l < 32)
def portOk (p : Nat) : Bool := decide (p < 8)
/-- 8 traffic classes. -/
def classOk (c : Nat) : Bool := decide (c < 8)
/-- 128 wick tiles. -/
def tileOk (t : Nat) : Bool := decide (t < 128)
/-- 16,384 lamps (R113). -/
def lampOk (l : Nat) : Bool := decide (l < 16384)
/-- 4,096 windows. -/
def windowOk (w : Nat) : Bool := decide (w < 4096)
/-- Entries of the partner table. -/
def partnerOk (p : Nat) : Bool := decide (p < 4096)
/-- Superblocks of the flash data area (R332). -/
def sbOk (b : Nat) : Bool := decide (b < 2392)

/-- The fields of an arriving frame's header. -/
def Frame.wf (f : Frame) : Bool :=
  linkOk f.link && classOk f.tc && decide (f.hops < 256) && decide (f.payloadLen ≤ 8192) && decide (f.generation < 65536) &&
    f.window.all windowOk && NodeId.valid f.src && NodeId.valid f.dst

/-- A well-formed command. -/
def Instr.wf : Instr → Bool
  | .nop c _ => ctxOk c
  | .halt c _ => ctxOk c
  | .jump c _ => ctxOk c
  | .branch c _ => ctxOk c
  | .call c _ => ctxOk c
  | .ret c _ => ctxOk c
  | .fence c _ => ctxOk c
  | .progressSet c _ => ctxOk c
  | .postedInstructionComplete c idx _ => ctxOk c && decide (idx < 4096)
  | .lampLight c _ => ctxOk c
  | .lampDim c _ => ctxOk c
  | .lampSet c _ => ctxOk c
  | .lampWait c _ => ctxOk c
  | .lampWaitMet c => ctxOk c
  | .lampWaitTimeout c => ctxOk c
  | .ltnCreate c _ d => ctxOk c && d.length == 128
  | .ltnClose c _ => ctxOk c
  | .ltnPark c _ => ctxOk c
  | .parkCommit lantern _ => lanternOk lantern
  | .ltnResume c _ => ctxOk c
  | .resumeCommit lantern _ => lanternOk lantern
  | .ltnQuery c _ => ctxOk c
  | .reqAdmit c _ d => ctxOk c && d.length == 32
  | .reqKill c _ => ctxOk c
  | .reqSetprio c _ => ctxOk c
  | .reqSetdeadline c _ => ctxOk c
  | .reqRelease c _ => ctxOk c
  | .reqReleaseTimeout r => decide (r < 262144)
  | .pgAlloc c _ => ctxOk c
  | .pgFree c _ => ctxOk c
  | .pgShare c _ _ => ctxOk c
  | .pgAppend c _ d => ctxOk c && d.length == 16
  | .setUnion c _ d => ctxOk c && d.length == 32
  | .setIntersect c _ d => ctxOk c && d.length == 32
  | .setDiff c _ d => ctxOk c && d.length == 32
  | .setHash c _ d _ _ => ctxOk c && d.length == 32
  | .prefixMatch c _ d _ => ctxOk c && d.length == 32
  | .moveState c _ => ctxOk c
  | .deedQuery c _ => ctxOk c
  | .deedDecree c _ _ => ctxOk c
  | .deedRelease c _ => ctxOk c
  | .moveOpenReceive f _ => Frame.wf f
  | .moveDataReceive f _ _ => Frame.wf f
  | .moveReceiptReceive f _ => Frame.wf f
  | .nackReceive f _ => Frame.wf f
  | .moveKill ring slot => ringOk ring && decide (slot < 65536)
  | .moveAbortReceive f => Frame.wf f
  | .receiptDeadlineExpiry _ => true
  | .deedQueryRepeat _ => true
  | .deedTimeoutOrphan _ => true
  | .incomingAbandon _ => true
  | .deedQueryReceive f _ => Frame.wf f
  | .deedAnswerReceive f _ => Frame.wf f
  | .homeNoticeReceive f _ => Frame.wf f
  | .emberNoticeReceive f _ => Frame.wf f
  | .decreeNoticeReceive f _ => Frame.wf f
  | .decreeNoticeRepeat _ => true
  | .decreeAckReceive f _ => Frame.wf f
  | .stepRun c _ => ctxOk c
  | .stepStart m => meadowOk m
  | .stepCommit m _ => meadowOk m
  | .shadow c _ _ => ctxOk c
  | .autoShadowRun m _ _ => meadowOk m
  | .refereeRun _ _ => true
  | .tileQuarantineLeave m => meadowOk m
  | .canaryRun tile _ _ => tileOk tile
  | .attnPartial c _ d => ctxOk c && d.length == 64
  | .attnPartialRoundAdmit _ => true
  | .partialQueryReceive f _ => Frame.wf f
  | .partialRoundStart m => meadowOk m
  | .partialResultReceive f _ => Frame.wf f
  | .attnMerge c _ _ _ => ctxOk c
  | .ember c _ => ctxOk c
  | .rekindle c _ d => ctxOk c && d.length == 16
  | .autoEmber => true
  | .trieEviction => true
  | .pack c _ _ _ _ => ctxOk c
  | .unpack c _ _ _ _ => ctxOk c
  | .tierMove c _ => ctxOk c
  | .tierMoveCommit obj _ _ => decide (obj < 262144)
  | .tierPlace c _ => ctxOk c
  | .streamWeights c _ _ _ => ctxOk c
  | .adpLoad c _ _ _ => ctxOk c
  | .adpReplace c _ _ _ => ctxOk c
  | .adpRetire c _ => ctxOk c
  | .winOpen c _ _ => ctxOk c
  | .winRevoke c _ => ctxOk c
  | .winRevokeComplete win => windowOk win
  | .copy c _ d => ctxOk c && d.length == 64
  | .copyOpenReceive f _ => Frame.wf f
  | .copyDataReceive f _ _ _ => Frame.wf f
  | .copyCommitReceive f _ => Frame.wf f
  | .sealWin c _ => ctxOk c
  | .winSealReceive f _ => Frame.wf f
  | .readReceive f _ _ => Frame.wf f
  | .readRespReceive f _ => Frame.wf f
  | .loadTimeout _ => true
  | .fieldForm c _ _ => ctxOk c
  | .fieldAdmit c _ => ctxOk c
  | .fieldExpel c _ => ctxOk c
  | .fieldReform c _ _ => ctxOk c
  | .fieldReadyReceive f _ => Frame.wf f
  | .fieldCommitBeatReceive f _ _ => Frame.wf f
  | .fieldAbortReceive f _ _ => Frame.wf f
  | .fieldChangeReceive f _ => Frame.wf f
  | .fieldCommit m => meadowOk m
  | .fieldFormTimeout m => meadowOk m
  | .stepReportReceive f _ => Frame.wf f
  | .fieldStepEvaluation m => meadowOk m
  | .fieldStepGraceExpiry m => meadowOk m
  | .followRequestReceive r => Frame.wf r.frame
  | .followLockTimeout => true
  | .meadowDefine c _ _ => ctxOk c
  | .meadowDefineEffect m => meadowOk m
  | .meadowRole c _ => ctxOk c
  | .meadowDrain c _ => ctxOk c
  | .meadowDrained m => meadowOk m
  | .march c _ => ctxOk c
  | .marchRunComplete _ _ => true
  | .scrubNow c _ _ => ctxOk c
  | .flashTrim c _ => ctxOk c
  | .fwStage c _ _ _ => ctxOk c
  | .fwArm c _ _ => ctxOk c
  | .blockReset c _ => ctxOk c
  | .blockRestore n => decide (n < 16)
  | .attest c _ _ _ => ctxOk c
  | .beatBoundary _ => true
  | .deratedExited => true
  | .voltageLower => true
  | .powerOverDeclared _ => true
  | .powerCapAdmit c => ctxOk c
  | .noDeadlineAdmit cls => classOk cls
  | .beatLenWrite _ => true
  | .beatLenEffect => true
  | .beaconReceive f _ _ => Frame.wf f
  | .beaconLost => true
  | .beaconHoldoverEnd => true
  | .probeSend link => linkOk link
  | .probeReceive f _ _ => Frame.wf f
  | .entryAdmission idx descs => ctxOk idx && decide (descs.length ≤ 8)
  | .intakeCtrlWrite ring _ => ringOk ring
  | .resultRecordRetry ring slot _ => ringOk ring && decide (slot < 65536)
  | .idleTimerExpiry lantern => lanternOk lantern
  | .promisedBeatExpiry _ => true
  | .breachStoreDrain => true
  | .eventStoreDrain => true
  | .pendingWriteRelease _ => true
  | .routeInstall _ _ => true
  | .mapDrainEnd => true
  | .frameForward f _ _ _ => Frame.wf f
  | .ackReceive f _ => Frame.wf f
  | .ackSend partner => partnerOk partner
  | .retransmitTimeout partner _ => partnerOk partner
  | .collectiveReceive f _ _ => Frame.wf f
  | .helloSend link => linkOk link
  | .helloReceive f => Frame.wf f
  | .joinStart _ => true
  | .joinNonceReceive f _ => Frame.wf f
  | .joinProofReceive f _ => Frame.wf f
  | .joinInitiatorProofReceive f _ => Frame.wf f
  | .joinResultReceive f _ => Frame.wf f
  | .joinRetry partner => partnerOk partner
  | .joinTimeout partner => partnerOk partner
  | .heartbeatSend partner => partnerOk partner
  | .heartbeatReceive f => Frame.wf f
  | .partnerDeadTimeout partner => partnerOk partner
  | .leaveDepartureReceive f => Frame.wf f
  | .leaveEvictionReceive f => Frame.wf f
  | .fabCtrlLeave => true
  | .partnerCmdJoin => true
  | .partnerCmdApprove partner => partnerOk partner
  | .partnerCmdRefuse partner => partnerOk partner
  | .partnerCmdEvict partner => partnerOk partner
  | .portCfgWrite port _ => portOk port
  | .linkUp link => linkOk link
  | .linkTrainFail link => linkOk link
  | .linkDown link => linkOk link
  | .linkTransmitSelect link _ => linkOk link
  | .keyCmdLoad => true
  | .keyCmdActivate => true
  | .keyCmdDisable => true
  | .gateCtrlApply _ => true
  | .queueSel _ => true
  | .partnerSel _ => true
  | .winSel _ => true
  | .fieldSel _ => true
  | .peekSel _ => true
  | .hostedFind _ => true
  | .scSnap => true
  | .fieldFollow _ => true
  | .fieldCtrlRelease m => meadowOk m
  | .fieldCtrlPrep m => meadowOk m
  | .fieldPrepComplete _ => true
  | .tileClear tile => tileOk tile
  | .shadowSetWrite word _ => decide (word < 4)
  | .shadowSetEffect => true
  | .modelCmdInstall slot d => decide (slot < 64) && d.length == 128
  | .modelCmdRemove slot => decide (slot < 64)
  | .objCmdInstall index d => decide (index < 262144) && d.length == 64
  | .objCmdRemove index => decide (index < 262144)
  | .hostRead _ _ => true
  | .readThroughComplete tier _ _ => tier == 2 || tier == 4
  | .hostWrite _ _ => true
  | .biSnoopAnswer _ _ _ => true
  | .h2dSnoop _ => true
  | .hdmDecoderCommit _ _ => true
  | .cxlLinkTrained _ _ => true
  | .doeRequest _ _ _ => true
  | .cxlIdeFail => true
  | .commonsPlainWrite _ _ _ => true
  | .commonsSetAliasWrite _ _ _ => true
  | .commonsClearAliasWrite _ _ _ => true
  | .lampPlainWrite lamp _ _ => lampOk lamp
  | .lampSetAliasWrite lamp _ _ => lampOk lamp
  | .lampClearAliasWrite lamp _ _ => lampOk lamp
  | .lampAddAliasWrite lamp _ _ => lampOk lamp
  | .regLowHalfRead _ => true
  | .regWrite _ _ _ => true
  | .flashTimeSet _ => true
  | .flashCmdCheckpoint => true
  | .flashCmdFormat => true
  | .flashCheckpointDue => true
  | .journalPageDurable => true
  | .flashRestart _ => true
  | .gcStart => true
  | .gcUnitMove _ _ => true
  | .sbVerify sb _ => sbOk sb
  | .sbEraseComplete sb => sbOk sb
  | .flashProgramFail sb die plane channel => sbOk sb && decide (die < 8 ∧ plane < 4 ∧ channel < 16)
  | .flashEraseFail sb die plane channel => sbOk sb && decide (die < 8 ∧ plane < 4 ∧ channel < 16)
  | .flashPatrol _ _ _ => true
  | .gddrPatrolScrub _ _ _ => true
  | .gddrRecalibration channel => decide (channel < 24)
  | .taperCalibration pair => decide (pair < 64)
  | .bgWindowStart => true
  | .telemetrySnapshot => true
  | .pldmRequest _ _ _ => true
  | .tempSample _ => true
  | .thermalTripRecovery => true
  | .powerEnvelope _ => true
  | .overcurrentTrip => true
  | .powerOnReset => true
  | .perstAssert => true
  | .perstDeassert _ => true
  | .pwrFailAssert _ => true
  | .cxlReset => true
  | .rstArm _ => true
  | .rstCmd _ => true
  | .blkReset _ => true
  | .watchdogExpiry => true
  | .fabricResetFrame f _ => Frame.wf f
  | .boot _ => true
  | .bootImgCmd _ => true
  | .sdCardInsert _ => true
  | .fwOfferReceive f _ => Frame.wf f
  | .fwFetchRequestReceive f _ _ => Frame.wf f
  | .fwChunkReceive f _ _ _ => Frame.wf f
  | .fwActivation _ => true
  | .fwActResume => true
  | .fwCmdCommit => true
  | .fwCmdRestage _ => true
  | .fwCmdSave => true
  | .deedQueryTimeout c => ctxOk c
  | .partialRoundEnd m _ _ => meadowOk m
  | .powerLoss _ => true
  | .msixEntryUnmask entry => decide (entry < 256)
  | .regHighHalfRead _ => true

end Sys2Proof
end

