-- ==== Sys2Proof/Tests/Slice0.lean ====
section
/-! SUPPORT. The author's own tests: an ill-formed command for each check of `Instr.wf`, values the spec
prints, and for every obligation a state and operands that meet the hypotheses of its clauses. -/

namespace Sys2Proof.Tests

set_option Elab.async false

open Machine

/-! ## States to test on -/

/-- An intake entry with a program, for meadow `m`. -/
def entryOf (prog : List (BitVec 128)) (m : Nat) : Entry :=
  { ring := 1, tag := 7, slot := 0, progressEn := false, notify := false, fullTurn := false, meadow := m, svc := 0, progress := 0, deadline := noDeadline, prog := prog, isInline := true, bad := false, resultBase := 4096 }

/-- A context that runs a program at its first word. -/
def ctxOf (prog : List (BitVec 128)) (m : Nat) : Ctx :=
  { entry := entryOf prog m, phase := .running, wait := .none, pc := 0, stack := [], posted := [], halted := false, group := 0, promise := none, admitBeat := 0, bound := 0, accepted := false, breached := false, term := 0, request := none, lantern := none, out0 := 0, out1 := 0, outLen := 0, progressBp := 0, progressLost := false, progressOwn := false, reqCode := none, grants := [], reported := false }

/-- The word of an instruction that is not posted. -/
def word (flags opa opb opc : Nat) : IWord :=
  { opc := BitVec.ofNat 64 opc, opb := BitVec.ofNat 32 opb, opa := BitVec.ofNat 16 opa, posted := false, flags := BitVec.ofNat 7 flags }

/-- The word of a posted instruction. -/
def pword (flags opa opb opc : Nat) : IWord := { word flags opa opb opc with posted := true }

/-- The context that stands at the instruction `op w`, a `NOP` after it, in meadow `m`. -/
def cx (op : Nat) (w : IWord) (m : Nat := 0) : Ctx := ctxOf [w.encode op, 0] m

/-- `s` with the context `x` at index 0. -/
def with_ (s : State) (x : Ctx) : State := { s with io := { s.io with ctxs := [(0, x)] } }

/-- `s` with context 0 standing at the instruction `op w`. -/
def at_ (s : State) (op : Nat) (w : IWord) (m : Nat := 0) : State := with_ s (cx op w m)

/-- Beat 10 of a device that is ready. -/
def up : State := { State.reset with sys := { ({} : Sys) with ready := true }, clk := { ({} : Clock) with now := 10 } }

/-- The instruction `op w` runs now in the state `at_ s op w`. -/
def runsIn (s : State) (op : Nat) (w : IWord) (m : Nat := 0) : Bool := decide (Runs (at_ s op w m) 0 op w (cx op w m))

/-- The instruction `op w` runs now in context 0 of `s`, which holds the context `x`. -/
def runsAs (s : State) (op : Nat) (w : IWord) (x : Ctx) : Bool := decide (Runs (with_ s x) 0 op w x)

/-- The state after a command. -/
def run (i : Instr) (s : State) : State := match exec i s with
  | .next t => t
  | _ => s

/-- Flags of a word by their bit numbers. -/
def fl (l : List Nat) : Nat := (l.map (fun i => 2 ^ (i - 8))).sum

/-! ## Programs -/

theorem test_StepRunsFrontCommand : ({ up with pending := [.scSnap] } : State).pending = .scSnap :: [] := rfl
theorem test_StepKeepsCanonical : Canonical State.reset ∧ Canonical (up.setLamp 5 3) ∧ Machine.step State.reset = .next State.reset :=
  ⟨by unfold Canonical; decide, by unfold Canonical; decide, rfl⟩
theorem test_ControlFlow_go : runsIn up 0x00 (word 0 0 0 0) ∧ runsIn up 0x01 (word 0 0 0 0) ∧ runsIn up 0x02 (word 0 0 1 0) ∧
    (word 0 0 1 0).opb.toNat < (cx 0x02 (word 0 0 1 0)).entry.prog.length := by decide +kernel
/-- `BRANCH` at the edge of each test: count 5 against 5 and 6. -/
theorem test_ControlFlow_branch : let s := up.setLamp 9 5
    (∀ fl < 3, ∀ v ∈ [5, 6], runsIn s 0x03 (word fl 9 1 v)) ∧ (s.lamp 9).toNat % 2 ^ 48 = 5 ∧ runsIn s 0x03 (word 3 9 1 5) := by decide +kernel
theorem test_ControlFlow_call : let w := word 0 0 1 0; let r := word 0 0 0 0
    let x := { cx 0x04 w with stack := [1, 1, 1, 1, 1, 1, 1] }; let y := { cx 0x04 w with stack := [1, 1, 1, 1, 1, 1, 1, 1] }
    let z := { cx 0x05 r with stack := [1, 2] }; let e := { cx 0x05 r with stack := [2] }
    runsAs up 0x04 w x ∧ x.stack.length < 8 ∧ runsAs up 0x04 w y ∧ 8 ≤ y.stack.length ∧
    runsAs up 0x05 r z ∧ z.stack = 1 :: [2] ∧ 1 < z.entry.prog.length ∧ runsAs up 0x05 r e ∧ e.entry.prog.length ≤ 2 ∧ runsIn up 0x05 r := by decide +kernel
theorem test_ControlFlow_outside : let w := word 0 0 2 0
    runsIn up 0x02 w ∧ runsIn up 0x04 w ∧ runsIn up 0x03 w ∧ (cx 0x02 w).entry.prog.length ≤ w.opb.toNat ∧
    branchTest w.flags.toNat (lampCount ((at_ up 0x03 w).lamp w.opa.toNat)) w.opc.toNat = some true := by decide +kernel
theorem test_MalformedOrElsewhere : let w := word 1 0 0 0; let p := pword 0 0 0 0; let q := word 0 0 0 0
    (instrOf (.nop 0 w) = some (0, 0x00, w) ∧ StandsAt (at_ up 0x00 w) 0 0x00 w (cx 0x00 w) ∧ shapeOk 0x00 w = false) ∧
    (instrOf (.halt 0 p) = some (0, 0x01, p) ∧ StandsAt (at_ up 0x01 p) 0 0x01 p (cx 0x01 p) ∧ p.posted = true ∧ mayPost 0x01 = false) ∧
    (instrOf (.stepRun 0 q) = some (0, 0x40, q) ∧ StandsAt (at_ up 0x40 q 0xFF) 0 0x40 q (cx 0x40 q 0xFF) ∧ actsOnMeadow 0x40 = true) ∧
    up.ctx 0 = none := by decide +kernel
theorem test_ProgramFlow : let x := cx 0x00 (word 0 0 0 0); let s := with_ up x; let y := { x with pc := 1 }
    s.ctx 0 = some x ∧ Code.badOperand ≠ .ok ∧ x.pc + 1 < x.entry.prog.length ∧ listedOp 0x8E = true ∧ listedOp 0x08 = false ∧ y.reqCode = none ∧ runsIn up 0x01 (word 0 0 0 0) ∧
    (with_ up y).ctx 0 = some y ∧ y.entry.prog.length ≤ y.pc + 1 ∧ y.posted = [] ∧ y.request = none := by decide +kernel
/-- R134: at 2^48 − 1 and at 0. -/
theorem test_LampInstructions : let s := up.setLamp 3 0x8000FFFFFFFFFFFE; let z := up.setLamp 3 0x8000000000000002; let o := up.setLamp 3 0x1003000000000000
    (runsIn s 0x10 (word 0 3 0 1) ∧ runsIn s 0x10 (word 0 3 0 2) ∧ lampOpen (s.lamp 3) 0 = true ∧
    runsIn z 0x11 (word 0 3 0 1) ∧ runsIn z 0x11 (word 0 3 0 2) ∧ runsIn z 0x11 (word 0 3 0 3) ∧ runsIn z 0x12 (word 0 3 0 7)) ∧
    (z.lamp 3).getLsbD 63 = true ∧ (up.lamp 3).getLsbD 63 = false ∧ runsIn up 0x11 (word 0 3 0 0) ∧ runsIn up 0x11 (word 0 3 0 1) ∧
    lampOpen (o.lamp 3) 0 = false ∧ lampOpen (o.lamp 3) 3 = true ∧ runsIn o 0x10 (word 0 3 0 1) := by decide +kernel
theorem test_LampInstructions_wait : let w := word 0 3 0 2; let v := word 0 3 5 2
    let x := { cx 0x13 v with wait := .lamp 3 2 (some 10) }; let s := with_ up x
    runsIn up 0x13 w ∧ runsIn up 0x13 v ∧ w.opb = 0 ∧ v.opb ≠ 0 ∧ s.ctx 0 = some x ∧ 10 ≤ s.now ∧
    (s.lamp 3).toNat % 2 ^ 48 < 2 ∧ 2 ≤ ((s.setLamp 3 2).lamp 3).toNat % 2 ^ 48 := by decide +kernel
theorem test_LampWindowWrites : up.cdUp = true ∧ (0x7FFFFFFFFFFF : Word).toNat % 2 ^ 48 < 2 ^ 47 ∧ 2 ^ 47 ≤ (0x800000000000 : Word).toNat % 2 ^ 48 := by decide +kernel
theorem test_LampWindowWrites_lampUpdateFrame : (run (.lampPlainWrite 4 8 9) up).lamp 4 = 9 ∧ (run (.lampPlainWrite 4 8 9) up).lamp 5 = 0 := by decide +kernel
theorem test_ProgressSetEffect : let a := word (fl [8]) 6 0 100; let b := word 0 0 0 3; let c := word (fl [8]) 7 0 100
    let x (op : Nat) (w : IWord) : Ctx := { cx op w with progressOwn := true }
    let s := up.setProgress 0 { state := 1, tag := 7, ring := 1, total := 100, position := 3 }
    runsAs up 0x07 a (x 0x07 a) ∧ (with_ up (x 0x07 a)).ownsProgress (x 0x07 a) = true ∧ a.flag 8 = true ∧ runsIn up 0x07 a ∧
    runsAs s 0x07 b (x 0x07 b) ∧ s.ownsProgress (x 0x07 b) = true ∧ b.opc.toNat = (s.progress 0).position ∧ runsAs up 0x07 c (x 0x07 c) ∧
    runsAs s 0x07 (word 0 0 0 2) (x 0x07 (word 0 0 0 2)) ∧ (up.ownsProgress (cx 0x07 a)) = false := by decide +kernel
theorem test_InstructionWordRoundTrip : (255 : Nat) < 256 ∧ opcodeOf ((word 1 2 3 4).encode 255) = 255 ∧ wordOf ((word 1 2 3 4).encode 255) = word 1 2 3 4 := by decide +kernel

/-! ## Lanterns and requests -/

def modelA : Model := { model := 5, layers := 2, qHeads := 4, kvHeads := 1, headDim := 64, headsLocal := 1, kvFmt := 3, ratio := 1, pageTokens := 16, eos := 2, maxPositions := 1024 }
def hdrA : Hdr := { addr := 0x8000, kind := 0, merges := false, sat := false, generic := false, beatNs := 2000, pLen := 4, energy := 0, chunk := 16, rows := 8, tiles := 4, allow := 0, pattern := 0, members := 1, shardEpoch := 0, model := 5, bodyAddr := 0x9000, bodyWords := 8, capture := 0, weights := 0, shardTable := 0, reduceTable := 0, crc := 0, len4 := 0, seg4 := 0 }
def record1 : Deed := { state := .home, home := 1, epoch := 1, keeper := 1, keeperLantern := 0xFFFFFFFF }
def lanA : Lantern := { state := .idle, svc := 2, model := 5, adapter := noAdapter, deeds := 1 }
/-- Lanterns 1 idle, 2 at a tool, 3 swapped, 4 hibernated, 5 active, 6 lent; meadow 0 runs a program; flash ready. -/
def farm : State :=
  { up with
    lore := { ({} : Lore) with lanterns := [(1, lanA), (2, { lanA with state := .toolWait }), (3, { lanA with state := .swapped, parkTier := 2 }), (4, { lanA with state := .hibernated, parkTier := 4 }), (5, { lanA with state := .active, request := some 0 }), (6, { lanA with state := .lent })], deeds := [(1024, record1), (2048, record1), (3072, record1), (4096, record1), (5120, record1), (6144, record1)] }
    mem := { ({} : Store) with models := [(0, modelA)] }
    eng := { ({} : Engine) with meadows := [(0, { ({} : Meadow) with state := .running, role := 3, tiles := [0, 1, 2, 3], program := some hdrA, window := some (0, 0, 4096) })] }
    fls := { ({} : Flash) with state := .ready }
    regs := Tbl.set resetOf [] Reg.SWAP_SIZE 0x10000000 }

def isOk {α β : Type} (e : Except α β) : Bool := match e with
  | .ok _ => true
  | .error _ => false
def goes (a : Admit) : Bool := match a with
  | .go _ _ _ => true
  | .no _ => false

/-- The descriptor of `LTN_CREATE`: service class, model, adapter, idle timeout, cookie. -/
def createD (svc model idle : Nat) : Bytes := leBytes 2 0 ++ leBytes 1 svc ++ leBytes 1 0 ++ leBytes 2 model ++ leBytes 2 noAdapter ++ leBytes 44 0 ++ leBytes 4 idle ++ leBytes 40 0 ++ leBytes 8 0x77 ++ leBytes 24 0

theorem test_LanternCreateCloseQuery_create : let w := word 0 0 0xFFFFFFFF 0; let v := word 0 0 4194303 0; let d := createD 63 5 0
    runsIn farm 0x18 w ∧ createZero d ∧ le d 2 1 = 63 ∧ isOk ((at_ farm 0x18 w).createEntry w) ∧ isOk ((at_ farm 0x18 v).createEntry v) ∧ runsIn farm 0x18 v ∧
    (farm.modelOf (le d 4 2)).isSome ∧ farm.adapterFit (le d 6 2) ∧ d.length = 128 ∧ 63 < le (createD 64 5 9) 2 1 := by decide +kernel
theorem test_LanternCreateCloseQuery_close : let w (l : Nat) : IWord := word 0 0 l 0
    runsIn farm 0x19 (w 1) ∧ (at_ farm 0x19 (w 1)).preClose 1 = none ∧ runsIn farm 0x19 (w 5) ∧ (farm.lan 5).state = .active ∧
    runsIn farm 0x19 (w 0) ∧ (farm.lan 0).state = .closed ∧ runsIn farm 0x1C (word 0 0 4194303 64) := by decide +kernel
/-- Lanterns 3 swapped, 4 hibernated and 5 active are kept here; lantern 7 is kept elsewhere; lantern 3 resumes. -/
theorem test_LanternCreateCloseQuery_kept : let w (l : Nat) : IWord := word 0 0 l 0
    let s : State := { farm with lore := { farm.lore with lanterns := farm.lore.lanterns ++ [(7, lanA)], deeds := farm.lore.deeds ++ [(7168, { record1 with state := .remote })], resumes := [{ lantern := 3, tier := 2, owner := .engine, request := none, promise := none }] } }
    (∀ l ∈ [1, 2, 3, 4], runsIn s 0x19 (w l) ∧ s.keeps l) ∧ s.resuming 4 = false ∧ s.resuming 3 ∧ (runsIn s 0x19 (w 5) ∧ s.keeps 5 ∧ (s.lan 6).state = .lent ∧ s.keeps 6) ∧
    (runsIn s 0x19 (w 7) ∧ s.keeps 7 = false ∧ (s.lan 7).state ≠ .closed ∧ runsIn s 0x1C (w 7) ∧ runsIn s 0x1A (w 7) ∧ runsIn s 0x1B (w 7)) ∧
    s.tracked (s.hdmSpan 0 128) = [] ∧ s.preQueryLantern 4194303 = none ∧ s.splitsAt 0 128 = false ∧ (s.deedsOf 1).filter (fun e => e.2.state == .lent || e.2.state == .incoming) = [] := by decide +kernel
theorem test_LanternPark : let w (t l : Nat) : IWord := word t 0 l 0
    (runsIn farm 0x1A (w 0 1) ∧ farm.resuming 1 = false ∧ farm.canHold 1 1 ∧ (farm.startPark 1 1 (.instr 0)).isSome ∧ farm.packsFor 1 (.instr 0) = false ∧ farm.keeps 1) ∧
    (runsIn farm 0x1A (w 1 2) ∧ farm.canHold 2 2 ∧ farm.classRoom 3 ∧ (farm.startPark 2 2 (.instr 0)).isSome) ∧
    (runsIn farm 0x1A (w 2 1) ∧ farm.canHold 1 4 ∧ (farm.startPark 1 4 (.instr 0)).isSome) := by decide +kernel
theorem test_LanternPark_refused : let f : State := { farm with fls := { farm.fls with state := .readOnly } }
    let n : State := { farm with regs := Tbl.set resetOf farm.regs Reg.SWAP_RESERVE 0xFFFFFFFF }
    runsIn f 0x1A (word 2 0 1 0) ∧ (f.lan 1).state = .idle ∧ f.resuming 1 = false ∧ f.fls.state = .readOnly ∧
    runsIn n 0x1A (word 1 0 1 0) ∧ n.canHold 1 2 = false ∧ f.packsFor 1 (.instr 0) = false ∧
    (let r : State := { farm with fab := { farm.fab with admitQueued := [(3, 2 ^ 60)] } }; runsIn r 0x1A (word 1 0 1 0) ∧ r.canHold 1 2 ∧ r.canHold 1 1 ∧ r.classRoom 3 = false ∧ (r.lan 1).packed = false) := by decide +kernel
theorem test_LanternResume_admitted : let w (f l : Nat) : IWord := word f 0 l 0
    let at1 (f l : Nat) : Bool := let s := at_ farm 0x1B (w f l); let x := cx 0x1B (w f l)
      runsIn farm 0x1B (w f l) && s.preResume (w f l) 0 == none && goes (s.admitAt 0 x (s.itemResume 0 (w f l) 0 0))
    at1 1 1 ∧ at1 1 2 ∧ at1 0 1 ∧ at1 0 3 ∧ at1 0 4 ∧ resumeTier (farm.resumeFrom 1 0) = 0 ∧ resumeTier (farm.resumeFrom 3 0) = 2 ∧
    (farm.keepPromise none 10).2 = .ok ∧ (farm.unpacked 1).isSome ∧ ((at_ farm 0x1B (w 0 5)).preResume (w 0 5) 0).isSome ∧ runsIn farm 0x1B (w 0 5) ∧ runsIn farm 0x1B (w 0 9) ∧ (farm.lan 9).state = .closed := by decide +kernel
def promise0 : Promise := { id := 2, ring := 1, slot := 0, tag := 7, index := 0, meadow := 0, svc := 0, tc := 0xFF, k := 4, n := 5, d := 20, terms := [(9, 5)], ends := [], regs := [], lantern := none, request := none, peer := 0, path := false, media := false, derated := false, remote := false, remoteLeft := 0, left := 1, breached := false, last := 0, b := 2000 }
theorem test_LanternResume_commit : let r : Resume := { lantern := 3, tier := 2, owner := .engine, request := none, promise := none }
    let s : State := { farm with lore := { farm.lore with resumes := [r] } }
    s.lore.resumes.find? (·.lantern == 3) = some r ∧ ¬ (r.tier = 4 ∧ s.fls.state = .restoring) ∧ (s.backPlaces (s.parkList 3)).isSome ∧
    ((s.parkList 3).any (fun p => p.tier == 2 && (s.flLost p.loc (pageUnits p.ratio) || s.fls.state == .failed))) = false ∧ r.tier ≠ 0 ∧
    (let m : State := { s with io := { s.io with promises := [promise0] } }; m.promise 2 = some promise0 ∧ promise0.id = 2) ∧
    (let f : State := { s with lore := { s.lore with deeds := [(3072, { record1 with pages := [{ tier := 1, shared := false, ratio := 1, loc := 0 }] })] }, mem := { s.mem with kvUsed := [(kvBase, s.kvUnits)] } }; f.backPlaces (f.parkList 3) = none) := by decide +kernel
theorem test_LanternPark_commit : let p : Park := { lantern := 6, tier := 2, owner := .engine, pages := [], bytes := 0 }
    let s (t : Nat) : State := { farm with lore := { farm.lore with parks := [{ p with tier := t }] } }
    (s 2).lore.parks.find? (·.lantern == 6) = some p ∧ ((s 4).lore.parks.find? (·.lantern == 6)).isSome ∧ (s 4).fls.state = .ready ∧ (s 4).flashReads = false ∧ ({ s 4 with lore := { (s 4).lore with resumes := [{ lantern := 3, tier := 4, owner := .engine, request := none, promise := none }] } } : State).flashReads ∧
    (((s 1).mapLore (fun y => { y with parks := [] })).recodeAt (.lantern 6) ((s 1).lan 6).model ((s 1).packRatio ((s 1).lan 6).model)).isSome := by decide +kernel
/-- R169: the timer at its beat and one before it, with a tier to go to and with none. -/
theorem test_IdleTimer : let s (t : Nat) : State := farm.setLan 1 { lanA with timer := t, release := 0 }
    let n : State := { s 10 with regs := Tbl.set resetOf (Tbl.set resetOf farm.regs Reg.SWAP_RESERVE 0xFFFFFFFF) Reg.FLASH_PARK_RESERVE 0xFFFFFFFFFFFFFF, clk := { farm.clk with now := 2000000000000 } }
    let p : State := farm.setLan 1 { lanA with timer := 10, packed := true, hintUs := 1 }
    (s 10).cdUp ∧ (s 10).resuming 1 = false ∧ ((s 10).lan 1).timer ≤ (s 10).now ∧ (s 11).now < ((s 11).lan 1).timer ∧
    (s 10).chosenTier 1 ≠ sitsIn ((s 10).lan 1) ∧ ((s 10).tierFrom 1 ((s 10).chosenTier 1)).isSome ∧
    n.chosenTier 1 ≠ sitsIn (n.lan 1) ∧ n.tierFrom 1 (n.chosenTier 1) = none ∧ p.chosenTier 1 = sitsIn (p.lan 1) := by decide +kernel

/-- At order 6, with nothing before it, with an entry still to be admitted, and with a resume of the lantern in a group of this beat. -/
theorem test_IdleTimer_order : let f : State := farm.setLan 1 { lanA with timer := 10, release := 0 }; let s := f.atOrder 6
    let e := (with_ f { cx 0x1B (word 0 0 1 0) with phase := .presented }).atOrder 6; let r := (with_ f { cx 0x1B (word 0 0 1 0) with admitBeat := 10, group := 1 }).atOrder 6
    (f.cdUp ∧ f.sys.blocks = [] ∧ s.entriesWait = false ∧ s.resumeWaits 1 = false ∧ (s.lan 1).timer ≤ s.now ∧ (s.lan 1).timer ≠ 0 ∧ s.resuming 1 = false ∧ s.chosenTier 1 ≠ sitsIn (s.lan 1) ∧ (s.tierFrom 1 (s.chosenTier 1)).isSome) ∧
    e.entriesWait ∧ r.entriesWait = false ∧ r.resumeWaits 1 ∧
    (let w := (farm.setLan 3 { lanA with state := .swapped, parkTier := 2, timer := 10, hintUs := 4294967295 }).atOrder 6; (w.lan 3).state = .swapped ∧ (w.lan 3).timer ≤ w.now ∧ w.chosenTier 3 = 4 ∧ w.canHold 3 4) := by decide +kernel

/-- The descriptor of `REQ_ADMIT`: P, G_max, adapter, prio, opts. -/
def admitD (p g adp prio opts : Nat) : Bytes := leBytes 4 p ++ leBytes 4 g ++ leBytes 8 0x100 ++ leBytes 2 adp ++ leBytes 1 prio ++ leBytes 1 opts ++ leBytes 4 0 ++ leBytes 8 0x200
theorem test_RequestAdmitted : let w := word 0 0 1 0; let d := admitD 0 1 noAdapter 15 6
    let s := at_ farm 0x20 w; let x := cx 0x20 w
    runsIn farm 0x20 w ∧ (x.grants.any (fun g => g.index == x.pc && g.code == some .ok)) = false ∧ s.preAdmit w d 0 false = none ∧
    goes (s.admitAt 0 x (s.itemAdmit 0 w d 0 false)) ∧ (s.admitRequest 0 x w d false none 10).isSome ∧
    (let y : Ctx := { cx 0x20 w with group := 1, grants := [{ index := 0, cls := 0, bytes := 0, step := none, slot := 0, code := some .ok }] }; runsAs farm 0x20 w y ∧ y.pc < y.group ∧ x.group ≤ x.pc) := by decide +kernel
theorem test_RequestInstructions : let w (_ : Nat) (t : Nat) : IWord := word 0 0 0 t
    let q : Request := { state := .running, lantern := 5, promisedBeat := 100, deadlineBeat := 200 }
    let s : State := (farm.setRequest 0 q).setRequest 1 { q with state := .done }
    (s.request 0).state = .running ∧ runsIn s 0x21 (w 0 0) ∧ runsIn s 0x22 (w 0 0) ∧ runsIn s 0x23 (w 0 1000000) ∧ runsIn s 0x23 (w 0 1) ∧
    (s.request 0).promisedBeat ≤ s.deadlineOf 1000000 ∧ s.deadlineOf 1 < (s.request 0).promisedBeat ∧ s.deadlineOf 1 < (s.request 0).deadlineBeat ∧
    (s.request 0).noDeadline = false ∧ (let n : State := s.setRequest 0 { q with promisedBeat := allOnes64, deadlineBeat := allOnes64, noDeadline := true }; (n.request 0).noDeadline ∧ n.deadlineOf noDeadline = 2 ^ 64 - 1 ∧ n.deadlineOf 1 ≠ 2 ^ 64 - 1 ∧ runsIn n 0x23 (w 0 1) ∧ runsIn n 0x23 (word 0 0 0 noDeadline)) ∧ runsIn s 0x21 (word 0 0 1 0) ∧ (s.request 1).state ≠ .admitted ∧ (s.request 1).state ≠ .running := by decide +kernel
theorem test_RequestRelease : let q : Request := { state := .done, lantern := 5, doneBeat := 2 }
    let s : State := ((farm.setRequest 0 q).setRequest 1 { q with state := .running }).setRequest 2 { q with state := .overdue }
    let e : State := { s with regs := Tbl.set resetOf s.regs Reg.REQ_RELEASE_TIMEOUT 8 }; let l : State := { s with regs := Tbl.set resetOf s.regs Reg.REQ_RELEASE_TIMEOUT 9 }
    (runsIn s 0x24 (word 1 0 0 44) ∧ runsIn s 0x24 (word 0 0 1 0) ∧ runsIn s 0x24 (word 0 0 2 0) ∧ (s.lan 5).state ≠ .lent ∧ s.cdUp) ∧
    e.now = (e.request 0).doneBeat + e.regN Reg.REQ_RELEASE_TIMEOUT ∧ l.now < (l.request 0).doneBeat + l.regN Reg.REQ_RELEASE_TIMEOUT ∧
    (s.lan 5).request = some 0 ∧ (s.request 0).resuming = false ∧ s.mem.adapters = [] := by decide +kernel

/-! ## Pages, prefixes and the codec -/

/-- Free pages of GDDR7 units 0 to 7 in a software list at 0x100, one uncompressed page at 0x200. -/
def pg (loc : Nat) (ratio : Nat := 0) : Page := { tier := 0, shared := false, ratio := ratio, loc := loc }
def store : State :=
  { up with mem := { ({} : Store) with models := [(0, modelA)], lists := [(0x100, { pages := [pg 800000], model := 5 }), (0x200, { pages := [pg 800016, pg 800000] }), (0x300, { pages := [{ pg 0 with tier := 1 }] })], kvUsed := [(800000, 32)], refs := [(800000, 1), (800016, 65534)] } }

theorem test_PagesAndSets_alloc : let w := word 0 0 2 0x200
    runsIn store 0x28 w ∧ store.listAt 0x200 = .user 0x200 ∧ store.listReadOnly (.user 0x200) = false ∧ (store.takePages 0 0 2).isSome ∧
    runsIn store 0x28 (word 0 0 4294967295 0x200) ∧ runsIn store 0x28 (word 0 0 0 0x200) ∧
    runsIn store 0x29 (word 0 0 0 0x200) ∧ store.listBusy (.user 0x200) = false ∧ (let r : State := { store with mem := { store.mem with lists := store.mem.lists ++ [(0x500, { readOnly := true })] } }; runsIn r 0x28 (word 0 0 1 0x500) ∧ r.listReadOnly (r.listAt 0x500) ∧ runsIn r 0x29 (word 0 0 0 0x500) ∧ r.listBusy (r.listAt 0x500) = false ∧ runsIn r 0x2C (word 0 0 0 64) ∧ r.listReadOnly (r.listAt (le (leBytes 8 0x100 ++ leBytes 8 0x200 ++ leBytes 8 0x500 ++ leBytes 8 0) 16 8))) := by decide +kernel
/-- No room for a page at all. -/
theorem test_PagesAndSets_full : let s : State := { store with mem := { store.mem with kvUsed := [(kvBase, store.kvUnits)] } }
    runsIn s 0x28 (word 0 0 1 0x200) ∧ s.takePages 0 0 1 = none := by decide +kernel
theorem test_PagesAndSets_busy : let s : State := { store with lore := { store.lore with lanterns := [(1, { lanA with state := .lent })] }, mem := { store.mem with lists := [(0x100, { bound := some 1 })] } }
    runsIn s 0x29 (word 0 0 0 0x100) ∧ s.listBusy (.user 0x100) := by decide +kernel
theorem test_PagesAndSets_share : let s : State := { store with mem := { store.mem with setDescs := [(0x900, ([{ pg 800000 with shared := true }, { pg 800016 with shared := true }], 0, 1))] }, lore := { store.lore with lanterns := [(1, lanA)] } }
    runsIn s 0x2A (word 0 0 1 0x900) ∧ s.keeps 1 ∧ s.keeps 0 = false ∧ (s.setDesc 0x900).isSome ∧
    (∀ p ∈ ((s.setDesc 0x900).getD ([], 0, 0)).1, p.shared = true ∧ p.tier = 0 ∧ 1 ≤ s.refcount p.loc ∧ s.refcount p.loc < 65535) ∧
    runsIn s 0x2A (word 0 0 0 0x900) ∧ runsIn s 0x2A (word 0 0 1 0x901) ∧ s.setDesc 0x901 = none ∧
    (let f : State := { s with mem := { s.mem with refs := [(800000, 1), (800016, 65535)] } }; runsIn f 0x2A (word 0 0 1 0x900) ∧ f.refcount 800016 = 65535) ∧
    (let z : State := { s with mem := { s.mem with refs := [(800000, 1)] } }; runsIn z 0x2A (word 0 0 1 0x900) ∧ z.refcount 800016 = 0) := by decide +kernel
def setD (a b out : Nat) : Bytes := leBytes 8 a ++ leBytes 8 b ++ leBytes 8 out ++ leBytes 8 0
theorem test_PagesAndSets_sets : let d := setD 0x100 0x200 0x400; let w := word 0 0 0 64; let e := setD 0x100 0x300 0x400
    runsIn store 0x2B (word 0 0 0 64) ∧ (store.plist 0x100).readOnly = false ∧ (store.plist 0x200).bound = none ∧ (store.plist 0x200).readOnly = false ∧
    runsIn store 0x2C w ∧ runsIn store 0x2D w ∧ runsIn store 0x2E w ∧ store.listAt (le d 16 8) = .user 0x400 ∧ zeroAt d 24 8 ∧
    (∀ p ∈ store.pagesAt (store.listAt (le d 0 8)) ++ store.pagesAt (store.listAt (le d 8 8)), p.tier = 0) ∧
    (∃ p ∈ store.pagesAt (store.listAt (le e 0 8)) ++ store.pagesAt (store.listAt (le e 8 8)), p.tier ≠ 0) ∧
    (∀ p ∈ sortPages (store.pagesAt (.user 0x100) ++ store.pagesAt (.user 0x200)), p.shared = false) ∧
    (let s : State := { store with mem := { store.mem with lists := [(0x600, { pages := [{ pg 800016 with shared := true }] }), (0x800, { bound := some 1 })], refs := [(800016, 65535)] } }; runsIn s 0x2C w ∧ s.refcount 800016 = 65535 ∧
      (∃ p ∈ sortPages (s.pagesAt (s.listAt 0x600) ++ s.pagesAt (s.listAt 0)), p.shared = true ∧ p.loc = 800016) ∧ (s.plist 0x800).bound ≠ none ∧ (s.plist 0x600).bound = none) := by decide +kernel
/-- R141: the union in ascending order, each page once. -/
theorem test_setUnion : ((run (.setUnion 0 (word 0 0 0 64) (setD 0x100 0x200 0x400)) (at_ store 0x2C (word 0 0 0 64))).plist 0x400).pages.map (·.loc) = [800000, 800016] := by decide +kernel
theorem test_setDiff : ((run (.setDiff 0 (word 0 0 0 64) (setD 0x200 0x100 0x400)) (at_ store 0x2E (word 0 0 0 64))).plist 0x400).pages.map (·.loc) = [800016] := by decide +kernel

def hashD (list out model adapter : Nat) : Bytes := leBytes 8 list ++ leBytes 8 0 ++ leBytes 8 out ++ leBytes 2 model ++ leBytes 2 adapter ++ leBytes 2 0 ++ leBytes 1 0 ++ leBytes 1 0
def matchD (n model adapter : Nat) : Bytes := leBytes 8 0x700 ++ leBytes 4 n ++ leBytes 2 model ++ leBytes 2 adapter ++ leBytes 2 0 ++ leBytes 14 0
def trie1 : State := { store with mem := { store.mem with refs := [(800000, 1)], trie := [(4, { hash := 9, model := 5, adapter := noAdapter, pages := [pg 800000], depth := 1 })] }, regs := Tbl.set resetOf [] Reg.KV_EMBER_LOW 0xFFFFFFFF }
theorem test_PrefixInstructions_hash : let d := hashD 0x100 0x8000 5 noAdapter
    runsIn store 0x2F (word 0 0 0 64) ∧ le d 30 1 = 0 ∧ zeroAt d 31 1 ∧ (store.modelOf (le d 24 2)).isSome ∧ store.preHash d = none ∧ store.tracked (store.hashWrites d []) = [] ∧ store.splitsAt (le d 16 8) 0 = false ∧
    (let p := leBytes 30 0 ++ leBytes 1 2 ++ leBytes 1 0; (store.preHash p).isSome) ∧
    (let p := (hashD (Config.structAddr 3 1024) 0x8000 5 noAdapter).take 30 ++ leBytes 1 1 ++ leBytes 1 0; le p 30 1 = 1) := by decide +kernel
theorem test_PrefixInstructions_match : let d := matchD 2 5 noAdapter
    runsIn trie1 0x30 (word 0 0 0 64) ∧ zeroAt d 18 14 ∧ trie1.matchChain (le d 12 2) (le d 14 2) none ([8].take (le d 8 4)) = [] ∧
    (trie1.matchChain (le d 12 2) (le d 14 2) none ([9, 8].take (le d 8 4))).map (·.1) = [4] ∧
    trie1.cdUp ∧ trie1.kvLow ∧ trie1.evictable.isSome ∧ store.kvLow = false ∧ (let b : State := { trie1 with sys := { trie1.sys with bg := { share := 32 } } }; b.bgRooms (freeCost [pg 800000]) ∧ b.cdUp ∧ b.kvLow ∧ b.evictable.isSome) ∧ ({ trie1 with sys := { trie1.sys with bg := { share := 32, used := [(8, 1000000000)] } } } : State).bgRooms (freeCost [pg 800000]) = false ∧ zeroAt (leBytes 32 (2 ^ 250)) 18 14 = false := by decide +kernel
/-- One page of a deed of lantern 1; free space low. -/
def warm : State :=
  { store with
    lore := { ({} : Lore) with lanterns := [(1, { lanA with deeds := 2 })], deeds := [(1024, record1), (1025, { record1 with pages := [pg 800000], npages := 1, posCount := 16, deed := 1 })], embering := true }
    regs := Tbl.set resetOf (Tbl.set resetOf [] Reg.KV_EMBER_HIGH 0xFFFFFFFF) Reg.EMBER_PER_BEAT 1 }
theorem test_Embers : let w := word 0 1 1 0
    let z : State := { warm with regs := Tbl.set resetOf [] Reg.KV_EMBER_HIGH 0 }; let q : State := { warm with lore := { warm.lore with embering := false } }
    (runsIn warm 0x50 w ∧ warm.preEmber w = none ∧ isOk (warm.deedOperand w) ∧ runsIn warm 0x50 (word 0 1 2 0) ∧ (warm.preEmber (word 0 1 2 0)).isSome) ∧
    (warm.cdUp ∧ warm.lore.embering ∧ bits (warm.regN Reg.EMBER_PER_BEAT) 3 0 = 1 ∧ warm.kvFree < warm.regN Reg.KV_EMBER_HIGH ∧ warm.emberChoice.isSome) ∧
    1 ≤ bits (z.regN Reg.EMBER_PER_BEAT) 3 0 ∧ z.regN Reg.KV_EMBER_HIGH ≤ z.kvFree ∧ q.lore.embering = false ∧ q.kvLow = false ∧ warm.sys.blocks = [] ∧ warm.lore.emberBeat ≠ some warm.now ∧
    (let t := ({ warm with sys := { warm.sys with bg := { share := 32 } } } : State).atOrder 6; t.lore.embering ∧ t.kvFree < t.regN Reg.KV_EMBER_HIGH ∧ t.emberChoice.isSome ∧ t.bgRooms (freeCost [pg 800000])) := by decide +kernel

/-- The descriptor of `PACK` and `UNPACK`: source, destination, length, capacity, format. -/
def packD (src dst len cap fmt : Nat) : Bytes := leBytes 8 src ++ leBytes 8 dst ++ leBytes 8 len ++ leBytes 8 cap ++ leBytes 1 fmt ++ leBytes 31 0
theorem test_CodecInstructions_fixed : let d := packD 0x100 0 0 0 0; let p := word (fl [9]) 0 0 64
    runsIn store 0x58 p ∧ p.flag 8 = false ∧ b2n (p.flag 9) + 2 * b2n (p.flag 10) = 1 ∧ zeroAt d 8 56 ∧ store.listRead (store.listAt (le d 0 8)) = false ∧
    store.preCodec true p d = none ∧ store.preCodec false p d = none ∧ (store.recodeAt (.user 0x100) 5 1).isSome ∧ (store.recodeAt (.user 0x100) 5 0).isSome ∧ runsIn store 0x59 p ∧
    store.tracked (store.codecReads p d ++ store.codecWrites p d) = [] ∧ (store.preCodec true (word 0 0 0 64) d).isSome := by decide +kernel
theorem test_CodecInstructions_exact : let d := packD 0x1000 0x80000 8 72 3; let s := packD 0x1000 0x80000 8 71 3; let u := packD 0x1000 0x80000 32 8 0; let p := word (fl [8]) 0 0 64
    runsIn store 0x58 p ∧ codecShape true true d ∧ chargedSize (le d 16 8) = le d 24 8 ∧ codecShape true true s ∧
    le s 24 8 < chargedSize (le s 16 8) ∧ runsIn store 0x59 p ∧ codecShape true false u ∧ store.preCodec true p d = none ∧ store.preCodec false p u = none ∧ store.preCodec true p s = some (.noSpace, 0) ∧
    (store.sourceAt (le d 0 8) (le d 16 8) [1]).1 = some [1] ∧ store.splitsAt (le d 8 8) 9 = false := by decide +kernel

/-! ## Deeds and moves -/

/-- Node 1 with a live partner, node 2, on link 0. -/
def net : State :=
  { store with
    regs := Tbl.set resetOf [] Reg.NODE_ID 1
    lore := { ({} : Lore) with lanterns := [(1, { lanA with deeds := 3 })], deeds := [(1024, { record1 with deed := 0 }), (1025, { record1 with pages := [pg 800000], npages := 1, posCount := 16, deed := 1 }), (1026, { record1 with state := .orphaned, deed := 2 })] }
    fab := { ({} : Fabric) with links := [(0, { ({} : Link) with state := 2, lanes := 4, neighbour := 2, trained := true })], partners := [(0, { ({} : Partner) with node := 2, state := .live, link := 0 })] } }

/-- A frame from node 2 to node 1 over link 0. -/
def fr (ref : Nat := 0) (off : Nat := 0) (sl : Bool := false) (len : Nat := 64) : Frame :=
  { link := 0, tc := 4, encrypted := false, forwarded := false, retransmit := false, sealBit := sl, ackValid := false, hops := 0, payloadLen := len, window := none, src := 2, dst := 1, seq := 1, ack := 0, routeEpoch := 0, ref := ref, offset := off, generation := 0, stamp := 0, crcOk := true, tagOk := true }
def after (s : State) (f : Frame) (k : FrameKind) : State := (s.arrival f k).2
def heard (s : State) (f : Frame) (k : FrameKind) : Bool :=
  (s.arrival f k).1 && (match targetOf f k with
    | none => true
    | some n => decide ((after s f k).placed f.routeEpoch n = .accept))
/-- Delivered, the witness of every statement about a frame. -/
theorem heard_delivered {s : State} {f : Frame} {k : FrameKind} (h : heard s f k = true) : Delivered s f k (after s f k) := by
  simp only [heard, Bool.and_eq_true] at h
  refine ⟨Prod.ext h.1 rfl, fun n hn => ?_⟩
  simpa [hn] using h.2

theorem test_frames_heard : ∀ k ∈ [FrameKind.data, .openK, .commit, .nack, .ack, .read, .readResp, .winSeal, .deed, .partialK, .collective, .beacon, .probe, .hello, .join, .heartbeat, .leave, .mgmt], heard net (fr) k := by decide +kernel

theorem test_DeedInstructions_move : let w := word 0 1 1 2; let s := at_ net 0x38 w; let x := cx 0x38 w
    runsIn net 0x38 w ∧ s.preMove w = none ∧ isOk (s.deedOperand w) ∧ isOk (s.moveOperand w) ∧ goes (s.admitAt 0 x (s.itemMove 0 w)) ∧
    runsIn net 0x38 (word 0 1 1 1) ∧ ((at_ net 0x38 (word 0 1 1 1)).preMove (word 0 1 1 1)).isSome := by decide +kernel
theorem test_DeedInstructions_query : runsIn net 0x39 (word 0 1 1 1) ∧ net.me = 1 ∧ NodeId.valid (word 0 1 1 1).opc ∧
    runsIn net 0x39 (word 0 1 1 2) ∧ (word 0 1 1 2).opc ≠ net.me ∧ isOk (net.deedOperand (word 0 1 1 2)) := by decide +kernel
theorem test_DeedInstructions_decree : let d := leBytes 8 1 ++ leBytes 4 2 ++ leBytes 4 0; let w := word 0 2 1 64
    (runsIn net 0x3A w ∧ (net.deed (.own 1 2)).state = .orphaned ∧ (net.deed (.own 1 2)).region = false ∧ BitVec.ofNat 64 (le d 0 8) = net.me ∧ zeroAt d 12 4 ∧ (net.deed (.own 1 2)).epoch < le d 8 4) ∧
    runsIn net 0x3A (word 0 1 1 64) ∧ (net.deed (.own 1 1)).state ≠ .orphaned ∧ runsIn net 0x3B (word 0 1 1 0) ∧ net.preRelease (word 0 1 1 0) = none ∧
    runsIn net 0x3B (word 0 0 1 0) ∧ (net.preRelease (word 0 0 1 0)).isSome := by decide +kernel

def key1 : DeedKey := { region := false, keeper := 2, lantern := 7, deed := 1 }
def openM : MoveOpen := { deeds := [{ key := key1, epoch := 2, posStart := 0, posCount := 16, pages := [0], ratio := 0 }], lantern := none, rateSize := 64, promised := 5 }
theorem test_MoveTransfer_open : let t := after net (fr 3) .openK
    let h : State := { t with lore := { t.lore with hosted := [(0, { record1 with epoch := 2, keeper := 2, keeperLantern := 7, deed := 1 })] } }
    let full : State := { t with mem := { t.mem with kvUsed := [(kvBase, t.kvUnits)] } }
    heard net (fr 3) .openK ∧ t.findDeed key1 = none ∧ openM.lantern = none ∧ t.lore.movesIn.length < 256 ∧ (t.takeDeeds 2 none openM.deeds).isSome ∧
    h.findDeed key1 = some (.hosted 0) ∧ (h.deed (.hosted 0)).state = .home ∧ 2 ≤ (h.deed (.hosted 0)).epoch ∧ full.takeDeeds 2 none openM.deeds = none := by decide +kernel
def moveIn1 : MoveIn := { id := 3, src := 2, op := openM, refs := [], lantern := none, request := none, got := 60, till := 10, badCheck := false }
def netIn : State := { net with lore := { net.lore with movesIn := [moveIn1] } }
theorem test_MoveTransfer_data : heard netIn (fr 3 60 true) .data ∧ heard netIn (fr 3) .deed ∧ (after netIn (fr 3) .data).lore.movesIn.find? (fun m => m.id == 3 && m.src == 2) = some moveIn1 ∧
    moveIn1.got + [0, 0, 0, 0].length = moveIn1.op.rateSize ∧ moveIn1.got + [0].length ≠ moveIn1.op.rateSize ∧ netIn.lore.movesIn[0]? = some moveIn1 ∧
    netIn.now ≤ moveIn1.till ∧ ({ moveIn1 with till := 9 } : MoveIn).till < netIn.now := by decide +kernel
def moveOut1 : MoveOut := { id := 3, owner := .engine, ring := 1, slot := 0, dst := 2, lantern := none, deeds := [.own 1 1], phase := 3, n := 4, k := 2, hops := 1, promise := none, rate := 64, sent := 64, sealBeat := 5, tc := 1, svc := 0, queried := 0, parked := false, hostedKept := 0, gap := 3, tmo := 6 }
/-- The receipt deadline max(2 + 4, 5) + 1 + 1 = 8 has passed at beat 10; not with n one beat too late. -/
theorem test_MoveTransfer_source : let s (m : MoveOut) : State := { net with lore := { net.lore with movesOut := [m] } }
    let q (b : Nat) : MoveOut := { moveOut1 with queried := b }
    (s moveOut1).moveOut 3 = some moveOut1 ∧ moveOut1.deadline < (s moveOut1).now ∧ net.now ≤ ({ moveOut1 with n := 6 } : MoveOut).deadline ∧
    (q 7).queried + (q 7).gap ≤ net.now ∧ net.now < (q 8).queried + (q 8).gap ∧ net.now ≤ (q 7).deadline + (q 7).tmo ∧ ({ q 7 with tmo := 1 } : MoveOut).deadline + 1 < net.now ∧
    (s { moveOut1 with phase := 2 }).lore.movesOut.find? (fun m => m.ring == 1 && m.slot == 0 && !m.parked && m.phase == 2) = some { moveOut1 with phase := 2 } := by decide +kernel
theorem test_MoveTransfer_source_frames : let s : State := { net with lore := { net.lore with movesOut := [moveOut1] } }
    heard s (fr 3) .commit ∧ (after s (fr 3) .commit).lore.movesOut.find? (fun m => m.id == 3 && m.dst == 2) = some moveOut1 ∧
    heard s (fr) .nack ∧ (after s (fr) .nack).moveOut 3 = some moveOut1 ∧ (after s (fr) .nack).moveOut 4 = none := by decide +kernel
theorem test_DeedMessages : let q : DeedQuery := { key := { region := false, keeper := 1, lantern := 1, deed := 1 }, epoch := 2, query := 5, homeAtSender := some 1 }
    let a (c e : Nat) : DeedAnswer := { key := key1, query := 3, code := c, epoch := e, home := 2, commitBeat := some 4, fromLog := false }
    (heard net (fr) .deed ∧ ((net.sendDeed 2 (.answer (net.answerFor q))).findDeed q.key).isSome) ∧
    table75 (a 1 2) 2 = .free (some 4) ∧ table75 (a 3 2) 2 = .again ∧ table75 (a 8 2) 2 = .back ∧ table75 (a 9 0) 2 = .orphan := by decide +kernel
theorem test_DeedMessages_query : let o (till : Nat) : QueryOut := { id := 3, c := 0, dst := 2, key := key1, gap := 4, till := till, sentBeat := 0, localView := 0 }
    let s (till : Nat) : State := { net with lore := { net.lore with queries := [o till] } }
    let m : State := { net with lore := { net.lore with movesOut := [{ moveOut1 with queried := 4 }] } }
    ((s 9).lore.queries.find? (·.c == 0) = some (o 9) ∧ (o 9).till < net.now ∧ net.now ≤ (o 10).till) ∧
    heard (s 9) (fr) .deed ∧ (after (s 9) (fr) .deed).lore.movesOut = [] ∧ (after (s 9) (fr) .deed).lore.queries.find? (fun q => q.id == 3 && q.dst == 2) = some (o 9) ∧
    heard m (fr) .deed ∧ ((after m (fr) .deed).lore.movesOut.find? (fun m => m.id == 3 && m.dst == 2 && m.phase == 3 && m.queried != 0)).isSome := by decide +kernel
theorem test_DeedMessages_decree : let k (b : Nat) : Decree := { id := 4, key := key1, epoch := 5, dst := 2, kept := [], gap := 3, sentBeat := b }
    let s : State := { net with lore := { net.lore with decrees := [k 7], hosted := [(0, { record1 with epoch := 4, keeper := 2, keeperLantern := 7, deed := 1 })] } }
    heard s (fr) .deed ∧ (after s (fr) .deed).findDeed key1 = some (.hosted 0) ∧ ((after s (fr) .deed).deed (.hosted 0)).epoch < 5 ∧ (after net (fr) .deed).findDeed key1 = none ∧
    s.lore.decrees.find? (·.id == 4) = some (k 7) ∧ (k 7).sentBeat + (k 7).gap ≤ s.now ∧ s.now < (k 8).sentBeat + (k 8).gap ∧
    (after s (fr) .deed).lore.decrees.find? (fun d => d.id == 4 && d.dst == 2) = some (k 7) := by decide +kernel
/-- A keeper's record that is neither free nor `REMOTE`, an arrival's pages, and a data frame after its transfer was abandoned. -/
theorem test_MoveTransfer_keeper : let d : OpenDeed := { key := { region := false, keeper := 1, lantern := 1, deed := 2 }, epoch := 2, posStart := 0, posCount := 16, pages := [0], ratio := 0 }
    let a : State := { net with lore := { net.lore with abandoned := [{ deeds := [(key1, 2)], commit := none, home := 0, lantern := none, src := 2, mv := 3 }] } }
    (d.key.keeper = net.me ∧ (net.deed (.own 1 2)).state ≠ .none ∧ (net.deed (.own 1 2)).state ≠ .remote ∧ (net.takeRatios d.pages).isSome) ∧
    heard a (fr 3 60 true) .data ∧ (after a (fr 3 60 true) .data).lore.movesIn = [] ∧ (after a (fr 3 60 true) .data).lore.abandoned.any (fun r => r.src == 2 && r.mv == 3) := by decide +kernel
/-- A copy that is refused; a message and a notice about deeds in each state; a transfer's own query. -/
theorem test_DeedMessages_more : let h (st : DState) (k : NodeId) : State := { net with lore := { net.lore with deeds := [(1024, record1), (1025, { record1 with state := st, epoch := 4, keeper := k, deed := 1 })] } }
    let key : DeedKey := { region := false, keeper := 1, lantern := 1, deed := 1 }
    let q : State := { netIn with lore := { netIn.lore with movesIn := [{ moveIn1 with query := 9 }] } }
    (∀ st ∈ [DState.home, .lent, .remote], (h st 1).findDeed key = some (.own 1 1) ∧ ((h st 1).deed (.own 1 1)).epoch = 4) ∧ ((h .home 1).deed (.own 1 1)).keeper = net.me ∧ (h .home 1).decreed key = some (.own 1 1) ∧
    heard q (fr) .deed ∧ (after q (fr) .deed).askedMove 2 9 = none ∧ (after q (fr) .deed).lore.queries = [] ∧ ((after q (fr) .deed).lore.movesIn.find? (fun m => m.query != 0 && m.query == 9 && m.src == 2)).isSome ∧
    (openM.deeds.find? (fun d => d.key == key1)).isSome ∧ (after netIn (fr) .deed).lore.movesIn.find? (fun m => m.query != 0 && m.query == 9 && m.src == 2) = none := by decide +kernel

/-! ## Admission, promises, steps -/

theorem test_AdmissionDecision : let i : Item := { index := 0, terms := [(1, 4), (2, 3)], regs := [] }
    let dr : State := { up with clk := { up.clk with timing := .derated } }; let fr : State := { up with clk := { up.clk with beacon := .freeRun, freeSince := 0, now := 2000000 } }
    dr.clk.timing = .derated ∧ up.clk.timing ≠ .derated ∧ fr.holdoverOver ∧ up.holdoverOver = false ∧ (i.terms.map (·.2)).sum = 7 ∧
    up.deadlineBeat 14000 = up.now + 7 ∧ up.deadlineBeat 13999 < up.now + 7 ∧ ¬ (14000 < up.clk.time) ∧ 14000 ≠ noDeadline ∧
    (0x11 ∈ ({ i with fails := [0x12, 0x11] } : Item).fails) ∧ ∀ u ∈ ({ i with fails := [0x12, 0x11] } : Item).fails, u < 0x11 → u < 0x11 := by decide +kernel
/-- `promise0` with a second instruction at work, the first having committed in beat 8 or, past the promised beat, in beat 10. -/
def promise1 : Promise := promise0
/-- The promised beat is 9, the beat is 10: past it; with n one longer it is not. -/
theorem test_PromiseKeptOrBreached : let s (p : Promise) : State := { up with io := { up.io with promises := [p] } }
    (s promise1).promise 2 = some promise1 ∧ promise1.left = 1 ∧ promise1.k + promise1.n < (s promise1).now ∧ (s promise1).now ≤ ({ promise1 with n := 6 } : Promise).k + 6 ∧
    (s promise1).promiseHeld promise1 = false ∧ (with_ (s promise1) (cx 0 (word 0 0 0 0))).promiseHeld promise1 ∧ promise1.remote = false ∧ (s promise1).cdUp ∧ promise1.remoteLeft < promise1.left ∧ ({ promise1 with remoteLeft := 1 } : Promise).left ≤ 1 ∧ 1 < ({ promise1 with left := 2 } : Promise).left ∧ 9 ≤ promise1.k + promise1.n ∧ promise1.k + promise1.n < 10 ∧ 21 > promise1.d ∧ ({ promise1 with breached := true } : Promise).breached := by decide +kernel

/-- A step program header for meadow 0 of `farm` (Table 8.4), and a body of 4 words. -/
def hdrBytes : Bytes :=
  let b := leBytes 4 0x4B434957 ++ leBytes 2 1 ++ leBytes 1 2 ++ leBytes 1 0 ++ leBytes 4 2000 ++ leBytes 4 4 ++ leBytes 4 0 ++ leBytes 2 0 ++ leBytes 2 8 ++ leBytes 2 4 ++ leBytes 2 0 ++ leBytes 1 0 ++ leBytes 1 0 ++ leBytes 2 1 ++ leBytes 4 0 ++ leBytes 2 5 ++ leBytes 2 0 ++ leBytes 8 0x9000 ++ leBytes 4 1 ++ leBytes 72 0
  b ++ leBytes 4 (crc32c b)
def ranch : State :=
  { farm with
    mem := { farm.mem with gddr := Tbl.writeBytes (Tbl.writeBytes [] 0x8000 hdrBytes) 0x9000 ((List.range 4).flatMap (fun _ => leBytes 16 0x3F)) }
    eng := { farm.eng with meadows := [(0, { ({} : Meadow) with state := .running, role := 3, tiles := [0, 1, 2, 3], window := some (0, 0, 4096), captures := [{ seq := 1, hdr := { hdrA with addr := 0x8000 }, tiles := [], crcs := [], truth := [], requests := [], rows := [], lost := 0 }] })], tiles := [(126, { state := 2 }), (127, { state := 2 })] } }
theorem test_header : (ranch.hdrAt 0x8000).map (fun h => (h.kind, h.pLen, h.tiles, h.rows, h.model)) = some (2, 4, 4, 8, 5) := by decide +kernel
/-- R256: pages laid out for 2 heads on a member stop a program whose model, laid out by head, has 1. -/
theorem test_laid_otherwise : let s (k : Nat) (p : Bool) : State := { up with mem := { up.mem with models := [(0, { modelA with byPosition := p })] }, lore := { ({} : Lore) with lanterns := [(1, lanA)], deeds := [(1024, { record1 with pages := [pg 800000], npages := 1, laid := k })] } }
    (s 2 false).laidOtherwise 1 5 = true ∧ (s 1 false).laidOtherwise 1 5 = false ∧ (s 2 true).laidOtherwise 1 5 = false := by decide +kernel
theorem test_StepsOfAMeadow_run : let w := word 0 0 0 0x8000; let x := cx 0x40 w; let s := at_ ranch 0x40 w
    runsIn ranch 0x40 w ∧ x.grants = [] ∧ s.preStep 0x8000 0 = none ∧
    (match s.hdrAt 0x8000 with | some h => goes ((s.noteBody h).admitAt 0 x ((s.noteBody h).stepItem 0 0 h false)) | none => false) = true ∧
    runsIn ranch 0x40 (word 0 0 0 0x8080) ∧ (ranch.preStep 0x8080 0).isSome ∧ ranch.hdrAt 0x8080 = none := by decide +kernel
def step1 : Step := { id := 0, due := 14, used := none, owner := .engine, hdr := hdrA, rekindle := none, start := 10, commit := 14, started := false, watts := 0, promise := none, epoch := 0, index := 0, rows := [] }
def result1 : StepResult := { usedBeats := 4, fail := none, stallBeats := 0, faults := [], path := false, media := false }
def stepping (t : Step) (f : FieldSt := {}) : State := { up with eng := { ({} : Engine) with meadows := [(0, { ({} : Meadow) with state := .running, program := some hdrA, steps := [t] })] }, fld := [(0, f)] }
/-- Beat 10 is the start beat and, of a step started in beat 6, the commit beat. -/
theorem test_StepsOfAMeadow : let a := stepping step1; let b := stepping { step1 with start := 11 }; let c := stepping { step1 with started := true, start := 6 }; let d := stepping { step1 with started := true, start := 7 }
    ((a.mdw 0).steps = [step1] ∧ a.cdUp ∧ a.sys.paused = false ∧ (a.field 0).state ≠ 1 ∧ (a.mdw 0).pendingDef = none ∧ (a.field 0).changes = [] ∧ (a.field 0).announced = []) ∧
    (step1.start ≤ a.now ∧ step1.epoch = (a.stepBoundary 0).fieldEpoch 0 ∧ ((a.stepBoundary 0).field 0).halted = false ∧ ((a.stepBoundary 0).mdw 0).stuck = false) ∧
    b.now < 11 ∧ ({ step1 with epoch := 3 } : Step).epoch ≠ (a.stepBoundary 0).fieldEpoch 0 ∧ c.deadMember 0 = false ∧ 6 + max hdrA.pLen result1.usedBeats ≤ c.now ∧ d.now < 7 + max hdrA.pLen result1.usedBeats := by decide +kernel
theorem test_StepsOfAMeadow_dead : let f : FieldSt := { state := 2, members := [{ node := 1, meadow := 0, weight := 1 }, { node := 2, meadow := 0, weight := 1 }] }
    let g (t : Nat) : State := { stepping { step1 with started := true, start := 1 } f with regs := Tbl.set resetOf (Tbl.set resetOf [] Reg.NODE_ID 1) Reg.FIELD_GRACE t, fab := { ({} : Fabric) with partners := [(0, { ({} : Partner) with node := 2, state := .dead })] } }
    (g 4).deadMember 0 ∧ 1 + hdrA.pLen + bits ((g 4).regN Reg.FIELD_GRACE) 15 0 < (g 4).now ∧ (g 5).now ≤ 1 + hdrA.pLen + bits ((g 5).regN Reg.FIELD_GRACE) 15 0 ∧
    (stepping step1 |>.mdw 0).steps.any (·.started) = false := by decide +kernel
/-- A step may start, is stuck, halted; as its tiles run it, without rows, no word is lost; a group's step that still goes, went well, failed. -/
theorem test_StepsOfAMeadow_runs : let a := stepping step1; let b := stepping { step1 with start := 11 }; let t : Step := { step1 with started := true, start := 6 }; let c := stepping t
    let h := stepping step1 { halted := true }; let q (d : Option Code) : Ctx := { cx 0x40 (word 0 0 0 0x8000) with grants := [{ index := 0, cls := 0, bytes := 0, step := some 0, slot := 0, code := d }] }
    let st : State := { a with eng := { a.eng with meadows := [(0, { ({} : Meadow) with state := .running, program := some hdrA, steps := [step1], stuck := true })] } }
    let v := (c.markStep t result1).stepTokens t.rows
    (a.mayStart 0 step1 ∧ b.mayStart 0 { step1 with start := 11 } = false ∧ ((h.stepBoundary 0).field 0).halted ∧ ((st.stepBoundary 0).mdw 0).stuck ∧ c.stepSnooped t = false ∧ t.used.getD result1.usedBeats = 4) ∧
    (∀ d ∈ [none, some Code.ok, some Code.checkFail], runsAs ranch 0x40 (word 0 0 0 0x8000) (q d) ∧ ((q d).grants.find? (fun g => g.index == (q d).pc && (g.step.isSome || g.code.isSome))).isSome) ∧
    (v.1.isSome ∧ (v.2.runStep 0 t []).1.lost = 0 ∧ failsRequests .checkFail) ∧ (stepping step1 |>.mdw 0).steps.any (·.started) = false := by decide +kernel

/-! ## Shadows and near-state attention -/

theorem test_ShadowsAndCanaries_run : let w := word 0 0 1 0x8000; let s := at_ ranch 0x41 w; let x := cx 0x41 w
    runsIn ranch 0x41 w ∧ s.preShadow 0x8000 1 0 = none ∧ (s.captureOf 0 1).isSome ∧
    (match s.hdrAt 0x8000 with | some h => goes ((s.noteBody h).admitAt 0 x ((s.noteBody h).stepItem 0 0 h true)) | none => false) = true ∧
    runsIn ranch 0x41 (word 0 0 1 0x8080) ∧ ranch.hdrAt 0x8080 = none := by decide +kernel
def referee1 : ShadowRun := { meadow := 0, seq := 9, owner := none, promise := none, watts := 0, mismatch := some (0, 1, 126, 5, 6), hdr := hdrA, due := 10 }
theorem test_ShadowsAndCanaries_auto : let s : State := { ranch with eng := { ranch.eng with shadowPending := [(0, 1)] } }; let r : State := { ranch with eng := { ranch.eng with referee := [referee1] } }
    s.eng.shadowPending.find? (·.1 == 0) = some (0, 1) ∧ 2 ≤ s.shadowList.length ∧ s.eng.shadow = none ∧ ((s.mdw 0).captures.find? (fun k => k.seq == 1 && k.lost == 0)).isSome ∧
    ({ up with eng := { ({} : Engine) with tiles := [(124, { state := 3 }), (125, { state := 3 }), (126, { state := 3 })] } } : State).shadowList.length < 2 ∧ r.cdUp ∧ r.eng.referee = referee1 :: [] ∧ r.jobDone 3 1 ∧ ({ r with sys := { r.sys with bg := { r.sys.bg with jobs := [{ act := 3, id := 1, need := [(128, 5)] }] } } } : State).jobDone 3 1 = false ∧ referee1.requests = [] ∧ ({ referee1 with requests := [2] } : ShadowRun).requests = 2 :: [] ∧ referee1.mismatch = some (0, 1, 126, 5, 6) ∧ (7 : Word) ≠ 5 ∧ (7 : Word) ≠ 6 ∧
    (({ r with eng := { r.eng with referee := [] } }).quarantine 1 (tempBand 44) 0).captureOf 0 (referee1.seq % 2 ^ 32) = none := by decide +kernel
theorem test_ShadowsAndCanaries_canary : let s (p f : Nat) : State := { up with regs := Tbl.set resetOf [] Reg.CANARY_PASSES 3, eng := { ({} : Engine) with tiles := [(5, { state := 3, band := 7, passes := p, fails := f }), (6, { state := 4 })] } }
    ((s 1 1).cdUp ∧ ((s 1 1).tile 5).state = 3 ∧ tempBand 105 = ((s 1 1).tile 5).band ∧ tempBand 104 ≠ 7 ∧ 1 + 1 < bits ((s 1 1).regN Reg.CANARY_PASSES) 7 0 ∧ bits ((s 2 2).regN Reg.CANARY_PASSES) 7 0 ≤ 2 + 1) ∧
    ((s 1 1).tile 5).fails < 2 ∧ 2 ≤ ((s 2 2).tile 5).fails ∧ ((s 1 1).tile 6).state = 4 ∧ ((s 1 1).tile 5).state ≠ 4 := by decide +kernel
/-- In the band of 105 °C, within the tile's share and past it. -/
theorem test_ShadowsAndCanaries_band : let s (k u : Nat) : State := { up with sys := { up.sys with samples := [{ junction := List.replicate 44 k, inlet := 30, outlet := 30 }], bg := { share := 32, used := [(133, u)] } }, eng := { ({} : Engine) with tiles := [(5, { state := 3, band := 7 })] } }
    (s 105 1).bandOf 5 = ((s 105 1).tile 5).band ∧ (s 105 1).bgRoom (resTile 5) (s 105 1).clk.len ∧ (s 104 1).bandOf 5 ≠ ((s 104 1).tile 5).band ∧ (s 105 64000).bgRoom (resTile 5) (s 105 64000).clk.len = false := by decide +kernel
theorem test_ShadowsAndCanaries_set : let s : State := { up with eng := { ({} : Engine) with shadowSet := some [126, 127] } }; let r : State := { s with eng := { s.eng with shadow := some referee1 } }
    up.shadowLegal (up.shadowNamed 3 0xC0000000) ∧ up.shadowLegal (up.shadowNamed 3 0x80000000) = false ∧ s.eng.shadowSet = some [126, 127] ∧ s.eng.shadow = none ∧ s.eng.referee = [] ∧ r.eng.shadow.isSome ∧ (up.shadowNamed 3 0xC0000000).all (fun j => (up.tile j).state != 1 && !up.claimedTiles.contains j) := by decide +kernel

/-- The descriptor of `ATTN_PARTIAL` (Table 9.6): step or all ones, layers 0 and 1, one row. -/
def partialD (step : Nat) : Bytes := leBytes 8 0 ++ leBytes 8 0x8000 ++ leBytes 8 0x8000 ++ leBytes 8 step ++ leBytes 2 0 ++ leBytes 2 2 ++ leBytes 2 1 ++ leBytes 1 0 ++ leBytes 1 0 ++ leBytes 4 1 ++ leBytes 20 0
/-- Lantern 1 near, its deed 1 held at node 2. -/
def near : State := { net with lore := { net.lore with lanterns := [(1, { lanA with deeds := 3, nearState := true, embers := [(2, 1, 0, 16)] })], deeds := [(1024, { record1 with deed := 0 }), (1025, { record1 with state := .remote, home := 2, deed := 1 }), (1026, { record1 with state := .ember, deed := 2 })] } }
theorem test_AttentionAndRekindle_partial : let w := word 0 1 1 0; let u := partialD (2 ^ 64 - 1); let b := partialD 7; let s := at_ near 0x48 w; let x := cx 0x48 w
    let p := s.makePartial (.instr 0) w u none x.entry.deadline
    runsIn near 0x48 w ∧ s.prePartial w u = none ∧ s.prePartial w b = none ∧ le u 24 8 = 2 ^ 64 - 1 ∧ le b 24 8 ≠ 2 ^ 64 - 1 ∧
    goes (s.admitAt 0 x (attnItem 0 p.dst p.hops p.pAttn (2 ^ 40))) ∧ runsIn near 0x48 (word 0 2 1 0) ∧ (near.prePartial (word 0 2 1 0) u).isSome := by decide +kernel
def query1 : PartialQuery := { id := 4, key := key1, epoch := 1, placement := 1, model := 5, program := 0x8000, pAttn := 1, layerFirst := 0, layerCount := 1, rows := 1 }
def round1 : Round := { id := 4, src := 2, query := query1, meadow := 0, row := none, due := 10, arrived := 9 }
theorem test_AttentionAndRekindle_round : let s (r : Round) : State := { near with eng := { near.eng with rounds := [r] } }; let u : State := { near with eng := { near.eng with rounds := [] } }
    ((s round1).cdUp ∧ (s round1).sys.paused = false ∧ (s round1).eng.rounds = [round1] ∧ round1.arrived < near.now ∧ near.now ≤ ({ round1 with arrived := 10 } : Round).arrived) ∧
    ((s { round1 with row := some 0 }).eng.rounds.find? (fun r => r.meadow == 0 && r.id == 4 && r.row.isSome && decide (r.due ≤ near.now))).isSome ∧ u.findDeed key1 = none ∧
    heard near (fr) .partialK ∧ isOk ((after near (fr) .partialK).takeQuery 2 query1) = false ∧ ((after near (fr) .partialK).takeAnswer (.refused 4 .notResident 0 0)).2 = false := by decide +kernel
/-- The round's deed is still hosted here; a further round of a partial bound to the step that runs; an answer that a stub forwarded. -/
theorem test_AttentionAndRekindle_end : let h : State := { near with lore := { near.lore with hosted := [(0, { record1 with keeper := 2, keeperLantern := 7, deed := 1 })] }, eng := { near.eng with rounds := [{ round1 with row := some 0 }] } }
    let u : State := { h with eng := { h.eng with rounds := [] } }; let f : Frame := { fr with forwarded := true }
    h.cdUp ∧ (h.eng.rounds.find? (fun r => r.meadow == 0 && r.id == 4 && r.row.isSome && decide (r.due ≤ h.now))).isSome ∧ u.findDeed key1 = some (.hosted 0) ∧ h.eng.rounds.find? (fun r => r.meadow == 1 && r.id == 4 && r.row.isSome && decide (r.due ≤ h.now)) = none ∧
    heard near f .partialK ∧ f.forwarded := by decide +kernel
theorem test_AttentionAndRekindle_bound : let p : PartialOp := { id := 4, owner := .instr 0, lantern := 1, deed := 1, epoch := 1, placement := 1, dst := 2, outAddr := 0, queryAddr := 0, bf16 := false, program := 0x8000, model := 5, stepSeq := some 1, layerFirst := 0, layers := 2, rows := 1, pAttn := 1, hops := 1, request := none, promise := some 2, doneLayers := 1, sentLayers := 1, roundBeats := [5], missed := none, blocks := [], deadline := 10000000 }
    let c := stepping { step1 with started := true, start := 6, hdr := { hdrA with allow := 1048576 } }; let s := with_ { c with eng := { c.eng with partials := [p] }, fab := near.fab, regs := Tbl.set resetOf net.regs (Reg.LEN_OVERHEAD) 0 } (cx 0x48 (word 0 1 1 0))
    s.cdUp ∧ s.eng.partials.find? (·.id == 4) = some p ∧ (p.stepSeq.bind s.stepOf).isSome ∧ p.sentLayers = p.doneLayers ∧ p.sentLayers < p.layers ∧ (s.ctx 0).isSome ∧ p.promise.isSome ∧
    (match s.weigh p.deadline [attnItem 0 p.dst p.hops p.pAttn 1048576] with | .accept _ => true | _ => false) = true := by decide +kernel
def rec1 (a n q : Nat) : PartialRec := { id := 4, lantern := 1, deed := 1, rows := 1, epoch := 1, placement := 1, posStart := a, posCount := n, layerFirst := 0, layerCount := 1, headDim := 64, stepSeq := q, blocks := [] }
theorem test_AttentionAndRekindle_merge : let d (n : Nat) : Bytes := leBytes 2 n ++ leBytes 1 1 ++ leBytes 5 0 ++ leBytes 8 0x100; let a := [rec1 0 16 3, rec1 16 4 3]
    runsIn up 0x49 (word 0 0 0 64) ∧ le (d 2) 0 2 = a.length ∧ le (d 2) 2 1 ≤ 1 ∧ zeroAt (d 2) 3 5 ∧ oneQuery a ∧ contiguous a ∧
    oneQuery [rec1 0 16 3, rec1 16 4 4] = false ∧ contiguous [rec1 0 16 3, rec1 17 4 3] = false ∧ up.tracked (up.hdmSpan 0x100 8) = [] ∧ (up.readRecords (d 2) a 0).1 ∧ up.splitsAt 0x100 8 = false ∧ 64 < le (d 65) 0 2 ∧ le (d 0) 0 2 = 0 := by decide +kernel
theorem test_AttentionAndRekindle_rekindle : let w := word 0 0 1 64; let d := leBytes 2 1 ++ leBytes 2 2 ++ leBytes 12 0; let e := leBytes 2 2 ++ leBytes 2 1 ++ leBytes 12 0
    let s : State := { farm with lore := { farm.lore with lanterns := [(1, { lanA with deeds := 3, embers := [(1, 1, 0, 16), (2, 1, 16, 16)] })] } }; let x := cx 0x51 w
    runsIn s 0x51 w ∧ (at_ s 0x51 w).preRekindle w d 0 = none ∧ goes ((at_ s 0x51 w).admitAt 0 x ((at_ s 0x51 w).itemRekindle 0 w d 0)) ∧ (s.preRekindle w e 0).isSome := by decide +kernel

/-! ## Objects, models, the host, windows -/

def objA : Obj := { base := 0x10000, size := 0x10000, state := 1, loc := 800000, stored := 0x10000 }
/-- A committed decoder of 1 GiB and object 3, homed in GDDR7; flash ready. -/
def range : State := { net with cxl := { ({} : Cxl) with up := true, decoder := some (0, 0x40000000) }, mem := { net.mem with objs := [(3, objA)] }, fls := { ({} : Flash) with state := .ready }, regs := Tbl.set resetOf net.regs Reg.SWAP_SIZE 0x10000000 }
/-- Table 11.1: base, size, home, flags, format, location, window, cookie. -/
def objD (base size home fl loc : Nat) : Bytes := leBytes 8 base ++ leBytes 8 size ++ leBytes 1 home ++ leBytes 1 fl ++ leBytes 1 0 ++ leBytes 5 0 ++ leBytes 8 loc ++ leBytes 4 0 ++ leBytes 4 0 ++ leBytes 16 0 ++ leBytes 8 0x55
theorem test_ObjectsAndTierMoves_install : let d := objD 0x20000 0x10000 0 8 0
    (range.cdUp ∧ (range.obj 4).state = 0 ∧ range.cxl.decoder.isSome ∧ range.objShape d ∧ le d 0 8 + le d 8 8 ≤ 0x40000000 ∧ le d 16 1 = 0) ∧
    (range.mem.objs.any (fun e => e.2.state != 0 && decide (e.2.base < le d 0 8 + le d 8 8 ∧ le d 0 8 < e.2.base + e.2.size))) = false ∧
    (range.takeObj 0 (ceilDiv (objStored (le d 8 8) (bits (le d 17 1) 2 1) (bit (le d 17 1) 0)) 4096)).isSome ∧ net.cxl.decoder = none ∧ (range.obj 3).state ≠ 0 ∧ range.objInUse (range.obj 3) = false := by decide +kernel
theorem test_ObjectsAndTierMoves_move : let w (t : Nat) : IWord := word 0 0 0 0x10000 |> fun v => { v with opa := BitVec.ofNat 16 t }
    let l : State := { range with mem := { range.mem with objs := [(3, { objA with state := 2 })], tierMoves := [{ obj := 3, target := 1, loc := 0, owner := .engine, promise := none, held := [], slot := 0 }] } }
    (range.objByBase 0x10000 = some 3 ∧ runsIn range 0x60 (w 1) ∧ runsIn range 0x60 (w 2) ∧ (range.obj 3).state = 1 ∧ (range.obj 3).home = 0 ∧ range.fls.state ≠ .readOnly ∧ (range.startTierMove 3 1 (.instr 0) none 0).isSome) ∧
    (runsIn l 0x60 (w 1) ∧ (l.obj 3).state ≠ 1 ∧ runsIn range 0x61 (w 2) ∧ (range.obj 3).state ≠ 4 ∧ runsIn range 0x60 (word 0 1 0 0x20000) ∧ runsIn range 0x61 (word 0 1 0 0x20000) ∧ range.objByBase 0x20000 = none) ∧
    (l.mem.tierMoves.find? (·.obj == 3)).isSome ∧ l.cdUp ∧ l.objSnooped (l.obj 3) = false ∧ (l.obj 3).home = 0 := by decide +kernel
/-- A model descriptor (Table 9.1), with its check. -/
def modelD (id : Nat) : Bytes :=
  let b := leBytes 2 id ++ leBytes 2 2 ++ leBytes 2 4 ++ leBytes 2 1 ++ leBytes 2 64 ++ leBytes 2 1 ++ leBytes 1 3 ++ leBytes 1 0 ++ leBytes 2 512 ++ leBytes 2 2 ++ leBytes 2 0 ++ leBytes 4 1024 ++ leBytes 8 0x10000 ++ leBytes 8 0x8000 ++ leBytes 84 0
  b ++ leBytes 4 (crc32c b)
theorem test_ModelsAdaptersWeights_model : (parseModel (modelD 9)).map (·.model) = some 9 ∧ range.mem.models.find 1 = none ∧ range.modelOf 9 = none ∧ (range.mem.models.find 0).isSome ∧ parseModel (modelD 0) = none ∧
    range.modelUsed modelA ∧ range.modelUsed { modelA with model := 8 } = false := by decide +kernel
/-- The header of an adapter object: magic, model, layers, format, length, digest. -/
def adapterD (p : Bytes) (g : Bytes) : Bytes := leBytes 4 0x50444157 ++ leBytes 2 5 ++ leBytes 2 2 ++ leBytes 1 1 ++ leBytes 7 0 ++ leBytes 8 p.length ++ leBytes 8 0 ++ leBytes 8 0 ++ g.take 24
theorem test_ModelsAdaptersWeights_adapter : let p : Bytes := [1, 2, 3]; let d := adapterD p (digestBytes (sha256 p)); let w := word 0 0 0 0x10000
    let s : State := { range with mem := { range.mem with adapters := [(0, { state := 1, model := 5 })] } }
    ((range.objByBase 0x10000).isSome ∧ adapterShape d ∧ le d 16 8 = p.length ∧ (digestBytes (sha256 p)).take 24 = (d.drop 40).take 24 ∧ runsIn range 0x68 w ∧ range.mem.adapters.lowestFree 0 4096 = some 0) ∧
    (runsIn s 0x69 w ∧ (s.adapter 0).state = 1 ∧ runsIn s 0x6A (word 0 0 0 0) ∧ runsIn s 0x6A (word 0 1 0 0) ∧ (s.adapter 1).state ≠ 1) ∧
    (digestBytes (sha256 [1, 2, 4])).take 24 ≠ (d.drop 40).take 24 := by decide +kernel
theorem test_ModelsAdaptersWeights_weights : let d := leBytes 4 0x54474957 ++ leBytes 2 5 ++ leBytes 2 0 ++ leBytes 1 7 ++ leBytes 55 0; let w := word 0 0 1 0x10000
    let s : State := { range with eng := farm.eng }; let b : State := { range with eng := (stepping { step1 with started := true }).eng }
    runsIn s 0x62 w ∧ w.opb ≠ 0 ∧ (s.objByBase 0x10000).isSome ∧ weightShape d ∧ (s.mdw 0).state ≠ .free ∧ (s.mdw 0).role ≠ 2 ∧ (s.mdw 0).steps.any (·.started) = false ∧
    runsIn b 0x62 w ∧ (b.mdw 0).steps.any (·.started) := by decide +kernel
theorem test_HostInterface_access : let o (x : Obj) : State := { range with mem := { range.mem with objs := [(3, x)] } }; let n : State := { range with cxl := { range.cxl with snoops := [0x10040] } }
    (State.reset.cdUp = false ∧ n.cdUp ∧ n.cxl.snoops.contains (lineOf 0x1007F) ∧ range.cxl.snoops = [] ∧ range.objAt 0xFFFF = none ∧ range.objAt 0x10000 = some 3 ∧ range.objAt 0x20000 = none ∧ range.cxl.ideInsecure = false) ∧
    ((o { objA with readOnly := true }).objAt 0x1FFFF = some 3 ∧ ((o { objA with home := 1 }).obj 3).home = 1 ∧ ((o { objA with home := 3 }).obj 3).home = 3 ∧ ((o { objA with state := 2 }).obj 3).state = 2) := by decide +kernel
theorem test_HostInterface_link : let r : ReadThrough := { tier := 2, obj := 3, unit := 0, offs := [0x10000] }; let s : State := { range with mem := { range.mem with rts := [r] } }
    s.cdUp ∧ s.mem.rts.find? (·.tier == 2) = some r ∧ s.cxl.ingress = [] ∧ (range.cxl.snoops.contains 64) = false ∧ up.mem.objs.any (fun e => e.2.state != 0) = false ∧ range.mem.objs.any (fun e => e.2.state != 0) ∧
    0x10000000 % 268435456 = 0 ∧ 0x8000000 % 268435456 ≠ 0 ∧ up.sys.perst = true ∧ ({ up with sys := { up.sys with perst := false } } : State).sys.clkSel ≠ 3 ∧ spdmCodes.contains 0 = false := by decide +kernel

def winA : Window := { state := 1, generation := 6, root := 0x200, peer := 2, rights := 7, tcMask := 0xFF, lamp := some 4, sealOff := 0, staging := [pg 800032], deed := { record1 with pages := [pg 800000], npages := 1, region := true } }
def frW (gen tc off len : Nat) : Frame := { fr 5 off true len with window := some 9, generation := gen, tc := tc }
def gate (w : Window) : State := { net with fab := { net.fab with windows := [(9, w)] } }
/-- The descriptor of `WIN_OPEN`. -/
def winD (root stage rights lamp seal_ : Nat) : Bytes := leBytes 8 root ++ leBytes 8 2 ++ leBytes 4 stage ++ leBytes 1 rights ++ leBytes 1 0xFF ++ leBytes 2 lamp ++ leBytes 8 seal_ ++ leBytes 32 0
theorem test_WindowOpenRevoke : let d := winD 0x100 1 7 4 65528; let w := word 0 4 9 64; let v := word 0 4 9 0
    let o : State := { store with fab := { ({} : Fabric) with windows := [(9, winA)] } }; let r (b : Nat) : State := { store with fab := { ({} : Fabric) with windows := [(9, { winA with state := 2, revokeBeat := b, revokeCtx := some 0 })] } }
    (runsIn store 0x70 (word 0 0 9 64) ∧ winShape d ∧ (store.window 9).state = 0 ∧ (store.window 9).deed.state = .none ∧ store.listAt (le d 0 8) = .user 0x100 ∧ (store.plist 0x100).bound = none ∧ (store.plist 0x100).readOnly = false ∧ sameRatio (store.plist 0x100).pages ∧ le d 24 8 + 8 = (store.plist 0x100).pages.length * pageBytes 0 ∧ (store.takePages 0 0 1).isSome) ∧
    (runsIn o 0x70 (word 0 0 9 64) ∧ (o.window 9).state ≠ 0 ∧ runsIn o 0x71 v ∧ (o.window 9).state = 1 ∧ runsIn store 0x71 v ∧ w.opc ≠ v.opc) ∧
    (r 7).now = ((r 7).window 9).revokeBeat + 3 ∧ (r 8).now < ((r 8).window 9).revokeBeat + 3 ∧ (r 7).cdUp ∧ (r 7).fab.copiesIn = [] ∧ ((r 7).window 9).revokeCtx = some 0 := by decide +kernel
theorem test_WindowFrames_check : let g := gate winA; let f := frW 6 3 0 64
    heard g f .winSeal ∧ (after g f .winSeal).windowCheck f 2 (fun _ => true) = none ∧ (after g (frW 7 3 0 64) .winSeal).windowCheck (frW 7 3 0 64) 2 (fun _ => true) = some 1 ∧
    (gate { winA with state := 2 }).windowCheck f 2 (fun _ => true) = some 2 ∧ (gate { winA with rights := 3 }).windowCheck f 2 (fun _ => true) = some 3 ∧ (g.window 9).lamp = some 4 ∧
    heard g f .read ∧ f.offset % 64 = 0 ∧ 65472 + 64 ≤ ((after g f .read).window 9).size ∧ (after g f .read).admitted ((after g f .read).window 9) 2 := by decide +kernel
theorem test_WindowFrames_load : let y : Load := { id := 5, dst := 2, window := 9, off := 0, len := 64, sentNs := 0, hdm := 0 }
    let s (t : Nat) : State := { net with regs := Tbl.set resetOf net.regs Reg.LOAD_TIMEOUT 2, clk := { net.clk with time := t }, fab := { net.fab with loads := [y] } }
    heard (s 0) (fr 5) .readResp ∧ (after (s 0) (fr 5) .readResp).fab.loads.find? (fun x => x.id == 5 && x.dst == 2) = some y ∧ (s 0).fab.loads.find? (·.id == 5) = some y ∧
    (s 1999).clk.time < y.sentNs + 1000 * bits ((s 1999).regN Reg.LOAD_TIMEOUT) 7 0 ∧ y.sentNs + 1000 * bits ((s 2000).regN Reg.LOAD_TIMEOUT) 7 0 ≤ (s 2000).clk.time ∧
    runsIn net 0x73 (word 0 0 9 2) ∧ net.preSeal (word 0 0 9 2) (cx 0x73 (word 0 0 9 2)) = none ∧ runsIn net 0x73 (word 0 0 9 1) ∧ (net.preSeal (word 0 0 9 1) (cx 0x73 (word 0 0 9 1))).isSome := by decide +kernel
/-- The descriptor of `COPY`. -/
def copyD (dst tc len : Nat) : Bytes := leBytes 8 0x1000 ++ leBytes 8 dst ++ leBytes 2 9 ++ leBytes 2 6 ++ leBytes 1 tc ++ leBytes 3 0 ++ leBytes 8 0 ++ leBytes 8 len ++ leBytes 24 0
theorem test_Copies_start : let d := copyD 2 1 64; let w := word 0 0 0 64; let x := cx 0x72 w; let s := at_ net 0x72 w
    runsIn net 0x72 w ∧ s.preCopy d 0 = none ∧ goes (s.admitAt 0 x (s.itemCopy 0 d)) ∧ (s.preCopy (copyD 1 1 64) 0).isSome := by decide +kernel
def copyO : CopyOpen := { dstOff := 0, len := 128, frames := 2, promised := 20 }
def copyIn1 (got : Nat) : CopyIn := { id := 5, src := 2, window := 9, op := copyO, firstPage := 0, stage := [pg 800032], got := got, sealedAt := false, till := 99 }
theorem test_Copies_target : let g := gate winA; let f := frW 6 1 0 64; let t := after g f .openK
    let s (n : Nat) : State := { g with fab := { g.fab with copiesIn := [copyIn1 n] } }
    let inside (o : CopyOpen) (w : Window) : Bool := decide (1 ≤ o.len ∧ o.dstOff + o.len ≤ w.size ∧ (touched w.ratio o.dstOff o.len).2 ≤ w.staging.length)
    (heard g f .openK ∧ t.windowCheck f 1 (inside copyO) = none ∧ t.windowCheck f 1 (inside { copyO with dstOff := 65409 }) = some 3) ∧
    (heard (s 0) f .data ∧ (after (s 0) f .data).copyInOf f = some (copyIn1 0) ∧ (after (s 0) f .data).windowCheck f 1 (fun _ => decide (0 ≤ f.offset ∧ f.offset + 64 ≤ 128)) = none) ∧
    (copyIn1 0).got + 1 < copyO.frames ∧ copyO.frames ≤ (copyIn1 1).got + 1 ∧ ((copyIn1 1).sealedAt || f.sealBit) := by decide +kernel
theorem test_Copies_commit : let z : CopyOut := { id := 5, owner := .engine, src := 0, dst := 2, window := 9, generation := 6, tc := 1, dstOff := 0, len := 64, sent := 64, k := 0, n := 4, promise := none, svc := 0, opened := true }
    let s : State := { net with fab := { net.fab with copies := [z] } }
    heard s (fr 5) .commit ∧ (after s (fr 5) .commit).fab.copies.find? (fun x => x.id == 5 && x.dst == 2) = some z := by decide +kernel
/-- The busy clauses, an engine's migration not yet served, a lost unit of an object in flash, an exact object with and without an expander. -/
theorem test_ObjectsAndTierMoves_more : let b (off : Nat) : State := { range with sys := { range.sys with busy := [off] } }
    let f : State := { range with mem := { range.mem with objs := [(3, { objA with home := 2, loc := 256 })], tierMoves := [{ obj := 3, target := 0, loc := 0, owner := .engine, promise := none, held := [], slot := 0 }] }, fls := { range.fls with map := [(1, { ({} : MapEnt) with lost := true })] } }
    let j : State := { f with sys := { f.sys with bg := { f.sys.bg with jobs := [{ act := 7, id := 3, need := [(1, 5)] }] } } }
    (b Reg.OBJ_CMD).busy Reg.OBJ_CMD ∧ (b Reg.MODEL_CMD).busy Reg.MODEL_CMD ∧ range.busy Reg.OBJ_CMD = false ∧ range.busy Reg.MODEL_CMD = false ∧ (b Reg.OBJ_CMD).cdUp ∧
    f.cdUp ∧ f.objSnooped (f.obj 3) = false ∧ f.jobDone 7 3 ∧ j.jobDone 7 3 = false ∧ (j.mem.tierMoves.find? (·.obj == 3)).isSome ∧ (f.obj 3).home = 2 ∧ f.fls.state = .ready ∧ f.flLost (f.obj 3).loc (f.obj 3).units ∧
    range.flLost 0 1 = false := by decide +kernel
theorem test_ModelsAdaptersWeights_exact : let d := leBytes 4 0x54474957 ++ leBytes 2 5 ++ leBytes 2 0 ++ leBytes 1 7 ++ leBytes 55 0; let w := word 0 0 1 0x10000
    let e (n : Nat) : State := { range with eng := farm.eng, mem := { range.mem with objs := [(3, { objA with exact := true })] }, regs := Tbl.set resetOf range.regs Reg.EXP_ASSIGN n }
    runsIn (e 0xFFFFFFF0) 0x62 w ∧ weightShape d ∧ (e 0).objByBase 0x10000 = some 3 ∧ ((e 0).obj 3).exact ∧ ((e 0xFFFFFFF0).expanderOf 0).isSome ∧ (e 0xFFFFFFFF).expanderOf 0 = none := by decide +kernel
/-- The filter is full with 4,194,304 lines that the host holds, none of them the one read; not with none. -/
theorem lines_full (n : Nat) : ({ range with cxl := { range.cxl with lines := List.replicate n 0 } } : State).filterFull 64 = decide (4194304 ≤ n) := by
  simp [State.filterFull]
theorem test_HostInterface_hostMemoryAccess_full : ({ range with cxl := { range.cxl with lines := List.replicate 4194304 0 } } : State).filterFull 64 = true ∧ range.filterFull 64 = false :=
  ⟨by rw [lines_full]; decide, by decide +kernel⟩
theorem test_HostInterface_hostMemoryAccess_more : let o (x : Obj) : State := { range with mem := { range.mem with objs := [(3, x)] } }
    ((o { objA with home := 2 }).obj 3).home = 2 ∧ ((o { objA with state := 2 }).obj 3).home = 0 ∧ (o objA).objAt 0x10040 = some 3 ∧ ((range.setObj 3 { range.obj 3 with touchBeat := range.now }).obj 3).state = 1 ∧
    ({ range with cxl := { range.cxl with ideInsecure := true } } : State).cdUp := by decide +kernel
/-- A late answer with a promise that waits for it; what each side offers. -/
theorem test_HostInterface_hostLinkEvents_more : let m : TierMv := { obj := 3, target := 1, loc := 0, owner := .instr 0, promise := some 2, held := [], slot := 0 }
    let s : State := { range with cxl := { range.cxl with snoops := [0x10040] }, mem := { range.mem with tierMoves := [m] }, io := { range.io with promises := [promise0] } }
    let both (l : List SpdmAlg) := [SpdmAlg.sha256, .slhDsaSha2128f, .secp384r1, .aes256gcm].filter l.contains
    s.cxl.snoops.contains 0x10040 ∧ s.awaiting 0x10040 = [some 2] ∧ (s.promise 2).isSome ∧ s.objAt 0x10040 = some 3 ∧ (s.obj 3).home = 0 ∧
    both [.other 1] = [] ∧ both [.aes256gcm, .other 1, .sha256] = [.sha256, .aes256gcm] ∧ ([] : List (BitVec 8)).length ≤ 65536 ∧ spdmCodes.contains 0xE3 ∧ spdmCodes.contains 0 = false ∧
    ({ range.cxl with session := 2 } : Cxl).session = 2 ∧ range.cxl.session ≠ 2 ∧ ({ range.cxl with algs := some (both [.sha256, .slhDsaSha2128f, .secp384r1, .aes256gcm]) } : Cxl).algs = some [.sha256, .slhDsaSha2128f, .secp384r1, .aes256gcm] ∧
    range.sys.clkSel ≠ 3 ∧ ({ range with sys := { range.sys with perst := false } } : State).sys.perst = false := by decide +kernel
/-- The region's deed is lent: the check refuses; a load, a `SEAL` and its refusal. -/
theorem test_WindowFrames_deed : let f := frW 6 3 0 64; let g := gate { winA with deed := { winA.deed with state := .lent } }; let z : SealOut := { id := 5, owner := .engine, node := 2 }
    let s : State := { net with fab := { net.fab with seals := [z] } }
    g.windowCheck f 2 (fun _ => true) = some 4 ∧ (g.window 9).deed.state ≠ .home ∧ (gate winA).windowCheck (frW 6 3 0 64) 2 (fun _ => false) = some 3 ∧ g.admitted (g.window 9) 2 ∧ f.window = some 9 ∧
    heard s (fr 0) .nack ∧ (after s (fr 0) .nack).fab.seals.find? (fun z => z.node == (fr 0).src && z.id == 5) = some z ∧
    ({ net with fab := { net.fab with gens := [(4096 * 2 + 9, 6)] } } : State).knownGen 2 9 = (6, { net with fab := { net.fab with gens := [(4096 * 2 + 9, 6)] } }) := by decide +kernel
/-- A `COPY` of a line that the host holds; a copy whose region left meanwhile; PERST_N up. -/
theorem test_Copies_more : let d := leBytes 8 (4096 * 800000) ++ (copyD 2 1 64).drop 8; let w := word 0 0 0 64; let s : State := { range with cxl := { range.cxl with lines := [0x10000] } }
    let g : State := { gate { winA with deed := { winA.deed with state := .orphaned } } with fab := { (gate { winA with deed := { winA.deed with state := .orphaned } }).fab with copiesIn := [copyIn1 1] } }
    runsIn s 0x72 w ∧ s.copyShape d 0 ∧ s.tracked (s.gddrSpan (le d 0 8) (le d 32 8)) = [0x10000] ∧ (at_ net 0x72 w).tracked ((at_ net 0x72 w).gddrSpan 0x1000 64) = [] ∧
    (g.window (copyIn1 1).window).deed.state ≠ .home := by decide +kernel

/-! ## Fields, beats, beacons -/

/-- A field descriptor (Tables 15.3, 15.4) with its check: this node 1 on meadow 0, node 2 on meadow 0. -/
def fieldD (id root epoch tiles : Nat) : Bytes :=
  let h := leBytes 4 0x444C4946 ++ leBytes 4 id ++ leBytes 8 root ++ leBytes 4 2000 ++ leBytes 2 2 ++ leBytes 2 1 ++ leBytes 4 epoch ++ leBytes 2 5 ++ leBytes 2 tiles ++ leBytes 28 0
  let m := (leBytes 8 1 ++ leBytes 1 0 ++ leBytes 1 4 ++ leBytes 6 0) ++ (leBytes 8 2 ++ leBytes 1 0 ++ leBytes 1 4 ++ leBytes 6 0)
  h ++ leBytes 4 (crc32c (h ++ m)) ++ m
def members12 : List FieldMember := [{ node := 1, meadow := 0, weight := 4 }, { node := 2, meadow := 0, weight := 4 }]
def fieldA : FieldSt := { state := 2, id := 11, epoch := 1, root := 1, members := members12, floor := 1, beatNs := 2000, model := 5, tiles := 4 }
/-- Node 1, meadow 0 running its model, in a field `f`; `b` its beacon state and `r` its root. -/
def grange (f : FieldSt) (b : BeaconState := .master) (r : NodeId := 1) : State :=
  { net with mem := farm.mem, eng := farm.eng, fld := [(0, f)], clk := { net.clk with beacon := b, root := r } }
theorem test_FieldForming_fieldInstructions_form : let g := grange {}; let l := grange {} .locked 2; let w := word 0 0 0 64
    runsIn g 0x78 w ∧ g.preForm 0 (fieldD 11 1 0 4) = none ∧ (parseField (fieldD 11 1 0 4)).root = g.me ∧
    runsIn l 0x78 w ∧ l.preForm 0 (fieldD 11 2 0 4) = none ∧ (parseField (fieldD 11 2 0 4)).root ≠ l.me ∧ (g.preForm 0 (fieldD 11 1 0 5)).isSome := by decide +kernel
theorem test_FieldForming_fieldInstructions_change : let g := grange fieldA
    (runsIn g 0x79 (word 0 0 0 3) ∧ g.preFieldAdmit 0 3 = none ∧ runsIn g 0x79 (word 0 0 0 2) ∧ (g.preFieldAdmit 0 2).isSome) ∧
    (runsIn g 0x7A (word 0 0 0 2) ∧ g.preExpel 0 2 = none ∧ runsIn g 0x7A (word 0 0 0 1) ∧ (g.preExpel 0 1).isSome) ∧
    runsIn g 0x7B (word 0 0 0 64) ∧ g.preReform 0 (fieldD 11 1 1 4) = none ∧ (parseField (fieldD 11 1 1 4)).beatNs = g.clk.len ∧ (g.preReform 0 (fieldD 11 1 2 4)).isSome := by decide +kernel
theorem test_FieldForming_fieldInstructions_reform_refused : let g : State := { grange fieldA with clk := { (grange fieldA).clk with len := 4000 }, fld := [(0, fieldA), (1, { fieldA with id := 12 })] }; let a := grange fieldA
    let ch : FieldChange := { kind := .reform, desc := parseField (fieldD 11 1 1 4), subject := 1 }
    g.answerTo 0 ch = some true ∧ a.answerTo 0 ch ≠ some true ∧ (parseField (fieldD 11 1 1 4)).root = 1 ∧ runsIn a 0x7B (word 0 0 0 64) ∧ runsIn g 0x7B (word 0 0 0 64) ∧ g.preReform 0 (fieldD 11 1 1 4) = none ∧ (parseField (fieldD 11 1 1 4)).beatNs ≠ g.clk.len := by decide +kernel
def formA : FieldSt := { state := 1, id := 11, root := 1, members := members12, desc := some (parseField (fieldD 11 1 0 4)), since := 4 }
theorem test_FieldForming_ready : let g := grange formA; let t := after g (fr) .mgmt; let h := grange { formA with root := 2 }; let u := after h (fr) .mgmt
    (heard g (fr) .mgmt ∧ t.fld.find? (fun e => e.2.id == 11 && e.2.state == 1 && e.2.root == t.me) = some (0, formA) ∧ (∃ e ∈ formA.members, e.node = (fr).src) ∧ formA.desc.map (·.crc) ≠ some 0) ∧
    (heard h (fr) .mgmt ∧ u.fld.find? (fun e => e.2.id == 11 && e.2.state == 1 && e.2.root == (fr).src) = some (0, { formA with root := 2 }) ∧ u.now = 10) := by decide +kernel
/-- FIELD_FORM_TIMEOUT at its last beat; beat c reached and not. -/
theorem test_FieldForming_timeout : let g (t : Nat) (f : FieldSt) : State := { grange f with regs := Tbl.set resetOf net.regs Reg.FIELD_FORM_TIMEOUT t }; let h : FieldSt := { formA with root := 2 }
    ((g 6 h).field 0).since + bits ((g 6 h).regN Reg.FIELD_FORM_TIMEOUT) 23 0 ≤ (g 6 h).now ∧ (g 7 h).now < ((g 7 h).field 0).since + bits ((g 7 h).regN Reg.FIELD_FORM_TIMEOUT) 23 0 ∧ ((g 6 h).field 0).commitAt = none ∧ ((g 6 h).field 0).root ≠ (g 6 h).me ∧
    (g 6 { h with commitAt := some 10 }).cdUp ∧ ((g 6 { h with commitAt := some 10 }).mdw 0).steps.any (·.started) = false ∧ ((g 6 { h with commitAt := some 11 }).field 0).commitAt = some 11 ∧ h.owner = none := by decide +kernel
theorem test_FieldsAtWork_fieldAtWork_change : let g := grange fieldA; let t := after g (fr) .mgmt; let ch : FieldChange := { kind := .straggle, desc := fieldA.descOf members12, subject := 2 }
    heard g (fr) .mgmt ∧ t.changeMeadow ch = some 0 ∧ ch.kind ≠ .reform ∧ t.changeMeadow { ch with desc := { ch.desc with fieldId := 12, members := [] } } = none ∧ t.fieldBy 11 = some 0 ∧ (t.field 0).root = t.me ∧ (∃ e ∈ (t.field 0).members, e.node = (fr).src) ∧ t.fieldBy 12 = none ∧
    heard g (fr) .collective ∧ (after g (fr) .collective).fld.find? (fun e => (after g (fr) .collective).fielded e.1 && e.2.members.any (·.node == (fr).src)) = some (0, fieldA) ∧ (fr).stamp ≠ fieldA.epoch ∧ ({ fr with stamp := 1 } : Frame).stamp = fieldA.epoch := by decide +kernel
def report1 (n : NodeId) (slack : Int) : NodeId × StepReport := (n, { fieldId := 11, stepSeq := 0, slack := slack, derated := false, quarantined := 0, retx := 0 })
theorem test_FieldsAtWork_fieldAtWork_evaluate : let a : FieldSt := { fieldA with reports := [report1 1 0, report1 2 (-1)], evalSeq := some 0, health := [(1, 1000), (2, 990)] }; let g := grange a; let h := grange { a with reports := [report1 1 0] }
    g.cdUp ∧ g.leads 0 ∧ (g.field 0).evalSeq = some 0 ∧ (∀ e ∈ (g.field 0).members, (((g.field 0).reports.find? (fun r => r.1 == e.node && r.2.stepSeq == 0)).map (·.2)).isSome = true) ∧ (grange { a with state := 3 }).leads 0 ∧
    (∃ e ∈ (h.field 0).members, ((h.field 0).reports.find? (fun r => r.1 == e.node && r.2.stepSeq == 0)).map (·.2) = none) ∧ h.regN (Reg.STEP_SEQ 0) ≤ 0 := by decide +kernel
theorem test_FieldsAtWork_fieldControl : let h := grange { fieldA with state := 3 }; let d : State := { grange {} with eng := { farm.eng with meadows := [(0, { ({} : Meadow) with state := .drained, tiles := [0] })] } }; let b : State := d.setRegN Reg.FIELD_READY (2 ^ 30)
    h.leads 0 ∧ (h.field 0).state = 3 ∧ ((grange fieldA).field 0).state ≠ 3 ∧ (d.mdw 0).state = .drained ∧ bit (d.regN Reg.FIELD_READY) 30 = false ∧ bit (b.regN Reg.FIELD_READY) 30 ∧ d.cdUp := by decide +kernel
theorem test_BeatClock_beatLength_write : up.cdUp ∧ up.anyField = false ∧ beatLegal (500#32).toNat ∧ beatLegal (65500#32).toNat ∧ up.gatesFit 500 ∧ beatLegal 65550 = false ∧ beatLegal 2001 = false ∧ up.clk.len = 2000 ∧ (grange fieldA).anyField ∧ (grange fieldA).cdUp := by decide +kernel
theorem test_BeatClock_beatLength_effect : let s : State := { up with clk := { up.clk with lenPending := some 1950, order := 2 } }; let b : State := { stepping step1 with clk := { up.clk with lenPending := some 2050 } }; let p : State := { up with clk := { up.clk with lenPending := some 2050 }, io := { up.io with promises := [promise1] } }
    s.clk.lenPending = some 1950 ∧ s.cdUp ∧ (∀ e ∈ s.eng.meadows, e.2.steps = []) ∧ s.eng.shadow = none ∧ s.eng.referee = [] ∧ s.io.promises = [] ∧ (∃ e ∈ b.eng.meadows, e.2.steps ≠ []) ∧ (∃ q ∈ p.io.promises, q.b < 2050) ∧ 1950 ≤ ({ promise1 with b := 2000 } : Promise).b ∧ s.clk.order ≤ 2 ∧ 2 < ({ s.clk with order := 3 } : Clock).order ∧ s.anyField = false ∧ up.clk.lenPending = none := by decide +kernel
theorem test_BeatClock_beatAdvances : up.cdUp ∧ ({ up.clk with correction := 9 } : Clock).correction > 8 ∧ ({ up.clk with correction := -9 } : Clock).correction < -8 ∧ State.reset.cdUp = false ∧ 8 ≤ up.clk.time + up.clk.len := by decide +kernel
/-- R43: at the printed 1.2 × 10⁹ readings a second. -/
theorem test_TimingAndVoltage : let s : State := up.setRegN Reg.TAPER_MARGIN 0; let d (n : Nat) : State := { up with clk := { up.clk with timing := .derated, exitCount := n }, regs := Tbl.set resetOf [] Reg.DERATED_EXIT 4 }
    (1200000000 ∈ [1200000000, 1200000001] ∧ (∀ r ∈ [1200000000, 1200000001], 1200000000 ≤ r) ∧ 1200000000 * (1024 + s.regN Reg.TAPER_MARGIN % 256) ≤ 1024 * 1200000000 ∧ 1024 * 1200000000 < 1200000000 * (1024 + (up.setRegN Reg.TAPER_MARGIN 1).regN Reg.TAPER_MARGIN % 256)) ∧
    bits ((d 4).regN Reg.DERATED_EXIT) 15 0 ≤ (d 4).clk.exitCount ∧ (d 3).clk.exitCount < bits ((d 3).regN Reg.DERATED_EXIT) 15 0 ∧ up.clk.timing ≠ .derated ∧ (d 3).cdUp ∧
    bit ((up.setRegN Reg.VOLT_CTRL 0).regN Reg.VOLT_CTRL) 31 = false ∧ bit ((up.setRegN Reg.VOLT_CTRL 0x80000000).regN Reg.VOLT_CTRL) 31 := by decide +kernel
/-- The order of the beat, 64 high beats in a row and 63, and readings of the tiles. -/
theorem test_TimingAndVoltage_order : let s (o h : Nat) : State := { up with clk := { up.clk with order := o, highCount := h, tapers := [1200000000] } }
    7 ≤ (s 7 64).clk.order ∧ 64 ≤ (s 7 64).clk.highCount ∧ (s 7 63).clk.highCount < 64 ∧ (s 6 64).clk.order = 6 ∧ (s 7 64).clk.tapers = [1200000000] ∧ (s 7 64).cdUp ∧ bit ((s 7 64).regN Reg.VOLT_CTRL) 31 = false := by decide +kernel
/-- A step of meadow 0 on tile 5 that ended its tile stages in beat 8, with 4 beats and 3 left; one not yet started, in its start beat; a tile that work waits for. -/
theorem test_BackgroundWork_slackUse : let g (start : Nat) (t : Step) : State := { up with eng := { ({} : Engine) with gated := [6], meadows := [(0, { ({} : Meadow) with state := .running, tiles := [5, 6], steps := [{ t with start := start }] })] } }
    let d : Step := { step1 with started := true, used := some 1 }; let a := g 10 d; let b := g 8 d; let c := g 10 step1; let e := g 7 d
    let j : BgJob := { act := 3, id := 1, need := [(resTile 5, 10)] }; let w : State := { a with sys := { a.sys with bg := { a.sys.bg with jobs := [j] } } }
    a.headStep 4 = none ∧ a.headStep 5 = some { d with start := 10 } ∧ 10 + d.hdr.pLen - a.now = 4 ∧ a.tileWanted 5 = false ∧ w.tileWanted 5 ∧
    8 + d.hdr.pLen - b.now = 2 ∧ 6 ∈ b.eng.gated ∧ 5 ∉ b.eng.gated ∧ 7 + d.hdr.pLen - e.now = 1 ∧ (c.headStep 5 = some { step1 with start := 10 } ∧ step1.started = false ∧ 10 ≤ c.now) ∧ j.act ≠ 8 ∧
    ({ step1 with started := true } : Step).used.isSome = false := by decide +kernel
def beacon1 : Beacon := { beatNumber := 9, beatTime := 0, rootId := 2, lenNs := 2000, hops := 4, reservedZero := true, sendOffset := 0 }
theorem test_Beacons_follow : net.cdUp ∧ net.anyField = false ∧ (2 : NodeId) ≠ 0 ∧ (2 : NodeId) ≠ net.me ∧ (1 : NodeId) = net.me ∧ (grange fieldA).anyField ∧
    heard (grange {}) (fr) .mgmt ∧ (after (grange {}) (fr) .mgmt).clk.beacon = .master ∧ (fr).src ∉ (after (grange {}) (fr) .mgmt).clk.followers ∧ (after (grange {}) (fr) .mgmt).clk.followers.length < treeMax := by decide +kernel
theorem test_Beacons_full : let g : State := { grange {} with clk := { (grange {}).clk with followers := (List.range treeMax).map (fun i => BitVec.ofNat 64 (i + 10)) } }
    heard g (fr) .mgmt ∧ (after g (fr) .mgmt).clk.beacon = .master ∧ (fr).src ∉ (after g (fr) .mgmt).clk.followers ∧ treeMax ≤ (after g (fr) .mgmt).clk.followers.length := by decide +kernel
theorem test_Beacons_arrive : let l := grange {} .locked 2; let f := fr 0 0 false 40; let t := after l f .beacon
    heard l f .beacon ∧ t.clk.beacon = .locked ∧ beaconValid beacon1 f.payloadLen ∧ beaconValid { beacon1 with hops := 5 } f.payloadLen = false ∧ beaconValid beacon1 (fr).payloadLen = false ∧ beacon1.rootId = t.clk.root ∧
    t.beaconOffset 0 { beacon1 with beatNumber := 10 } 25 = 25 ∧ t.beaconOffset 0 { beacon1 with beatNumber := 10 } 26 = 26 := by decide +kernel
theorem test_Beacons_lost : let s (k b : Nat) (n : BeaconState) : State := { net with clk := { net.clk with now := 2000, beacon := n, root := 2, lastBeacon := b, followAt := some k }, regs := Tbl.set resetOf net.regs Reg.BEACON_LOSS 10 }
    (s 976 1990 .locked).clk.followAt = some 976 ∧ 976 + 1024 ≤ (s 976 1990 .locked).now ∧ (s 977 1990 .locked).now < 977 + 1024 ∧ (s 976 1990 .acquiring).clk.beacon ≠ .locked ∧ (s 976 1990 .acquiring).cdUp ∧
    1990 + bits ((s 0 1990 .locked).regN Reg.BEACON_LOSS) 7 0 ≤ (s 0 1990 .locked).now ∧ (s 0 1991 .locked).now < 1991 + bits ((s 0 1991 .locked).regN Reg.BEACON_LOSS) 7 0 ∧
    ({ up with clk := { up.clk with beacon := .freeRun, freeSince := 0, now := 2000000 } } : State).holdoverOver ∧ up.holdoverOver = false := by decide +kernel
/-- Eight followers and one more; a follower that is told of one; a locked one whose request is 1,024 beats old. -/
theorem test_Beacons_tree : let l (k : Nat) : List NodeId := (List.range k).map (fun i => BitVec.ofNat 64 (i + 10)); let g (k : Nat) : State := { grange {} with clk := { (grange {}).clk with followers := l k } }
    let h : State := { grange {} .locked 2 with clk := { (grange {} .locked 2).clk with children := [] } }
    (heard (g 8) (fr) .mgmt ∧ (after (g 8) (fr) .mgmt).clk.followers.length = 8 ∧ (after (g 7) (fr) .mgmt).clk.followers.length < 8 ∧ 8 < treeMax ∧ (fr).src ∉ l 8) ∧
    heard h (fr) .mgmt ∧ (after h (fr) .mgmt).clk.beacon = .locked ∧ (fr).src = (after h (fr) .mgmt).clk.root ∧ (3 : NodeId) ∉ (after h (fr) .mgmt).clk.children := by decide +kernel
theorem test_Beacons_loss : let s (b : Nat) : State := { net with clk := { net.clk with now := 2000, beacon := .locked, root := 2, lastBeacon := b }, regs := Tbl.set resetOf net.regs Reg.BEACON_LOSS 10 }
    (s 1989).clk.lastBeacon + bits ((s 1989).regN Reg.BEACON_LOSS) 7 0 < (s 1989).now ∧ (s 1990).now ≤ (s 1990).clk.lastBeacon + bits ((s 1990).regN Reg.BEACON_LOSS) 7 0 ∧ (s 1989).cdUp := by decide +kernel
/-- A reform that names another root; a hold from the root and from another; a release; a request's row with its epochs. -/
theorem test_FieldsAtWork_fieldAtWork_more : let g := grange { fieldA with root := 2 }; let t := after g (fr) .mgmt; let h := grange { fieldA with root := 2, state := 3 }
    let r (k : ChangeKind) (n : NodeId) : FieldChange := { kind := k, desc := { fieldA.descOf members12 with root := n }, subject := 2 }
    let q : Request := { state := .running, meadow := 0, lantern := 1, row := some 3, placement := 4 }; let z : State := { grange fieldA with lore := { net.lore with requests := [(6, q)] } }; let u := after z (fr) .collective
    (heard g (fr) .mgmt ∧ t.changeMeadow (r .reform 3) = some 0 ∧ (t.field 0).root ≠ 0 ∧ (r .reform 3).desc.root ≠ (t.field 0).root ∧ isHold (r .reform 3).kind = false) ∧
    (t.changeMeadow (r (.hold 1) 2) = some 0 ∧ (t.field 0).root = (fr).src ∧ (t.field 0).state = 2 ∧ ((after (grange fieldA) (fr) .mgmt).field 0).root ≠ (fr).src) ∧
    (heard h (fr) .mgmt ∧ (after h (fr) .mgmt).changeMeadow (r .release 2) = some 0 ∧ ((after h (fr) .mgmt).field 0).root = (fr).src ∧ ((after h (fr) .mgmt).field 0).state = 3) ∧
    (heard z (fr) .collective ∧ (fr).forwarded = false ∧ u.fld.find? (fun e => u.fielded e.1 && e.2.members.any (·.node == (fr).src)) = some (0, fieldA) ∧
      u.lore.requests.find? (fun e => e.2.meadow == 0 && e.2.state.live && e.2.row == some 3) = some (6, q) ∧ u.contributionOk 0 4 3 [(1, 1)] ∧ u.contributionOk 0 4 3 [(1, 2)] = false ∧ u.contributionOk 0 5 3 [(1, 1)] = false) := by decide +kernel
/-- The reports of step 0 of both members arrived in beat 9, in `HOLD` or not, and one's is missing when step 1 has committed. -/
theorem test_FieldsAtWork_fieldAtWork_scores : let a (st : Nat) : FieldSt := { fieldA with state := st, reports := [report1 1 0, report1 2 (-1)], evalSeq := some 0, reportBeat := 9, health := [(1, 1000), (2, 990)] }; let l : State := (grange { a 2 with reports := [report1 1 0] }).setRegN (Reg.STEP_SEQ 0) 1
    (grange (a 2)).leads 0 ∧ ((grange (a 2)).field 0).reportBeat < (grange (a 2)).now ∧ ((grange (a 3)).field 0).state = 3 ∧ (grange (a 3)).leads 0 ∧ (∀ e ∈ ((grange (a 3)).field 0).members, (((a 3).reports.find? (fun r => r.1 == e.node && r.2.stepSeq == 0)).map (·.2)).isSome = true) ∧
    0 < l.regN (Reg.STEP_SEQ 0) ∧ l.leads 0 ∧ (l.field 0).evalSeq = some 0 ∧ deduction 0x05 (some (report1 1 0).2) = 0 ∧ deduction 0x010000 (some (report1 2 (-1)).2) ≠ 0 ∧ deduction 0x010000 none ≠ 0 ∧ (grange {}).fieldBy 11 = none := by decide +kernel
/-- The prep job's time is served or not. -/
theorem test_FieldsAtWork_fieldControl_job : let s (n : Nat) : State := { (grange {}).setRegN Reg.FIELD_READY (2 ^ 30) with sys := { (grange {}).sys with bg := { (grange {}).sys.bg with jobs := [{ act := 8, id := prepJob, need := [(resTile 0, n)] }] } } }
    bit ((s 0).regN Reg.FIELD_READY) 30 ∧ (s 0).jobDone 8 prepJob ∧ (s 1).jobDone 8 prepJob = false ∧ ((grange fieldA).leads 0 = true ∧ ((grange fieldA).field 0).state ≠ 3) := by decide +kernel
theorem test_FieldForming_commit : let g (c : Option Nat) : State := grange { formA with root := 2, commitAt := c }
    heard (g none) (fr) .mgmt ∧ (10 : Nat) ≤ (after (g none) (fr) .mgmt).now ∧ 9 < (after (g none) (fr) .mgmt).now ∧ ((g (some 3)).field 0).commitAt.isSome = true ∧ ((g (some 10)).field 0).commitAt = some 10 ∧ 10 ≤ (g (some 10)).now ∧
    ((g (some 10)).field 0).owner = none ∧ ((g none).field 0).state = 1 := by decide +kernel

/-! ## The host side, meadows, the chip -/

def entryBad (b : Bool) (m : Nat) : Entry := { entryOf [(word 0 0 0 0).encode 0x00] m with bad := b }
def presented (e : Entry) (s : State := up) : State := with_ s { ctxOf e.prog e.meadow with entry := e, phase := .presented }
def presentedX (e : Entry) : Ctx := { ctxOf e.prog e.meadow with entry := e, phase := .presented }
/-- The group of one instruction `op w` in meadow `m`. -/
def group1 (op : Nat) (w : IWord) (m d : Nat) : Entry := { entryOf [w.encode op] m with deadline := d }
theorem test_EntryAdmitted : let e := entryBad true 0; let s := presented e; let z := entryBad false 0xFF; let y := entryBad false 0
    (s.cdUp ∧ s.sys.hold = false ∧ s.sys.paused = false ∧ s.ctx 0 = some (presentedX e) ∧ s.sys.blocks.any (fun b => b.1 == 3) = false ∧ e.bad) ∧
    ((presented z).tryGroup 0 (presentedX z) []).first = none ∧ (match (presented z).weigh noDeadline ((presented z).tryGroup 0 (presentedX z) []).items with | .accept n => n == 0 | _ => false) = true ∧
    y.meadow ≠ 0xFF ∧ ((presented y).mdw 0).state = .free := by decide +kernel
theorem test_EntryAdmitted_group : let f := group1 0x40 (word 0 0 0 0x8000) 0 1; let g := group1 0x40 (word 0 0 0 0x8001) 0 1000000; let h := group1 0x1B (word 0 0 9 0) 0 1000000
    let t (e : Entry) := (presented e ranch).tryGroup 0 (presentedX e) []
    ((t f).first = none ∧ (match (presented f ranch).weigh f.deadline (t f).items with | .refuse .refusedBound 0x10 0 _ => true | _ => false) = true) ∧
    ((t g).first.map (fun v => v.2.1) = some .badOperand) ∧ (t h).first.map (fun v => v.2.1) = some .staleMap := by decide +kernel
theorem test_EntryAdmitted_waits : let x : Ctx := { cx 0 (word 0 0 0 0) with wait := .power 40 3 }; let y : Ctx := { x with wait := .room 3 3 }; let s := with_ up x; let r := with_ up y
    let l : State := { s with regs := Tbl.set resetOf [] Reg.POWER_CAP 39 }; let f : State := { r with regs := Tbl.set resetOf [] (Reg.ADMIT_LIMIT 3) 0, eng := { r.eng with } , fab := { r.fab with admitQueued := [(3, 1)] } }
    x.phase ≠ .presented ∧ longest s.powerWaits = some 0 ∧ s.powerFail 40 = false ∧ l.powerFail 40 ∧ longest (r.roomWaits 3) = some 0 ∧ r.classRoom 3 ∧ longest (f.roomWaits 3) = some 0 ∧ f.classRoom 3 = false := by decide +kernel
theorem test_RingsAndStores_ctrl : let s : State := up; let w (v : Nat) (r : RegSpec) : Nat × Bool := r.write (s.regN (Reg.INTAKE_CTRL 7)) v
    (findReg (Reg.INTAKE_CTRL 7)).isSome ∧ s.cdUp ∧ ((findReg (Reg.INTAKE_CTRL 7)).map (fun r => ((w 0x80000040 r).2, bit (w 0x80000040 r).1 31, bits (w 0x80000040 r).1 6 0, bit (w 0x40 r).1 31, (w 0x40 r).2))) = some (false, true, 64, false, false) ∧ s.burstSum = 0 := by decide +kernel
/-- Sixteen rings of 64 fill the 1,024: the seventeenth does not fit (R99). -/
theorem test_RingsAndStores_full : let s : State := { up with regs := (List.range 16).foldl (fun t i => Tbl.set resetOf t (Reg.INTAKE_CTRL i) 0x80000040) [] }; s.burstSum = 1024 ∧ s.ringOn 16 = false ∧ (run (.intakeCtrlWrite 16 0x80000001#32) s).regN (Reg.INTAKE_CTRL 16) = s.regN (Reg.INTAKE_CTRL 16) := by decide +kernel
theorem test_RingsAndStores : let r : ResultOut := { ring := 3, slot := 9, status := 0, notify := false, addr := 4096, bytes := [] }; let base (s : State) (o v : Nat) : State := s.setRegN o v
    let s : State := { up with io := { up.io with retries := [r], brStore := [[1]], evStore := [(0, { order := 1, code := 1, attr := 0, count := 1, beat := 0, node := 0, detail := 0 })] }, cxl := { up.cxl with up := true } }
    let b := base (base (base s Reg.BREACH_RING_BASE 0x10000) Reg.BREACH_RING_SIZE 3) Reg.BREACH_RING_CI 1048569; let e := base (base (base s Reg.EVENT_RING_BASE 0x10000) Reg.EVENT_RING_SIZE 3) Reg.EVENT_RING_CI 1048569
    s.io.retries.find? (fun r => r.ring == 3 && r.slot == 9) = some r ∧ s.cxl.up ∧ s.io.brStore = [1] :: [] ∧ s.regN Reg.BREACH_RING_BASE = 0 ∧
    (b.regN Reg.BREACH_RING_BASE ≠ 0 ∧ ringRoom 0x10000 (b.regN Reg.BREACH_RING_SIZE) (b.regN Reg.BREACH_RING_PI) (b.regN Reg.BREACH_RING_CI) = 1) ∧ s.io.evLost = false ∧ s.regN Reg.EVENT_RING_BASE = 0 ∧
    ringRoom 0x10000 (e.regN Reg.EVENT_RING_SIZE) (e.regN Reg.EVENT_RING_PI) (e.regN Reg.EVENT_RING_CI) = 1 := by decide +kernel
theorem test_RingsAndStores_pending : let w : PendingWrite := { off := Reg.POWER_CAP, value := 5, promises := [2] }; let s : State := { up with io := { up.io with pendingWrites := [w], promises := [promise1] } }; let t : State := { up with io := { up.io with pendingWrites := [w] } }
    s.io.pendingWrites.find? (·.off == Reg.POWER_CAP) = some w ∧ (∃ p ∈ w.promises, (s.promise p).isSome = true) ∧ (∀ p ∈ w.promises, t.promise p = none) ∧ Reg.POWER_CAP ≠ Reg.GATE_CTRL ∧ (∀ k < 8, Reg.POWER_CAP ≠ Reg.GATE_FRACTION k) ∧ Reg.POWER_CAP ≠ Reg.LEN_OVERHEAD := by decide +kernel

/-- Table 15.1: a tile mask, role, channels, port shares. -/
def meadowD (mask role chans : Nat) : Bytes := leBytes 16 mask ++ leBytes 1 role ++ leBytes 1 chans ++ leBytes 2 0 ++ leBytes 8 0 ++ leBytes 36 0
theorem test_Meadows : let d := meadowD 15 3 24; let e := meadowD 0 0 0; let m (x : Meadow) : State := { up with eng := { ({} : Engine) with meadows := [(0, x)] } }
    let g : Meadow := { state := .running, role := 3, tiles := [0] }
    (runsIn up 0x80 (word 0 0 0 64) ∧ up.preDefine 0 d = none ∧ descTiles d ≠ [] ∧ up.preDefine 0 e = none ∧ descTiles e = [] ∧ (up.mdw 0).state = .free ∧ (up.preDefine 0 (meadowD 15 4 24)).isSome) ∧
    (runsIn (m { g with state := .drained }) 0x81 (word 0 0 2 0) ∧ (m { g with state := .drained }).preRole 0 2 = none ∧ runsIn (m g) 0x81 (word 0 0 0 0) ∧ ((m g).preRole 0 0).isSome) ∧
    (runsIn (m g) 0x82 (word 0 0 0 0) ∧ ((m g).mdw 0).state = .running ∧ runsIn up 0x82 (word 0 0 0 0)) ∧
    ((m { g with pendingDef := some (d, 9) }).mdw 0).pendingDef = some (d, 9) ∧ 9 < up.now ∧ ((m { g with state := .draining, drainOwner := some 0 }).mdw 0).state = .draining := by decide +kernel
theorem test_Meadows_busy : let s : State := { up with lore := { ({} : Lore) with requests := [(0, { state := .running, meadow := 0 })] }, eng := { ({} : Engine) with meadows := [(0, { ({} : Meadow) with state := .draining })] } }
    (∃ e ∈ s.lore.requests, e.2.meadow = 0 ∧ e.2.state.inFlight = true) ∧ s.cdUp ∧ (s.mdw 0).state = .draining := by decide +kernel
theorem test_OnChipEngines : let s : State := { up with regs := Tbl.set resetOf [] Reg.COMMONS_HOST 1, cxl := { up.cxl with vecPending := [5] } }; let r : MarchRun := { id := 2, owner := .engine, kind := 1, index := 3, destructive := false, repair := true }
    let m : State := { s with sys := { s.sys with marches := [r] } }
    (s.cdUp ∧ 0x3F00000 % 8 = 0 ∧ s.hostRegion = 0x3F00000 ∧ 0x3FFFFF8 < 2 ^ 26 ∧ s.bankHeld 63 = false ∧ 0x3EFFFF8 < s.hostRegion) ∧
    (runsIn s 0x88 (word (fl [9]) 0x103 0 0) ∧ s.preMarch (word (fl [9]) 0x103 0 0) = none ∧ runsIn s 0x88 (word 0 0x300 0 0) ∧ (s.preMarch (word 0 0x300 0 0)).isSome) ∧
    (m.sys.marches.take 8).find? (·.id == 2) = some r ∧ 0 ≤ m.regN r.spares ∧ (s.sys.marches.take 8).find? (·.id == 2) = none ∧ runsIn s 0x89 (word 0 0 1 0) ∧ s.cxl.vecPending.contains 5 ∧ s.cxl.vecPending.contains 6 = false := by decide +kernel
/-- Order 5 is reached, no step waits or one does; the first in turn and one behind it; a hold and a pause. -/
theorem test_EntryAdmitted_order : let e := entryBad false 0xFF; let s := presented e; let u := s.atOrder 5; let w : State := { stepping step1 with io := s.io }
    let two : State := { s with io := { s.io with ctxs := [(0, { presentedX e with turn := 2 }), (1, { presentedX e with turn := 1 })] } }
    s.stepsWait = false ∧ w.stepsWait ∧ u.ctx 0 = some (presentedX e) ∧ u.firstTurn (presentedX e) ∧ (∀ y ∈ u.io.ctxs, y.2.phase = .presented → (presentedX e).turn ≤ y.2.turn) ∧ (two.atOrder 5).firstTurn { presentedX e with turn := 2 } = false ∧
    u.sys.hold = false ∧ ({ s.sys with hold := true } : Sys).hold ∧ ({ s.sys with paused := true } : Sys).paused ∧ (u.tryGroup 0 (presentedX e) []).first = none ∧
    (match u.weigh noDeadline (u.tryGroup 0 (presentedX e) []).items with | .accept n => n == 0 | _ => false) = true := by decide +kernel
theorem test_EntryAdmitted_order_waits : let x : Ctx := { cx 0 (word 0 0 0 0) with wait := .power 40 3 }; let y : Ctx := { x with wait := .room 3 3 }; let s := (with_ up x).atOrder 5; let r := (with_ up y).atOrder 5
    (with_ up x).stepsWait = false ∧ s.ctx 0 = some x ∧ longest s.powerWaits = some 0 ∧ s.powerFail 40 = false ∧ r.ctx 0 = some y ∧ longest (r.roomWaits 3) = some 0 ∧ r.classRoom 3 ∧
    (({ with_ up x with regs := Tbl.set resetOf [] Reg.POWER_CAP 39 } : State).atOrder 5).powerFail 40 := by decide +kernel
/-- A word of the commons with one bit in error, with two, and with none; the runs and scrubs that have had their time or not. -/
theorem test_OnChipEngines_words : let s : State := { up with sys := { up.sys with upsets := [(4, 1), (5, 2)] } }; let r : MarchRun := { id := 2, owner := .engine, kind := 1, index := 3, destructive := false, repair := true }
    let b (n : Nat) : State := { up with sys := { up.sys with marches := [r], bg := { up.sys.bg with jobs := [{ act := 8, id := 2, need := [(1, n)] }, { act := 5, id := 7, need := [(1, n)] }], scrubs := [{ job := 7, owner := .engine, flash := false, start := 0, mib := 1, bad := false }] } } }
    let d : State := { up with sys := { up.sys with marches := [{ r with kind := 2, index := 63, destructive := true }] } }
    (Tbl.find s.sys.upsets 4 = some 1 ∧ Tbl.find s.sys.upsets 5 = some 2 ∧ Tbl.find s.sys.upsets 6 = none ∧ d.bankHeld 63 ∧ s.bankHeld 63 = false) ∧
    ((b 0).jobDone 8 2 ∧ (b 1).jobDone 8 2 = false ∧ ((b 0).sys.marches.take 8).find? (·.id == 2) = some r ∧ r.destructive = false) ∧
    ((b 0).jobDone 5 7 ∧ (b 1).jobDone 5 7 = false ∧ (b 0).sys.bg.scrubs = [{ job := 7, owner := .engine, flash := false, start := 0, mib := 1, bad := false }]) ∧ (word (fl [8]) 0x103 0 0).flag 8 ∧ (word 0 0x103 0 0).flag 8 = false := by decide +kernel

/-! ## Flash, firmware, resets -/

/-- Flash that serves: unit 7 in superblock 100, which is VERIFIED; superblock 101 CLOSED, 102 ERASING, 103 OPEN. -/
def phys7 : Nat := slotPhys 100 0
def drive : State := { up with fls := { ({} : Flash) with state := .ready, map := [(7, { valid := 0xFFFF, phys := phys7 }), (9, { valid := 1, phys := slotPhys 104 8 })], sbs := [(100, { state := 3, slot := 8 }), (101, { state := 2 }), (102, { state := 4 }), (103, { state := 1 }), (104, { state := 2 })] } }
theorem test_FlashSteward_trim : let w (f g n : Nat) : IWord := word f 0 n (65536 * g)
    runsIn drive 0x8A (w 0 112 1) ∧ drive.preTrim (w 0 112 1) = none ∧ runsIn drive 0x8A (w 1 112 1) ∧ drive.preTrim (w 1 112 1) = none ∧ (w 1 112 1).flag 8 ∧
    runsIn drive 0x8A (w 0 (16 * mapUnits) 1) ∧ (drive.preTrim (w 0 (16 * mapUnits) 1)).isSome ∧ drive.preTrim (w 0 (16 * mapUnits - 1) 1) = none := by decide +kernel
theorem test_FlashSteward : let s (t p : Nat) : State := { drive with clk := { drive.clk with time := t }, fls := { drive.fls with pages := p }, regs := Tbl.set resetOf [] Reg.FLASH_CKPT_PERIOD 1 }; let f (st : FState) : State := { drive with fls := { drive.fls with state := st } }
    (s 1000000000 0).flashRuns ∧ (s 1000000000 0).fls.ckptTime + (s 0 0).regN Reg.FLASH_CKPT_PERIOD % 65536 * 1000000000 ≤ (s 1000000000 0).clk.time ∧ (s 999999999 131071).clk.time < 1000000000 ∧ (s 0 131071).fls.pages < 131072 ∧
    (f .restoring).flashRuns = false ∧ (f .failed).fls.state = .failed ∧ drive.fls.state ≠ .failed ∧ (f .restoring).fls.held = false := by decide +kernel
theorem test_FlashMedia_gc : let low : State := { drive with regs := Tbl.set resetOf [] Reg.FLASH_GC_MARKS 0xFFFE }; let q : State := { drive with fls := { drive.fls with gcQueue := [101] }, regs := Tbl.set resetOf [] Reg.FLASH_GC_MARKS 0x0302 }; let v : State := { drive with fls := { drive.fls with gc := some 100 } }
    (drive.fls.gcActive = false ∧ drive.fls.held = false) ∧ (q.fls.gcQueue ≠ [] ∧ q.gcLow ≤ q.freeSbs ∧ low.gcLow = 254) ∧ ((v.mapEnt 7).lost = false ∧ (v.mapEnt 7).phys ≠ 0xFFFFFFFF ∧ v.fls.gc = some (physSb (v.mapEnt 7).phys) ∧ drive.fls.gc ≠ some (physSb (v.mapEnt 7).phys)) ∧
    (v.mapEnt 7).valid ≠ 0 ∧ v.fls.recs.any (fun r => r.typ == 3 && r.index == 7) = false ∧ (v.nextSlot 1).isSome ∧ (v.nextSlot 1).map (fun p => decide (v.fls.recs.length ≤ p.2.fls.recs.length)) = some true := by decide +kernel
/-- Few superblocks left free: below the low mark. -/
theorem test_FlashMedia_low : let s : State := { drive with regs := Tbl.set resetOf [] Reg.FLASH_GC_MARKS 0xFFFE, fls := { drive.fls with sbs := (List.range 2300).map (fun i => (i + 20, { ({} : Superblock) with state := 3 })) } }
    s.fls.state = .ready ∧ s.freeSbs < s.gcLow := by decide +kernel
theorem test_FlashMedia_sb : let b : State := { drive with fls := { drive.fls with map := [(7, { valid := 1, phys := slotPhys 101 0 })] } }
    drive.flashRuns ∧ (drive.sb 101).state = 2 ∧ 7 ∈ b.unitsIn 101 ∧ (drive.sb 100).state ≠ 2 ∧ (drive.sb 102).state = 4 ∧ drive.fls.gc ≠ some 102 ∧ (drive.sb 100).state ≠ 4 ∧ drive.fls.holes.contains (blockAddr 102 7 3 15) = false ∧
    (drive.sb 103).state = 1 ∧ drive.fls.recs = [] ∧ drive.unitsIn 103 = [] := by decide +kernel
theorem test_FlashMedia_patrol : let s : State := { drive with sys := { drive.sys with bg := { share := 32 } } }; let t := s.bgUses unitRead
    s.bgRooms unitRead ∧ t.parityHeld (s.mapEnt 7).phys = false ∧ (t.programParity phys7).parityHeld phys7 ∧ (∃ k ∈ s.fls.map, 7 < k.1) ∧ t.wearVictim ≠ some (physSb (s.mapEnt 7).phys) ∧ (t.sb (physSb (s.mapEnt 7).phys)).state = 3 ∧ (t.sb 104).state ≠ 3 := by decide +kernel

def pkgA : FwPackage := { version := 9, security := 2, settings := 3, len := 65536, manifestDigest := 0, partDigests := [], keySlot := 0, sigOk := true, partsOk := true, shapeOk := true }
def ware (f : Firmware) : State := { drive with sys := { drive.sys with fw := f } }
theorem test_FirmwareUpdate_stage : let w := word 0 0 0 4096; let bad := word 0 0 0 4097
    (runsIn drive 0x8B w ∧ w.opc.toNat % 4096 = 0 ∧ drive.fw.armed = none ∧ drive.fls.state = .ready ∧ drive.fwValid pkgA ∧ pkgA.len ≤ maxPackage ∧ maxPackage < ({ pkgA with len := maxPackage + 1 } : FwPackage).len) ∧
    runsIn drive 0x8B bad ∧ bad.opc.toNat % 4096 ≠ 0 ∧ runsIn (ware { armed := some 2000 }) 0x8B w ∧ (ware {}).fwValid { pkgA with security := 64 } = false ∧ (ware { store := some pkgA }).fw.store = some pkgA ∧ runsIn drive 0x8B (word 0 0 0 0) := by decide +kernel
theorem test_FirmwareUpdate_arm : let w (f n : Nat) : IWord := word f 0 0 n; let s := ware { slotB := { state := 1, pkg := some pkgA } }
    runsIn s 0x8C (w 0 1034) ∧ s.fw.spare.state = 1 ∧ s.fw.armed = none ∧ s.now + 1024 = 1034 ∧ s.promisedMax < 1034 ∧ runsIn s 0x8C (w 0 1033) ∧ runsIn (ware { armed := some 2000 }) 0x8C (w 1 0) ∧ runsIn s 0x8C (w 1 0) := by decide +kernel
theorem test_FirmwareUpdate_activate : let f : Firmware := { slotB := { state := 1, pkg := some pkgA }, armed := some 9, loaded := some pkgA }; let s : State := { ware f with sys := { (ware f).sys with paused := true, resumeAt := 10, actEnd := 9 } }; let b : State := { s with eng := (stepping { step1 with started := true }).eng }; let n : State := { s with sys := { s.sys with fw := { f with armed := none } } }
    (s.sys.paused ∧ s.fw.armed = some 9 ∧ s.stillness ∧ s.fw.loaded = some pkgA ∧ b.stillness = false ∧ s.fw.active < 2 ∧ s.fw.settings = [] ∧ s.cdUp) ∧
    (n.fw.armed = none ∧ n.sys.resumeAt ≤ n.now ∧ n.sys.actEnd < n.now ∧ n.sys.actEnd < n.sys.resumeAt) ∧ s.fw.spare.state ≠ 0 ∧ pkgA.partsOk ∧ s.fw.floor ≤ pkgA.security ∧ (ware { slotB := { state := 0 } }).fw.spare.state = 0 ∧ (ware { running := some pkgA }).fw.running = some pkgA := by decide +kernel
theorem test_FirmwareUpdate_late : let s : State := { ware {} with sys := { (ware {}).sys with paused := true, resumeAt := 8, actEnd := 8 } }; s.fw.armed = none ∧ s.sys.resumeAt ≤ s.now ∧ s.sys.actEnd < s.now ∧ s.sys.resumeAt ≤ s.sys.actEnd ∧ ¬ ((ware {}).now < 8) := by decide +kernel
/-- A device out of reset that has not booted, its image sources in `i`. -/
def cold (bs : Nat) : State := { State.reset with sys := { ({} : Sys) with perst := false, bootSel := bs } }
def sources (a b : Option FwPackage) : BootInput := { slotA := a, slotB := b, medium := none, marchTiles := [], marchBanks := [] }
theorem test_BootAndAttestation : let i := sources (some pkgA) none; let j := sources (some { pkgA with sigOk := false }) (some pkgA); let b := (((cold 0).setRegN Reg.BOOT_STATUS (bootStatus 1 0 0 false false)).stages 1 4).bootMarch i
    (cold 0).bootable ∧ (cold 0).sys.ready = false ∧ (cold 0).regN Reg.BOOT_STATUS = 0 ∧ b.sys.bootSel = 0 ∧ b.slotImage i 0 = some pkgA ∧ imageError b.fw.floor (some pkgA) = 0 ∧ b.slotImage j 0 = some { pkgA with sigOk := false } ∧ imageError b.fw.floor (some { pkgA with sigOk := false }) ≠ 0 ∧ b.slotImage j 1 = some pkgA ∧
    (((cold 3).stages 1 4).bootMarch i).sys.bootSel = 3 ∧ up.sys.ready := by decide +kernel
theorem test_BootAndAttestation_wait : let w : State := (cold 1).setRegN Reg.BOOT_STATUS (bootStatus 0xE 3 0 false false)
    w.bootWaits ∧ w.bootable ∧ w.sys.bootSel ≤ 1 ∧ 1 < (cold 2).sys.bootSel ∧ up.bootWaits = false ∧ up.cdUp ∧ up.fwValid pkgA ∧ pkgA.len ≤ maxPackage ∧ up.sys.clkSel ≠ 3 ∧ up.fw.settings = [] ∧ ({ up with sys := { up.sys with clkSel := 3 } } : State).sys.clkSel = 3 := by decide +kernel
theorem test_BootAndAttestation_spread : let o : FwOffer := { digest := 7, version := 10, security := 2, len := 20000 }; let n (f : Firmware) : State := { net with regs := Tbl.set resetOf net.regs Reg.FW_CTRL 2, sys := { net.sys with fw := f } }; let t (f : Firmware) : State := after (n f) (fr) .mgmt
    (heard (n {}) (fr) .mgmt ∧ bit ((t {}).regN Reg.FW_CTRL) 1 ∧ ((t {}).fw.slot (t {}).fw.active).version < 10 ∧ (((t {}).fw.store.map (·.version)).getD 0) < 10 ∧ (t {}).fw.fetch = none ∧ (t {}).fw.refused.contains o.digest = false) ∧
    (t { store := some pkgA }).fw.store = some pkgA ∧ 65535 < pkgA.len ∧ (t { fetch := some (2, o, 16384) }).fw.fetch = some ((fr).src, o, 16384) ∧ 16384 + 3615 < o.len ∧ o.len ≤ 16384 + 3616 ∧ bit (up.regN Reg.FW_CTRL) 1 = false := by decide +kernel
theorem test_BootAndAttestation_attest : let d (n : Nat) : Bytes := leBytes 32 0 ++ leBytes 8 0x10000 ++ leBytes 4 n ++ leBytes 20 0
    runsIn up 0x8E (word 0 0 0 64) ∧ le (d 17471) 40 4 < 17472 ∧ 17472 ≤ le (d 17472) 40 4 ∧ zeroAt (d 17472) 44 20 := by decide +kernel
theorem test_Resets : let a (b : Nat) : State := { up with clk := { up.clk with now := 2000 }, sys := { up.sys with armBeat := some b } }; let p : State := { up with sys := { up.sys with perst := false } }
    (up.sys.powered ∧ p.sys.perst = false ∧ bit ((p.setRegN Reg.WDOG_CTRL 0x80000000).regN Reg.WDOG_CTRL) 31 ∧ bit ((p.setRegN Reg.WDOG_CTRL 0xC350).regN Reg.WDOG_CTRL) 31 = false ∧ up.sys.perst ∧ up.sys.hold = false) ∧ ({ up with sys := { up.sys with hold := true } } : State).sys.hold ∧
    (a 976).now ≤ 976 + 1024 ∧ 975 + 1024 < (a 975).now ∧ (0x80000001#32).getLsbD 31 ∧ (0x80000000#32).getLsbD 0 = false ∧ runsIn up 0x8D (word 0 3 0 0) ∧ runsIn up 0x8D (word 0 15 0 0) ∧ runsIn up 0x8D (word 0 16 0 0) ∧ runsIn up 0x8D (word 0 2 0 0) := by decide +kernel
theorem test_Resets_frame : let k : State := { net with regs := Tbl.set resetOf net.regs (Reg.FABRIC_RESET_KEY 0) 5, fab := { net.fab with partners := [(0, { ({} : Partner) with node := 2, state := .live, link := 0, attest := 1 })] } }; let t := after k (fr) .mgmt
    let r : ResetFrame := { reach := 1, target := 1, counter := 1, mac := hmac t.resetKey [1], macInput := [1] }
    heard k (fr) .mgmt ∧ k.partnerState (fr).src = .live ∧ t.resetCheck true r = none ∧ t.resetCheck true { r with counter := 0 } = some 4 := by decide +kernel
/-- R474 to R479: 1,000 ns and 999; 115 °C and 114 °C; 95 °C and 94 °C; 16 beats in a row. -/
theorem test_PowerAndTemperature : let k (t : Int) : Temps := { junction := [20, t], inlet := 20, outlet := 20 }; let s (c : Nat) (o : Bool) (t : Int) : State := { drive with sys := { drive.sys with tripCount := c, coreOff := o, samples := [k t] } }
    let p (o a : Nat) : State := { up with clk := { up.clk with overBeats := o, overAt := a } }
    (drive.sys.powered ∧ drive.sys.hold = false ∧ drive.fls.state = .ready ∧ drive.cdUp) ∧ 115 ≤ maxOf (k 115).junction ∧ maxOf (k 114).junction < 115 ∧ 1 ≤ (s 1 false 20).sys.tripCount ∧ (s 1 false 20).sys.coreOff = false ∧ (s 2 true 94).sys.coreOff ∧ maxOf (k 94).junction < 95 ∧ 95 ≤ maxOf (k 95).junction ∧ (s 2 true 94).sys.samples = k 94 :: [] ∧
    (11 * (p 15 9).powerSum < 10 * 1 ∧ (p 15 9).clk.overBeats = 15 ∧ (p 15 9).clk.overAt + 1 = (p 15 9).now ∧ (p 15 9).clk.overRaised = false ∧ 10 * 0 ≤ 11 * up.powerSum) := by decide +kernel
/-- The verification's reads are done, begun or missing; a read of flash waits; parity is held for the unit of the victim, and moving it journals a record or, without a
place for it, none. -/
theorem test_FlashMedia_more : let j (n : Nat) : State := { drive with sys := { drive.sys with bg := { drive.sys.bg with jobs := [{ act := 6, id := verifyJob 101, need := [(resFlash 0, n)] }] } } }
    let r : State := { drive with mem := { drive.mem with rts := [{ tier := 4, obj := 3, unit := 0, offs := [] }] } }; let v : State := { drive with fls := { drive.fls with gc := some 100, parity := [(0, phys7)] } }
    let t := (((v.bump Reg.FLASH_RETRY1).bump Reg.FLASH_RETRY2).bump Reg.FLASH_REBUILDS).moveUnit 7; let q : State := { v with fls := { v.fls with recs := [{ typ := 3, index := 7 }] } }
    ((j 0).hasJob 6 (verifyJob 101) ∧ (j 0).jobDone 6 (verifyJob 101) ∧ (j 1).jobDone 6 (verifyJob 101) = false ∧ drive.hasJob 6 (verifyJob 101) = false) ∧ (r.flashReads ∧ drive.flashReads = false) ∧
    (v.parityHeld (v.mapEnt 7).phys ∧ drive.parityHeld (drive.mapEnt 7).phys = false ∧ v.fls.recs.length < t.fls.recs.length ∧ (((q.bump Reg.FLASH_RETRY1).bump Reg.FLASH_RETRY2).bump Reg.FLASH_REBUILDS |>.moveUnit 7).fls.recs.length ≤ q.fls.recs.length) := by decide +kernel
/-- A slot is handed out; superblocks 100 and 101; the parity area at the start of a block, with and without parity held in it, and inside one. -/
theorem test_FlashMedia_flashParity : let s (n : Nat) (p : List (Nat × Nat)) : State := { drive with fls := { drive.fls with parityNext := n, parity := p } }
    (drive.nextSlot 0).isSome ∧ physSb phys7 = 100 ∧ physSb phys7 ≠ 101 ∧ (s 128 []).fls.parityNext % paritySlots = 0 ∧ (∀ e ∈ (s 128 [(5, phys7)]).fls.parity, e.1 / paritySlots ≠ 128 / paritySlots) ∧ (s 129 []).fls.parityNext % paritySlots ≠ 0 ∧ (63 : Nat) < 64 := by decide +kernel
/-- The spare of a hole, and of one whose plane has none left; the threshold sets of chapter 12's example: block 1,000 written 12 days ago
at 38 °C, its die (channel 9, die 2) now at 71 °C. -/
theorem test_FlashMedia_flashSpares : let h := blockAddr 101 2 1 9; let s : State := { drive with fls := { drive.fls with holes := [h] } }
    let full : State := { s with fls := { s.fls with spares := (List.range 80).map (fun i => (0, blockAddr (2404 + i) 2 1 9)) } }
    let page := 9 * 2 ^ 28 + 2 * 2 ^ 25 + 2 ^ 23 + 1000 * 2 ^ 11 + 300
    let x : State := { drive with clk := { drive.clk with time := 0 }, fls := { drive.fls with timeOffset := 12 * 24 * 3600 * 10 ^ 9, timeSet := true, dieTemps := [(74, 71)], sbs := [(1000, { state := 2, temps := [(74, 38)], aged := true })] } }
    (s.spareFor h = some (blockAddr 2404 2 1 9) ∧ (s.attachSpare h).fls.spares = [(h, blockAddr 2404 2 1 9)] ∧ (s.attachSpare h).fls.holes = []) ∧
    full.spareFor h = some (blockAddr 2404 2 0 9) ∧ (x.thresholds page = (3, 6) ∧ x.retrySet page = (4, 6)) ∧
    ({ x with fls := { x.fls with timeSet := false } } : State).thresholds page = (7, 6) ∧
    (let y : State := { x with fls := { x.fls with dieTemps := [(74, 0)], sbs := [(1000, { state := 2, temps := [(74, 40)] })] } }; y.thresholds page = (3, 0)) ∧
    (let y : State := { x with fls := { x.fls with dieTemps := [(74, 1)], sbs := [(1000, { state := 2, temps := [(74, 0xD8)] })] } }; y.thresholds page = (3, 7)) := by decide +kernel
/-- The system partition: the boot record's first unit, then a second copy that frees the first; nothing while the steward restarts. -/
theorem test_FirmwareUpdate_system : let a := drive.systemWrite 3 1; let b := a.systemWrite 3 1
    (a.fls.system = [(3, (mapUnits, 1))] ∧ (a.mapEnt mapUnits).valid = 0xFFFF) ∧
    (b.fls.system = [(3, (mapUnits + 1, 1))] ∧ (b.mapEnt mapUnits).valid = 0 ∧ (b.mapEnt (mapUnits + 1)).valid = 0xFFFF) ∧
    ({ drive with fls := { drive.fls with state := .restoring } } : State).systemWrite 3 1 = { drive with fls := { drive.fls with state := .restoring } } := by decide +kernel
/-- Patch tables, the first entry and an unused one; a report into a line the host holds and into none. -/
theorem test_BootAndAttestation_patches : let p : FwPackage := { pkgA with patches := [0x0000000500000007] }; let s : State := { up with sys := { up.sys with patches := [0x0000000500000007] } }
    (patchTable p).length = 64 ∧ (patchTable p)[0]? = some 0x0000000500000007 ∧ (patchTable p)[1]? = some 0xFFFFFFFF00000000 ∧ s.romWord 5 = 7 ∧ s.sys.patches.all (fun e => decide (e.toNat / 2 ^ 32 ≠ 6)) := by decide +kernel
theorem test_BootAndAttestation_lines : let d : Bytes := leBytes 32 0 ++ leBytes 8 0x10000 ++ leBytes 4 17472 ++ leBytes 20 0; let s : State := { range with cxl := { range.cxl with lines := [0x10040] } }
    runsIn s 0x8E (word 0 0 0 64) ∧ s.tracked (s.hdmSpan (le d 32 8) attestLen) = [0x10040] ∧ range.tracked (range.hdmSpan (le d 32 8) attestLen) = [] ∧ range.splitsAt (le d 32 8) 17472 = false := by decide +kernel
/-- Blocks in reset, a watchdog fed one timeout ago, and one beat less. -/
theorem test_Resets_blocks : let s : State := { up with sys := { up.sys with blocks := [(5, 3)] } }; let g (n : Nat) : State := { up with regs := Tbl.set resetOf [] Reg.WDOG_CTRL (2 ^ 31 + n) }
    (∃ b ∈ s.sys.blocks, b.1 = 5) ∧ (∀ b ∈ s.sys.blocks, b.1 ≠ 9) ∧ s.sys.marches = [] ∧ bit (s.regN Reg.FIELD_READY) 30 = false ∧ (5#32 : BitVec 32) ≠ BitVec.twoPow 32 3 ∧ (8#32 : BitVec 32) = BitVec.twoPow 32 3 ∧
    ((g 10).cdUp ∧ bit ((g 10).regN Reg.WDOG_CTRL) 31 ∧ (g 10).sys.fed + bits ((g 10).regN Reg.WDOG_CTRL) 23 0 ≤ (g 10).now ∧ (g 11).now < (g 11).sys.fed + bits ((g 11).regN Reg.WDOG_CTRL) 23 0) := by decide +kernel
/-- Each row of Table 18.10: lit as the obligation says, on a module at work, derated, hot, held, tripped, failed, starting and without input. -/
theorem test_PowerAndTemperature_statusLeds : let s (f : Sys → Sys) (st : FState) : State := { drive with sys := f drive.sys, fls := { drive.fls with state := st } }; let k (t : Int) : Temps := { junction := [t], inlet := 20, outlet := 20 }
    ((s id .ready).sys.powered ∧ (s id .ready).pwrLed = .green 0 ∧ (s id .ready).statLed = .green 0 ∧ (s id .ready).locLed = .off ∧ ((s id .ready).setRegN Reg.DEV_LED 1).locLed = .blue 1) ∧
    ((s (fun y => { y with coreOff := true }) .ready).pwrLed = .green 1 ∧ (s (fun y => { y with coreOff := true }) .ready).statLed = .amber 2 ∧ (s id .failed).statLed = .amber 2) ∧
    ((s (fun y => { y with samples := [k 105] }) .ready).statLed = .amber 0 ∧ (s (fun y => { y with samples := [k 104] }) .ready).statLed = .green 0 ∧ (s id .readOnly).statLed = .amber 0 ∧ (s id .restoring).statLed = .green 1 ∧ (s (fun y => { y with ready := false }) .ready).statLed = .green 1) ∧
    ((s (fun y => { y with powered := false }) .ready).pwrLed = .off ∧ (s (fun y => { y with powered := false }) .ready).sys.switchOpen = false) := by decide +kernel

/-! ## The fabric -/

theorem test_PortsLinksKeys_port : let e := (1 : Nat); let c (v : Nat) : State := net.setRegN (Reg.PORT_CFG e) v
    (3 : BitVec 32).toNat % 4 = 3 ∧ (bit ((c 0x80000001).regN (Reg.PORT_CFG e)) 31 ∧ (2 : BitVec 32).toNat % 8 ≠ 0x80000001 % 8) ∧ bit (net.regN (Reg.PORT_CFG e)) 31 = false ∧ (0x80000001#32).getLsbD 31 ∧ net.me ≠ 0 ∧ up.me = 0 ∧ (1#32).toNat % 8 = (c 0x80000001).regN (Reg.PORT_CFG e) % 8 := by decide +kernel
theorem test_PortsLinksKeys_link : let l (x : Link) (t n : Nat) : State := { net with clk := { net.clk with time := t, now := n }, fab := { net.fab with links := [(4, x)] } }; let k (x : Link) : State := { net with fab := { net.fab with links := [(0, x)] } }
    ((l { state := 1 } 200000000 10).link 4).state = 1 ∧ 0 + 200000000 ≤ (l { state := 1 } 200000000 10).clk.time ∧ (l { state := 1 } 199999999 10).clk.time < 0 + 200000000 ∧ ((l { state := 2, lastHello := 5, lastProbe := 5 } 0 1029).link 4).lastHello + 1024 = 1029 ∧ ((l { state := 2 } 0 9).link 4).state = 2 ∧
    ¬ ((net.link net.keyLink).encrypted = true ∧ (net.link net.keyLink).slot = net.keySlot) ∧ ((k { encrypted := true }).link (k {}).keyLink).slot = (k {}).keySlot ∧ ((k { keys := [some (1, 2), none] }).link 0).keys.getD (k {}).keySlot none = some (1, 2) ∧ (net.link 0).keys.getD net.keySlot none = none := by decide +kernel
theorem test_PortsLinksKeys_hello : heard net (fr) .hello ∧ (((after net (fr) .hello).setLink 0 { (after net (fr) .hello).link 0 with neighbour := 2 }).partnerOf 2).isSome ∧ heard net { fr with src := 5 } .hello ∧
    ((after net { fr with src := 5 } .hello).setLink 0 { (after net { fr with src := 5 } .hello).link 0 with neighbour := 5 }).partnerOf 5 = none ∧ heard net (fr) .probe := by decide +kernel
/-- A route map of one node entry and no target (Table 14.1). -/
def mapD : Bytes :=
  let n := leBytes 8 2 ++ leBytes 1 0 ++ leBytes 1 4 ++ leBytes 1 1 ++ leBytes 1 0xFF ++ leBytes 4 0
  leBytes 4 0x50414D52 ++ leBytes 4 1 ++ leBytes 4 0 ++ leBytes 4 (crc32c n) ++ leBytes 48 0 ++ n
theorem test_RoutesAndStubs_map : let s (e : Nat) : State := { net with fab := { net.fab with epoch := e, oldMap := some {}, drainEnd := 10 } }
    (parseMap mapD).isSome ∧ parseMap (mapD.set 20 1) = none ∧ (0#32).toNat = ((s 0xFFFFFFFF).fab.epoch + 1) % 2 ^ 32 ∧ (5#32).toNat ≠ ((s 5).fab.epoch + 1) % 2 ^ 32 ∧ (s 0).fab.oldMap.isSome ∧ (s 0).fab.drainEnd ≤ (s 0).now ∧ (net.now < 11) := by decide +kernel
theorem test_RoutesAndStubs_forward : let f (d : NodeId) (h : Nat) : Frame := { fr with dst := d, hops := h }
    (net.linkCheck (f 2 14)).2 ∧ (f 2 14).dst ≠ ((net.linkCheck (f 2 14)).1).me ∧ (((net.linkCheck (f 2 14)).1).route 2).isSome ∧ (f 2 14).hops < 15 ∧ 15 ≤ (f 2 15).hops ∧ ((net.linkCheck (f 3 0)).1).route 3 = none ∧ (net.linkCheck (fr)).2 ∧ ((net.linkCheck (fr)).1).stubMet (fr) .collective = none ∧
    (net.linkCheck { fr with crcOk := false }).2 = false := by decide +kernel
theorem test_GatesAndQueues_gates : let e := 0#4; let g (v : Nat) : State := net.setRegN (Reg.GATE_LIST 0) v; let u (s : State) : State := s.setRegN Reg.GATE_CTRL (setBits (s.regN Reg.GATE_CTRL) 3 0 0)
    let p : State := { g 0x0001FFFF with io := { net.io with promises := [{ promise1 with regs := [Reg.GATE_FRACTION 1] }] } }
    (u (g 0x8001FFFF)).gatesLegal 2000 ((u (g 0x8001FFFF)).stagedGates e.toNat) ∧ (∀ x ∈ net.fld, x.2.state = 0) ∧ (u (g 0x80000000)).gatesLegal 2000 ((u (g 0x80000000)).stagedGates e.toNat) = false ∧
    ((gateFractions 2000 (u p).overhead ((u p).stagedGates 0)).getD 1 0 < (u p).fab.gateFrac.getD 1 0 ∧ 2 ∈ (u p).drewOn (Reg.GATE_FRACTION 1)) ∧ (u net).drewOn (Reg.GATE_FRACTION 1) = [] := by decide +kernel
theorem test_GatesAndQueues_transmit : let q : QItem := .frame (net.mkFrame 2 .heartbeat 4 8 .none) false false none 0 0; let s (c : Int) : State := { net with fab := { net.fab with queues := [(4, [q])], credits := (if c = 0 then [] else [(4, c)]) } }
    (s 1).cdUp ∧ ((s 1).link 0).state = 2 ∧ ((s 1).link 0).counter < 2 ^ 63 ∧ 0 < (s 1).clk.len ∧ gateOpen (gateSpans 2000 0 (s 1).fab.gates) ((s 1).guardNs 4) 4 0 ∧ ((s 1).queue 0 4).any (fun q => (s 1).canSend 0 q) ∧ 0 < (s 1).credit 0 4 ∧ (∀ c < 8, c ≠ 4 → (s 1).queue 0 c = []) ∧ (s 0).credit 0 4 ≤ 0 ∧ ((s 1).nextItem 0 4).1.isSome ∧ (∀ c < 8, net.queue 0 c = []) := by decide +kernel
def linked (p : Partner) : State := { net with fab := { net.fab with partners := [(0, { p with node := 2, state := .live, link := 0 })] } }
theorem test_Transport_arrival : let f (n : Nat) : Frame := { fr with seq := n }; let s := linked { rxNext := 5, rxSeen := [7] }; let t := (s.linkCheck (f 5)).1
    (s.linkCheck (f 5)).2 ∧ transported .data ∧ t.partnerOf 2 = some 0 ∧ (t.setPartner 0 { t.partner 0 with heard := t.now }).partnerOf 2 = some 0 ∧ (t.partner 0).state = .live ∧ seqClass 5 [7] 0 = .outside ∧ seqClass 5 [7] 4 = .duplicate ∧ seqClass 5 [7] 7 = .duplicate ∧ seqClass 5 [7] 5 = .fresh ∧ seqClass 5 [7] 65540 = .fresh ∧ seqClass 5 [7] 65541 = .outside := by decide +kernel
theorem test_Transport_timers : let g := net.mkFrame 2 .data 1 64 .none; let s (sent heardAt n : Nat) (a : Bool) : State := { linked { sent := sent, heard := heardAt, ackOwed := a, unacked := [(3, g, 4, n)] } with regs := Tbl.set resetOf (Tbl.set resetOf (Tbl.set resetOf (Tbl.set resetOf net.regs Reg.HEARTBEAT_GAP 5) Reg.PARTNER_DEAD_BEATS 6) Reg.RETX_MARGIN 4) Reg.RETX_LIMIT 2 }
    ((s 5 4 0 true).cdUp ∧ ((s 5 4 0 true).partner 0).state = .live ∧ ((s 5 4 0 true).partner 0).ackOwed ∧ ((s 5 4 0 true).partner 0).sent < 10) ∧ 5 + bits ((s 5 4 0 true).regN Reg.HEARTBEAT_GAP) 15 0 = 10 ∧ 4 + bits ((s 5 4 0 true).regN Reg.PARTNER_DEAD_BEATS) 23 0 = 10 ∧ ((s 6 5 2 false).partner 0).ackOwed = false ∧
    ((s 5 4 2 true).partner 0).unacked.find? (·.1 == 3) = some (3, g, 4, 2) ∧ (((s 5 4 2 true).route 2).map (fun r => r.2.2.1)).getD 1 = 1 ∧ 4 + 2 * 1 + bits ((s 5 4 2 true).regN Reg.RETX_MARGIN) 7 0 = 10 ∧ bits ((s 5 4 2 true).regN Reg.RETX_LIMIT) 3 0 = 2 ∧ ((s 5 4 2 true).partner 0).unacked.find? (·.1 == 4) = none := by decide +kernel
theorem test_Transport_leave : heard net (fr) .leave ∧ (after net (fr) .leave).partnerOf 2 = some 0 ∧ (after net (fr) .leave).pins 2 = 0 ∧ (after net (fr) .leave).waitsOn 2 = false ∧ heard (gate { winA with peer := 2 }) (fr) .leave ∧ heard net (fr) .ack ∧ heard net (fr) .heartbeat := by decide +kernel
theorem test_Transport_pinned : let s : State := { net with fab := { net.fab with windows := [(0, { winA with state := 1, peer := 2 })] } }
    heard s (fr) .leave ∧ (after s (fr) .leave).pins 2 ≠ 0 ∧ s.partnerOf 2 = some 0 := by decide +kernel
def joiner (p : Partner) (me : NodeId := 1) : State := { net with regs := Tbl.set resetOf [] Reg.NODE_ID me, fab := { net.fab with partners := [(0, { p with node := 2, state := .joining, link := 0 })] } }
def frJ (me : NodeId := 1) : Frame := { fr with dst := me }
theorem find_range_map {α : Type} (g : Nat → α) (n k : Nat) (h : k < n) : Tbl.find ((List.range n).map (fun i => (i, g i))) k ≠ none := by
  have key : ∀ l : List Nat, k ∈ l → Tbl.find (l.map (fun i => (i, g i))) k ≠ none := by
    intro l
    induction l with
    | nil => simp
    | cons a l ih => intro hk; by_cases ha : a = k <;> simp_all [Tbl.find]; exact ih (hk.resolve_left (Ne.symm ha))
  exact key _ (List.mem_range.mpr h)
theorem lowestFree_full {α : Type} (t : Tbl α) (n i : Nat) (h : ∀ k, k < i + n → Tbl.find t k ≠ none) : Tbl.lowestFree t i n = none := by
  induction n generalizing i with
  | zero => rfl
  | succ n ih =>
    have hi := h i (by omega)
    rw [Tbl.lowestFree]
    cases hf : Tbl.find t i with
    | none => exact absurd hf hi
    | some v => exact ih (i + 1) (fun k hk => h k (by omega))
theorem range_full {α : Type} (g : Nat → α) (n : Nat) : Tbl.lowestFree ((List.range n).map (fun i => (i, g i))) 0 n = none :=
  lowestFree_full _ _ _ (fun k hk => find_range_map g n k (by omega))
theorem test_Joins_nonce : let f : Frame := { fr with src := 5 }; let s := after net f .join
    heard net f .join ∧ s.partnerOf 5 = none ∧ (s.entryFor 5 false).1.isSome ∧ NodeId.valid 7 ∧ net.reg Reg.PARTNER_CMD_NODE = 0 := by decide +kernel
/-- `s` with a partner table of 4,096 entries, none of them for node 5 and none that can be evicted. -/
def crowd (i : Nat) : Partner := { ({} : Partner) with node := BitVec.ofNat 64 (i + 10), state := .joining }
def crowdTable : Tbl Partner := (List.range 4096).map (fun i => (i, crowd i))
def crowded : State := { net with fab := { net.fab with partners := crowdTable } }
theorem entryFor_full (s : State) (n : NodeId) (b : Bool) (h1 : s.partnerOf n = none) (h0 : s.evictingFor n = false) (h2 : s.fab.partners.lowestFree 0 4096 = none)
    (h3 : s.idlest (fun e => (e.2.state == .dead || e.2.state == .left) && s.pins e.2.node == 0) = none)
    (h4 : s.idlest (fun e => e.2.state == .live && s.pins e.2.node == 0 && !s.waitsOn e.2.node && !e.2.evicting && !e.2.evictRefused) = none) : (s.entryFor n b).1 = none := by
  simp [State.entryFor, h0, h1, h2, h3, h4]
theorem crowded_partners : crowded.fab.partners.lowestFree 0 4096 = none := by
  simp only [crowded, crowdTable]; exact range_full crowd 4096
theorem crowded_free : crowded.partnerOf 5 = none := by decide +kernel
theorem crowded_waits : crowded.evictingFor 5 = false := by decide +kernel
theorem crowded_idle : crowded.idlest (fun e => (e.2.state == .dead || e.2.state == .left) && crowded.pins e.2.node == 0) = none := by decide +kernel
theorem crowded_live : crowded.idlest (fun e => e.2.state == .live && crowded.pins e.2.node == 0 && !crowded.waitsOn e.2.node && !e.2.evicting && !e.2.evictRefused) = none := by decide +kernel
theorem test_Joins_full : (crowded.entryFor 5 false).1 = none :=
  entryFor_full _ _ _ crowded_free crowded_waits crowded_partners crowded_idle crowded_live
theorem test_Joins_proof : let i := joiner { initiator := true, joinStep := 1 } 3; let k := joiner { initiator := true, joinStep := 3 }; let r := joiner { initiator := false, joinStep := 2 }; let h := r.setRegN Reg.FAB_CTRL 1
    (heard i (frJ 3) .join ∧ (after i (frJ 3) .join).partnerOf 2 = some 0 ∧ ((after i (frJ 3) .join).partner 0).initiator ∧ (frJ 3).src < i.me ∧ ((after i (frJ 3) .join).partner 0).attest ≠ 2) ∧ (heard k (frJ) .join ∧ k.me < (frJ).src ∧ ((after k (frJ) .join).partner 0).joinStep = 3) ∧
    heard r (frJ) .join ∧ ((after r (frJ) .join).partner 0).initiator = false ∧ bit ((after r (frJ) .join).regN Reg.FAB_CTRL) 0 = false ∧ bit ((after h (frJ) .join).regN Reg.FAB_CTRL) 0 ∧ (((after r (frJ) .join).becomeLive 0).partner 0).state = .live ∧ heard net (frJ) .join := by decide +kernel
theorem test_Joins_timers : let s (a b st : Nat) : State := { joiner { initiator := true, joinStart := a, joinSent := b, joinStep := st } with clk := { net.clk with now := 100 }, regs := Tbl.set resetOf net.regs Reg.JOIN_TIMEOUT 90 }; let g (p : PState) : State := { net with fab := { net.fab with partners := [(0, { ({} : Partner) with node := 2, state := p })] } }
    10 + bits ((s 10 36 1).regN Reg.JOIN_TIMEOUT) 23 0 = (s 10 36 1).now ∧ ((s 10 36 1).partner 0).state = .joining ∧ ((s 10 36 1).partner 0).joinSent + 64 = (s 10 36 1).now ∧ ((s 11 37 1).partner 0).joinSent + 64 > (s 11 37 1).now ∧ ((joiner { attest := 2 }).partner 0).attest = 2 ∧ ((joiner { attest := 2 }).partner 0).initiator = false ∧
    ((g .dead).partner 0).state = .dead ∧ (g .dead).pins 2 = 0 ∧ (g .dead).cdUp := by decide +kernel

/-! ## Registers, snapshots, background work -/

theorem test_RegistersAndSnapshots_registerAccess_write : let o := Reg.LTN_RETRY
    (cdBlock o = false ∨ up.cdUp = true) ∧ o < 0xD0000 ∧ o % 4 = 0 ∧ (ownerOf o).map (fun r => (r.1.width, r.1.acc, r.2.1, r.2.2)) = some (32, RAcc.rw, o, false) ∧ up.rowWrite o 7 = none ∧ (findReg o).isSome ∧ lengthens o 0 1 = false ∧ lengthens o 1 0 = false ∧ (o ≠ Reg.RESUME_SLOTS ∧ o ≠ Reg.EVENT_CTRL ∧ o ≠ Reg.BREACH_CTRL ∧ o ≠ Reg.EVENT_RING_BASE) ∧ up.io.pendingWrites = [] ∧ up.fab.shareNext = [] ∧ up.writable o 7 ∧ o ≠ Reg.FLASH_GC_MARKS := by decide +kernel
theorem test_RegistersAndSnapshots_registerAccess_half : let o := Reg.SWAP_BASE
    (ownerOf o).map (fun r => (r.1.width, r.1.acc, r.2.1, r.2.2)) = some (64, RAcc.rw, o, false) ∧ (ownerOf (o + 4)).map (fun r => (r.1.width, r.1.acc, r.2.1, r.2.2)) = some (64, RAcc.rw, o, true) ∧ ownerOf 0x3FFFF0 = none ∧ (up.setHalf o (some 5)).sys.halves.find o = some 5 ∧ o % 4 = 0 ∧ (Reg.BEAT_NOW ≠ 0) := by decide +kernel
theorem test_RegistersAndSnapshots_snapshots : let g := grange fieldA; let w (l : Nat) : BitVec 64 := BitVec.ofNat 64 (2 ^ 10 * l + 1)
    (g.field 0).members.length ≤ 2 ∧ ((g.field 0).members[1]?).isSome ∧ ((grange { fieldA with root := 2 } .locked 2).field 0).root ≠ (g.setRegN Reg.FIELD_SEL 1).me ∧ (0x400000#32).getLsbD 22 ∧ (0x43FFFF#32).toNat % 2 ^ 22 < 262144 ∧ 262144 ≤ (0x440000#32).toNat % 2 ^ 22 ∧ (w 7).getLsbD 63 = false := by decide +kernel
def night (u : Nat) (f : Sys → Sys) : State := { up with sys := f { up.sys with bg := { share := 32, used := (if u = 0 then [] else [(0, u)]) } } }
theorem test_BackgroundWork_patrol : let s := night 0 id; let r (n : Nat) : State := { s with mem := { s.mem with ceRuns := [(24, n)] } }
    s.cdUp ∧ s.bgRoom 0 4096 ∧ (night 1000000000 id).bgRoom 0 4096 = false ∧ Tbl.get (fun _ => 0) (r 1).mem.ceRuns 24 < 2 ∧ Tbl.get (fun _ => 0) (r 2).mem.ceRuns 24 = 2 ∧ (r 2).mem.retired.contains 24 = false ∧ 23592958 + 1 < 23592960 := by decide +kernel
theorem test_BackgroundWork_retire : let f := kvBase; let s : State := { night 0 id with mem := { ({} : Store) with ceRuns := [(f, 2)] } }
    f + 1 < 23592960 ∧ s.bgRoom (f % 24) 4096 ∧ Tbl.get (fun _ => 0) s.mem.ceRuns f = 2 ∧ s.mem.retired.contains f = false ∧ s.unitFree f := by decide +kernel
theorem test_BackgroundWork_passes : let r (n : Nat) : State := night 0 (fun y => { y with bg := { y.bg with recalDone := (List.range n).map (· + 1) } }); let t (n : Nat) : State := night 0 (fun y => { y with bg := { y.bg with taperDone := (List.range n).map (· + 1) } })
    (r 22).sys.bg.recalDone.length < 23 ∧ (r 22).sys.bg.recalDone.contains 0 = false ∧ (r 22).bgRoom 0 288000 ∧ (night 1000000000 id).bgRoom 0 288000 = false ∧ (t 62).bgRooms [(resTile 0, 2000), (resTile 1, 2000)] ∧ (t 62).tileFree 0 ∧ (r 23).sys.bg.recalDone.length = 23 ∧ (r 23).sys.bg.recalDone.contains 0 = false ∧ (t 62).sys.bg.taperDone.length < 63 ∧ (t 63).sys.bg.taperDone.length = 63 ∧ (t 63).sys.bg.taperDone.contains 0 = false ∧ ({ up with clk := { up.clk with now := 2048 } } : State).now % 1024 = 0 ∧ up.sys.bg.windowAt ≠ some 2048 ∧ (night 0 (fun y => { y with bg := { y.bg with windowAt := some 2048 } })).sys.bg.windowAt = some 2048 ∧ up.now % 1024 ≠ 0 := by decide +kernel
theorem test_BackgroundWork_telemetry : let s (b : Nat) : State := ((((night 0 id).setRegN Reg.TELEM_CTRL 0x8000000A).setRegN Reg.TELEM_RING_BASE b).setRegN Reg.TELEM_RING_SIZE 4).setRegN Reg.TELEM_RING_CI 4081
    bit ((s 0).regN Reg.TELEM_CTRL) 31 ∧ (s 0).now % bits ((s 0).regN Reg.TELEM_CTRL) 23 0 = 0 ∧ (s 0).sys.telem.tried ≠ (s 0).now ∧ (s 0).sys.blocks.any (fun b => b.1 == 10) = false ∧ (s 0).regN Reg.TELEM_RING_BASE = 0 ∧ (s 65536).regN Reg.TELEM_RING_BASE ≠ 0 ∧
    ((s 65536).regN Reg.TELEM_RING_PI + 4096 - (s 65536).regN Reg.TELEM_RING_CI % 4096) % 4096 < min (2 ^ bits ((s 65536).regN Reg.TELEM_RING_SIZE) 3 0) 4095 ∧ (s 65536).bgRoom resCxl 4096 ∧ ((night 0 id).setRegN Reg.TELEM_CTRL 0x8000000B).now % 11 ≠ 0 ∧ up.sys.powered := by decide +kernel
/-- Node 1 in the drain from epoch 4 to 5: target 7 here, target 8 gone to node 2 with a stub, target 9 gone without. -/
def drain : State := { net with fab := { net.fab with epoch := 5, drainEnd := 20, map := { net.fab.map with targets := [(7, some 1), (8, some 2), (9, some 2)] }, stubs := [(8, 2)] } }
theorem test_RoutesAndStubs_placed : let f (t e : Nat) : Frame := { fr t with routeEpoch := e }; let k := drain.linkCheck (f 8 4); let a (t e : Nat) : State := after drain (f t e) .collective
    (drain.placedAt 7 = some drain.me ∧ drain.placedAt 8 ≠ some drain.me ∧ 4 + 1 = drain.fab.epoch ∧ drain.now < drain.fab.drainEnd ∧ (drain.fab.stubs.find? (·.1 == 8)).map (·.2) = some 2 ∧ (∀ x ∈ drain.fab.stubs, x.1 ≠ 9) ∧ 3 < drain.fab.epoch ∧ ¬ 3 + 1 = drain.fab.epoch) ∧
    (k.2 ∧ (f 8 4).dst = k.1.me ∧ (f 8 4).ref ≠ 0 ∧ k.1.placed (f 8 4).routeEpoch (f 8 4).ref = .stub ∧ k.1.stubFor (f 8 4).routeEpoch (f 8 4).ref = some 2 ∧ (k.1.route 2).isSome ∧ (f 8 4).hops < 15) ∧
    ((drain.arrival (f 7 3) .collective).1 ∧ (a 7 3).placed 3 7 = .stale ∧ (drain.arrival (f 8 6) .collective).1 ∧ (a 8 6).placed 6 8 = .behind) := by decide +kernel
/-- A contribution of meadow 0, half of whose port share of the beat is open or used up; a snapshot while one is busy. -/
theorem test_GatesAndQueues_share : let g : OutFrame := net.mkFrame 2 .collective 0 72 (.contribution 0 5 3 [] []); let s (u : Nat) : State := { net with eng := { net.eng with meadows := [(0, { ({} : Meadow) with portShares := [64] })] }, fab := { net.fab with tc0Used := [(0, u)] } }
    shareOwner g false = some 0 ∧ (s 0).sendable g false ∧ (s 0).tc0Used 0 0 < (s 0).tc0Share 0 0 ∧ (s 5000).tc0Share 0 0 ≤ (s 5000).tc0Used 0 0 ∧ ({ net with sys := { net.sys with busy := [Reg.QUEUE_SEL] } } : State).busy Reg.QUEUE_SEL ∧ net.busy Reg.QUEUE_SEL = false ∧
    (8 : Nat) + 1 < net.now ∧ net.now ≤ 9 + 1 ∧ (net.mkFrame 2 .heartbeat 4 8 .none).payload = .none := by decide +kernel
/-- An eviction runs for node 5; node 2 and this one know a deed, `HOME` here or lent. -/
theorem test_Joins_waits : let s : State := { net with fab := { net.fab with partners := [(0, { ({} : Partner) with node := 2, state := .live, evicting := true, forNode := 5 })] } }
    let k : DeedKey := { region := false, keeper := 1, lantern := 1, deed := 1 }; let r (st : DState) : State := { net with lore := { net.lore with receipts := [{ deeds := [(k, 1)], commit := some 1, home := 1, lantern := none, src := 2, mv := 3 }], deeds := [(1025, { record1 with state := st, pages := [pg 800000], npages := 1, posCount := 16, deed := 1 })] } }
    s.evictingFor 5 ∧ s.partnerOf 5 = none ∧ net.evictingFor 5 = false ∧ (r .home).sharedKeys 2 = [k] ∧ (r .home).findDeed k = some (.own 1 1) ∧ ((r .home).deed (.own 1 1)).state = .home ∧ (r .lent).findDeed k = some (.own 1 1) ∧ ((r .lent).deed (.own 1 1)).state ≠ .home ∧ net.sharedKeys 3 = [] := by decide +kernel
/-- The last lamp by its last view; a register of no row. -/
theorem test_RegistersAndSnapshots_registerAccess_lamps : let v := 3; let k := 16383; (0x100000 + 0x40000 * v + 8 * k + 4 : Nat) < 0x200000 ∧ (v < 4 ∧ k < 16384 ∧ (1 : Nat) < 2) ∧ up.cdUp ∧ (up.sys.latch = none) ∧ ({ up with sys := { up.sys with latch := some (5, 6) } } : State).sys.latch = some (5, 6) := by decide +kernel
theorem test_RegistersAndSnapshots_snapshots_busy : let b (o : Nat) : State := { grange fieldA with sys := { (grange fieldA).sys with busy := [o] } }; let g := grange fieldA
    (∀ o ∈ [Reg.PARTNER_SEL, Reg.WIN_SEL, Reg.FIELD_SEL, Reg.PEEK_SEL, Reg.HOSTED_FIND, Reg.SC_SNAP], (b o).busy o ∧ g.busy o = false) ∧ g.cdUp ∧
    (g.lore.hosted.find? (fun e => e.2.keeper == g.reg Reg.HOSTED_KEEPER && e.2.keeperLantern == 5 && e.2.deed == 1) = none) ∧
    ({ g with lore := { g.lore with hosted := [(6, { record1 with keeper := 0, keeperLantern := 5, deed := 1 })] } } : State).lore.hosted.find? (fun e => e.2.keeper == g.reg Reg.HOSTED_KEEPER && e.2.keeperLantern == 5 && e.2.deed == 1) = some (6, { record1 with keeper := 0, keeperLantern := 5, deed := 1 }) := by decide +kernel

/-! ## Posted instructions and stores -/

theorem test_PostedAndFence_post : let w := pword 0 0 0 32; let x := cx 0x2C w; let s := with_ up x
    RunsPosted s 0 0x2C w x ∧ RunsPosted (with_ up (cx 0x58 (pword (fl [8]) 0 0 64))) 0 0x58 (pword (fl [8]) 0 0 64) (cx 0x58 (pword (fl [8]) 0 0 64)) := by decide +kernel
def full : Ctx := { cx 0x2C (pword 0 0 0 32) with posted := (List.range 16).map (fun i => { index := i, cmd := .bgWindowStart, done := none }) }
theorem test_PostedAndFence_full : StandsAt (with_ up full) 0 0x2C (pword 0 0 0 32) full ∧ WellShaped 0x2C (pword 0 0 0 32) full ∧ 16 ≤ full.outstanding := by decide +kernel
def isDone (r : Option IRes) : Bool := match r with
  | some (.ok _) => true
  | _ => false
def isFailed (r : Option IRes) : Bool := match r with
  | some (.fail _ _) => true
  | _ => false
theorem test_PostedAndFence_complete : let x : Ctx := { cx 0x2C (pword 0 0 0 32) with pc := 1, posted := [{ index := 0, cmd := .setUnion 0 (pword 0 0 0 32) (setD 0x100 0x200 0x300), done := none }] }
    (with_ up x).ctx 0 = some x ∧ (x.posted.find? (fun q => q.index == 0 && q.done.isNone)).isSome ∧ up.sys.blocks.any (fun b => b.1 == 5) = false ∧
    isDone ((with_ up x).postedBody 0 0 0 (.setUnion 0 (pword 0 0 0 32) (setD 0x100 0x200 0x300))) ∧
    isFailed ((with_ up x).postedBody 0 0 0 (.setUnion 0 (pword 0 0 0 32) (setD 0x100 0x200 0x300 ++ [1#8]))) = false ∧
    isFailed ((with_ up x).postedBody 0 0 0 (.setUnion 0 (pword 0 0 0 32) (leBytes 32 (2 ^ 200)))) := by decide +kernel
theorem test_PostedAndFence_fence : let w := word 0 0 0 0; let p (i : Nat) (r : Option Code) : Posted := { index := i, cmd := .bgWindowStart, done := r }; let x (l : List Posted) : Ctx := { cx 0x06 w with posted := l }
    (runsAs up 0x06 w (x [p 0 none, p 1 (some .ok)]) ∧ (x [p 0 none, p 1 (some .ok)]).posted.any (fun q => q.done.isNone)) ∧
    (runsAs up 0x06 w (x []) ∧ (x [p 0 (some .ok)]).posted.all (fun q => q.done == some .ok)) ∧
    runsAs up 0x06 w (x [p 3 (some .noSpace), p 1 (some .checkFail), p 0 (some .ok)]) ∧ [p 3 (some .noSpace), p 1 (some .checkFail), p 0 (some .ok)].all (fun q => q.done.isSome) ∧
    (∀ q ∈ [p 3 (some .noSpace), p 1 (some .checkFail), p 0 (some .ok)], q.done ≠ some .ok → q = p 1 (some .checkFail) ∨ 1 < q.index) := by decide +kernel
/-- An object of 2 pages in GDDR7 page 7, at HDM address 0x10000000 + 0x2000. -/
def shelf : State := { up with cxl := { up.cxl with decoder := some (0x10000000, 0x10000000) }, mem := { up.mem with objs := [(3, { ({} : Obj) with base := 0x2000, size := 8192, stored := 8192, state := 1, loc := 7 })] } }
/-- The same at a fixed rate, and with the host region of the commons at the end of BAR2 (0x20000000). -/
def rated : State := { shelf with cxl := { shelf.cxl with bar2 := some 0x20000000 }, mem := { shelf.mem with objs := [(3, { ({} : Obj) with base := 0x2000, size := 8192, stored := 4096, ratio := 1, fmt := 3, state := 1, loc := 7 })] }, regs := Tbl.set resetOf shelf.regs Reg.COMMONS_HOST 1 }
theorem test_InstructionMemoryFrames_storingInstructionsFrame_where : (shelf.gddrObj 0x10002000).map (fun e => (e.1.plain, e.1.readOnly, e.2)) = some (true, false, 0) ∧ (rated.gddrObj 0x10002040).map (fun e => (e.1.plain, e.2)) = some (false, 64) ∧
    rated.commonsAt (0x20000000 + 2 ^ 26 - 8) = some (2 ^ 26 - 8) ∧ rated.commonsAt 0x20000000 = none ∧ shelf.gddrObj 0x10004000 = none := by decide +kernel
theorem test_InstructionMemoryFrames_storingInstructionsFrame_place : shelf.storePlace 0x10002000 = some 28672 ∧ shelf.storePlace 0x10003FFF = some 36863 ∧ shelf.storePlace 0x10004000 = none ∧ shelf.storePlace 0x1000 = none := by decide +kernel
theorem test_InstructionMemoryFrames_storingInstructionsFrame_query : let w := word 0 0 5 0x10002000
    runsIn shelf 0x1C w ∧ (run (.ltnQuery 0 w) (at_ { shelf with mem := { shelf.mem with gddr := [(28672, 9), (28800, 7)] } } 0x1C w)).mem.gddr = [(28800, 7)] := by decide +kernel
theorem test_ExactCodecRoundTrip : let src := leBytes 8 0x3C003C013C023C03
    src ≠ [] ∧ src.length % exactWidth 1 = 0 ∧ expandAll 8 ((exactPack 1 false src).1.length / 32 + 1) [] (exactPack 1 false src).1 = .ok src := by decide +kernel

/-! ## Values that the spec prints -/

/-- Section 10: the group of the first worked example. -/
theorem test_codec_group : encodeGroup 0x3 3 ([0x34, 0xA8, 0x2C, 0xB0, 0x20, 0x00, 0xAA, 0x30].map (BitVec.ofNat 8) ++ List.replicate 24 0) =
    ([0x7E, 0x17, 0x1D, 0x0A, 0x85, 0x42, 0xA1, 0x50].map (BitVec.ofNat 8), { sat := 1 }) := by decide +kernel
/-- Section 8: 13.7, 5.2, 5.0, 1.25, −0.74 and 0.25 quantised to scaled E2M1. -/
theorem test_block_E2M1 : (quantBlock 0x7 true [0x415B3333, 0x40A66666, 0x40A00000, 0x3FA00000, 0xBF3D70A4, 0x3E800000]).1 = 128 ∧
    (quantBlock 0x7 true [0x415B3333, 0x40A66666, 0x40A00000, 0x3FA00000, 0xBF3D70A4, 0x3E800000]).2.1 = [7, 5, 4, 1, 9, 0] ∧
    (quantBlock 0x7 true [0x415B3333, 0x40A66666, 0x40A00000, 0x3FA00000, 0xBF3D70A4, 0x3E800000]).2.2.sat = 1 := by decide +kernel
/-- Section 14: the gate list of two entries, and the reset list. -/
theorem test_gate_fractions : (gateFractions 2000 20 [(0x01, 500), (0xFE, 0x1FFFF)]).take 2 = [1649, 6589] ∧ gateFractions 2000 20 [(0xFF, 0x1FFFF)] = List.replicate 8 9879 ∧
    up.guardNs 2 = 166 ∧ up.guardNs 8 = 42 := by decide +kernel
/-- Section 3: the anchor example's transfer term, with γ = 0.9. -/
theorem test_move_beats : ({ up with fab := { up.fab with gateFrac := List.replicate 8 9000 } }.setRegN (Reg.GATE_FRACTION 1) 9000).moveBeats 1 8 536870912 = some 6928 := by decide +kernel
/-- Sections 3 and 6: T_resume from flash and from host memory. -/
theorem test_resume_beats : (up.resumeItem 0 4 536870912).n = 10800 ∧ (up.resumeItem 0 2 536870912).n = 5595 := by decide +kernel
/-- Section 3: the two deadlines of the first-token example. -/
theorem test_deadline_beats : let s : State := { up with clk := { up.clk with now := 1000000, time := 2000000000 } }
    s.deadlineOf 2030000000 = 1015000 ∧ s.deadlineOf 2025000000 = 1012500 := by decide +kernel
/-- Section 12: the map entry 0x041F_412C. -/
theorem test_flash_phys : physSb 0x041F412C = 1000 ∧ physDie 0x041F412C = 2 := by decide +kernel
/-- CRC-32C of "123456789" (R-named polynomial's published check value) and SHA-256 of "abc" (FIPS 180-4). -/
theorem test_crc_sha : crc32c ((List.range 9).map (fun i => BitVec.ofNat 8 (0x31 + i))) = 0xE3069283 ∧
    sha256 [0x61#8, 0x62#8, 0x63#8] = 0xba7816bf8f01cfea414140de5dae2223b00361a396177a9cb410ff61f20015ad := by decide +kernel

/-! ## Ill-formed commands -/

/-- One command outside each bound of `Instr.wf`, and one within. -/
theorem test_wf_indices : Instr.wf (.nop 256 (word 0 0 0 0)) = false ∧ Instr.wf (.nop 255 (word 0 0 0 0)) ∧ Instr.wf (.stepStart 8) = false ∧ Instr.wf (.stepStart 7) ∧
    Instr.wf (.moveKill 256 0) = false ∧ Instr.wf (.moveKill 255 65536) = false ∧ Instr.wf (.parkCommit 4194304 none) = false ∧ Instr.wf (.linkUp 32) = false ∧ Instr.wf (.linkUp 31) ∧
    Instr.wf (.portCfgWrite 8 0) = false ∧ Instr.wf (.canaryRun 128 0 0) = false := by decide +kernel
theorem test_wf_tables : Instr.wf (.lampPlainWrite 16384 8 0) = false ∧ Instr.wf (.lampPlainWrite 16383 8 0) ∧ Instr.wf (.winRevokeComplete 4096) = false ∧ Instr.wf (.joinTimeout 4096) = false ∧
    Instr.wf (.sbVerify 2392 []) = false ∧ Instr.wf (.sbVerify 2391 []) ∧ Instr.wf (.reqReleaseTimeout 262144) = false ∧ Instr.wf (.postedInstructionComplete 0 4096 none) = false := by decide +kernel
theorem test_wf_frames : Instr.wf (.probeReceive (fr) false 0) ∧ Instr.wf (.probeReceive { fr with tc := 8 } false 0) = false ∧ Instr.wf (.probeReceive { fr with hops := 256 } false 0) = false ∧
    Instr.wf (.probeReceive { fr with payloadLen := 8193 } false 0) = false ∧ Instr.wf (.probeReceive { fr with generation := 65536 } false 0) = false ∧
    Instr.wf (.probeReceive { fr with window := some 4096 } false 0) = false ∧ Instr.wf (.probeReceive { fr with src := 0 } false 0) = false ∧ Instr.wf (.probeReceive { fr with dst := 0 } false 0) = false := by decide +kernel
theorem test_wf_descriptors : Instr.wf (.ltnCreate 0 (word 0 0 0 0) (leBytes 127 0)) = false ∧ Instr.wf (.ltnCreate 0 (word 0 0 0 0) (leBytes 128 0)) ∧ Instr.wf (.reqAdmit 0 (word 0 0 0 0) (leBytes 31 0)) = false ∧
    Instr.wf (.pgAppend 0 (word 0 0 0 0) (leBytes 17 0)) = false ∧ Instr.wf (.setUnion 0 (word 0 0 0 0) (leBytes 33 0)) = false ∧ Instr.wf (.attnPartial 0 (word 0 0 0 0) (leBytes 63 0)) = false ∧ Instr.wf (.copy 0 (word 0 0 0 0) (leBytes 65 0)) = false := by decide +kernel

end Sys2Proof.Tests
end

section
/-! The timing state and the voltage loop (R43 to R47): one equation per operation of the loop, and obligation O41 from them. -/

namespace Sys2Proof.Machine

/-! ## The measured rate and the margin -/

/-- The measured rate of R43 is the library's minimum. -/
theorem leastOf_eq_min? (l : List Nat) : leastOf l = l.min? := by
  cases l with
  | nil => rfl
  | cons x xs => exact List.min?_cons'.symm

theorem leastOf_eq_some {l : List Nat} {a : Nat} (hmem : a ∈ l) (hle : ∀ b ∈ l, a ≤ b) : leastOf l = some a := by
  rw [leastOf_eq_min?]
  exact List.min?_eq_some_iff.mpr ⟨hmem, hle⟩

theorem State.margin_eq (s : State) : s.margin = s.regN Reg.TAPER_MARGIN % 256 := by
  simp [State.margin, bits]

theorem atLeast_eq_true_iff (rate m : Nat) : atLeast rate m = true ↔ 1200000000 * (1024 + m) ≤ 1024 * rate :=
  decide_eq_true_iff

theorem atLeast_eq_false_iff (rate m : Nat) : atLeast rate m = false ↔ 1024 * rate < 1200000000 * (1024 + m) :=
  decide_eq_false_iff_not.trans Nat.not_le

/-! ## Order 2: the timing state (R43) and the count of R45 -/

@[simp] theorem State.raise_clk (s : State) (code : Nat) (node : NodeId) (d0 d1 : Nat) (m : Option Nat) (o : Nat) :
    (s.raise code node d0 d1 m o).clk = s.clk := (Still.raise s code node d0 d1 m o).clk

/-- The timing state that R43 gives for a measured rate: `DERATED` is not left here. -/
def Timing.next (old : Timing) (rate m : Nat) : Timing :=
  if old = .derated ∨ rate < scheduleRate then .derated else if atLeast rate m then .normal else .marginLow

/-- Order 2 in one equation: the timing state and the count of beats at or above the margin threshold. -/
theorem State.timing_clk {s : State} {tapers : List Nat} {rate : Nat} (h : leastOf tapers = some rate) :
    (s.timing tapers).clk.timing = s.clk.timing.next rate s.margin ∧
    (s.timing tapers).clk.exitCount = if atLeast rate s.margin then s.clk.exitCount + 1 else 0 := by
  by_cases hsched : rate < scheduleRate
  · cases ht : s.clk.timing <;> simp [State.timing, Timing.next, h, ht, hsched]
  · cases hm : atLeast rate s.margin with
    | true => cases ht : s.clk.timing <;> simp [State.timing, Timing.next, h, ht, hsched, hm]
    | false => cases ht : s.clk.timing <;> simp [State.timing, Timing.next, h, ht, hsched, hm]

/-! ## The exit from `DERATED` (R45) -/

theorem State.exitDue_iff (s : State) :
    s.exitDue = true ↔ s.clk.timing = .derated ∧ bits (s.regN Reg.DERATED_EXIT) 15 0 ≤ s.clk.exitCount := by
  simp [State.exitDue]

theorem exec_deratedExited_of_exitDue {s : State} (hup : s.cdUp = true) (h : s.exitDue = true) :
    exec .deratedExited s = .next ((s.mapClk (fun c => { c with timing := .normal })).raise Ev.deratedExited 0 0 0 none 2) := by
  simp [exec, execDeratedExited, State.leaveDerated, hup, h]

theorem exec_deratedExited_of_not_exitDue {s : State} (h : ¬ s.exitDue = true) : exec .deratedExited s = .next s := by
  simp [exec, execDeratedExited, State.leaveDerated, h]

/-! ## Order 7: the voltage (R46, R47) -/

/-- A beat that has reached an order does no more to reach it. -/
theorem State.atOrder_of_le {s : State} {k : Nat} (h : k ≤ s.clk.order) : s.atOrder k = s := by
  have hnone (o : Nat) : ¬ (s.clk.order < o ∧ o ≤ k) := by omega
  simp [State.atOrder, hnone, State.mapClk, Nat.max_eq_left h]

theorem exec_voltageLower_at_order_7 {s : State} (hup : s.cdUp = true) (h : 7 ≤ s.clk.order) :
    exec .voltageLower s = .next s.lowerVoltage := by
  simp [exec, execVoltageLower, hup, State.atOrder_of_le h]

theorem State.lowerVoltage_of_due {s : State} (hmode : bit (s.regN Reg.VOLT_CTRL) 31 = false) (hhigh : 64 ≤ s.clk.highCount) :
    s.lowerVoltage = s.mapClk (fun c => { c with volt := max 650 (c.volt - 5), highCount := 0 }) := by
  simp [State.lowerVoltage, hmode, hhigh]

theorem State.lowerVoltage_of_not_due {s : State} (h : bit (s.regN Reg.VOLT_CTRL) 31 = true ∨ s.clk.highCount < 64) :
    s.lowerVoltage = s := by
  unfold State.lowerVoltage
  rw [if_neg]
  rintro ⟨hmode, hhigh⟩
  rcases h with h | h
  · simp [h] at hmode
  · omega

theorem State.voltage_of_fixed {s : State} (hmode : bit (s.regN Reg.VOLT_CTRL) 31 = true) :
    s.voltage = s.mapClk (fun c => { c with volt := bits (s.regN Reg.VOLT_CTRL) 25 16 }) := by
  simp [State.voltage, hmode]

theorem State.voltage_of_adaptive {s : State} {rate : Nat} (hmode : bit (s.regN Reg.VOLT_CTRL) 31 = false)
    (h : leastOf s.clk.tapers = some rate) :
    s.voltage = if atLeast rate s.margin then s else s.mapClk (fun c => { c with volt := min 850 (c.volt + 5), highCount := 0 }) := by
  simp [State.voltage, hmode, h]

end Sys2Proof.Machine

open Sys2Proof Sys2Proof.Machine

/-- Settles O41: it holds. With the least reading as the measured rate, each clause is one case of `Timing.next`, of the count of R45,
of the exit rule or of the voltage step. -/
theorem timingAndVoltage : Obligations.TimingAndVoltage := by
  intro s tapers rate hmem hle
  have hrate : leastOf tapers = some rate := leastOf_eq_some hmem hle
  obtain ⟨htiming, hcount⟩ := State.timing_clk (s := s) hrate
  rw [htiming, hcount, ← State.margin_eq, ← atLeast_eq_true_iff, ← atLeast_eq_false_iff]
  refine ⟨fun hlow => ?_, fun hder => ?_, fun hder hsched => ⟨fun hok => ?_, fun hbelow => ?_⟩, fun hok => ?_, fun hbelow => ?_,
    fun hup => ⟨fun hder hexit => ?_, fun hder => ?_, fun hexit => ?_, fun horder => ⟨fun hmode hhigh => ?_, fun hno => ?_⟩⟩,
    State.voltage_of_fixed, fun hmode htapers => ?_⟩
  · simp [Timing.next, scheduleRate, hlow]
  · simp [Timing.next, hder]
  · simp [Timing.next, scheduleRate, hder, hsched, hok]
  · simp [Timing.next, scheduleRate, hder, hsched, hbelow]
  · simp [hok]
  · simp [hbelow]
  · exact exec_deratedExited_of_exitDue hup (s.exitDue_iff.mpr ⟨hder, hexit⟩)
  · exact exec_deratedExited_of_not_exitDue (fun h => hder (s.exitDue_iff.mp h).1)
  · exact exec_deratedExited_of_not_exitDue (fun h => Nat.not_le.mpr hexit (s.exitDue_iff.mp h).2)
  · rw [exec_voltageLower_at_order_7 hup horder, State.lowerVoltage_of_due hmode hhigh]
  · rw [exec_voltageLower_at_order_7 hup horder, State.lowerVoltage_of_not_due hno]
  · rw [State.voltage_of_adaptive hmode (htapers ▸ hrate)]
    exact ⟨fun hok => if_pos hok, fun hbelow => if_neg (by simp [hbelow])⟩
end

section
/-! How a program's instruction ends (R92, R103, R104, R124): the fields of the result record, what ending an entry leaves and
writes, where the program goes on, and obligation O7 from them. -/

namespace Sys2Proof

/-! ## Layouts written field by field and read little-endian (R123) -/

@[simp] theorem length_leBytes (n v : Nat) : (leBytes n v).length = n := by
  induction n generalizing v with
  | zero => rfl
  | succ n ih => simp [leBytes, ih]

theorem leVal_leBytes (n v : Nat) : leVal (leBytes n v) = v % 2 ^ (8 * n) := by
  induction n generalizing v with
  | zero => simp [leBytes, leVal, Nat.mod_one]
  | succ n ih =>
    calc leVal (leBytes (n + 1) v) = v % 256 + 256 * (v / 256 % 2 ^ (8 * n)) := by simp [leBytes, leVal, ih]
      _ = v % (256 * 2 ^ (8 * n)) := Nat.mod_mul.symm
      _ = v % 2 ^ (8 * (n + 1)) := by rw [Nat.mul_succ, Nat.pow_add, Nat.mul_comm]

theorem length_packLE (fs : List (Nat × Nat)) : (packLE fs).length = (fs.map (·.1)).sum := by
  induction fs with
  | nil => rfl
  | cons f fs ih => simp [packLE, ih]

theorem packLE_append (fs gs : List (Nat × Nat)) : packLE (fs ++ gs) = packLE fs ++ packLE gs := by
  induction fs with
  | nil => rfl
  | cons f fs ih => simp [packLE, ih]

/-- A field of a layout, read at the place behind the fields before it. -/
theorem le_packLE (fs gs : List (Nat × Nat)) (n v : Nat) :
    le (packLE (fs ++ (n, v) :: gs)) (fs.map (·.1)).sum n = v % 2 ^ (8 * n) := by
  have hskip : (packLE (fs ++ (n, v) :: gs)).drop (fs.map (·.1)).sum = leBytes n v ++ packLE gs := by
    rw [packLE_append, ← length_packLE, List.drop_left, packLE]
  rw [le, hskip, List.take_left' (length_leBytes n v), leVal_leBytes]

end Sys2Proof

namespace Sys2Proof.Machine

/-! ## The result record (Table 4.7) -/

theorem codeN_lt (code : Code) : codeN code < 2 ^ 8 := by
  cases code <;> decide

theorem length_resultBytes (s : State) (x : Ctx) (code : Code) (idx obs : Nat) : (resultBytes s x code idx obs).length = 64 := by
  simp [resultBytes, length_packLE]

theorem le_resultBytes_tag (s : State) (x : Ctx) (code : Code) (idx obs : Nat) :
    le (resultBytes s x code idx obs) 0 2 = x.entry.tag % 2 ^ 16 :=
  le_packLE [] _ 2 x.entry.tag

theorem le_resultBytes_code (s : State) (x : Ctx) (code : Code) (idx obs : Nat) :
    le (resultBytes s x code idx obs) 2 1 = codeN code :=
  (le_packLE [(2, _)] _ 1 (codeN code)).trans (Nat.mod_eq_of_lt (codeN_lt code))

theorem le_resultBytes_index (s : State) (x : Ctx) (code : Code) (idx obs : Nat) :
    le (resultBytes s x code idx obs) 4 2 = idx % 2 ^ 16 :=
  le_packLE [(2, _), (1, _), (1, _)] _ 2 idx

theorem le_resultBytes_beat (s : State) (x : Ctx) (code : Code) (idx obs : Nat) :
    le (resultBytes s x code idx obs) 24 8 = s.now % 2 ^ 64 :=
  le_packLE [(2, _), (1, _), (1, _), (2, _), (1, _), (1, _), (4, _), (1, _), (1, _), (2, _), (8, _)] _ 8 s.now

/-! ## The contexts while a promise is given up -/

theorem Tbl.find_mapVals {α : Type} (f : Nat → α → α) (t : Tbl α) (k : Nat) : (t.mapVals f).find k = (t.find k).map (f k) := by
  induction t with
  | nil => rfl
  | cons e t ih =>
    obtain ⟨j, v⟩ := e
    by_cases hjk : j = k
    · subst hjk; simp [Tbl.mapVals, Tbl.find]
    · simpa [Tbl.mapVals, Tbl.find, hjk] using ih

theorem State.now_eq_of_still {s t : State} (h : Still s t) : t.now = s.now := congrArg Clock.now h.clk

@[simp] theorem State.bump_io (s : State) (off n w : Nat) : (s.bump off n w).io = s.io := rfl

@[simp] theorem State.raise_ctxs (s : State) (code : Nat) (node : NodeId) (d0 d1 : Nat) (m : Option Nat) (o : Nat) :
    (s.raise code node d0 d1 m o).io.ctxs = s.io.ctxs := by
  unfold State.raise
  extract_lets
  split <;> rfl

@[simp] theorem State.ringWrite_io (base lg len : Nat) (bs : List Bytes) (pi : Nat) (s : State) :
    (s.ringWrite base lg len pi bs).io = s.io := by
  induction bs generalizing s pi with
  | nil => rfl
  | cons b bs ih => exact ih _ _

@[simp] theorem State.drainBreaches_ctxs (s : State) : s.drainBreaches.io.ctxs = s.io.ctxs := by
  unfold State.drainBreaches
  extract_lets base lg pi n s1
  split
  · rfl
  · simp [s1]

/-- A breach marks the contexts under the promise, and nothing else of any context. -/
theorem State.ctxs_writeBreach (s : State) {p : Promise} (hp : p.breached = false) (code : Code) (used : Nat) :
    (s.writeBreach p code used).io.ctxs =
      s.io.ctxs.mapVals (fun _ y => if y.promise = some p.id then { y with breached := true } else y) := by
  unfold State.writeBreach
  rw [if_neg (by simp [hp])]
  extract_lets seq none32 s1 s2 s3 s4 room
  have h3 : s3.io.ctxs = s.io.ctxs := by
    simp only [s3]
    split <;> rfl
  have h4 : s4.io.ctxs = s.io.ctxs.mapVals (fun _ y => if y.promise = some p.id then { y with breached := true } else y) := by
    rw [← h3]; rfl
  split
  extract_lets rcd
  split
  · exact (State.drainBreaches_ctxs _).trans h4
  · exact (State.raise_ctxs _ _ _ _ _ _ _).trans h4

/-! ## An entry ends: its record goes out and its context is free (R103, R104) -/

/-- Giving up a promise leaves a context as it was, but for the mark of a breach. -/
theorem State.ctx_writeBreach {s : State} {c : Nat} {x : Ctx} (h : s.ctx c = some x) (p : Promise) (code : Code) (used : Nat) :
    ∃ b, (s.writeBreach p code used).ctx c = some { x with breached := b } := by
  cases hp : p.breached with
  | true => exact ⟨x.breached, by simpa [State.writeBreach, hp] using h⟩
  | false =>
    have hfind : (s.writeBreach p code used).ctx c = some (if x.promise = some p.id then { x with breached := true } else x) := by
      rw [State.ctx] at h
      rw [State.ctx, State.ctxs_writeBreach s hp, Tbl.find_mapVals, h]
      rfl
    rw [hfind]
    split
    · exact ⟨true, rfl⟩
    · exact ⟨x.breached, rfl⟩

theorem State.ctx_breachOf {s : State} {c : Nat} {x : Ctx} (h : s.ctx c = some x) (p : Promise) (code : Code) (excused : Bool) :
    ∃ b, (s.breachOf p code excused).ctx c = some { x with breached := b } := by
  unfold State.breachOf
  split
  · exact State.ctx_writeBreach h _ _ _
  · split
    · exact State.ctx_writeBreach h _ _ _
    · exact ⟨x.breached, h⟩

theorem State.ctx_failPromise {s : State} {c : Nat} {x : Ctx} (h : s.ctx c = some x) (id : Option Nat) (code : Code) (excused : Bool) :
    ∃ b, (s.failPromise id code excused).ctx c = some { x with breached := b } := by
  unfold State.failPromise
  split
  · exact ⟨x.breached, h⟩
  · exact State.ctx_breachOf h _ _ _

theorem State.ctx_abandonPromise {s : State} {c : Nat} {x : Ctx} (h : s.ctx c = some x) (id : Option Nat) (code : Code) :
    ∃ b, (s.abandonPromise id code).ctx c = some { x with breached := b } := by
  unfold State.abandonPromise
  split
  · exact ⟨x.breached, h⟩
  · extract_lets n excused
    split
    · exact ⟨x.breached, h⟩
    · split
      · exact State.ctx_failPromise h _ _ _
      · exact State.ctx_breachOf h _ _ _

theorem State.ctx_freeCtx (s : State) (c : Nat) : (s.freeCtx c).ctx c = none := by
  simp [State.ctx, State.freeCtx, Tbl.find_drop]

theorem State.ctx_closeEntry (s : State) (c : Nat) (code : Code) (idx obs : Nat) : (s.closeEntry c code idx obs).ctx c = none := by
  unfold State.closeEntry
  split
  · assumption
  · exact State.ctx_freeCtx _ _

theorem State.out_foldl_subQueued (gs : List Grant) (s : State) :
    (gs.foldl (fun s g => s.subQueued g.cls g.bytes) s).out = s.out := by
  induction gs generalizing s with
  | nil => rfl
  | cons g gs ih => exact ih _

/-- The output of an entry that ends: one record more, at its slot, formed in this beat and of this entry. -/
theorem State.out_closeEntry {s : State} {c : Nat} {x : Ctx} (h : s.ctx c = some x) (code : Code) (idx obs : Nat) :
    ∃ (t : State) (y : Ctx), t.now = s.now ∧ y.entry = x.entry ∧ (s.closeEntry c code idx obs).out =
      .hostWrite (x.entry.resultBase + 64 * x.entry.slot) (resultBytes t y code idx obs) :: s.out := by
  unfold State.closeEntry
  simp -zeta only [h]
  extract_lets live y p s1 s2 s3 s4 un s5 bytes r s6
  have h1 : s1.now = s.now ∧ s1.out = s.out := by
    simp only [s1]
    split <;> exact ⟨rfl, rfl⟩
  have h2 : s2.now = s1.now ∧ s2.out = s1.out := by
    simp only [s2]
    split <;> exact ⟨rfl, rfl⟩
  have h4 : s4.now = s3.now := State.now_eq_of_still (Still.foldl _ (fun _ _ => Still.subQueued _ _ _) _ _)
  have hout : s4.out = s3.out := State.out_foldl_subQueued _ _
  exact ⟨s5, y, h4.trans (h2.1.trans h1.1), rfl, congrArg _ (hout.trans (h2.2.trans h1.2))⟩

theorem State.endEntry_eq {s : State} {c : Nat} {x : Ctx} (h : s.ctx c = some x) (code : Code) (idx obs : Nat) :
    s.endEntry c code idx obs = (s.abandonPromise x.promise code).closeEntry c code idx obs := by
  simp [State.endEntry, h]

theorem State.failInstr_eq {s : State} {c : Nat} {x : Ctx} (h : s.ctx c = some x) (code : Code) (obs : Nat) :
    s.failInstr c code obs = (s.setCtx c { x with halted := decide (x.pc + 1 < x.entry.prog.length) }).endEntry c code x.pc obs := by
  simp [State.failInstr, h]

/-- An entry that ends leaves its context, and what goes out last is its record with the tag, the code, the index and the beat. -/
theorem State.endEntry_record {s : State} {c : Nat} {x : Ctx} (h : s.ctx c = some x) (code : Code) (idx obs : Nat) :
    (s.endEntry c code idx obs).ctx c = none ∧
    ∃ b : Bytes, b.length = 64 ∧ (s.endEntry c code idx obs).out =
        .hostWrite (x.entry.resultBase + 64 * x.entry.slot) b :: (s.abandonPromise x.promise code).out ∧
      le b 0 2 = x.entry.tag % 2 ^ 16 ∧ le b 2 1 = codeN code ∧ le b 4 2 = idx % 2 ^ 16 ∧ le b 24 8 = s.now % 2 ^ 64 := by
  rw [State.endEntry_eq h]
  obtain ⟨m, hm⟩ := State.ctx_abandonPromise h x.promise code
  obtain ⟨t, y, hnow, hentry, hout⟩ := State.out_closeEntry hm code idx obs
  have hbeat : t.now = s.now := hnow.trans (State.now_eq_of_still (Still.abandonPromise _ _ _))
  refine ⟨State.ctx_closeEntry _ _ _ _ _, _, length_resultBytes _ _ _ _ _, hout, ?_, le_resultBytes_code _ _ _ _ _,
    le_resultBytes_index _ _ _ _ _, ?_⟩
  · rw [le_resultBytes_tag, hentry]
  · rw [le_resultBytes_beat, hbeat]

/-! ## Where the program goes on (R92, R124) -/

/-- The opcodes of chapter 5's class tables, one by one. -/
def classOps : List Nat :=
  [0x00, 0x01, 0x02, 0x03, 0x04, 0x05, 0x06, 0x07, 0x10, 0x11, 0x12, 0x13, 0x18, 0x19, 0x1A, 0x1B, 0x1C,
    0x20, 0x21, 0x22, 0x23, 0x24, 0x28, 0x29, 0x2A, 0x2B, 0x2C, 0x2D, 0x2E, 0x2F, 0x30, 0x38, 0x39, 0x3A, 0x3B, 0x40, 0x41, 0x48, 0x49,
    0x50, 0x51, 0x58, 0x59, 0x60, 0x61, 0x62, 0x68, 0x69, 0x6A, 0x70, 0x71, 0x72, 0x73, 0x78, 0x79, 0x7A, 0x7B, 0x80, 0x81, 0x82,
    0x88, 0x89, 0x8A, 0x8B, 0x8C, 0x8D, 0x8E]

theorem lt_of_listedOp {op : Nat} (h : listedOp op = true) : op < 0x8F := by
  simp only [listedOp, List.contains_eq_mem, Bool.or_eq_true, decide_eq_true_eq, List.mem_cons, List.not_mem_nil, or_false] at h
  omega

theorem lt_of_mem_classOps : ∀ op ∈ classOps, op < 0x8F := by
  decide

theorem listedOp_iff_mem_of_lt : ∀ op < 0x8F, listedOp op = true ↔ op ∈ classOps := by
  decide

/-- Both say nothing of an opcode past the last table's; below it each opcode is looked up. -/
theorem listedOp_iff_mem (op : Nat) : listedOp op = true ↔ op ∈ classOps :=
  ⟨fun h => (listedOp_iff_mem_of_lt op (lt_of_listedOp h)).mp h,
    fun h => (listedOp_iff_mem_of_lt op (lt_of_mem_classOps op h)).mpr h⟩

/-- The context as `State.goto` leaves it at index `t`. -/
def Ctx.standing (x : Ctx) (t : Nat) : Ctx :=
  { x with pc := t, wait := .none, powerSince := none, group := if t < x.group ∧ x.pc < t then x.group else 0 }

theorem State.goto_listed {s : State} {c t : Nat} {x : Ctx} {v : BitVec 128} (h : s.ctx c = some x) (hv : x.entry.prog[t]? = some v)
    (hl : listedOp (opcodeOf v) = true) : s.goto c t = s.setCtx c (x.standing t) := by
  rw [State.goto_eq h]
  refine State.checkWord_listed (x := x.standing t) (State.ctx_setCtx_self _ _ _) fun u hu => ?_
  obtain rfl : v = u := Option.some.inj (hv.symm.trans hu)
  exact hl

theorem State.checkWord_unlisted {s : State} {c : Nat} {x : Ctx} {v : BitVec 128} (h : s.ctx c = some x)
    (hv : x.entry.prog[x.pc]? = some v) (hl : listedOp (opcodeOf v) = false) : s.checkWord c = s.failInstr c .badOperand := by
  rw [opcodeOf] at hl
  simp [State.checkWord, h, hv, hl]

theorem State.goto_unlisted {s : State} {c t : Nat} {x : Ctx} {v : BitVec 128} (h : s.ctx c = some x) (hv : x.entry.prog[t]? = some v)
    (hl : listedOp (opcodeOf v) = false) : s.goto c t = (s.setCtx c (x.standing t)).failInstr c .badOperand :=
  (State.goto_eq h).trans (State.checkWord_unlisted (x := x.standing t) (State.ctx_setCtx_self _ _ _) hv hl)

/-- The end of a program that waits for nothing. -/
theorem State.endProgram_of_nothing_left {s : State} {c : Nat} {x : Ctx} (h : s.ctx c = some x) (hp : x.posted = [])
    (hr : x.request = none) (hc : x.reqCode = none) : s.endProgram c = s.endEntry c .ok x.pc := by
  simp [State.endProgram, h, Ctx.outstanding, Ctx.failedPost, hp, hr, hc]

/-! ## The instructions that end or leave the program (R92, R133) -/

theorem ctx_of_runs {s : State} {c op : Nat} {w : IWord} {x : Ctx} (h : Runs s c op w x) : s.ctx c = some x := h.1.1

theorem exec_halt_of_runs {s : State} {c : Nat} {w : IWord} {x : Ctx} (h : Runs s c 0x01 w x) :
    exec (.halt c w) s = .next (s.endProgram c) :=
  congrArg Host.Outcome.next (State.runInstr_runs h _ _ _ _ _)

theorem State.settle_jump_outside {s : State} {c i : Nat} {x : Ctx} (h : s.ctx c = some x) (hi : x.entry.prog.length ≤ i) :
    s.settle c (.jump s i) = s.failInstr c .badOperand := by
  rw [State.settle_jump h, if_neg (Nat.not_lt.mpr hi)]

section
variable {s : State} {c : Nat} {w : IWord} {x : Ctx} (hout : x.entry.prog.length ≤ w.opb.toNat)
include hout

theorem exec_jump_outside (h : Runs s c 0x02 w x) : exec (.jump c w) s = .next (s.failInstr c .badOperand) :=
  congrArg Host.Outcome.next ((State.runInstr_runs h _ _ _ _ _).trans (State.settle_jump_outside (ctx_of_runs h) hout))

theorem exec_call_outside (h : Runs s c 0x04 w x) : exec (.call c w) s = .next (s.failInstr c .badOperand) :=
  congrArg Host.Outcome.next ((State.runInstr_runs h _ _ _ _ _).trans (by rw [if_pos hout, State.settle_fail]))

theorem exec_branch_outside (h : Runs s c 0x03 w x)
    (ht : branchTest w.flags.toNat (lampCount (s.lamp w.opa.toNat)) w.opc.toNat = some true) :
    exec (.branch c w) s = .next (s.failInstr c .badOperand) :=
  congrArg Host.Outcome.next ((State.runInstr_runs h _ _ _ _ _).trans (by simp only [ht]; exact State.settle_jump_outside (ctx_of_runs h) hout))

end

end Sys2Proof.Machine

open Sys2Proof Sys2Proof.Machine

/-- Settles O7: it holds. The first part is the record of an entry that ends, taken at the failing instruction; the second follows the
branches of `State.advance`, `State.goto` and `State.endProgram`; the third the bodies of the three jumps. -/
theorem programFlow : Obligations.ProgramFlow := by
  refine ⟨fun s c x code obs h _ => ?_, fun s c x h => ⟨State.advance_next h, fun t v hv => ⟨fun hl => ?_, fun hl => ?_⟩,
    listedOp_iff_mem, fun hend hp hr hc => ?_, fun w hrun hp hr hc => ?_⟩, fun s c w x hout =>
    ⟨exec_jump_outside hout, exec_call_outside hout, exec_branch_outside hout⟩⟩
  · obtain ⟨hfree, b, hrecord⟩ := State.endEntry_record
      (State.ctx_setCtx_self s c { x with halted := decide (x.pc + 1 < x.entry.prog.length) }) code x.pc obs
    rw [State.failInstr_eq h]
    exact ⟨hfree, b, _, hrecord⟩
  · rw [State.goto_listed h hv hl]
    exact ⟨x.standing t, State.ctx_setCtx_self _ _ _, rfl, rfl, rfl, rfl, rfl⟩
  · exact ⟨_, x.standing t, State.goto_unlisted h hv hl, State.ctx_setCtx_self _ _ _, rfl, rfl⟩
  · rw [State.advance_end h hend, State.endProgram_of_nothing_left h hp hr hc]
  · rw [exec_halt_of_runs hrun, State.endProgram_of_nothing_left h hp hr hc]
end

section
/-! The Lamp instructions (R114, R134, R135): one equation per update of a lamp word, what each instruction settles to on an open
and on a closed lamp, the wait and its two ends, and obligation O8 from them. -/

namespace Sys2Proof.Machine

/-! ## The lamp word and its updates (R114) -/

/-- A count that fits stands below the flags, which stay. -/
theorem lampWith_of_lt (v : Word) {k : Nat} (hk : k < 2 ^ 48) : lampWith v k = BitVec.ofNat 64 (v.toNat / 2 ^ 48 * 2 ^ 48 + k) := by
  rw [lampWith, Nat.mod_eq_of_lt hk]

theorem lampCount_lt (v : Word) : lampCount v < 2 ^ 48 := Nat.mod_lt _ (by decide)

theorem State.lightLamp_fits {s : State} {j n : Nat} (h : lampCount (s.lamp j) + n < 2 ^ 48) :
    s.lightLamp j n = s.setLamp j (lampWith (s.lamp j) (lampCount (s.lamp j) + n)) :=
  if_pos h

theorem State.lightLamp_saturates {s : State} {j n : Nat} (h : 2 ^ 48 ≤ lampCount (s.lamp j) + n) :
    s.lightLamp j n = s.setLamp j (lampWith (s.lamp j) (2 ^ 48 - 1) ||| 0x4000000000000000#64) :=
  if_neg (Nat.not_lt.mpr h)

/-- The word that `State.dimLamp` leaves. -/
def lampDimmed (v : Word) (n : Nat) : Word :=
  if n ≤ lampCount v then lampWith v (lampCount v - n) else lampWith v 0 ||| 0x2000000000000000#64

theorem lampDimmed_of_le {v : Word} {n : Nat} (h : n ≤ lampCount v) : lampDimmed v n = lampWith v (lampCount v - n) :=
  if_pos h

theorem lampDimmed_of_eq {v : Word} {n : Nat} (h : n = lampCount v) : lampDimmed v n = lampWith v 0 := by
  rw [lampDimmed_of_le h.le, h, Nat.sub_self]

theorem lampDimmed_of_lt {v : Word} {n : Nat} (h : lampCount v < n) : lampDimmed v n = lampWith v 0 ||| 0x2000000000000000#64 :=
  if_neg (Nat.not_le.mpr h)

/-- A `LAMP_DIM` by `n` moves the count from above 0 to 0 with notify_zero set. -/
abbrev LampFallsToZero (v : Word) (n : Nat) : Prop := v.getLsbD 63 = true ∧ 0 < lampCount v ∧ lampCount v ≤ n

theorem State.dimLamp_eq (s : State) (j n : Nat) : s.dimLamp j n =
    if LampFallsToZero (s.lamp j) n then (s.setLamp j (lampDimmed (s.lamp j) n)).raise Ev.lampZero 0 j
    else s.setLamp j (lampDimmed (s.lamp j) n) := by
  rw [lampDimmed, apply_ite (s.setLamp j)]
  rfl

theorem State.dimLamp_raises {s : State} {j n : Nat} (h : LampFallsToZero (s.lamp j) n) :
    s.dimLamp j n = (s.setLamp j (lampDimmed (s.lamp j) n)).raise Ev.lampZero 0 j := by
  rw [State.dimLamp_eq, if_pos h]

theorem State.dimLamp_silent {s : State} {j n : Nat} (h : ¬ LampFallsToZero (s.lamp j) n) :
    s.dimLamp j n = s.setLamp j (lampDimmed (s.lamp j) n) := by
  rw [State.dimLamp_eq, if_neg h]

theorem not_lampFallsToZero_of_lt {v : Word} {n : Nat} (h : n < lampCount v) : ¬ LampFallsToZero v n :=
  fun ⟨_, _, hle⟩ => Nat.not_le.mpr h hle

theorem not_lampFallsToZero_of_quiet {v : Word} {n : Nat} (h : v.getLsbD 63 = false ∨ lampCount v = 0) : ¬ LampFallsToZero v n := by
  rintro ⟨hbit, hpos, _⟩
  rcases h with h | h
  · exact Bool.false_ne_true (h.symm.trans hbit)
  · exact hpos.ne' h

/-! ## The three updates by a program (R134) -/

theorem IWord.opc_le_of_uses {w : IWord} {flags opa opb opc : Nat} (h : w.uses flags opa opb opc = true) : w.opc.toNat ≤ opc := by
  simp only [IWord.uses, Bool.and_eq_true, beq_iff_eq] at h
  obtain ⟨_, hopc⟩ := h
  exact hopc.ge.trans Nat.and_le_right

/-- R124 leaves `LAMP_SET` an operand of 48 bits. -/
theorem opc_lt_of_shapeOk_lampSet {w : IWord} (h : shapeOk 0x12 w = true) : w.opc.toNat < 2 ^ 48 :=
  Nat.lt_of_le_pred (by decide) (IWord.opc_le_of_uses h)

section
variable {s : State} {c op : Nat} {w : IWord} {x : Ctx} (h : Runs s c op w x)
include h

theorem State.lampUpdate_open (hopen : lampOpen (s.lamp w.opa.toNat) x.entry.meadow = true) (cmd : Instr) (f : State → State) :
    s.lampUpdate c op w cmd f = (f s).advance c := by
  rw [State.lampUpdate, State.runInstr_runs h, if_pos hopen, State.settle_ok]

theorem State.lampUpdate_closed (hclosed : lampOpen (s.lamp w.opa.toNat) x.entry.meadow = false) (cmd : Instr) (f : State → State) :
    s.lampUpdate c op w cmd f = s.failInstr c .accessViolation := by
  rw [State.lampUpdate, State.runInstr_runs h, if_neg (by simp [hclosed]), State.settle_fail]

end

section
variable {s : State} {c : Nat} {w : IWord} {x : Ctx} (hopen : lampOpen (s.lamp w.opa.toNat) x.entry.meadow = true)
include hopen

theorem exec_lampLight_open (h : Runs s c 0x10 w x) :
    exec (.lampLight c w) s = .next ((s.lightLamp w.opa.toNat w.opc.toNat).advance c) :=
  congrArg Host.Outcome.next (State.lampUpdate_open h hopen _ _)

theorem exec_lampDim_open (h : Runs s c 0x11 w x) :
    exec (.lampDim c w) s = .next ((s.dimLamp w.opa.toNat w.opc.toNat).advance c) :=
  congrArg Host.Outcome.next (State.lampUpdate_open h hopen _ _)

theorem exec_lampSet_open (h : Runs s c 0x12 w x) :
    exec (.lampSet c w) s = .next ((s.setLamp w.opa.toNat (lampWith (s.lamp w.opa.toNat) w.opc.toNat)).advance c) :=
  congrArg Host.Outcome.next (State.lampUpdate_open h hopen _ _)

end

/-! ## The wait and its two ends (R135) -/

theorem exec_lampWait_of_runs {s : State} {c : Nat} {w : IWord} {x : Ctx} (h : Runs s c 0x13 w x) :
    exec (.lampWait c w) s = .next (s.setCtx c
      { x with wait := .lamp w.opa.toNat w.opc.toNat (if w.opb = 0 then none else some (s.now + w.opb.toNat)) }) :=
  congrArg Host.Outcome.next ((State.runInstr_runs h _ _ _ _ _).trans (State.settle_wait (ctx_of_runs h) _ _))

section
variable {s : State} {c j target : Nat} {x : Ctx} (hx : s.ctx c = some x)
include hx

theorem exec_lampWaitMet_of_wait {till : Option Nat} (hw : x.wait = .lamp j target till) :
    exec (.lampWaitMet c) s = .next (if target ≤ lampCount (s.lamp j) then s.advance c else s) := by
  simp [exec, execLampWaitMet, hx, hw]

theorem exec_lampWaitTimeout_of_wait {b : Nat} (hw : x.wait = .lamp j target (some b)) :
    exec (.lampWaitTimeout c) s = .next (if b ≤ s.now ∧ lampCount (s.lamp j) < target then s.failInstr c .overdue else s) := by
  simp [exec, execLampWaitTimeout, hx, hw]

end

end Sys2Proof.Machine

open Sys2Proof Sys2Proof.Machine

/-- Settles O8: it holds. An update runs when the lamp is open to the entry's meadow and then takes the case of its count; a wait
is settled as such, and its two ends test the count and the beat. -/
theorem lampInstructions : Obligations.LampInstructions := by
  refine ⟨fun s c w x => ?_, fun s c w x => ⟨fun h hnone => ?_, fun h hsome => ?_, fun j target till hx hw =>
    ⟨fun hmet => ?_, fun hbelow => ?_, fun b hb hpast hbelow => ?_, fun b hb hbefore => ?_⟩⟩⟩
  · intro j v count n with_
    have hwith {k : Nat} (hk : k < 2 ^ 48) : with_ k = lampWith v k := (lampWith_of_lt v hk).symm
    have hcount : count < 2 ^ 48 := lampCount_lt v
    refine ⟨fun hopen => ⟨fun h hfits => ?_, fun h hover => ?_, fun h hlt => ?_, fun h heq hquiet => ?_, fun h heq hbit hpos => ?_,
      fun h hlt hquiet => ?_, fun h hlt hbit hpos => ?_, fun h => ?_⟩, fun hclosed => ⟨fun h => ?_, fun h => ?_, fun h => ?_⟩⟩
    · rw [exec_lampLight_open hopen h, State.lightLamp_fits hfits, hwith hfits]
      rfl
    · rw [exec_lampLight_open hopen h, State.lightLamp_saturates hover, hwith (by decide)]
    · rw [exec_lampDim_open hopen h, State.dimLamp_silent (not_lampFallsToZero_of_lt hlt), lampDimmed_of_le hlt.le,
        hwith ((Nat.sub_le _ _).trans_lt hcount)]
      rfl
    · rw [exec_lampDim_open hopen h, State.dimLamp_silent (not_lampFallsToZero_of_quiet hquiet), lampDimmed_of_eq heq, hwith (by decide)]
    · rw [exec_lampDim_open hopen h, State.dimLamp_raises ⟨hbit, hpos, heq.ge⟩, lampDimmed_of_eq heq, hwith (by decide)]
    · rw [exec_lampDim_open hopen h, State.dimLamp_silent (not_lampFallsToZero_of_quiet hquiet), lampDimmed_of_lt hlt, hwith (by decide)]
    · rw [exec_lampDim_open hopen h, State.dimLamp_raises ⟨hbit, hpos, hlt.le⟩, lampDimmed_of_lt hlt, hwith (by decide)]
    · rw [exec_lampSet_open hopen h, hwith (opc_lt_of_shapeOk_lampSet h.2.1.1)]
    · exact congrArg Host.Outcome.next (State.lampUpdate_closed h hclosed _ _)
    · exact congrArg Host.Outcome.next (State.lampUpdate_closed h hclosed _ _)
    · exact congrArg Host.Outcome.next (State.lampUpdate_closed h hclosed _ _)
  · rw [exec_lampWait_of_runs h, if_pos hnone]
  · rw [exec_lampWait_of_runs h, if_neg hsome]
  · exact (exec_lampWaitMet_of_wait hx hw).trans (congrArg _ (if_pos hmet))
  · exact (exec_lampWaitMet_of_wait hx hw).trans (congrArg _ (if_neg (Nat.not_le.mpr hbelow)))
  · rw [exec_lampWaitTimeout_of_wait hx (hb ▸ hw), if_pos ⟨hpast, hbelow⟩]
  · rw [exec_lampWaitTimeout_of_wait hx (hb ▸ hw), if_neg fun hlate => Nat.not_le.mpr hbefore hlate.1]
end

section
/-! The program word of Table 5.1: each bit of it belongs to one field, and obligation O4 from that. -/

namespace Sys2Proof.Machine

theorem opcodeOf_eq_extractLsb' (v : BitVec 128) : opcodeOf v = (v.extractLsb' 0 8).toNat := by
  simp [opcodeOf, BitVec.extractLsb'_toNat]

theorem opcodeOf_encode (op : Nat) (w : IWord) : opcodeOf (w.encode op) = op % 256 := by
  rw [opcodeOf_eq_extractLsb', IWord.encode, BitVec.extractLsb'_append_eq_right, BitVec.toNat_ofNat]

/-- Each field is read at the place where `IWord.encode` puts it: past the fields below, and whole. -/
theorem wordOf_encode (op : Nat) (w : IWord) : wordOf (w.encode op) = w := by
  obtain ⟨opc, opb, opa, posted, flags⟩ := w
  rw [wordOf, IWord.encode, IWord.mk.injEq]
  refine ⟨?_, ?_, ?_, ?_, ?_⟩
  · iterate 4 rw [BitVec.extractLsb'_append_eq_of_le (by decide)]
    exact BitVec.extractLsb'_append_eq_left
  · iterate 4 rw [BitVec.extractLsb'_append_eq_of_le (by decide)]
    exact BitVec.extractLsb'_append_eq_right
  · iterate 3 rw [BitVec.extractLsb'_append_eq_of_le (by decide)]
    exact BitVec.extractLsb'_append_eq_right
  · rw [BitVec.getLsbD_append, if_neg (by decide), BitVec.getLsbD_append, if_neg (by decide), BitVec.getLsbD_append, if_pos (by decide)]
    simp
  · rw [BitVec.extractLsb'_append_eq_of_le (by decide)]
    exact BitVec.extractLsb'_append_eq_right

/-- The fields of a word lie side by side, from bit 0 to bit 127. -/
theorem encode_wordOf (v : BitVec 128) : (wordOf v).encode (opcodeOf v) = v := by
  have hposted : BitVec.ofBool (v.getLsbD 15) = v.extractLsb' 15 1 := by
    apply BitVec.eq_of_getLsbD_eq
    intro i hi
    simp [show i = 0 by omega]
  have join (start low len : Nat) : v.extractLsb' (start + low) len ++ v.extractLsb' start low = v.extractLsb' start (len + low) :=
    BitVec.extractLsb'_append_extractLsb'_eq_extractLsb' rfl
  calc (wordOf v).encode (opcodeOf v)
      = v.extractLsb' 64 64 ++ v.extractLsb' 32 32 ++ v.extractLsb' 16 16 ++ v.extractLsb' 15 1 ++ v.extractLsb' 8 7 ++ v.extractLsb' 0 8 := by
        simp only [IWord.encode, wordOf, opcodeOf_eq_extractLsb', hposted, BitVec.ofNat_toNat, BitVec.setWidth_eq]
    _ = v := by
        rw [join 32 32 64, join 16 16 96, join 15 1 112, join 8 7 113, join 0 8 120, BitVec.extractLsb'_eq_self]

end Sys2Proof.Machine

open Sys2Proof Sys2Proof.Machine

/-- Settles O4: it holds. The fields of Table 5.1 cover the 128 bits, each once. -/
theorem instructionWordRoundTrip : Obligations.InstructionWordRoundTrip :=
  ⟨fun op w hop => ⟨(opcodeOf_encode op w).trans (Nat.mod_eq_of_lt hop), wordOf_encode op w⟩, encode_wordOf⟩
end

section
/-! The exact codec (R295 to R301): a coded run, a plane, a block and the blocks of a source, each expanded to what was packed, and
obligation O23 from them. -/

namespace Sys2Proof.Machine

/-! ## Check sums -/

theorem crcSteps_lt {poly : Nat} (hpoly : poly < 2 ^ 32) (n : Nat) {r : Nat} (hr : r < 2 ^ 32) : crcSteps poly n r < 2 ^ 32 := by
  induction n generalizing r with
  | zero => exact hr
  | succ n ih =>
    have hhalf : r / 2 < 2 ^ 32 := by omega
    refine ih ?_
    split
    · exact Nat.xor_lt_two_pow hhalf hpoly
    · exact hhalf

theorem crcBytes_lt {poly : Nat} (hpoly : poly < 2 ^ 32) (b : Bytes) {r : Nat} (hr : r < 2 ^ 32) : crcBytes poly b r < 2 ^ 32 := by
  induction b generalizing r with
  | nil => exact hr
  | cons x b ih => exact ih (crcSteps_lt hpoly 8 (Nat.xor_lt_two_pow hr (x.isLt.trans (by decide))))

theorem crc32c_lt (b : Bytes) : crc32c b < 2 ^ 32 :=
  Nat.xor_lt_two_pow (crcBytes_lt (by decide) b (by decide)) (by decide)

/-! ## One run of slots (R297, R299) -/

theorem lt_two_pow_bitLen (n : Nat) : n < 2 ^ bitLen n := by
  unfold bitLen
  split
  · omega
  · exact Nat.lt_log2_self

theorem bitLen_le_of_lt {n k : Nat} (h : n < 2 ^ k) : bitLen n ≤ k := by
  unfold bitLen
  split
  · exact Nat.zero_le k
  · next hn => exact (Nat.log2_lt hn).mpr h

theorem foldl_min_le (vs : List Nat) (a : Nat) : vs.foldl min a ≤ a ∧ ∀ v ∈ vs, vs.foldl min a ≤ v := by
  induction vs generalizing a with
  | nil => simp
  | cons v vs ih =>
    obtain ⟨hacc, hall⟩ := ih (min a v)
    simp only [List.foldl_cons, List.mem_cons, forall_eq_or_imp]
    exact ⟨hacc.trans (min_le_left _ _), hacc.trans (min_le_right _ _), hall⟩

theorem le_foldl_max (vs : List Nat) (a : Nat) : a ≤ vs.foldl max a ∧ ∀ v ∈ vs, v ≤ vs.foldl max a := by
  induction vs generalizing a with
  | nil => simp
  | cons v vs ih =>
    obtain ⟨hacc, hall⟩ := ih (max a v)
    simp only [List.foldl_cons, List.mem_cons, forall_eq_or_imp]
    exact ⟨(le_max_left _ _).trans hacc, (le_max_right _ _).trans hacc, hall⟩

theorem foldl_max_lt {vs : List Nat} {a b : Nat} (ha : a < b) (h : ∀ v ∈ vs, v < b) : vs.foldl max a < b := by
  induction vs generalizing a with
  | nil => exact ha
  | cons v vs ih => exact ih (max_lt ha (h v (by simp))) fun x hx => h x (by simp [hx])

/-- The least slot of a run, the width of its offsets, and the offsets as one number. -/
def runBase (vs : List Nat) : Nat := vs.foldl min 255
def runWidth (vs : List Nat) : Nat := bitLen ((vs.map (· - runBase vs)).foldl max 0)
def runOffsets (vs : List Nat) : Nat := Nat.ofDigits (2 ^ runWidth vs) (vs.map (· - runBase vs))

theorem codeRun_eq (vs : List Nat) :
    codeRun vs = packLE [(1, runBase vs), (1, runWidth vs), (16 * runWidth vs, runOffsets vs)] := by
  simp [codeRun, packLE, runBase, runWidth, runOffsets, Nat.ofDigits_eq_foldr]

theorem runBase_le {vs : List Nat} {v : Nat} (h : v ∈ vs) : runBase vs ≤ v := (foldl_min_le vs 255).2 v h

theorem runBase_lt (vs : List Nat) : runBase vs < 256 := Nat.lt_succ_of_le (foldl_min_le vs 255).1

theorem runWidth_le {vs : List Nat} (h : ∀ v ∈ vs, v < 256) : runWidth vs ≤ 8 := by
  refine bitLen_le_of_lt (foldl_max_lt (by decide) fun d hd => ?_)
  obtain ⟨v, hv, rfl⟩ := List.mem_map.mp hd
  exact (Nat.sub_le _ _).trans_lt (h v hv)

theorem offset_lt {vs : List Nat} {v : Nat} (h : v ∈ vs) : v - runBase vs < 2 ^ runWidth vs :=
  ((le_foldl_max _ 0).2 _ (List.mem_map_of_mem (f := (· - runBase vs)) h)).trans_lt (lt_two_pow_bitLen _)

theorem runOffsets_lt {vs : List Nat} (hlen : vs.length ≤ 128) : runOffsets vs < 2 ^ (8 * (16 * runWidth vs)) := by
  by_cases hw : runWidth vs = 0
  · have hz : ∀ d ∈ vs.map (· - runBase vs), d = 0 := fun d hd => by
      obtain ⟨v, hv, rfl⟩ := List.mem_map.mp hd
      have := offset_lt hv
      simpa [hw] using this
    have : runOffsets vs = 0 := by
      rw [runOffsets, List.eq_replicate_of_mem hz]
      simp
    simp [this]
  · have hlt : runOffsets vs < (2 ^ runWidth vs) ^ (vs.map (· - runBase vs)).length :=
      Nat.ofDigits_lt_base_pow_length (Nat.one_lt_two_pow hw) fun d hd => by
        obtain ⟨v, hv, rfl⟩ := List.mem_map.mp hd
        exact offset_lt hv
    refine hlt.trans_le ?_
    rw [← Nat.pow_mul, List.length_map]
    exact Nat.pow_le_pow_right (by decide) (by nlinarith)

/-- A slot of a run is its offset's digit over the base. -/
theorem runOffsets_digit {vs : List Nat} {i : Nat} (hi : i < vs.length) :
    runOffsets vs / 2 ^ (runWidth vs * i) % 2 ^ runWidth vs = vs[i] - runBase vs := by
  have hdrop : (vs.map (· - runBase vs)).drop i = (vs[i] - runBase vs) :: (vs.map (· - runBase vs)).drop (i + 1) := by
    rw [List.drop_eq_getElem_cons (by simpa using hi), List.getElem_map]
  rw [runOffsets, Nat.pow_mul, Nat.ofDigits_div_pow_eq_ofDigits_drop _ (Nat.two_pow_pos _) _ fun d hd => by
      obtain ⟨v, hv, rfl⟩ := List.mem_map.mp hd
      exact offset_lt hv,
    hdrop, Nat.ofDigits_cons, Nat.add_mul_mod_self_left, Nat.mod_eq_of_lt (offset_lt (List.getElem_mem hi))]

theorem runSlots_runOffsets {vs : List Nat} (h : ∀ v ∈ vs, v < 256) (hlen : vs.length ≤ 128) :
    runSlots (runBase vs) (runWidth vs) vs.length (leBytes (16 * runWidth vs) (runOffsets vs)) = vs := by
  rw [runSlots, leVal_leBytes, Nat.mod_eq_of_lt (runOffsets_lt hlen)]
  refine List.ext_getElem (by simp) fun i hi hi' => ?_
  have hbase := runBase_le (List.getElem_mem hi')
  rw [List.getElem_map, List.getElem_range, runOffsets_digit hi', Nat.add_sub_cancel' hbase, Nat.mod_eq_of_lt (h _ (List.getElem_mem hi'))]

theorem length_codeRun (vs : List Nat) : (codeRun vs).length = 2 + 16 * runWidth vs := by
  rw [codeRun_eq, length_packLE]
  simp only [List.map_cons, List.map_nil, List.sum_cons, List.sum_nil]
  omega

theorem le_append_left {b : Bytes} {off n : Nat} (h : off + n ≤ b.length) (t : Bytes) : le (b ++ t) off n = le b off n := by
  rw [le, le, List.drop_append_of_le_length (by omega), List.take_append_of_le_length (by simp; omega)]

/-! ## One plane, and the planes of a block (R298, R299) -/

/-- A run at the head of a payload, taken apart. -/
theorem decodePlane_codeRun {vs : List Nat} (h : ∀ v ∈ vs, v < 256) (hne : vs ≠ []) (k : Nat) (more : Nat) (hlen : vs.length ≤ 128)
    (hmore : more = 0 ∨ vs.length = 128) (t : Bytes) :
    decodePlane (k + 1) (vs.length + more) (codeRun vs ++ t) = (decodePlane k more t).map (fun r => (vs ++ r.1, r.2)) := by
  have hcode := length_codeRun vs
  have hwidth : le (codeRun vs ++ t) 1 1 = runWidth vs := by
    rw [le_append_left (by omega), codeRun_eq]
    exact (le_packLE [(1, _)] _ 1 (runWidth vs)).trans (Nat.mod_eq_of_lt ((runWidth_le h).trans_lt (by decide)))
  have hbase : le (codeRun vs ++ t) 0 1 = runBase vs := by
    rw [le_append_left (by omega), codeRun_eq]
    exact (le_packLE [] _ 1 (runBase vs)).trans (Nat.mod_eq_of_lt (runBase_lt vs))
  have hpos : 0 < vs.length := List.length_pos_iff.mpr hne
  have hm : min (vs.length + more) 128 = vs.length := by omega
  have hrest : (codeRun vs ++ t).drop (2 + 16 * runWidth vs) = t := by rw [← hcode, List.drop_left]
  have hslots : ((codeRun vs ++ t).drop 2).take (16 * runWidth vs) = leBytes (16 * runWidth vs) (runOffsets vs) := by
    rw [List.drop_append_of_le_length (by omega), codeRun_eq, List.take_append_of_le_length (by simp [packLE]; omega)]
    simp [packLE, leBytes]
  have hok : ¬ ((codeRun vs ++ t).length < 2 ∨ 8 < runWidth vs ∨ (codeRun vs ++ t).length < 2 + 16 * runWidth vs) := by
    have := runWidth_le h
    simp only [List.length_append]
    omega
  rw [decodePlane, if_neg (by omega)]
  simp only [hwidth, hbase, hm, hrest, hslots, if_neg hok, runSlots_runOffsets h hlen, Nat.add_sub_cancel_left]

theorem decodePlane_runsOf (k : Nat) {vs : List Nat} (h : ∀ v ∈ vs, v < 256) (hlen : vs.length ≤ 128 * k) (t : Bytes) :
    decodePlane (k + 1) vs.length ((runsOf k vs).flatMap codeRun ++ t) = some (vs, t) := by
  induction k generalizing vs with
  | zero =>
    obtain rfl : vs = [] := List.length_eq_zero_iff.mp (by omega)
    simp [decodePlane, runsOf]
  | succ k ih =>
    by_cases hne : vs = []
    · subst hne
      simp [decodePlane, runsOf]
    · have hsplit : vs.length = (vs.take 128).length + (vs.drop 128).length := by rw [← List.length_append, List.take_append_drop]
      have hruns : runsOf (k + 1) vs = vs.take 128 :: runsOf k (vs.drop 128) := by simp [runsOf, hne]
      have hrest := ih (vs := vs.drop 128) (fun v hv => h v (List.mem_of_mem_drop hv)) (by rw [List.length_drop]; omega)
      rw [hruns, List.flatMap_cons, List.append_assoc, hsplit,
        decodePlane_codeRun (fun v hv => h v (List.mem_of_mem_take hv)) (by simp [hne]) _ _ (List.length_take_le _ _)
          (by simp only [List.length_take, List.length_drop]; omega), hrest]
      simp

theorem decodePlanes_flatMap {n : Nat} (hn : n ≤ 65536) (ps : List (List Nat)) (h : ∀ vs ∈ ps, vs.length = n ∧ ∀ v ∈ vs, v < 256) (t : Bytes) :
    decodePlanes n ps.length (ps.flatMap (fun vs => (runsOf 512 vs).flatMap codeRun) ++ t) = some (ps, t) := by
  induction ps with
  | nil => rfl
  | cons vs ps ih =>
    obtain ⟨hlen, hlt⟩ := h vs (by simp)
    have hhead := decodePlane_runsOf 512 hlt (by omega) (ps.flatMap (fun vs => (runsOf 512 vs).flatMap codeRun) ++ t)
    rw [hlen] at hhead
    rw [List.flatMap_cons, List.append_assoc, List.length_cons, decodePlanes, hhead]
    simp only [ih fun vs hvs => h vs (by simp [hvs])]
    rfl

theorem rotr8_rotl8 {v : Nat} (h : v < 256) : rotr8 (rotl8 v) = v := by
  have htop : v / 128 = 0 ∨ v / 128 = 1 := by omega
  simp only [rotr8, rotl8]
  rcases htop with h0 | h1 <;> omega

theorem rotl8_lt {v : Nat} (h : v < 256) : rotl8 v < 256 := by
  simp only [rotl8]
  omega

theorem exactWidth_pos (fmt : Nat) : 0 < exactWidth fmt := by
  unfold exactWidth
  split
  · decide
  · split <;> decide

/-- The planes of a source, the most significant first. -/
def planes (fmt : Nat) (b : Bytes) : List (List Nat) :=
  (List.range (exactWidth fmt)).map (fun p => plane fmt b p (b.length / exactWidth fmt))

theorem codePayload_eq (fmt : Nat) (b : Bytes) : codePayload fmt b = (planes fmt b).flatMap (fun vs => (runsOf 512 vs).flatMap codeRun) := by
  rw [planes, List.flatMap_map]
  rfl

theorem length_planes (fmt : Nat) (b : Bytes) : (planes fmt b).length = exactWidth fmt := by
  simp [planes]

theorem mem_planes {fmt : Nat} {b : Bytes} {vs : List Nat} (h : vs ∈ planes fmt b) :
    vs.length = b.length / exactWidth fmt ∧ ∀ v ∈ vs, v < 256 := by
  obtain ⟨p, -, rfl⟩ := List.mem_map.mp h
  refine ⟨by simp [plane], fun v hv => ?_⟩
  obtain ⟨i, -, rfl⟩ := List.mem_map.mp hv
  dsimp only
  split
  · exact rotl8_lt (BitVec.isLt _)
  · exact BitVec.isLt _

theorem flatMap_range_mul {α : Type} (b : List α) (d : α) (w n : Nat) (h : b.length = w * n) :
    (List.range n).flatMap (fun i => (List.range w).map (fun j => b[w * i + j]?.getD d)) = b := by
  induction n generalizing b with
  | zero => simpa using (List.length_eq_zero_iff.mp (by simpa using h)).symm
  | succ n ih =>
    have htail : (b.drop w).length = w * n := by rw [List.length_drop, h, Nat.mul_succ, Nat.add_sub_cancel]
    have hhead : (List.range w).map (fun j => b[w * 0 + j]?.getD d) = b.take w := by
      refine List.ext_getElem (by simp [h, Nat.mul_succ]) fun i hi hi' => ?_
      have : i < b.length := by simp at hi'; omega
      simp [this]
    calc _ = (List.range w).map (fun j => b[w * 0 + j]?.getD d)
          ++ (List.range n).flatMap (fun i => (List.range w).map (fun j => (b.drop w)[w * i + j]?.getD d)) := by
          rw [List.range_succ_eq_map, List.flatMap_cons, List.flatMap_map]
          simp only [List.getElem?_drop, Nat.mul_succ, Nat.add_comm w, Nat.add_assoc, Nat.add_left_comm]
      _ = b := by rw [hhead, ih _ htail, List.take_append_drop]

theorem joinPlanes_planes {fmt : Nat} {b : Bytes} (h : b.length % exactWidth fmt = 0) :
    joinPlanes fmt (b.length / exactWidth fmt) (planes fmt b) = b := by
  have hlen : b.length = exactWidth fmt * (b.length / exactWidth fmt) := (Nat.mul_div_cancel' (Nat.dvd_of_mod_eq_zero h)).symm
  refine Eq.trans ?_ (flatMap_range_mul b 0 _ _ hlen)
  rw [joinPlanes]
  refine List.flatMap_congr fun i hi => List.map_congr_left fun j hj => ?_
  have hi := List.mem_range.mp hi
  have hj := List.mem_range.mp hj
  have hplane : exactWidth fmt - 1 - j < exactWidth fmt := by omega
  have hback : exactWidth fmt - 1 - (exactWidth fmt - 1 - j) = j := by omega
  simp only [planes, plane, List.getElem?_map, List.getElem?_range hplane, List.getElem?_range hi, Option.map_some, Option.getD_some, hback]
  split
  · rw [rotr8_rotl8 (BitVec.isLt _), BitVec.ofNat_toNat, BitVec.setWidth_eq]
  · rw [BitVec.ofNat_toNat, BitVec.setWidth_eq]

/-! ## One block (R296 to R300) -/

/-- A block is raw when coding saves less than an eighth. -/
def blockRaw (fmt : Nat) (b : Bytes) : Bool := decide (7 * b.length / 8 < (codePayload fmt b).length)

/-- The size of a block's stored payload. -/
def blockSize (fmt : Nat) (b : Bytes) : Nat :=
  if blockRaw fmt b then 32 * ceilDiv b.length 32 else max (32 * ceilDiv (codePayload fmt b).length 32) (32 * ceilDiv b.length 64)

/-- What a block holds before its fill. -/
def blockBody (fmt : Nat) (b : Bytes) : Bytes := if blockRaw fmt b then b else codePayload fmt b

/-- The fields of a block header that its check sum covers (Table 10.4). -/
def blockFields (fmt index : Nat) (last padded : Bool) (b : Bytes) : List (Nat × Nat) :=
  [(4, 0x58434B42), (1, if blockRaw fmt b then 0 else 1), (1, fmt), (1, b2n last + 2 * b2n padded), (1, 0), (4, b.length), (4, blockSize fmt b),
    (4, if blockRaw fmt b then 0 else b.length / exactWidth fmt), (4, crc32c b), (4, index)]

def blockHeader (fmt index : Nat) (last padded : Bool) (b : Bytes) : Bytes :=
  packLE (blockFields fmt index last padded b ++ [(4, crc32c (packLE (blockFields fmt index last padded b)))])

theorem exactBlock_eq (fmt index : Nat) (last padded : Bool) (b : Bytes) :
    (exactBlock fmt index last padded b).1 = blockHeader fmt index last padded b ++ padTo (blockSize fmt b) (blockBody fmt b) := by
  rw [blockHeader, packLE_append, packLE, packLE, List.append_nil]
  rfl

theorem le_mul_ceilDiv (n : Nat) {k : Nat} (hk : 0 < k) : n ≤ k * ceilDiv n k := by
  rw [ceilDiv, if_neg hk.ne']
  have := Nat.div_add_mod (n + k - 1) k
  have := Nat.mod_lt (n + k - 1) hk
  omega

theorem ceilDiv_le {n m k : Nat} (h : n ≤ m) : ceilDiv n k ≤ ceilDiv m k := by
  unfold ceilDiv
  split
  · exact le_rfl
  · exact Nat.div_le_div_right (by omega)

theorem length_blockBody_le (fmt : Nat) (b : Bytes) : (blockBody fmt b).length ≤ blockSize fmt b := by
  unfold blockBody blockSize
  split
  · exact le_mul_ceilDiv _ (by decide)
  · exact (le_mul_ceilDiv _ (by decide)).trans (le_max_left _ _)

theorem blockSize_mod (fmt : Nat) (b : Bytes) : blockSize fmt b % 32 = 0 := by
  unfold blockSize
  split
  · exact Nat.mul_mod_right _ _
  · rcases max_choice (32 * ceilDiv (codePayload fmt b).length 32) (32 * ceilDiv b.length 64) with h | h <;> rw [h, Nat.mul_mod_right]

theorem blockSize_le {fmt : Nat} {b : Bytes} (h : b.length ≤ 65536) : blockSize fmt b ≤ 65536 := by
  unfold blockSize
  split
  · exact (Nat.mul_le_mul_left 32 (ceilDiv_le h)).trans (by decide)
  · next hraw =>
    simp only [blockRaw, decide_eq_true_eq, Nat.not_lt] at hraw
    refine max_le ((Nat.mul_le_mul_left 32 (ceilDiv_le (m := 65536) (by omega))).trans (by decide)) ?_
    exact (Nat.mul_le_mul_left 32 (ceilDiv_le h)).trans (by decide)

theorem padTo_eq_self {n : Nat} {b : Bytes} (h : n ≤ b.length) : padTo n b = b := by
  simp [padTo, Nat.sub_eq_zero_of_le h]

theorem length_padTo {n : Nat} {b : Bytes} (h : b.length ≤ n) : (padTo n b).length = n := by
  simp [padTo]
  omega

theorem length_blockHeader (fmt index : Nat) (last padded : Bool) (b : Bytes) : (blockHeader fmt index last padded b).length = 32 := by
  rw [blockHeader, length_packLE]
  rfl

section
variable (fmt index : Nat) (last padded : Bool) (b : Bytes)

/-- Each field of the header that the expander reads. -/
structure HeaderReads (hdr : Bytes) : Prop where
  magic : le hdr 0 4 = 0x58434B42
  method : le hdr 4 1 = if blockRaw fmt b then 0 else 1
  format : le hdr 5 1 = fmt
  flags : le hdr 6 1 = b2n last + 2 * b2n padded
  zero : le hdr 7 1 = 0
  logical : le hdr 8 4 = b.length
  size : le hdr 12 4 = blockSize fmt b
  count : le hdr 16 4 = if blockRaw fmt b then 0 else b.length / exactWidth fmt
  sum : le hdr 20 4 = crc32c b
  check : le hdr 28 4 = crc32c (hdr.take 28)

theorem b2n_le (x : Bool) : b2n x ≤ 1 := by
  cases x <;> decide

variable {fmt b} in
theorem headerReads_blockHeader (hfmt : fmt ≤ 0xB) (hlen : b.length ≤ 65536) :
    HeaderReads fmt last padded b (blockHeader fmt index last padded b) := by
  have hsize := blockSize_le (fmt := fmt) hlen
  have hlast := b2n_le last
  have hpadded := b2n_le padded
  have hcount : b.length / exactWidth fmt ≤ b.length := Nat.div_le_self _ _
  have htake : (blockHeader fmt index last padded b).take 28 = packLE (blockFields fmt index last padded b) := by
    rw [blockHeader, packLE_append]
    exact List.take_left' ((length_packLE _).trans rfl)
  constructor
  · exact le_packLE [] _ 4 _
  · refine (le_packLE [(4, _)] _ 1 _).trans (Nat.mod_eq_of_lt ?_)
    split <;> decide
  · exact (le_packLE [(4, _), (1, _)] _ 1 fmt).trans (Nat.mod_eq_of_lt (by omega))
  · exact (le_packLE [(4, _), (1, _), (1, _)] _ 1 _).trans (Nat.mod_eq_of_lt (by omega))
  · exact le_packLE [(4, _), (1, _), (1, _), (1, _)] _ 1 0
  · exact (le_packLE [(4, _), (1, _), (1, _), (1, _), (1, _)] _ 4 b.length).trans (Nat.mod_eq_of_lt (by omega))
  · exact (le_packLE [(4, _), (1, _), (1, _), (1, _), (1, _), (4, _)] _ 4 (blockSize fmt b)).trans (Nat.mod_eq_of_lt (by omega))
  · refine (le_packLE [(4, _), (1, _), (1, _), (1, _), (1, _), (4, _), (4, _)] _ 4 _).trans (Nat.mod_eq_of_lt ?_)
    split <;> omega
  · exact (le_packLE [(4, _), (1, _), (1, _), (1, _), (1, _), (4, _), (4, _), (4, _)] _ 4 (crc32c b)).trans (Nat.mod_eq_of_lt (crc32c_lt b))
  · rw [htake]
    exact (le_packLE (blockFields fmt index last padded b) [] 4 _).trans (Nat.mod_eq_of_lt (crc32c_lt _))

end

theorem expandBlock_exactBlock {fmt : Nat} {b : Bytes} (hfmt : fmt ≤ 0xB) (hne : b ≠ []) (hlen : b.length ≤ 65536)
    (hw : b.length % exactWidth fmt = 0) (index : Nat) (last padded : Bool) (t : Bytes) :
    expandBlock ((exactBlock fmt index last padded b).1 ++ t) = .ok (b, last, t) := by
  have hpos : 0 < b.length := List.length_pos_iff.mpr hne
  have hlast := b2n_le last
  have hpadded := b2n_le padded
  have hlastBit : bit (b2n last + 2 * b2n padded) 0 = last := by cases last <;> cases padded <;> rfl
  obtain ⟨hmagic, hmethod, hformat, hflags, hzero, hlogical, hsize, hcount, hsum, hcheck⟩ :=
    headerReads_blockHeader (fmt := fmt) (b := b) index last padded hfmt hlen
  have hhdr := length_blockHeader fmt index last padded b
  have hbody := length_padTo (length_blockBody_le fmt b)
  have htake : (blockHeader fmt index last padded b ++ (padTo (blockSize fmt b) (blockBody fmt b) ++ t)).take 32 =
      blockHeader fmt index last padded b := List.take_left' hhdr
  have hdrop : (blockHeader fmt index last padded b ++ (padTo (blockSize fmt b) (blockBody fmt b) ++ t)).drop 32 =
      padTo (blockSize fmt b) (blockBody fmt b) ++ t := List.drop_left' hhdr
  have hpayload : (padTo (blockSize fmt b) (blockBody fmt b) ++ t).take (blockSize fmt b) = padTo (blockSize fmt b) (blockBody fmt b) :=
    List.take_left' hbody
  have hrest : (blockHeader fmt index last padded b ++ (padTo (blockSize fmt b) (blockBody fmt b) ++ t)).drop (32 + blockSize fmt b) = t := by
    rw [← List.drop_drop, hdrop, List.drop_left' hbody]
  have hlong : ¬ (blockHeader fmt index last padded b ++ (padTo (blockSize fmt b) (blockBody fmt b) ++ t)).length < 32 + blockSize fmt b := by
    simp only [List.length_append, hhdr, hbody]
    omega
  have hshape : blockShape (blockHeader fmt index last padded b) = true := by
    simp only [blockShape, hmagic, hmethod, hformat, hflags, hzero, hlogical, hsize, hcount, hw, blockSize_mod, decide_eq_true_eq]
    cases blockRaw fmt b <;> simp <;> omega
  rw [exactBlock_eq, List.append_assoc, expandBlock]
  simp only [htake, hdrop, hpayload, hrest, hsize, hlogical, hmethod, hformat, hflags, hcount, hsum, ← hcheck, hshape, hlastBit]
  rw [if_neg (by simp only [ne_eq, not_true_eq_false, false_or]; omega)]
  simp only [Bool.not_true, Bool.false_eq_true, if_false]
  cases hraw : blockRaw fmt b with
  | true =>
    have hout : (padTo (blockSize fmt b) (blockBody fmt b)).take b.length = b := by simp [padTo, blockBody, hraw]
    have hfill : ∀ x ∈ (padTo (blockSize fmt b) (blockBody fmt b)).drop b.length, x = 0#8 := by simp [padTo, blockBody, hraw]
    have hroom : b.length ≤ blockSize fmt b := by simpa [blockBody, hraw] using length_blockBody_le fmt b
    simpa [hout, padTo_eq_self, Nat.not_lt.mpr hroom] using hfill
  | false =>
    have hcount : b.length / exactWidth fmt ≤ 65536 := (Nat.div_le_self _ _).trans hlen
    have hplanes := decodePlanes_flatMap hcount (planes fmt b) (fun vs => mem_planes)
      (List.replicate (blockSize fmt b - (codePayload fmt b).length) 0#8)
    rw [length_planes, ← codePayload_eq] at hplanes
    simp [padTo, blockBody, hraw, hplanes, joinPlanes_planes hw]

/-! ## The blocks of a source (R301) -/

/-- The blocks of the parts of a source from number `j` on, `total` in all. -/
def packParts (fmt : Nat) (padded : Bool) (total j : Nat) (ps : List Bytes) : Bytes :=
  ((List.range' j ps.length).zip ps).flatMap (fun e =>
    (exactBlock fmt e.1 (decide (e.1 + 1 = total)) (decide (e.1 + 1 = total) && padded) e.2).1)

theorem foldl_blocks_fst {α : Type} (f : α → Bytes × Bool) (es : List α) (a : Bytes × Nat) :
    (es.foldl (fun (a : Bytes × Nat) e => (a.1 ++ (f e).1, a.2 + b2n (f e).2)) a).1 = a.1 ++ es.flatMap (fun e => (f e).1) := by
  induction es generalizing a with
  | nil => simp
  | cons e es ih => simp [ih]

theorem exactPack_eq (fmt : Nat) (padded : Bool) (b : Bytes) :
    (exactPack fmt padded b).1 = packParts fmt padded (chunksOf 65536 (b.length / 65536 + 1) b).length 0
      (chunksOf 65536 (b.length / 65536 + 1) b) := by
  rw [exactPack, packParts, ← List.range_eq_range']
  exact (foldl_blocks_fst _ _ _).trans (List.nil_append _)

/-- A part that a block can hold. -/
def PartFits (fmt : Nat) (p : Bytes) : Prop := p ≠ [] ∧ p.length ≤ 65536 ∧ p.length % exactWidth fmt = 0

theorem packParts_cons (fmt : Nat) (padded : Bool) (total j : Nat) (p : Bytes) (ps : List Bytes) :
    packParts fmt padded total j (p :: ps) =
      (exactBlock fmt j (decide (j + 1 = total)) (decide (j + 1 = total) && padded) p).1 ++ packParts fmt padded total (j + 1) ps := by
  simp [packParts, List.range'_succ]

theorem length_exactBlock (fmt index : Nat) (last padded : Bool) (b : Bytes) : 32 ≤ (exactBlock fmt index last padded b).1.length := by
  rw [exactBlock_eq, List.length_append, length_blockHeader]
  omega

theorem length_packParts (fmt : Nat) (padded : Bool) (total j : Nat) (ps : List Bytes) :
    32 * ps.length ≤ (packParts fmt padded total j ps).length := by
  induction ps generalizing j with
  | nil => simp
  | cons p ps ih =>
    have := ih (j + 1)
    have := length_exactBlock fmt j (decide (j + 1 = total)) (decide (j + 1 = total) && padded) p
    simp only [packParts_cons, List.length_append, List.length_cons]
    omega

theorem expandAll_packParts {fmt cap : Nat} (hfmt : fmt ≤ 0xB) (padded : Bool) {ps : List Bytes} (hps : ∀ p ∈ ps, PartFits fmt p) (hne : ps ≠ [])
    {k j : Nat} (hk : ps.length ≤ k) (acc : Bytes) (hcap : acc.length + ps.flatten.length ≤ cap) :
    expandAll cap k acc (packParts fmt padded (j + ps.length) j ps) = .ok (acc ++ ps.flatten) := by
  induction ps generalizing k j acc with
  | nil => exact absurd rfl hne
  | cons p ps ih =>
    obtain ⟨k, rfl⟩ : ∃ m, k = m + 1 := ⟨k - 1, by simp only [List.length_cons] at hk; omega⟩
    obtain ⟨hp, hlen, hw⟩ := hps p (by simp)
    simp only [List.flatten_cons, List.length_append] at hcap
    have hblock := expandBlock_exactBlock hfmt hp hlen hw j (decide (j + 1 = j + (p :: ps).length))
      (decide (j + 1 = j + (p :: ps).length) && padded) (packParts fmt padded (j + (p :: ps).length) (j + 1) ps)
    have hsome : (packParts fmt padded (j + (p :: ps).length) j (p :: ps)).isEmpty = false := by
      have := length_packParts fmt padded (j + (p :: ps).length) j (p :: ps)
      cases hb : packParts fmt padded (j + (p :: ps).length) j (p :: ps) with
      | nil =>
        rw [hb] at this
        simp at this
      | cons => rfl
    rw [expandAll, hsome, packParts_cons, hblock]
    simp only [Bool.false_eq_true, if_false]
    rw [if_neg (by rw [List.length_append]; omega)]
    cases ps with
    | nil => simp
    | cons q ps =>
      have hmore : ¬ j + 1 = j + (p :: q :: ps).length := by simp
      have hrest := ih (fun x hx => hps x (by simp [hx])) (by simp) (k := k) (j := j + 1) (by simpa using hk) (acc ++ p)
        (by rw [List.length_append]; omega)
      have hcount : j + (p :: q :: ps).length = j + 1 + (q :: ps).length := by simp only [List.length_cons]; omega
      rw [if_neg (by simp), hcount, hrest]
      simp

theorem flatten_chunksOf {n : Nat} (k : Nat) {b : Bytes} (h : b.length ≤ n * k) : (chunksOf n k b).flatten = b := by
  induction k generalizing b with
  | zero => simpa [chunksOf] using (List.length_eq_zero_iff.mp (by simpa using h)).symm
  | succ k ih =>
    by_cases hb : b = []
    · simp [chunksOf, hb]
    · have := ih (b := b.drop n) (by rw [List.length_drop, Nat.sub_le_iff_le_add]; exact h.trans_eq (Nat.mul_succ n k))
      simp [chunksOf, hb, this]

theorem partFits_of_mem_chunksOf {fmt : Nat} (k : Nat) {b : Bytes} (hw : b.length % exactWidth fmt = 0) :
    ∀ p ∈ chunksOf 65536 k b, PartFits fmt p := by
  have hdvd : 65536 % exactWidth fmt = 0 := by
    unfold exactWidth
    split
    · rfl
    · split <;> rfl
  induction k generalizing b with
  | zero => simp [chunksOf]
  | succ k ih =>
    by_cases hb : b = []
    · simp [chunksOf, hb]
    · have hrest : (b.drop 65536).length % exactWidth fmt = 0 := by
        rw [List.length_drop]
        exact Nat.mod_eq_zero_of_dvd (Nat.dvd_sub (Nat.dvd_of_mod_eq_zero hw) (Nat.dvd_of_mod_eq_zero hdvd))
      simp only [chunksOf, List.isEmpty_iff, hb, if_false, List.mem_cons, forall_eq_or_imp]
      refine ⟨⟨by simp [hb], List.length_take_le _ _, ?_⟩, ih hrest⟩
      rw [List.length_take]
      rcases min_choice 65536 b.length with h | h <;> rw [h] <;> assumption

end Sys2Proof.Machine

open Sys2Proof Sys2Proof.Machine

/-- Settles O23: it holds. The parts of a source fit a block each, every block expands to its part, and the last block ends the data. -/
theorem exactCodecRoundTrip : Obligations.ExactCodecRoundTrip := by
  intro kind cap padded src hkind hne hw hcap
  have hflat := flatten_chunksOf (n := 65536) (src.length / 65536 + 1) (b := src) (by omega)
  have hparts : chunksOf 65536 (src.length / 65536 + 1) src ≠ [] := by simp [chunksOf, hne]
  have hfuel := length_packParts kind padded (chunksOf 65536 (src.length / 65536 + 1) src).length 0 (chunksOf 65536 (src.length / 65536 + 1) src)
  rw [exactPack_eq]
  have hall := expandAll_packParts (cap := cap) hkind padded (partFits_of_mem_chunksOf _ hw) hparts (j := 0)
    (k := (packParts kind padded (chunksOf 65536 (src.length / 65536 + 1) src).length 0
      (chunksOf 65536 (src.length / 65536 + 1) src)).length / 32 + 1) (by omega) [] (by rw [hflat]; simpa using hcap)
  rwa [Nat.zero_add, hflat, List.nil_append] at hall
end

section
/-! Where an instruction command acts (R124, R127): every command that carries a program's instruction is `State.runInstr` of its word, some
of them behind the call-back of lines that the host holds; obligation O6 from that. -/

namespace Sys2Proof.Machine

/-- The command runs its word as `State.runInstr` does, under the shape and the posting rule of its opcode. -/
def RunsWord (i : Instr) (s : State) (c op : Nat) (w : IWord) : Prop :=
  ∃ (early : Bool) (body : Ctx → IRes) (pre : Ctx → Pre), exec i s = .next (s.runInstr c op w i (shapeOk op w) (mayPost op) early body pre)

/-- The command does so once the lines of its operands have been called back from the host (R440, R441). -/
def RunsWordCoherent (i : Instr) (s : State) (c op : Nat) (w : IWord) : Prop :=
  ∃ (ok : Bool) (reads writes : List (Nat × Nat)) (early : Bool) (body : State → Ctx → IRes) (pre : State → Ctx → Pre),
    exec i s = .next (s.coherent c op w ok reads writes (fun s => s.runInstr c op w i (shapeOk op w) (mayPost op) early (body s) (pre s)))

theorem exec_instr (i : Instr) (s : State) {c op : Nat} {w : IWord} (h : instrOf i = some (c, op, w)) :
    RunsWord i s c op w ∨ RunsWordCoherent i s c op w := by
  cases i <;> simp only [instrOf, Option.some.injEq, Prod.mk.injEq, reduceCtorEq] at h <;> obtain ⟨rfl, rfl, rfl⟩ := h
  case ltnQuery => exact .inr ⟨_, _, _, _, _, _, rfl⟩
  case attnMerge => exact .inr ⟨_, _, _, _, _, _, rfl⟩
  case setHash => exact .inr ⟨_, _, _, _, _, _, rfl⟩
  case copy => exact .inr ⟨_, _, _, _, _, _, rfl⟩
  case attest => exact .inr ⟨_, _, _, _, _, _, rfl⟩
  case pack => exact .inr ⟨_, _, _, _, _, _, rfl⟩
  case unpack => exact .inr ⟨_, _, _, _, _, _, rfl⟩
  all_goals exact .inl ⟨_, _, _, rfl⟩

/-- R124: a malformed word is refused before any other check, and calls nothing back. -/
theorem exec_malformed {i : Instr} {s : State} {c op : Nat} {w : IWord} {x : Ctx} (hi : instrOf i = some (c, op, w)) (h : StandsAt s c op w x)
    (hbad : shapeOk op w = false ∨ (w.posted = true ∧ mayPost op = false) ∨ (x.entry.meadow = 0xFF ∧ actsOnMeadow op = true)) :
    exec i s = .next (s.failInstr c .badOperand) := by
  rcases exec_instr i s hi with ⟨_, _, _, he⟩ | ⟨_, _, _, _, _, _, he⟩
  · rw [he, State.runInstr_malformed h hbad]
  · rw [he, State.coherent_away (State.turnOf_malformed h.1 hbad), State.runInstr_malformed h hbad]

/-- R127: away from where the program stands the command changes nothing. -/
theorem exec_elsewhere {i : Instr} {s : State} {c op : Nat} {w : IWord} (hi : instrOf i = some (c, op, w)) (h : ¬ ∃ x, StandsAt s c op w x) :
    exec i s = .next s := by
  rcases exec_instr i s hi with ⟨_, _, _, he⟩ | ⟨_, _, _, _, _, _, he⟩
  · rw [he, State.runInstr_elsewhere h]
  · rw [he, State.coherent_away (State.turnOf_elsewhere h), State.runInstr_elsewhere h]

/-- A command whose meaning is `State.runInstr` and that runs now settles its body. -/
theorem exec_of_runs {i cmd : Instr} {s : State} {c op : Nat} {w : IWord} {x : Ctx} {p e : Bool} {body : Ctx → IRes} {pre : Ctx → Pre}
    (h : Runs s c op w x) (hexec : exec i s = .next (s.runInstr c op w cmd (shapeOk op w) p e body pre)) :
    exec i s = .next (s.settle c (body x)) :=
  hexec.trans (congrArg Host.Outcome.next (State.runInstr_runs h _ _ _ _ _))

end Sys2Proof.Machine

open Sys2Proof Sys2Proof.Machine

/-- Settles O6: it holds. Both parts are the two ends of `State.runInstr` before the body. -/
theorem malformedOrElsewhere : Obligations.MalformedOrElsewhere :=
  ⟨fun _ _ _ _ _ _ hi h hbad => exec_malformed hi h hbad, fun _ _ _ _ _ hi h => exec_elsewhere hi h⟩
end

section
/-! The Control instructions (R133): where each goes on, and obligation O5 from that. -/

namespace Sys2Proof.Machine

theorem State.settle_jump_inside {s t : State} {c i : Nat} {x : Ctx} (h : t.ctx c = some x) (hi : i < x.entry.prog.length) :
    s.settle c (.jump t i) = t.goto c i := by
  rw [State.settle_jump h, if_pos hi]

/-- The test of a `BRANCH` with a legal kind: count ≥, < or = value. -/
theorem branchTest_iff {kind : Nat} (hkind : kind < 3) (count value : Nat) :
    branchTest kind count value =
      some (decide ((kind = 0 ∧ value ≤ count) ∨ (kind = 1 ∧ count < value) ∨ (kind = 2 ∧ count = value))) := by
  obtain rfl | rfl | rfl : kind = 0 ∨ kind = 1 ∨ kind = 2 := by omega
  all_goals simp [branchTest]

section
variable {s : State} {c : Nat} {w : IWord} {x : Ctx}

theorem exec_nop_of_runs (h : Runs s c 0x00 w x) : exec (.nop c w) s = .next (s.advance c) := by
  rw [exec_of_runs h rfl, State.settle_ok]

theorem exec_branch_of_holds (h : Runs s c 0x03 w x)
    (ht : branchTest w.flags.toNat (lampCount (s.lamp w.opa.toNat)) w.opc.toNat = some true) (hin : w.opb.toNat < x.entry.prog.length) :
    exec (.branch c w) s = .next (s.goto c w.opb.toNat) := by
  rw [exec_of_runs h rfl]
  simp only [ht, State.settle_jump_inside (ctx_of_runs h) hin]

theorem exec_branch_of_fails (h : Runs s c 0x03 w x)
    (ht : branchTest w.flags.toNat (lampCount (s.lamp w.opa.toNat)) w.opc.toNat = some false) :
    exec (.branch c w) s = .next (s.advance c) := by
  rw [exec_of_runs h rfl]
  simp only [ht, State.settle_ok]

theorem exec_branch_of_reserved (h : Runs s c 0x03 w x)
    (ht : branchTest w.flags.toNat (lampCount (s.lamp w.opa.toNat)) w.opc.toNat = none) :
    exec (.branch c w) s = .next (s.failInstr c .badOperand) := by
  rw [exec_of_runs h rfl]
  simp only [ht, State.settle_fail]

theorem exec_call_inside (h : Runs s c 0x04 w x) (hin : w.opb.toNat < x.entry.prog.length) :
    exec (.call c w) s = .next (if 8 ≤ x.stack.length then s.failInstr c .illegalInState
      else (s.setCtx c { x with stack := (x.pc + 1) :: x.stack }).goto c w.opb.toNat) := by
  rw [exec_of_runs h rfl, if_neg (Nat.not_le.mpr hin)]
  split
  · rfl
  · rw [State.settle_jump_inside (x := { x with stack := (x.pc + 1) :: x.stack }) (State.ctx_setCtx_self _ _ _) hin]

theorem exec_ret_of_runs (h : Runs s c 0x05 w x) {i : Nat} {rest : List Nat} (hstack : x.stack = i :: rest) :
    exec (.ret c w) s = .next (if i < x.entry.prog.length then (s.setCtx c { x with stack := rest }).goto c i
      else (s.setCtx c { x with stack := rest }).endProgram c) := by
  rw [exec_of_runs h rfl]
  simp only [hstack]
  split
  · next hin => rw [State.settle_jump_inside (x := { x with stack := rest }) (State.ctx_setCtx_self _ _ _) hin]
  · rfl

theorem exec_ret_empty (h : Runs s c 0x05 w x) (hstack : x.stack = []) : exec (.ret c w) s = .next (s.endProgram c) := by
  rw [exec_of_runs h rfl]
  simp only [hstack, State.settle_halt]

end

end Sys2Proof.Machine

open Sys2Proof Sys2Proof.Machine

/-- Settles O5: it holds. Each instruction settles its body: it advances, goes to its target, or ends the program. -/
theorem controlFlow : Obligations.ControlFlow := by
  refine fun s c w x => ⟨exec_nop_of_runs, exec_halt_of_runs, fun h hin => ?_, fun h hkind => ⟨fun hfails => ?_, fun hholds hin => ?_⟩,
    fun h hkind => ?_, fun h hroom hin => ?_, fun h hfull hin => ?_, fun h i rest hstack hin => ?_, fun h i rest hstack hout => ?_, exec_ret_empty⟩
  · rw [exec_of_runs h rfl, State.settle_jump_inside (ctx_of_runs h) hin]
  · exact exec_branch_of_fails h ((branchTest_iff hkind _ _).trans (congrArg some (decide_eq_false hfails)))
  · exact exec_branch_of_holds h ((branchTest_iff hkind _ _).trans (congrArg some (decide_eq_true hholds))) hin
  · exact exec_branch_of_reserved h (by rw [hkind]; rfl)
  · rw [exec_call_inside h hin, if_neg (Nat.not_le.mpr hroom)]
  · rw [exec_call_inside h hin, if_pos hfull]
  · rw [exec_ret_of_runs h hstack, if_pos hin]
  · rw [exec_ret_of_runs h hstack, if_neg (Nat.not_lt.mpr hout)]
end

section
/-! One step and the state after reset: obligations O1 and O3. -/

open Sys2Proof Sys2Proof.Machine

/-- Settles O1: it holds. The two cases are the two ends of the queue. -/
theorem stepRunsFrontCommand : Obligations.StepRunsFrontCommand :=
  ⟨fun s c cs h => by rw [Machine.step, h], fun s h => by rw [Machine.step, h]⟩

/-- Settles O3: it holds. Every table is empty after reset, so each reads its default. -/
theorem resetState : Obligations.ResetState :=
  ⟨⟨rfl, rfl, by simp [State.reset], rfl, rfl, rfl, rfl⟩, rfl, rfl, rfl, rfl, rfl, rfl, fun _ => rfl, fun _ => rfl, fun _ => rfl, fun _ => rfl,
    fun _ => rfl⟩
end

section
/-! The host's lamp window and what an update of one lamp leaves alone (R114 to R116), and obligation O9 from that. -/

namespace Sys2Proof.Machine

/-! ## One update of a lamp -/

/-- Nothing but lamp `j`, the requests, the intake, the steps and the noted registers differs. -/
structure LampFrame (j : Nat) (s t : State) : Prop where
  lamp : ∀ k, k ≠ j → t.lamp k = s.lamp k
  mem : t.mem = s.mem
  clk : t.clk = s.clk
  cxl : t.cxl = s.cxl
  sys : t.sys = s.sys
  fls : t.fls = s.fls
  fld : t.fld = s.fld
  lanterns : t.lore.lanterns = s.lore.lanterns
  deeds : t.lore.deeds = s.lore.deeds
  reg : ∀ off, off ∉ noted → t.reg off = s.reg off

theorem Still.lampFrame {s t : State} (h : Still s t) (j : Nat) : LampFrame j s t := by
  obtain ⟨r, hlore⟩ := h.lore
  exact ⟨fun k _ => by rw [State.lamp, h.lamps, State.lamp], h.mem, h.clk, h.cxl, h.sys, h.fls, h.fld, by rw [hlore], by rw [hlore], h.regs⟩

theorem LampFrame.trans {j : Nat} {s t u : State} (h : LampFrame j s t) (k : LampFrame j t u) : LampFrame j s u :=
  ⟨fun i hi => (k.lamp i hi).trans (h.lamp i hi), k.mem.trans h.mem, k.clk.trans h.clk, k.cxl.trans h.cxl, k.sys.trans h.sys, k.fls.trans h.fls,
    k.fld.trans h.fld, k.lanterns.trans h.lanterns, k.deeds.trans h.deeds, fun o ho => (k.reg o ho).trans (h.reg o ho)⟩

theorem LampFrame.setLamp (s : State) (j : Nat) (v : Word) : LampFrame j s (s.setLamp j v) :=
  ⟨fun _ hk => Tbl.get_set_ne _ _ _ hk.symm, rfl, rfl, rfl, rfl, rfl, rfl, rfl, rfl, fun _ _ => rfl⟩

theorem LampFrame.lightLamp (s : State) (j n : Nat) : LampFrame j s (s.lightLamp j n) := by
  unfold State.lightLamp
  extract_lets v count
  split <;> exact LampFrame.setLamp _ _ _

theorem LampFrame.dimLamp (s : State) (j n : Nat) : LampFrame j s (s.dimLamp j n) := by
  rw [State.dimLamp_eq]
  split
  · exact (LampFrame.setLamp _ _ _).trans ((Still.raise _ _ _ _ _ _ _).lampFrame j)
  · exact LampFrame.setLamp _ _ _

/-- A lamp instruction changes its lamp as `f` does, or nothing but what every instruction may change. -/
theorem LampFrame.lampUpdate (s : State) (c op : Nat) (w : IWord) (cmd : Instr) {f : State → State} (hf : LampFrame w.opa.toNat s (f s)) :
    LampFrame w.opa.toNat s (s.lampUpdate c op w cmd f) := by
  rcases Still.runInstr s c op w cmd (shapeOk op w) false
      (fun x => if lampOpen (s.lamp w.opa.toNat) x.entry.meadow then .ok (f s) else .fail .accessViolation 0) (fun _ => none) with h | ⟨x, -, h⟩
  · exact h.lampFrame _
  · refine LampFrame.trans ?_ (h.lampFrame _)
    split
    · exact hf
    · exact Still.rfl.lampFrame _

theorem LampFrame.lampWrite (s : State) (view j size : Nat) (v : Word) {f : State → State} (hf : LampFrame j s (f s)) :
    LampFrame j s (s.lampWrite view j size v f) := by
  unfold State.lampWrite
  split
  · exact Still.rfl.lampFrame _
  · split
    · exact hf
    · exact (Still.raise _ _ _ _ _ _ _).lampFrame _

/-! ## The window (R115) -/

section
variable {s : State} {j : Nat} (hup : s.cdUp = true) (hj : j < 16384) (view : Nat) (v : Word) (f : State → State)
include hup

include hj in
theorem State.lampWrite_aligned : s.lampWrite view j 8 v f = f s := by
  simp [State.lampWrite, hup, hj]

theorem State.lampWrite_refused {size : Nat} (hsize : size ≠ 8) : s.lampWrite view j size v f = s.configReject (view + 8 * j) v.toNat := by
  simp [State.lampWrite, hup, hsize]

end

end Sys2Proof.Machine

open Sys2Proof Sys2Proof.Machine

/-- Settles O9: it holds. The window's four views are one write with four updates, and every update touches its own lamp only. -/
theorem lampWindowWrites : Obligations.LampWindowWrites := by
  refine ⟨fun s j size v hup hj => ⟨?_, fun hsize => ?_⟩, fun s t i j k hkj hi hexec => ?_⟩
  · rintro rfl
    have haligned (view : Nat) (f : State → State) : Host.Outcome.next (s.lampWrite view j 8 v f) = (.next (f s) : Out) :=
      congrArg _ (State.lampWrite_aligned hup hj view v f)
    exact ⟨haligned _ _, haligned _ _, haligned _ _, fun hlow => (haligned _ _).trans (congrArg _ (if_pos hlow)),
      fun hhigh => (haligned _ _).trans (congrArg _ (if_neg (Nat.not_lt.mpr hhigh)))⟩
  · have hrefused (view : Nat) (f : State → State) :
        Host.Outcome.next (s.lampWrite view j size v f) = (.next (s.configReject (view + 8 * j) v.toNat) : Out) :=
      congrArg _ (State.lampWrite_refused hup view v f hsize)
    exact ⟨hrefused _ _, hrefused _ _, hrefused _ _, hrefused _ _⟩
  · have hframe : LampFrame j s t := by
      rcases hi with ⟨c, w, rfl | rfl | rfl, rfl⟩ | ⟨size, v, rfl | rfl | rfl | rfl⟩ <;> obtain rfl := Host.Outcome.next.inj hexec
      · exact LampFrame.lampUpdate _ _ _ _ _ (LampFrame.lightLamp _ _ _)
      · exact LampFrame.lampUpdate _ _ _ _ _ (LampFrame.dimLamp _ _ _)
      · exact LampFrame.lampUpdate _ _ _ _ _ (LampFrame.setLamp _ _ _)
      · exact LampFrame.lampWrite _ _ _ _ _ (LampFrame.setLamp _ _ _)
      · exact LampFrame.lampWrite _ _ _ _ _ (LampFrame.setLamp _ _ _)
      · exact LampFrame.lampWrite _ _ _ _ _ (LampFrame.setLamp _ _ _)
      · refine LampFrame.lampWrite _ _ _ _ _ ?_
        dsimp only
        split
        · exact LampFrame.lightLamp _ _ _
        · exact LampFrame.dimLamp _ _ _
    obtain ⟨hlamp, hmem, hclk, hcxl, hsys, hfls, hfld, hlan, hdeeds, hreg⟩ := hframe
    exact ⟨hlamp k hkj, hmem, hclk, hcxl, hsys, hfls, hfld, hlan, hdeeds, hreg⟩
end

section
/-! `PROGRESS_SET` (R118, Table 4.11): its five outcomes, and obligation O10 from them. -/

namespace Sys2Proof.Machine

section
variable {s : State} {c : Nat} {w : IWord} {x : Ctx} (h : Runs s c 0x07 w x)
include h

theorem exec_progressSet_reservedUnit (hset : w.flag 8 = true) (hunit : w.opa.toNat = 0 ∨ 6 < w.opa.toNat) :
    exec (.progressSet c w) s = .next (s.failInstr c .badOperand) := by
  rw [exec_of_runs h rfl, if_pos ⟨hset, hunit⟩, State.settle_fail]

theorem exec_progressSet_backwards (hown : s.ownsProgress x = true) (hset : w.flag 8 = false)
    (hback : w.opc.toNat < (s.progress x.entry.progress).latest) : exec (.progressSet c w) s = .next (s.failInstr c .badOperand) := by
  rw [exec_of_runs h rfl, if_neg (by simp [hset]), if_neg (by simp [hown]), if_neg (by simp [hset]), if_pos hback, State.settle_fail]

/-- A move of the position, with the basis points it gives. -/
theorem exec_progressSet_moves (hown : s.ownsProgress x = true) (hset : w.flag 8 = false)
    (hon : (s.progress x.entry.progress).latest ≤ w.opc.toNat) {f bp : Nat} {u : State}
    (hfree : (if (s.progress x.entry.progress).total = 0 then s.free else (0, s)) = (f, u))
    (hbp : basisPoints w.opc.toNat (s.progress x.entry.progress).total f = bp) (hctx : u.ctx c = some x) :
    exec (.progressSet c w) s =
      .next (((u.moveProgressTo x.entry.progress w.opc.toNat bp).setCtx c { x with progressBp := bp }).advance c) := by
  have hmoved : (u.moveProgressTo x.entry.progress w.opc.toNat bp).ctx c = some x := hctx
  rw [exec_of_runs h rfl, if_neg (by simp [hset]), if_neg (by simp [hown]), if_neg (by simp [hset]), if_neg (Nat.not_lt.mpr hon)]
  simp only [hfree, hbp, hmoved, State.settle_ok]

variable (hunit : w.flag 8 = true → 1 ≤ w.opa.toNat ∧ w.opa.toNat ≤ 6)
include hunit

/-- With a legal unit, or none, the body goes on to its record. -/
theorem exec_progressSet_unowned (hown : s.ownsProgress x = false) : exec (.progressSet c w) s = .next (s.advance c) := by
  rw [exec_of_runs h rfl, if_neg (by rintro ⟨hset, hbad⟩; have := hunit hset; omega), if_pos (by simp [hown]), State.settle_ok]

theorem exec_progressSet_begins (hown : s.ownsProgress x = true) (hset : w.flag 8 = true) :
    exec (.progressSet c w) s = .next (if (s.progress x.entry.progress).state = 1 then s.failInstr c .badOperand
      else (s.setProgress x.entry.progress { s.progress x.entry.progress with
        state := 1, unit := w.opa.toNat, total := w.opc.toNat, position := 0, bp := 0, update := s.now, next := none }).advance c) := by
  rw [exec_of_runs h rfl, if_neg (by rintro ⟨hset, hbad⟩; have := hunit hset; omega), if_neg (by simp [hown]), if_pos hset]
  split <;> rfl

end

end Sys2Proof.Machine

open Sys2Proof Sys2Proof.Machine

/-- Settles O10: it holds. Each clause is one of the five outcomes of `PROGRESS_SET`. -/
theorem progressSetEffect : Obligations.ProgressSetEffect := by
  intro s c w x h r p moved
  refine ⟨exec_progressSet_reservedUnit h, fun hown hunit => exec_progressSet_unowned h hunit hown, fun hown => ⟨fun hset hstate hlo hhi => ?_,
    fun hset hstate => ?_, fun hset htotal hon => ?_, fun hset htotal hon => ?_, fun hset hback => ?_⟩⟩
  · rw [exec_progressSet_begins h (fun _ => ⟨hlo, hhi⟩) hown hset, if_neg hstate]
  · by_cases hunit : 1 ≤ w.opa.toNat ∧ w.opa.toNat ≤ 6
    · rw [exec_progressSet_begins h (fun _ => hunit) hown hset, if_pos hstate]
    · exact exec_progressSet_reservedUnit h hset (by omega)
  · exact exec_progressSet_moves h hown hset hon (if_neg htotal) (if_neg htotal) (ctx_of_runs h)
  · exact ⟨Config.freeNat s.freeCtr % 10000, Nat.mod_lt _ (by decide),
      exec_progressSet_moves h hown hset hon (if_pos htotal) (if_pos htotal) (ctx_of_runs h)⟩
  · exact exec_progressSet_backwards h hown hset hback
end

section
/-! Lanterns are created, closed and queried (R136, R162): what each instruction settles to, and obligation O12 from that. -/

namespace Sys2Proof.Machine

/-- A command behind the call-back of the lines of its operands, none of which the host holds, settles its body. -/
theorem exec_coherent_of_runs {i cmd : Instr} {s : State} {c op : Nat} {w : IWord} {x : Ctx} {ok p e : Bool} {reads writes : List (Nat × Nat)}
    {body : State → Ctx → IRes} {pre : State → Ctx → Pre} (h : Runs s c op w x) (hlines : s.tracked (reads ++ writes) = [])
    (hexec : exec i s = .next (s.coherent c op w ok reads writes (fun s => s.runInstr c op w cmd (shapeOk op w) p e (body s) (pre s)))) :
    exec i s = .next (s.settle c (body s x)) := by
  rw [hexec, State.coherent_starts hlines, State.runInstr_runs h]

/-! ## A precondition before an effect -/

theorem State.settle_afterPre_none {p : Pre} (h : p = none) (s : State) (c : Nat) (r : IRes) : s.settle c (afterPre p r) = s.settle c r := by
  rw [h, afterPre]

theorem State.settle_afterPre_some {p : Pre} {code : Code} {obs : Nat} (h : p = some (code, obs)) (s : State) (c : Nat) (r : IRes) :
    s.settle c (afterPre p r) = s.failInstr c code obs := by
  rw [h, afterPre, State.settle_fail]

/-! ## Creation (R162) -/

/-- The lantern of a creation descriptor. -/
def State.newLantern (s : State) (d : Bytes) : Lantern :=
  { state := .idle, svc := le d 2 1, meadow := 0xFF, model := le d 4 2, adapter := le d 6 2, deeds := 1,
    idleTimeout := if le d 52 4 = 0 then s.regN Reg.LTN_IDLE_DEFAULT else le d 52 4, cookie := le d 96 8, create := s.now }

/-- The lantern and its record deed, as `LTN_CREATE` opens them at entry `l`. -/
def State.created (s : State) (l : Nat) (d : Bytes) : State :=
  ((s.setLan l (s.newLantern d)).startTimer l).setDeed (.own l 0)
    { state := .home, home := s.me, epoch := 1, keeper := s.me, keeperLantern := 0xFFFFFFFF }

section
variable {s : State} {c : Nat} {w : IWord} {x : Ctx}

theorem exec_ltnCreate_opens (h : Runs s c 0x18 w x) {d : Bytes} {l : Nat} (hzero : createZero d = true) (hsvc : le d 2 1 ≤ 63)
    (hentry : s.createEntry w = .ok l) (hmodel : (s.modelOf (le d 4 2)).isSome = true) (hadp : s.adapterFit (le d 6 2) = true) :
    exec (.ltnCreate c w d) s = .next (((s.created l d).setOut (.instr c) (fun y => { y with lantern := some l })).advance c) := by
  rw [exec_of_runs h rfl, State.bodyCreate]
  rw [if_neg (by simp [hzero, Nat.not_lt.mpr hsvc])]
  simp only [hentry]
  rw [if_neg (by simp [hadp, Option.isSome_iff_ne_none.mp hmodel]), State.settle_ok]
  rfl

theorem exec_ltnCreate_reserved (h : Runs s c 0x18 w x) {d : Bytes} (hbad : createZero d = false ∨ 63 < le d 2 1) :
    exec (.ltnCreate c w d) s = .next (s.failInstr c .badOperand) := by
  rw [exec_of_runs h rfl, State.bodyCreate, if_pos (by simpa using hbad), State.settle_fail]

/-! ## Closing -/

theorem exec_ltnClose_of_runs (h : Runs s c 0x19 w x) :
    exec (.ltnClose c w) s = .next (s.settle c (afterPre (s.preClose w.opb.toNat) (.ok (s.closeLantern w.opb.toNat)))) :=
  congrArg Host.Outcome.next (State.runInstr_runs h _ _ _ _ _)

end

/-- A lantern with no deed in transfer leaves none to the hosted table. -/
theorem State.closeLantern_of_settled {s : State} {l : Nat}
    (h : (s.deedsOf l).filter (fun e => e.2.state == .lent || e.2.state == .incoming) = []) : s.closeLantern l = (s.freeLantern l).reapAdapters := by
  rw [State.closeLantern, h]
  rfl

end Sys2Proof.Machine

open Sys2Proof Sys2Proof.Machine

/-- Settles O12: it holds. Creation runs its checks in turn, closing and the query their precondition, and each then has its effect. -/
theorem lanternCreateCloseQuery : Obligations.LanternCreateCloseQuery := by
  refine fun s c w x d => ⟨fun l h hzero hsvc hentry hmodel hadp => exec_ltnCreate_opens h hzero hsvc hentry hmodel hadp,
    fun h hbad => exec_ltnCreate_reserved h hbad,
    fun h hkeeps hstate => ⟨fun hres => ?_, fun hres => ?_⟩, State.closeLantern_of_settled, fun h hkeeps hstate => ?_, fun h hkeeps => ?_,
    fun h hlines => ?_⟩
  · rw [exec_ltnClose_of_runs h, State.settle_afterPre_none, State.settle_ok]
    rcases hstate with hst | hst | hst | hst | hst <;> simp [State.preClose, hkeeps, hst, hres]
  · rw [exec_ltnClose_of_runs h, State.settle_afterPre_some]
    simp [State.preClose, hkeeps, hres, illegal]
  · rw [exec_ltnClose_of_runs h, State.settle_afterPre_some]
    rcases hstate with hst | hst <;> simp [State.preClose, hkeeps, hst, illegal]
  · rw [exec_ltnClose_of_runs h, State.settle_afterPre_some]
    simp [State.preClose, hkeeps]
  · have hquery := exec_coherent_of_runs (i := .ltnQuery c w) h hlines rfl
    refine ⟨fun hpre hwhole => ?_, fun hpre hsplit => ?_, fun hopen hkeeps => ?_⟩
    · rw [hquery, State.settle_afterPre_none hpre, State.writeOut, hwhole]
      rfl
    · rw [hquery, State.settle_afterPre_none hpre, State.writeOut, hsplit]
      rfl
    · rw [hquery, State.settle_afterPre_some]
      simp [State.preQueryLantern, hopen, hkeeps]
end

section
/-! Parks (R18, R136, R276): the start of `LTN_PARK`, the record it leaves, and its commit, and obligation O13 from them. -/

namespace Sys2Proof.Machine

/-! ## `LTN_PARK` -/

section
variable {s : State} {c : Nat} {w : IWord} {x : Ctx} (h : Runs s c 0x1A w x)
include h

theorem exec_ltnPark_of_runs : exec (.ltnPark c w) s = .next (s.settle c (s.bodyPark c w x)) :=
  congrArg Host.Outcome.next (State.runInstr_runs h _ _ _ _ _)

theorem exec_ltnPark_elsewhere (hkeeps : s.keeps w.opb.toNat = false) : exec (.ltnPark c w) s = .next (s.failInstr c .staleMap) := by
  rw [exec_ltnPark_of_runs h, State.bodyPark, if_pos (by simp [hkeeps]), State.settle_fail]

end

/-! ## What follows a park -/

theorem Still.publish (s : State) (o : Owner) (unit position total : Nat) : Still s (s.publish o unit position total) := by
  unfold State.publish
  extract_lets c
  split
  · exact Still.rfl
  · split
    · exact Still.rfl
    · extract_lets p pos bp t
      refine Still.trans ?_ (Still.setOut _ _ _)
      simp only [t]
      split
      · exact (Still.setProgress _ _ _).trans (Still.setProgress _ _ _)
      · exact Still.setProgress _ _ _

theorem Still.publishPark (s : State) (tier : Nat) (o : Owner) (position total : Nat) : Still s (s.publishPark tier o position total) := by
  unfold State.publishPark
  split
  · exact Still.publish _ _ _ _ _
  · exact Still.rfl

theorem Still.lan {s t : State} (h : Still s t) (l : Nat) : t.lan l = s.lan l := by
  obtain ⟨r, hlore⟩ := h.lore
  rw [State.lan, hlore, State.lan]

@[simp] theorem State.lan_setLan_self (s : State) (l : Nat) (x : Lantern) : (s.setLan l x).lan l = x := by
  simp [State.lan]

/-- What a park to a tier of this Cucia leaves: the lantern `LENT` over its prior state, and the record of the park. -/
theorem State.startPark_some {s t : State} {l tier : Nat} {o : Owner} {v : Option Owner} (h : s.startPark l tier o v = some t) :
    ∃ u pages, s.parkPlaces tier (s.parkList l) = some (pages, u) ∧
      (t.lan l).state = .lent ∧ (t.lan l).prior = (s.lan l).state ∧
      t.lore.parks = u.lore.parks ++ [
        { lantern := l, tier := tier, owner := o, pages := pages, bytes := if tier = 1 then 0 else ownedBytes (s.parkList l), waiting := v }] := by
  obtain ⟨⟨pages, u⟩, hplaces, rfl⟩ := Option.map_eq_some_iff.mp h
  have hlan (t : State) (p : Park) : (t.mapLore (fun y => { y with parks := y.parks ++ [p] })).lan l = t.lan l := rfl
  have hqueued (t : State) (n : Nat) : (t.addQueued 3 n).lan l = t.lan l := rfl
  refine ⟨u, pages, hplaces, ?_, ?_, ?_⟩
  · rw [(Still.publishPark _ _ _ _ _).lan, hqueued, hlan, State.lan_setLan_self]
  · rw [(Still.publishPark _ _ _ _ _).lan, hqueued, hlan, State.lan_setLan_self]
  · exact congrArg Lore.parks (Still.publishPark _ _ _ _ _).lore.choose_spec

/-! ## The commit -/

@[simp] theorem State.subQueued_fls (s : State) (c n : Nat) : (s.subQueued c n).fls = s.fls := rfl


/-- A park that its codes may end with. -/
theorem onlyCodes_of_mem {codes : List Code} {code : Code} (h : code ∈ codes) : onlyCodes codes (some code) = some code := by
  simp [onlyCodes, Option.filter, h]

end Sys2Proof.Machine

open Sys2Proof Sys2Proof.Machine

/-- Settles O13: it holds. `LTN_PARK` runs its checks in turn, the record is what `State.startPark` leaves, and the commit takes the branch of
its tier. -/
theorem lanternPark : Obligations.LanternPark := by
  refine ⟨fun s c w x => ⟨fun h hkeeps hstate hres hpacks => ?_, fun h hkeeps => exec_ltnPark_elsewhere h hkeeps, fun o hpacked hhold => ?_, fun tier o v t hstart => ?_⟩,
    fun s l p fail hfind => ?_⟩
  · have hfit : ¬ (((s.lan w.opb.toNat).state ≠ .idle ∧ (s.lan w.opb.toNat).state ≠ .toolWait) ∨ s.resuming w.opb.toNat = true) := by
      rintro (⟨h1, h2⟩ | h3)
      · exact hstate.elim h1 h2
      · simp [hres] at h3
    rw [exec_ltnPark_of_runs h, State.bodyPark]
    simp only [hkeeps, hpacks, if_neg hfit, Bool.not_true, Bool.false_eq_true, if_false]
    refine ⟨fun t hf hhold hstart => ?_, fun t hf hhold hroom hstart => ?_, fun t hf hhold hro hroom hstart => ?_, fun hf hhold hroom => ?_, fun hf hro => ?_, fun hf hhold => ?_⟩
    · simp [hf, hhold, hstart]
      rfl
    · simp [hf, hhold, hroom, hstart]
      rfl
    · simp [hf, hhold, hro, hroom, hstart]
      rfl
    · simp [hf, hhold, hroom]
      rfl
    · simp [hf, hro]
    · simp [hf, hhold]
  · simp [State.waitPacked, hpacked, hhold]
  · exact State.startPark_some hstart
  · extract_lets s0 moved
    have hexec : exec (.parkCommit l fail) s = execParkCommit l fail s := rfl
    rw [hexec, execParkCommit]
    simp only [hfind]
    refine ⟨fun htier hfail m hm => ?_, fun htier hfail => ?_, fun htier hfail hready hreads => ?_, fun htier hwait => ?_, fun htier code hfail hcode => ?_⟩
    · subst hfail
      simp only [s0] at hm
      simp [htier, onlyCodes, hm, State.publishPark]
    · subst hfail
      simp [htier, onlyCodes, State.publishPark]
      rfl
    · subst hfail
      simp [htier, onlyCodes, State.publishPark, hready, hreads]
      rfl
    · rw [if_pos (by simpa [htier] using hwait)]
    · subst hfail
      simp [htier, onlyCodes, Option.filter, hcode]
      rfl
end

section
/-! Resumes (R138, R277): the start of `LTN_RESUME`, its commit, and what the reads tell of the promise, and obligation O14 from them. -/

namespace Sys2Proof.Machine

theorem exec_ltnResume_of_runs {s : State} {c : Nat} {w : IWord} {x : Ctx} (h : Runs s c 0x1B w x) :
    exec (.ltnResume c w) s = .next (s.settle c (s.bodyResume c w x)) :=
  congrArg Host.Outcome.next (State.runInstr_runs h _ _ _ _ _)

@[simp] theorem State.setOut_now (s : State) (o : Owner) (f : Ctx → Ctx) : (s.setOut o f).now = s.now :=
  State.now_eq_of_still (Still.setOut _ _ _)

@[simp] theorem State.endPhase_lan (s : State) (id : Option Nat) (code b l : Nat) : (s.endPhase id code b).lan l = s.lan l :=
  (Still.updPromise _ _ _).lan l

/-! ## Promises under an update -/

theorem find?_map_keepsId {ps : List Promise} {i : Nat} {f : Promise → Promise} (hf : ∀ p, (f p).id = p.id) :
    (ps.map (fun q => if q.id = i then f q else q)).find? (fun p => p.id == i) = (ps.find? (fun p => p.id == i)).map f := by
  induction ps with
  | nil => rfl
  | cons p ps ih =>
    by_cases hp : p.id = i
    · simp [hp, hf]
    · simp [hp, ih]

theorem State.promise_updPromise (s : State) (i : Nat) {f : Promise → Promise} (hf : ∀ p, (f p).id = p.id) :
    (s.updPromise (some i) f).promise i = (s.promise i).map f :=
  find?_map_keepsId hf

theorem State.promise_readPhases {s : State} {id : Nat} {p : Promise} (h : s.promise id = some p) (tier : Nat) (rd : ReadReport) :
    ((s.readPhases (some id) tier rd false).promise id).map (·.media) = some (p.media || decide (2 < rd.retries) || rd.rebuilt) := by
  have hmedia := State.promise_updPromise s id (f := fun p => { p with media := p.media || mediaRead rd }) fun _ => rfl
  unfold State.readPhases
  simp only [Bool.false_eq_true, false_and, if_false]
  split
  · rw [State.endPhase, State.promise_updPromise _ _ (f := fun p => { p with ends := p.ends ++ [(5, rd.first)] }) fun _ => rfl, hmedia, h]
    simp [mediaRead, Bool.or_assoc]
  · rw [hmedia, h]
    simp [mediaRead, Bool.or_assoc]

end Sys2Proof.Machine

open Sys2Proof Sys2Proof.Machine

/-- Settles O14: it holds. `LTN_RESUME` goes on at once or waits as its tier says, and the commit takes the branch of what was read. -/
theorem lanternResume : Obligations.LanternResume := by
  refine ⟨fun s c w x => ⟨fun h hpre t id n hadmit => ?_, fun h hkeeps => ?_, fun h code obs hpre => ?_⟩,
    fun s l r rd hfind hmap => ⟨?_, fun htier hlost => ⟨fun new t hback => ?_, fun hback => ?_⟩, fun id p hp _ => State.promise_readPhases hp _ _⟩⟩
  · rw [exec_ltnResume_of_runs h, State.bodyResume, hpre, afterPre]
    intro u r v
    refine ⟨fun hnear z hz => ?_, fun hmove htier m hm z hz => ?_, fun hmove hwait => ?_⟩
    · simp only [hadmit, hnear, if_true, ne_eq, not_true_eq_false, if_false, State.setOut_now, u] at hz ⊢
      simp only [hz, if_true, State.resumeRefused, State.settle_ok]
    · simp only [u] at hm
      simp only [hadmit, hmove, htier, Bool.false_eq_true, ne_eq, not_true_eq_false, if_false, State.setOut_now, hm, hz, if_true,
        State.resumeRefused, State.settle_ok]
    · by_cases htier : resumeTier (t.resumeFrom w.opb.toNat c) = 0
      · have hfull := hwait.resolve_left (not_not.mpr htier)
        simp only [u] at hfull
        simp only [hadmit, hmove, htier, Bool.false_eq_true, ne_eq, not_true_eq_false, if_false, State.setOut_now, hfull, State.resumeRefused, State.endPhase_lan, v, r, u]
        rfl
      · simp only [hadmit, hmove, htier, Bool.false_eq_true, ne_eq, not_false_eq_true, if_true, if_false, State.setOut_now, State.resumeRefused, State.endPhase_lan, v, r, u]
        rfl
  · simp [State.preResume, hkeeps]
  · rw [exec_ltnResume_of_runs h, State.bodyResume]
    simp [afterPre, hpre, State.resumeRefused]
  · have hexec (e : ReadEnd) : exec (.resumeCommit l e) s = execResumeCommit l e s := rfl
    rw [hexec, execResumeCommit]
    simp [hfind, hmap]
  · intro u v code hkeep
    have hexec (e : ReadEnd) : exec (.resumeCommit l e) s = execResumeCommit l e s := rfl
    rw [hexec, execResumeCommit]
    simp only [hfind, if_neg hmap, hlost, Bool.false_eq_true, if_false, reduceCtorEq, htier, hback, Option.map_some, u] at hkeep ⊢
    rw [hkeep]
  · have hexec (e : ReadEnd) : exec (.resumeCommit l e) s = execResumeCommit l e s := rfl
    rw [hexec, execResumeCommit]
    simp only [hfind, if_neg hmap, hlost, Bool.false_eq_true, if_false, reduceCtorEq, htier, hback, Option.map_none]
    exact ⟨_, rfl, rfl, rfl, rfl⟩
end

section
/-! The idle timer (R168 to R172): the scan at order 6 and its outcomes, and obligation O15 from them. -/

namespace Sys2Proof.Machine

section
variable {s0 : State} (hup : s0.cdUp = true) (hblk : s0.sys.blocks.any (fun b => b.1 == 4) = false) (l : Nat)
include hup hblk

theorem exec_idleTimerExpiry_waits (hwait : (s0.atOrder 6).entriesWait = true ∨ (s0.atOrder 6).resumeWaits l = true) :
    exec (.idleTimerExpiry l) s0 = .next (s0.atOrder 6) := by
  rw [exec, execIdleTimerExpiry, if_neg (by simp [hup, hblk])]
  exact congrArg _ (if_pos hwait)

theorem exec_idleTimerExpiry_scans (hentries : (s0.atOrder 6).entriesWait = false) (hresume : (s0.atOrder 6).resumeWaits l = false) :
    exec (.idleTimerExpiry l) s0 = .next ((s0.atOrder 6).idleScan l) := by
  rw [exec, execIdleTimerExpiry, if_neg (by simp [hup, hblk])]
  exact congrArg _ (if_neg (by simp [hentries, hresume]))

end

section
variable {s : State} {l : Nat} (hres : s.resuming l = false)

theorem State.idleScan_before (h : s.now < (s.lan l).timer) : s.idleScan l = s :=
  if_pos (.inr (.inl h))

variable (hset : (s.lan l).timer ≠ 0) (hdue : (s.lan l).timer ≤ s.now)
include hres hset hdue

/-- An idle lantern whose timer has expired stays in the chosen tier, or is parked from there on, or finds no tier. -/
theorem State.idleScan_idle (hstate : (s.lan l).state = .idle ∨ (s.lan l).state = .toolWait) :
    s.idleScan l = if s.chosenTier l = sitsIn (s.lan l) then s.rearm l (s.chosenTier l - 1) else
      (s.tierFrom l (s.chosenTier l)).elim (s.noTier l) (s.enginePark l) := by
  rw [State.idleScan, if_neg (by simp [hset, hres, hdue])]
  have hcases (u : State) : (match s.tierFrom l (s.chosenTier l) with
      | some i => s.enginePark l i
      | none => u) = (s.tierFrom l (s.chosenTier l)).elim u (s.enginePark l) := by
    cases s.tierFrom l (s.chosenTier l) <;> rfl
  rcases hstate with h | h
  · simp only [h]
    exact congrArg _ (hcases _)
  · simp only [h]
    exact congrArg _ (hcases _)

theorem State.idleScan_swapped (hstate : (s.lan l).state = .swapped) (hflash : s.chosenTier l = 4) (hhold : s.canHold l 4 = true) :
    s.idleScan l = s.enginePark l 4 := by
  rw [State.idleScan, if_neg (by simp [hset, hres, hdue])]
  simp [hstate, hflash, hhold]

end

/-- With no tier the event is raised, the timer set anew, and nothing else of the lantern kept but its refusal by the cache node. -/
theorem State.noTier_eq (s : State) (l : Nat) : let t := s.raise Ev.parkNoSpace 0 l 0 none 6
    (s.noTier l).io = t.io ∧ (s.noTier l).regs = t.regs ∧
      (s.noTier l).lan l = { t.lan l with timer := t.now + bits (t.regN Reg.LTN_RETRY) 15 0, cacheRefused := false } := by
  simp [State.noTier, State.retryTimer]

end Sys2Proof.Machine

open Sys2Proof Sys2Proof.Machine

/-- Settles O15: it holds. The scan waits behind the beat's entries, and then takes the case of the lantern's state and chosen tier. -/
theorem idleTimer : Obligations.IdleTimer := by
  intro s0 l hup hblk s
  refine ⟨exec_idleTimerExpiry_waits hup hblk l, fun hentries hresume hset hres => ?_⟩
  rw [exec_idleTimerExpiry_scans hup hblk l hentries hresume]
  refine ⟨fun hbefore => congrArg _ (State.idleScan_before hbefore), fun hdue hstate => ?_, fun hdue hstate hflash hhold =>
    congrArg _ (State.idleScan_swapped hres hset hdue hstate hflash hhold)⟩
  rw [State.idleScan_idle hres hset hdue hstate]
  refine ⟨fun hsits => by rw [if_pos hsits], fun hsits i hi => by rw [if_neg hsits, hi, Option.elim_some], fun hsits hnone => ⟨_, by rw [if_neg hsits, hnone, Option.elim_none], ?_⟩⟩
  exact State.noTier_eq s l
end

section
/-! Requests (R139, R174 to R180): admission, the three changes of a live request, release, and the entry that is freed; obligations O16, O17
and O18 from them. -/

namespace Sys2Proof.Machine

/-! ## What marks a request as its entry ends -/

/-- A request but for the marks of a breach and of its entry's end. -/
def Request.Marked (q q' : Request) : Prop := ∃ b o e, q' = { q with breached := b, ctx := o, entryEnded := e }

theorem Request.Marked.rfl {q : Request} : q.Marked q := ⟨_, _, _, Eq.refl q⟩

theorem Request.Marked.trans {q q' q'' : Request} (h : q.Marked q') (k : q'.Marked q'') : q.Marked q'' := by
  obtain ⟨b, o, e, rfl⟩ := h
  obtain ⟨b', o', e', rfl⟩ := k
  exact ⟨b', o', e', Eq.refl _⟩

theorem Tbl.get_mapVals {α : Type} (d : Nat → α) (f : Nat → α → α) (t : Tbl α) (k : Nat) :
    Tbl.get d (t.mapVals f) k = Tbl.get d t k ∨ Tbl.get d (t.mapVals f) k = f k (Tbl.get d t k) := by
  rw [Tbl.get, Tbl.get, Tbl.find_mapVals]
  cases Tbl.find t k with
  | none => exact .inl rfl
  | some v => exact .inr rfl

theorem State.request_mapVals_marked (s : State) {f : Nat → Request → Request} (hf : ∀ (r : Nat) (q : Request), q.Marked (f r q)) (r : Nat) :
    (s.request r).Marked ((s.mapLore (fun l => { l with requests := l.requests.mapVals f })).request r) := by
  change (s.request r).Marked (Tbl.get (fun _ => {}) (s.lore.requests.mapVals f) r)
  rcases Tbl.get_mapVals (fun _ => {}) f s.lore.requests r with h | h <;> rw [h]
  · exact .rfl
  · exact hf r (s.request r)

theorem State.request_eq_of_lore {s t : State} (h : t.lore = s.lore) (r : Nat) : t.request r = s.request r := by
  rw [State.request, h, State.request]

@[simp] theorem State.raise_lore (s : State) (code : Nat) (node : NodeId) (d0 d1 : Nat) (m : Option Nat) (o : Nat) :
    (s.raise code node d0 d1 m o).lore = s.lore := by
  unfold State.raise
  extract_lets
  split <;> rfl

@[simp] theorem State.ringWrite_lore (base lg len : Nat) (bs : List Bytes) (pi : Nat) (s : State) :
    (s.ringWrite base lg len pi bs).lore = s.lore := by
  induction bs generalizing s pi with
  | nil => rfl
  | cons b bs ih => exact ih _ _

@[simp] theorem State.drainBreaches_lore (s : State) : s.drainBreaches.lore = s.lore := by
  unfold State.drainBreaches
  extract_lets base lg pi n s1
  split
  · rfl
  · simp [s1]

theorem State.request_writeBreach (s : State) (p : Promise) (code : Code) (used r : Nat) :
    (s.request r).Marked ((s.writeBreach p code used).request r) := by
  unfold State.writeBreach
  split
  · exact .rfl
  · extract_lets seq none32 s1 s2 s3 s4 room
    have h4 : (s.request r).Marked (s4.request r) := by
      have hlore : (s2.request r).Marked (s3.request r) := by
        simp only [s3]
        split
        · exact .rfl
        · exact State.request_mapVals_marked _ (fun j q => by split <;> exact ⟨_, _, _, rfl⟩) r
      exact hlore
    split
    extract_lets rcd
    split
    · rwa [State.request_eq_of_lore (State.drainBreaches_lore _)]
    · rwa [State.request_eq_of_lore (State.raise_lore _ _ _ _ _ _ _)]

theorem State.request_breachOf (s : State) (p : Promise) (code : Code) (excused : Bool) (r : Nat) :
    (s.request r).Marked ((s.breachOf p code excused).request r) := by
  unfold State.breachOf
  split
  · exact State.request_writeBreach _ _ _ _ _
  · split
    · exact State.request_writeBreach _ _ _ _ _
    · exact .rfl

theorem State.request_failPromise (s : State) (id : Option Nat) (code : Code) (excused : Bool) (r : Nat) :
    (s.request r).Marked ((s.failPromise id code excused).request r) := by
  unfold State.failPromise
  split
  · exact .rfl
  · exact State.request_breachOf _ _ _ _ _

theorem State.request_abandonPromise (s : State) (id : Option Nat) (code : Code) (r : Nat) :
    (s.request r).Marked ((s.abandonPromise id code).request r) := by
  unfold State.abandonPromise
  split
  · exact .rfl
  · extract_lets n excused
    split
    · exact .rfl
    · split
      · exact State.request_failPromise _ _ _ _ _
      · exact State.request_breachOf _ _ _ _ _

theorem State.foldl_subQueued_lore (gs : List Grant) (s : State) : (gs.foldl (fun s g => s.subQueued g.cls g.bytes) s).lore = s.lore := by
  induction gs generalizing s with
  | nil => rfl
  | cons g gs ih => exact ih _

theorem State.request_closeEntry (s : State) (c : Nat) (code : Code) (idx obs r : Nat) :
    (s.request r).Marked ((s.closeEntry c code idx obs).request r) := by
  unfold State.closeEntry
  split
  · exact .rfl
  · extract_lets live x p s1 s2 s3 s4 un s5 bytes res s6
    have h2 : s2.lore = s.lore := by
      have h1 : s1.lore = s.lore := by simp only [s1]; split <;> rfl
      simp only [s2]
      split <;> exact h1
    have h3 : (s2.request r).Marked (s3.request r) :=
      State.request_mapVals_marked _ (fun j q => by split <;> exact ⟨_, _, _, rfl⟩) r
    have h4 : s4.request r = s3.request r := State.request_eq_of_lore (State.foldl_subQueued_lore _ _) r
    rw [State.request_eq_of_lore h2, ← h4] at h3
    exact h3

theorem State.request_failInstr (s : State) (c : Nat) (code : Code) (obs r : Nat) :
    (s.request r).Marked ((s.failInstr c code obs).request r) := by
  cases h : s.ctx c with
  | none => simpa [State.failInstr, h] using Request.Marked.rfl
  | some x =>
    rw [State.failInstr_eq h, State.endEntry_eq (State.ctx_setCtx_self _ _ _)]
    exact Request.Marked.trans (State.request_abandonPromise (s.setCtx c _) _ _ r) (State.request_closeEntry _ _ _ _ _ r)

/-! ## `REQ_ADMIT` -/

section
variable {s : State} {c : Nat} {w : IWord} {x : Ctx} {d : Bytes}

theorem exec_reqAdmit_of_runs (h : Runs s c 0x20 w x) : exec (.reqAdmit c w d) s = .next (s.settle c (s.bodyAdmit c w d x)) :=
  congrArg Host.Outcome.next (State.runInstr_runs h _ _ _ _ _)

@[simp] theorem State.setOut_lore (s : State) (o : Owner) (f : Ctx → Ctx) : (s.setOut o f).lore = s.lore := by
  unfold State.setOut
  split
  · rfl
  · split <;> rfl
  · split <;> rfl

@[simp] theorem State.request_setRequest_self (s : State) (r : Nat) (q : Request) : (s.setRequest r q).request r = q := by
  simp [State.request]

/-- What an admission fills: the lowest free entry, a free row of the meadow's program, and the lantern. -/
theorem State.admitRequest_some {t u : State} {resumed : Bool} {id : Option Nat} {promised : Nat}
    (h : t.admitRequest c x w d resumed id promised = some u) :
    ∃ r hd row, t.freeRequest = some r ∧ (t.mdw x.entry.meadow).program = some hd ∧ t.freeRow x.entry.meadow hd.rows = some row ∧
      (u.request r).state = .admitted ∧ (u.request r).row = some row ∧ (u.request r).lantern = w.opb.toNat ∧
      (u.request r).order = t.lore.nextOrder ∧ u.lore.nextOrder = t.lore.nextOrder + 1 ∧
      (u.request r).pTokens = le d 0 4 ∧ (u.request r).gMax = le d 4 4 ∧ (u.request r).generated = 0 ∧
      (u.lan w.opb.toNat).state = .active ∧ (u.lan w.opb.toNat).request = some r ∧ (u.lan w.opb.toNat).meadow = x.entry.meadow := by
  unfold State.admitRequest at h
  extract_lets m l y at h
  split at h
  · next hd r hprog hfree =>
    split at h
    · cases h
    · next row hrow =>
      cases h
      refine ⟨r, hd, row, hfree, hprog, hrow, ?_⟩
      simp only [State.request, State.lan, State.setOut_lore, State.mapLore_lore, State.setLan_lore, State.setRequest_lore, Tbl.get_set_self, l]
      simp [m]
  · cases h

end

/-! ## A live request -/

section
variable {s : State} {c : Nat} {w : IWord} {x : Ctx}

theorem exec_reqKill_of_runs (h : Runs s c 0x21 w x) : exec (.reqKill c w) s =
    .next (s.settle c (afterPre (s.livePre w.opb.toNat) (.ok (s.dropRequest w.opb.toNat .killed .killed true)))) :=
  congrArg Host.Outcome.next (State.runInstr_runs h _ _ _ _ _)

theorem exec_reqSetprio_of_runs (h : Runs s c 0x22 w x) : exec (.reqSetprio c w) s =
    .next (s.settle c (afterPre (s.livePre w.opb.toNat) (.ok (s.setRequest w.opb.toNat { s.request w.opb.toNat with prio := w.opa.toNat })))) :=
  congrArg Host.Outcome.next (State.runInstr_runs h _ _ _ _ _)

theorem exec_reqSetdeadline_of_runs (h : Runs s c 0x23 w x) : exec (.reqSetdeadline c w) s =
    .next (s.settle c (afterPre (s.livePre w.opb.toNat) (s.bodySetDeadline w.opb.toNat w.opc.toNat))) :=
  congrArg Host.Outcome.next (State.runInstr_runs h _ _ _ _ _)

theorem exec_reqRelease_of_runs (h : Runs s c 0x24 w x) : exec (.reqRelease c w) s =
    .next (s.settle c (afterPre (s.preReqRelease w.opb.toNat) (.ok (s.releaseRequest w.opb.toNat (w.flag 8) w.opc.toNat)))) :=
  congrArg Host.Outcome.next (State.runInstr_runs h _ _ _ _ _)

end

theorem State.livePre_of_live {s : State} {r : Nat} (h : (s.request r).state = .admitted ∨ (s.request r).state = .running) : s.livePre r = none := by
  rcases h with h | h <;> simp [State.livePre, h, RState.live]

theorem State.livePre_of_not_live {s : State} {r : Nat} (h1 : (s.request r).state ≠ .admitted) (h2 : (s.request r).state ≠ .running) :
    s.livePre r = some (.illegalInState, obsOf 2 (rCode (s.request r).state)) := by
  simp [State.livePre, RState.live, h1, h2, illegal]

/-! ## The entry is freed -/

theorem State.reapAdapters_nil {s : State} (h : s.mem.adapters = []) : s.reapAdapters = s := by
  simp [State.reapAdapters, h]

/-- With no adapter loaded, a freed entry leaves its active lantern idle or in `TOOL_WAIT`, its timer started. -/
theorem State.freeEntry_active {s : State} {r : Nat} (hstate : (s.lan (s.request r).lantern).state = .active)
    (hreq : (s.lan (s.request r).lantern).request = some r) (hres : (s.request r).resuming = false) (hadp : s.mem.adapters = []) (tool : Option Nat) :
    ∃ x : Lantern, s.freeEntry r tool = ((s.setRequest r {}).setLan (s.request r).lantern x).startTimer (s.request r).lantern ∧
      x.request = none ∧ x.release = s.now ∧ x.state = (if tool.isSome then LState.toolWait else .idle) ∧ x.toolWaitFlag = tool.isSome ∧
      ∀ hint, tool = some hint → x.hintUs = hint := by
  rw [State.freeEntry]
  simp only [hstate, hreq, hres, ne_eq, not_true_eq_false, or_self, Bool.false_eq_true, false_and, if_false]
  rw [State.reapAdapters_nil (by exact hadp)]
  refine ⟨_, rfl, rfl, ?_, rfl, ?_, ?_⟩
  · cases tool <;> rfl
  · cases tool <;> rfl
  · rintro hint rfl
    rfl

end Sys2Proof.Machine

open Sys2Proof Sys2Proof.Machine

/-- Settles O16: it holds. The body takes over what its group admitted, or goes through the precondition and the weighing to the admission. -/
theorem requestAdmitted : Obligations.RequestAdmitted := by
  refine fun s c w d x h => ⟨fun hgrant hin => ?_, fun hnew hpre t id n hadmit u hu => ⟨?_, State.admitRequest_some hu⟩⟩
  · rw [exec_reqAdmit_of_runs h, State.bodyAdmit, if_pos ⟨hgrant, hin⟩, State.settle_ok]
  · have hnot : ¬ (x.grants.any (fun g => g.index == x.pc && g.code == some .ok) = true ∧ x.pc < x.group) := by
      rintro ⟨hgrant, hin⟩
      rcases hnew with h1 | h2
      · simp [h1] at hgrant
      · omega
    rw [exec_reqAdmit_of_runs h, State.bodyAdmit, if_neg hnot, State.settle_afterPre_none hpre, hadmit]
    simp only [hu, State.settle_ok]

/-- Settles O17: it holds. A live request passes the common precondition and takes the change; any other fails it. -/
theorem requestInstructions : Obligations.RequestInstructions := by
  intro s c w x r q
  refine ⟨fun hlive => ?_, fun h1 h2 => ?_⟩
  · have hpre := State.livePre_of_live hlive
    have hset (h : Runs s c 0x23 w x) : exec (.reqSetdeadline c w) s = .next (s.settle c (s.bodySetDeadline r w.opc.toNat)) := by
      rw [exec_reqSetdeadline_of_runs h, State.settle_afterPre_none hpre]
    refine ⟨fun h => ?_, fun h => ?_, fun h hdl hkeep => ?_, fun h hdl hp hd => ?_, fun h hdl hnone => ?_, fun h hdl hnone => ?_, ?_⟩
    · rw [exec_reqKill_of_runs h, State.settle_afterPre_none hpre, State.settle_ok]
    · rw [exec_reqSetprio_of_runs h, State.settle_afterPre_none hpre, State.settle_ok]
    · rw [hset h, State.bodySetDeadline, if_neg (by rw [hdl]; decide), if_neg fun hlow => hkeep.elim (Nat.not_le.mpr hlow.2) (Nat.not_le.mpr hlow.1),
        State.settle_ok]
    · rw [hset h, State.bodySetDeadline, if_neg (by rw [hdl]; decide), if_pos ⟨hd, hp⟩, State.settle_fail]
    · rw [hset h, State.bodySetDeadline, if_pos hdl, if_pos (show _ = allOnes64 from hnone), State.settle_ok]
    · rw [hset h, State.bodySetDeadline, if_pos hdl, if_neg (show _ ≠ allOnes64 from hnone), State.settle_fail]
    · obtain ⟨b, o, e, hq⟩ := State.request_failInstr s c .refusedBound 0 r
      rw [hq]
      exact ⟨rfl, rfl⟩
  · have hpre := State.livePre_of_not_live h1 h2
    refine ⟨fun h => ?_, fun h => ?_, fun h => ?_⟩
    · rw [exec_reqKill_of_runs h, State.settle_afterPre_some hpre]
    · rw [exec_reqSetprio_of_runs h, State.settle_afterPre_some hpre]
    · rw [exec_reqSetdeadline_of_runs h, State.settle_afterPre_some hpre]

/-- Settles O18: it holds. A release goes by the request's state, the timeout by its beat, and a freed entry lets its lantern go. -/
theorem requestRelease : Obligations.RequestRelease := by
  refine ⟨fun s c w x r => ⟨?_, fun hup hdone hlent => ⟨fun hdue => ?_, fun hearly => ?_⟩⟩, fun s r tool => ?_⟩
  · rintro rfl h hlent
    refine ⟨fun hst => ?_, fun hst => ?_, fun h1 h2 => ?_⟩
    · rw [exec_reqRelease_of_runs h, State.settle_afterPre_none (by simp [State.preReqRelease, hst, hlent]), State.releaseRequest, if_pos hst,
        State.settle_ok]
    · rw [exec_reqRelease_of_runs h, State.settle_afterPre_none (by simp [State.preReqRelease, hst, hlent]), State.releaseRequest,
        if_neg (by simp [hst]), State.settle_ok]
    · rw [exec_reqRelease_of_runs h, State.settle_afterPre_some]
      simp [State.preReqRelease, h1, h2, illegal]
  · exact congrArg _ (if_pos ⟨hup, hdone, hdue, hlent⟩)
  · exact congrArg _ (if_neg fun hall => Nat.not_le.mpr hearly hall.2.2.1)
  · intro q l hstate hreq hres hadp
    obtain ⟨x, hfree, hnone, hrelease, hst, hflag, hhint⟩ := State.freeEntry_active hstate hreq hres hadp tool
    rw [hfree]
    have hq : ((((s.setRequest r {}).setLan l x).startTimer l).request r).state = .free := by
      simp [State.startTimer, State.request]
    refine ⟨hq, ?_⟩
    simp only [State.startTimer, State.lan_setLan_self, l, q]
    exact ⟨hnone, hrelease, hst, hflag, hhint⟩
end

section
/-! Pages and page sets (R141, R255, R257): the four page instructions, the order of a set, and obligation O19 from them. -/

namespace Sys2Proof.Machine

/-! ## A list sorted by page identifier -/

theorem mem_insertPage_loc (p : Page) (qs : List Page) (n : Nat) :
    (∃ q ∈ insertPage p qs, q.loc = n) ↔ p.loc = n ∨ ∃ q ∈ qs, q.loc = n := by
  induction qs with
  | nil => simp [insertPage]
  | cons q qs ih =>
    rw [insertPage]
    split
    · simp
    · split
      · next heq => simp [heq]
      · simp only [List.mem_cons, exists_eq_or_imp, ih]
        exact or_left_comm

theorem pairwise_insertPage (p : Page) {qs : List Page} (h : qs.Pairwise (fun a b => a.loc < b.loc)) :
    (insertPage p qs).Pairwise (fun a b => a.loc < b.loc) := by
  induction qs with
  | nil => simp [insertPage]
  | cons q qs ih =>
    obtain ⟨hq, hqs⟩ := List.pairwise_cons.mp h
    rw [insertPage]
    split
    · next hlt =>
      exact List.pairwise_cons.mpr ⟨List.forall_mem_cons.mpr ⟨hlt, fun r hr => hlt.trans (hq r hr)⟩, h⟩
    · split
      · exact h
      · next hlt heq =>
        refine List.pairwise_cons.mpr ⟨fun r hr => ?_, ih hqs⟩
        rcases (mem_insertPage_loc p qs r.loc).mp ⟨r, hr, rfl⟩ with hp | ⟨r', hr', hloc⟩
        · omega
        · rw [← hloc]
          exact hq r' hr'

theorem foldl_insertPage_spec (ps acc : List Page) (h : acc.Pairwise (fun a b => a.loc < b.loc)) :
    (ps.foldl (fun acc p => insertPage p acc) acc).Pairwise (fun a b => a.loc < b.loc) ∧
      ∀ n, (∃ p ∈ ps.foldl (fun acc p => insertPage p acc) acc, p.loc = n) ↔ (∃ p ∈ acc, p.loc = n) ∨ ∃ p ∈ ps, p.loc = n := by
  induction ps generalizing acc with
  | nil => exact ⟨h, fun n => by simp⟩
  | cons p ps ih =>
    obtain ⟨hsorted, hmem⟩ := ih (insertPage p acc) (pairwise_insertPage p h)
    refine ⟨hsorted, fun n => (hmem n).trans ?_⟩
    rw [mem_insertPage_loc]
    simp only [List.mem_cons, exists_eq_or_imp]
    exact or_assoc.trans or_left_comm

/-- A sorted list holds each identifier of the pages once, in ascending order. -/
theorem sortPages_spec (ps : List Page) : (sortPages ps).Pairwise (fun p q => p.loc < q.loc) ∧
    ∀ n, (∃ p ∈ sortPages ps, p.loc = n) ↔ ∃ p ∈ ps, p.loc = n := by
  obtain ⟨hsorted, hmem⟩ := foldl_insertPage_spec ps [] List.Pairwise.nil
  exact ⟨hsorted, fun n => (hmem n).trans (by simp)⟩

/-! ## The page instructions -/

section
variable {s : State} {c : Nat} {w : IWord} {x : Ctx}

theorem exec_pgAlloc_none (h : Runs s c 0x28 w x) (hn : w.opb = 0) : exec (.pgAlloc c w) s = .next (s.failInstr c .badOperand) := by
  rw [exec_of_runs h rfl, if_pos hn, State.settle_fail]

theorem exec_pgAlloc_readOnly (h : Runs s c 0x28 w x) (hn : w.opb ≠ 0) (hro : s.listReadOnly (s.listAt w.opc.toNat) = true) :
    exec (.pgAlloc c w) s = .next (s.failInstr c .illegalInState) := by
  rw [exec_of_runs h rfl, if_neg hn, if_pos hro, State.settle_fail]

section
variable (h : Runs s c 0x28 w x) (hn : w.opb ≠ 0) (hro : s.listReadOnly (s.listAt w.opc.toNat) = false)
include h hn hro

theorem exec_pgAlloc_takes {ps : List Page} {t : State} (ht : s.takePages 0 w.opa.toNat w.opb.toNat = some (ps, t)) :
    exec (.pgAlloc c w) s = .next ((t.appendPages (s.listAt w.opc.toNat) ps).advance c) := by
  rw [exec_of_runs h rfl, if_neg hn, if_neg (by simp [hro]), ht]
  rfl

theorem exec_pgAlloc_full (ht : s.takePages 0 w.opa.toNat w.opb.toNat = none) : exec (.pgAlloc c w) s = .next (s.failInstr c .noSpace) := by
  rw [exec_of_runs h rfl, if_neg hn, if_neg (by simp [hro]), ht]
  rfl

end

/-- `PG_SHARE` of a lantern kept here with a set descriptor in place goes by the counts of its pages. -/
theorem exec_pgShare_of_desc (h : Runs s c 0x2A w x) (d : Bytes) (hkeeps : s.keeps w.opb.toNat = true) {ps : List Page} {a b : Nat}
    (hdesc : s.setDesc w.opc.toNat = some (ps, a, b)) :
    exec (.pgShare c w d) s = .next (s.settle c (
      if ps.any (fun p => !p.shared || p.tier != 0 || s.refcount p.loc == 0) then .fail .notResident 0
      else if ps.any (fun p => s.refcount p.loc == 65535) then .fail .noSpace 0
      else .ok ((ps.foldl (fun s p => s.setRef p.loc (s.refcount p.loc + 1)) s).setLan w.opb.toNat
        { (ps.foldl (fun s p => s.setRef p.loc (s.refcount p.loc + 1)) s).lan w.opb.toNat with
          shared := ((ps.foldl (fun s p => s.setRef p.loc (s.refcount p.loc + 1)) s).lan w.opb.toNat).shared ++ ps }))) := by
  rw [exec_of_runs h rfl, if_neg (by simp [hkeeps]), hdesc]

/-- `PG_APPEND` between two lists of software's own. -/
theorem exec_pgAppend_user (h : Runs s c 0x2B w x) {d : Bytes} {a b : Nat} (ha : s.listAt (le d 0 8) = .user a)
    (hb : s.listAt (le d 8 8) = .user b) :
    exec (.pgAppend c w d) s = .next (s.settle c (
      if (s.plist b).bound.isSome ∧ (s.plist a).bound ≠ (s.plist b).bound then .fail .illegalInState 0
      else if (s.plist a).readOnly ∨ (s.plist b).readOnly then .fail .accessViolation 0
      else .ok ((s.emptyList (.user a)).appendPages (.user b) (s.plist a).pages))) := by
  rw [exec_of_runs h rfl]
  simp only [ha, hb, State.listOwner, State.listReadOnly]
  cases (s.plist a).bound <;> cases (s.plist b).bound <;> simp [State.pagesAt, State.plist]

end

/-! ## The set instructions -/

/-- A set instruction that runs settles the body of its operation. -/
theorem exec_set_of_runs {s : State} {c op : Nat} {w : IWord} {x : Ctx} {d : Bytes} {i : Instr} {f : List Page → List Page → List Page}
    (hi : (i = .setUnion c w d ∧ op = 0x2C ∧ f = fun a b => a ++ b) ∨
      (i = .setIntersect c w d ∧ op = 0x2D ∧ f = fun a b => a.filter (fun p => b.any (fun q => q.loc == p.loc))) ∨
      (i = .setDiff c w d ∧ op = 0x2E ∧ f = fun a b => a.filter (fun p => !b.any (fun q => q.loc == p.loc))))
    (h : Runs s c op w x) : exec i s = .next (s.settle c (s.setBody d f)) := by
  rcases hi with ⟨rfl, rfl, rfl⟩ | ⟨rfl, rfl, rfl⟩ | ⟨rfl, rfl, rfl⟩ <;> exact congrArg Host.Outcome.next (State.runInstr_runs h _ _ _ _ _)

theorem State.preSet_none {s : State} {d : Bytes} (hzero : zeroAt d 24 8 = true)
    (htier : ∀ p ∈ s.pagesAt (s.listAt (le d 0 8)) ++ s.pagesAt (s.listAt (le d 8 8)), p.tier = 0) : s.preSet d = none := by
  rw [State.preSet, if_neg]
  simpa [setShape, hzero, or_imp, forall_and] using htier

theorem State.preSet_bad {s : State} {d : Bytes} (hbad : zeroAt d 24 8 = false ∨
    ∃ p ∈ s.pagesAt (s.listAt (le d 0 8)) ++ s.pagesAt (s.listAt (le d 8 8)), p.tier ≠ 0) : s.preSet d = some (.badOperand, 0) := by
  rw [State.preSet, if_pos (by simpa [setShape, or_and_right, exists_or] using hbad)]
  rfl

end Sys2Proof.Machine

open Sys2Proof Sys2Proof.Machine

/-- Settles O19: it holds. Each instruction runs its checks in turn and then has its effect; a set is its sorted pages. -/
theorem pagesAndSets : Obligations.PagesAndSets := by
  refine ⟨fun s c w x d => ⟨fun h hn hro => ⟨fun ps t => exec_pgAlloc_takes h hn hro, exec_pgAlloc_full h hn hro⟩, exec_pgAlloc_none,
      exec_pgAlloc_readOnly, ⟨fun h hbusy hro => ?_, fun h hbusy hro => ?_, fun h hbusy => ?_⟩, fun h hkeeps => ?_, fun h hkeeps => ⟨fun hdesc => ?_,
      fun ps a b hdesc => ⟨fun hbad => ?_, fun hgood => ⟨fun hfull => ?_, fun hroom => ?_⟩⟩⟩, fun a b h ha hb => ⟨fun hab hbb har hbr => ?_,
      fun hbb hab => ?_⟩, fun ps h ha hb => ?_⟩, ?_⟩
  · rw [exec_of_runs h rfl, if_neg (by simp [hbusy]), if_neg (by simp [hro]), State.settle_ok]
  · rw [exec_of_runs h rfl, if_neg (by simp [hbusy]), if_pos hro, State.settle_fail]
  · rw [exec_of_runs h rfl, if_pos hbusy, State.settle_fail]
  · rw [exec_of_runs h rfl, if_pos (by simp [hkeeps]), State.settle_fail]
  · rw [exec_of_runs h rfl, if_neg (by simp [hkeeps]), hdesc]
    rfl
  · rw [exec_pgShare_of_desc h d hkeeps hdesc, if_pos (by simpa [or_assoc] using hbad), State.settle_fail]
  · rw [exec_pgShare_of_desc h d hkeeps hdesc, if_neg (by simpa [and_assoc] using hgood), if_pos (by simpa using hfull), State.settle_fail]
  · rw [exec_pgShare_of_desc h d hkeeps hdesc, if_neg (by simpa [and_assoc] using hgood), if_neg (by simpa using hroom), State.settle_ok]
  · rw [exec_pgAppend_user h ha hb, if_neg (by simp [hbb]), if_neg (by simp [har, hbr]), State.settle_ok]
    rfl
  · rw [exec_pgAppend_user h ha hb, if_pos ⟨Option.isSome_iff_ne_none.mpr hbb, hab⟩, State.settle_fail]
  · have hsrc : s.listOwner (.held ps) = none := rfl
    have hro : s.listReadOnly (.held ps) = true := rfl
    rw [exec_of_runs h rfl]
    simp [ha, hb, hsrc, hro]
  intro s c w x d i op f a b out old ps hi h
  refine ⟨fun hzero htier => ⟨fun hro => ?_, fun hro => ⟨fun hfull => ?_, fun hroom => ?_⟩⟩, fun hbad => ?_, sortPages_spec⟩
  · rw [exec_set_of_runs hi h, State.setBody, State.settle_afterPre_none (State.preSet_none hzero htier), if_pos hro, State.settle_fail]
  · rw [exec_set_of_runs hi h, State.setBody, State.settle_afterPre_none (State.preSet_none hzero htier), if_neg (by simpa using hro),
      if_pos (by simpa [and_assoc] using hfull), State.settle_fail]
  · rw [exec_set_of_runs hi h, State.setBody, State.settle_afterPre_none (State.preSet_none hzero htier), if_neg (by simpa using hro),
      if_neg (by simpa [and_assoc] using hroom), State.settle_ok]
  · rw [exec_set_of_runs hi h, State.setBody, State.settle_afterPre_some (State.preSet_bad hbad)]
end

section
/-! Hashes, the trie, embers and the codec instructions (R148 to R150, R258 to R263, R272, R273): obligations O20, O21 and O22. -/

namespace Sys2Proof.Machine

/-! ## An output that is written -/

theorem State.settle_writeOut_whole {t : State} {addr : Nat} {b : Bytes} (h : t.splitsAt addr b.length = false) (s : State) (c : Nat)
    (k : State → State) : s.settle c (t.writeOut addr b k) = (k (t.writeAt addr b)).advance c := by
  rw [State.writeOut, if_neg (by simp [h]), State.settle_ok]

theorem State.settle_writeOut_splits {t : State} {addr : Nat} {b : Bytes} (h : t.splitsAt addr b.length = true) (s : State) (c : Nat)
    (k : State → State) : s.settle c (t.writeOut addr b k) = t.failInstr c .badOperand := by
  rw [State.writeOut, if_pos h, State.settle_failAs]

theorem State.coherent_unready {s : State} {c op : Nat} {w : IWord} {ok : Bool} {reads writes : List (Nat × Nat)} {go : State → State}
    (h : ok = false) : s.coherent c op w ok reads writes go = go s :=
  if_neg (by simp [h])

/-! ## `SET_HASH` -/

/-- A descriptor that passes names no flag but the lowest, and an installed model. -/
theorem State.preHash_none {s : State} {d : Bytes} (h : s.preHash d = none) :
    le d 30 1 ≤ 1 ∧ zeroAt d 31 1 = true ∧ (s.modelOf (le d 24 2)).isSome = true := by
  rw [State.preHash] at h
  split at h
  · nomatch h
  · next hshape =>
    simp only [not_or, Bool.not_eq_true', Bool.not_eq_false, Option.isNone_iff_eq_none, not_lt] at hshape
    exact ⟨hshape.1, hshape.2.1, Option.isSome_iff_ne_none.mpr hshape.2.2⟩

theorem exec_setHash_of_runs {s : State} {c : Nat} {w : IWord} {x : Ctx} {d : Bytes} {tokens : List (BitVec 16)} (h : Runs s c 0x2F w x)
    (hlines : s.tracked (s.hashWrites d tokens) = []) (bad : Bool) :
    exec (.setHash c w d tokens bad) s = .next (s.settle c (s.setHashBody (.instr c) d tokens bad)) := by
  rw [exec_coherent_of_runs (i := .setHash c w d tokens bad) h (reads := []) hlines rfl]
  have hposted : w.posted = false := h.2.2
  simp [IWord.owner, hposted]

/-! ## `EMBER` -/

theorem exec_ember_of_runs {s : State} {c : Nat} {w : IWord} {x : Ctx} (h : Runs s c 0x50 w x) :
    exec (.ember c w) s = .next (s.settle c (afterPre (s.preEmber w) (match s.deedOperand w with
      | .error e => .fail e.1 e.2
      | .ok r => .ok (s.emberDeed r)))) :=
  congrArg Host.Outcome.next (State.runInstr_runs h _ _ _ _ _)

end Sys2Proof.Machine

open Sys2Proof Sys2Proof.Machine

/-- Settles O20: it holds. The chain that matches is folded node by node; a chain of at most one node folds to one update. -/
theorem prefixInstructions : Obligations.PrefixInstructions := by
  refine fun s c w x d tokens hashes => ⟨fun m h hlines hpre hm => ?_, fun code obs h hpre => ?_, State.preHash_none, fun h hzero => ?_,
    fun h hzero hchain => ?_, fun i n h hzero hchain => ?_, fun i n hup hlow hevict hroom => ?_, fun i n hevict hroom => ?_, fun hlow => ?_⟩
  · intro hs b
    refine ⟨?_, fun hsplit => ?_, fun hwhole hpub => ?_, fun l hwhole hpub hlist => ?_⟩
    · rw [exec_setHash_of_runs h hlines, State.setHashBody, State.settle_afterPre_none hpre, hm]
      simp
    · rw [exec_setHash_of_runs h hlines, State.setHashBody, State.settle_afterPre_none hpre, hm]
      simp only [Bool.false_eq_true, if_false]
      exact congrArg _ (State.settle_writeOut_splits hsplit _ _ _)
    · rw [exec_setHash_of_runs h hlines, State.setHashBody, State.settle_afterPre_none hpre, hm]
      simp only [Bool.false_eq_true, if_false]
      refine (congrArg _ (State.settle_writeOut_whole hwhole _ _ _)).trans ?_
      simp [hpub, bit, hs]
    · rw [exec_setHash_of_runs h hlines, State.setHashBody, State.settle_afterPre_none hpre, hm]
      simp only [Bool.false_eq_true, if_false]
      refine (congrArg _ (State.settle_writeOut_whole hwhole _ _ _)).trans ?_
      simp [hpub, bit, hlist, hs]
  · have hexec : exec (.setHash c w d tokens false) s = .next (s.runInstr c 0x2F w (.setHash c w d tokens false) (shapeOk 0x2F w) true false
        (fun x => s.setHashBody (w.owner c x.pc) d tokens false) (fun _ => s.preHash d)) :=
      congrArg Host.Outcome.next (State.coherent_unready (by rw [hpre]; rfl))
    rw [hexec, State.runInstr_runs h, State.setHashBody, State.settle_afterPre_some hpre]
  · rw [exec_of_runs h rfl, if_pos (by simp [hzero]), State.settle_fail]
  · rw [exec_of_runs h rfl, if_neg (by simp [hzero]), hchain]
    rfl
  · rw [exec_of_runs h rfl, if_neg (by simp [hzero]), hchain]
    simp
  · rw [exec, execTrieEviction, if_neg (by simp [hup, hlow]), hevict]
    simp [hroom]
  · rw [exec, execTrieEviction, hevict]
    simp [hroom]
  · rw [exec, execTrieEviction, if_pos (by simp [hlow])]

/-- Settles O21: it holds. -/
theorem embers : Obligations.Embers := by
  refine fun s c w x => ⟨fun l i h hpre hr => ?_, fun i h hpre hr => ?_, fun code obs h hpre => ?_, fun hflag => by simp [State.preEmber, hflag, badOp],
    fun hidle => ?_, fun hup hblock hbeat => ?_⟩
  · rw [exec_ember_of_runs h, State.settle_afterPre_none hpre, hr]
    rfl
  · rw [exec_ember_of_runs h, State.settle_afterPre_none hpre, hr]
    rfl
  · rw [exec_ember_of_runs h, State.settle_afterPre_some hpre]
  · have hexec : exec .autoEmber s = execAutoEmber s := rfl
    rw [hexec, execAutoEmber, if_pos (by simpa using hidle)]
  intro t
  have hexec : exec .autoEmber s = .next (if t.lore.embering then t.autoEmber (bits (t.regN Reg.EMBER_PER_BEAT) 3 0)
      else if t.kvLow ∧ t.evictable.isNone then (t.mapLore (fun l => { l with embering := true })).autoEmber (bits (t.regN Reg.EMBER_PER_BEAT) 3 0)
      else t) := by
    rw [show exec .autoEmber s = execAutoEmber s from rfl, execAutoEmber, if_neg (by simp [hup, hblock, hbeat])]
  refine ⟨fun hon hn hhigh => ?_, fun l r hon hn hfree hchoice hroom => ?_, fun hoff hidle => ?_⟩
  · rw [hexec, if_pos hon]
    obtain ⟨n, hn⟩ := Nat.exists_eq_add_of_le' hn
    rw [hn, State.autoEmber, if_pos hhigh]
  · rw [hexec, if_pos hon, hn, State.autoEmber, if_neg (by omega), hchoice]
    simp [hroom, State.autoEmber]
  · rw [hexec, if_neg (by simp [hoff]), if_neg]
    rintro ⟨hlow, hnone⟩
    rcases hidle with hidle | ⟨e, hidle⟩ <;> simp_all
end

section
/-! `PACK` and `UNPACK` (R149, R150, R295, R299 to R302): obligation O22. -/

namespace Sys2Proof.Machine

/-- An instruction that is not posted is its own owner. -/
theorem owner_of_runs {s : State} {c op : Nat} {w : IWord} {x : Ctx} (h : Runs s c op w x) : w.owner c x.pc = .instr c := by
  have hposted : w.posted = false := h.2.2
  simp [IWord.owner, hposted]

theorem exec_pack_of_runs {s : State} {c : Nat} {w : IWord} {x : Ctx} {d given : Bytes} {fail : Option Code} (h : Runs s c 0x58 w x)
    (hlines : s.tracked (s.codecReads w d ++ s.codecWrites w d) = []) :
    exec (.pack c w d given fail) s = .next (s.settle c (s.packBody c x.pc w d given fail)) :=
  exec_coherent_of_runs (i := .pack c w d given fail) h hlines rfl

theorem exec_unpack_of_runs {s : State} {c : Nat} {w : IWord} {x : Ctx} {d given : Bytes} {fail : Option Code} (h : Runs s c 0x59 w x)
    (hlines : s.tracked (s.codecReads w d ++ s.codecWrites w d) = []) :
    exec (.unpack c w d given fail) s = .next (s.settle c (s.unpackBody c x.pc x.entry.meadow w d given fail)) :=
  exec_coherent_of_runs (i := .unpack c w d given fail) h hlines rfl

@[simp] theorem codecFault_none : codecFault none = none := rfl

/-- A codec instruction whose run failed on the way ends with the code of that failure, whatever its mode. -/
theorem exec_codec_fails {s : State} {c op : Nat} {w : IWord} {x : Ctx} {d given : Bytes} {i : Instr} {pack : Bool} {code : Code}
    (h : Runs s c op w x) (hlines : s.tracked (s.codecReads w d ++ s.codecWrites w d) = []) (hpre : s.preCodec pack w d = none)
    (hcode : code = .checkFail ∨ code = .writeCollided)
    (hi : (i = .pack c w d given (some code) ∧ op = 0x58 ∧ pack = true) ∨ (i = .unpack c w d given (some code) ∧ op = 0x59 ∧ pack = false)) :
    exec i s = .next ((if code = .writeCollided then s.bump Reg.COMMONS_COLLISIONS else s).failInstr c code) := by
  have hfault : codecFault (some code) = some code := onlyCodes_of_mem (by simpa using hcode)
  rcases hi with ⟨rfl, rfl, rfl⟩ | ⟨rfl, rfl, rfl⟩
  · rw [exec_pack_of_runs h hlines, State.packBody, State.settle_afterPre_none hpre, State.fixedBody, hfault]
    split <;> exact congrArg _ (State.settle_failAs _ _ _ _ _)
  · rw [exec_unpack_of_runs h hlines, State.unpackBody, State.settle_afterPre_none hpre, State.fixedBody, hfault]
    split <;> exact congrArg _ (State.settle_failAs _ _ _ _ _)

end Sys2Proof.Machine

open Sys2Proof Sys2Proof.Machine

/-- Settles O22: it holds. Both instructions settle their body, whose checks come in the order of Table 5.15. -/
theorem codecInstructions : Obligations.CodecInstructions := by
  refine fun s c w x d given i op pack h hlines => ⟨fun code obs hpre hi => ?_, fun hpre => ⟨exec_codec_fails h hlines hpre (.inl rfl),
    exec_codec_fails h hlines hpre (.inr rfl), fun t hmode hop hpack ht => ?_, fun t hmode hop hpack ht => ?_, fun src t hmode hsrc => ⟨?_, ?_⟩,
    fun t hmode hsrc => ⟨?_, ?_⟩⟩, fun hmode h9 h10 hshape => ?_⟩
  · rcases hi with ⟨rfl, rfl, rfl⟩ | ⟨rfl, rfl, rfl⟩
    · rw [exec_pack_of_runs h hlines, State.packBody, State.settle_afterPre_some hpre]
    · rw [exec_unpack_of_runs h hlines, State.unpackBody, State.settle_afterPre_some hpre]
  · subst hop hpack
    rw [exec_pack_of_runs h hlines, State.packBody, State.settle_afterPre_none hpre, if_pos (by simp [hmode]), State.fixedBody]
    simp [codecFault, onlyCodes, fixedRatio, ht]
  · subst hop hpack
    rw [exec_unpack_of_runs h hlines, State.unpackBody, State.settle_afterPre_none hpre, if_pos (by simp [hmode]), State.fixedBody]
    simp [codecFault, onlyCodes, ht]
  · rintro out raw rfl rfl hpacked hwhole
    rw [exec_pack_of_runs h hlines, State.packBody, State.settle_afterPre_none hpre, if_neg (by simp [hmode]), hsrc]
    simp only [codecFault_none, hpacked]
    rw [State.settle_writeOut_whole hwhole, owner_of_runs h]
  · rintro rfl rfl
    refine ⟨fun code hbad => ?_, fun out hgood => ?_⟩
    · rw [exec_unpack_of_runs h hlines, State.unpackBody, State.settle_afterPre_none hpre, if_neg (by simp [hmode]), hsrc]
      simp only [codecFault_none, hbad]
      rw [State.settle_failAs]
    · intro u hwhole
      rw [exec_unpack_of_runs h hlines, State.unpackBody, State.settle_afterPre_none hpre, if_neg (by simp [hmode]), hsrc]
      simp only [codecFault_none, hgood]
      rw [State.settle_writeOut_whole hwhole, owner_of_runs h]
  · rintro rfl rfl
    rw [exec_pack_of_runs h hlines, State.packBody, State.settle_afterPre_none hpre, if_neg (by simp [hmode]), hsrc]
    simp only [codecFault_none]
    rw [State.settle_failAs]
  · rintro rfl rfl
    rw [exec_unpack_of_runs h hlines, State.unpackBody, State.settle_afterPre_none hpre, if_neg (by simp [hmode]), hsrc]
    simp only [codecFault_none]
    rw [State.settle_failAs]
  · rw [State.preCodec, if_neg (by simp [hmode]), if_neg (by simp [h9, h10, hshape])]
    simp
end

section
/-! The deed instructions (R142, R195, R203, R205, Table 5.11): obligation O24. -/

namespace Sys2Proof.Machine

section
variable {s : State} {c : Nat} {w : IWord} {x : Ctx}

theorem exec_moveState_of_runs (h : Runs s c 0x38 w x) : exec (.moveState c w) s = .next (s.settle c (s.bodyMove c w x)) :=
  congrArg Host.Outcome.next (State.runInstr_runs h _ _ _ _ _)

theorem exec_deedQuery_of_runs (h : Runs s c 0x39 w x) : exec (.deedQuery c w) s = .next (s.settle c (s.bodyQuery c w)) :=
  congrArg Host.Outcome.next (State.runInstr_runs h _ _ _ _ _)

theorem exec_deedDecree_of_runs (h : Runs s c 0x3A w x) (d : Bytes) : exec (.deedDecree c w d) s = .next (s.settle c (s.bodyDecree w d)) :=
  congrArg Host.Outcome.next (State.runInstr_runs h _ _ _ _ _)

theorem exec_deedRelease_of_runs (h : Runs s c 0x3B w x) : exec (.deedRelease c w) s = .next (s.settle c (s.bodyRelease w)) :=
  congrArg Host.Outcome.next (State.runInstr_runs h _ _ _ _ _)

/-- The decree of an orphaned deed other than deed 0 needs a higher epoch and, of a region, one that fits. -/
theorem State.preDecree_orphaned {l i : Nat} {d : Bytes} (hr : s.deedOperand w = .ok (.own l i)) (hi : i ≠ 0)
    (hstate : (s.deed (.own l i)).state = .orphaned) (hregion : (s.deed (.own l i)).region = false)
    (hnode : NodeId.valid (BitVec.ofNat 64 (le d 0 8)) = true) (hzero : zeroAt d 12 4 = true) (hepoch : (s.deed (.own l i)).epoch < le d 8 4) :
    s.preDecree w d = none := by
  obtain ⟨j, rfl⟩ := Nat.exists_eq_succ_of_ne_zero hi
  rw [State.preDecree, hr]
  simp only
  rw [if_neg (by simp [hnode, hzero]), if_neg (by simp [hstate]), if_neg (by omega), if_neg (by simp [hregion])]

end

end Sys2Proof.Machine

open Sys2Proof Sys2Proof.Machine

/-- Settles O24: it holds. -/
theorem deedInstructions : Obligations.DeedInstructions := by
  refine fun s c w x d r hr => ⟨fun t id n h hpre hmove hgo => ?_, fun code obs h hpre => ?_, fun h hvalid hme => ?_, fun h hvalid hother => ?_,
    fun l i h hown hi hstate hregion hme hvalid hzero hepoch => ?_, fun h hvalid hzero hregion hstate => ?_, fun l i h hown hpre => ?_,
    fun code obs h hpre => ?_⟩
  · intro p k b u
    rw [exec_moveState_of_runs h, State.bodyMove, State.settle_afterPre_none hpre, hmove]
    simp only [hgo, owner_of_runs h]
    rfl
  · rw [exec_moveState_of_runs h, State.bodyMove, State.settle_afterPre_some hpre]
  · rw [exec_deedQuery_of_runs h, State.bodyQuery, hr]
    simp only [hvalid, Bool.not_true, Bool.false_eq_true, if_false, if_pos hme]
    exact congrArg _ (State.settle_ok _ _ _)
  · rw [exec_deedQuery_of_runs h, State.bodyQuery, hr]
    simp only [hvalid, hother, Bool.not_true, Bool.false_eq_true, if_false]
    rfl
  · subst hown
    have hpre := State.preDecree_orphaned hr hi hstate hregion (hme ▸ hvalid) hzero hepoch
    obtain ⟨j, rfl⟩ := Nat.exists_eq_succ_of_ne_zero hi
    rw [exec_deedDecree_of_runs h, State.bodyDecree, State.settle_afterPre_none hpre, hr]
    simp only [hme, if_true]
    exact congrArg _ (State.settle_ok _ _ _)
  · rw [exec_deedDecree_of_runs h, State.bodyDecree, State.settle_afterPre_some]
    rw [State.preDecree, hr]
    simp only
    rw [if_neg (by simp [hvalid, hzero]), if_pos hstate, illegal]
  · subst hown
    rw [exec_deedRelease_of_runs h, State.bodyRelease, State.settle_afterPre_none hpre, hr]
    exact congrArg _ (State.settle_ok _ _ _)
  · rw [exec_deedRelease_of_runs h, State.bodyRelease, State.settle_afterPre_some hpre]
end

section
/-! The transfer of deeds (R196 to R202, R206): what a delivered frame does, an open taken deed by deed, and obligation O25. -/

namespace Sys2Proof.Machine

/-- A frame that is delivered has its consumer's effect, and acknowledges what it says. -/
theorem State.receive_delivered {s t : State} {f : Frame} {kind : FrameKind} (h : Delivered s f kind t) (effect : State → State) :
    s.receive f kind effect = (effect t).acked f := by
  obtain ⟨harrives, hplaced⟩ := h
  rw [State.receive, harrives]
  cases htarget : targetOf f kind with
  | none => simp only [State.routed, htarget]
  | some n => simp only [State.routed, htarget, hplaced n htarget]

theorem exec_delivered {i : Instr} {s t : State} {f : Frame} {kind : FrameKind} {effect : State → State} (h : Delivered s f kind t)
    (hexec : exec i s = .next (s.receive f kind effect)) : exec i s = .next ((effect t).acked f) := by
  rw [hexec, State.receive_delivered h]

/-! ## Deeds that enter `INCOMING` -/

@[simp] theorem State.deed_setDeed_own (s : State) (l i : Nat) (d : Deed) : (s.setDeed (.own l i) d).deed (.own l i) = d :=
  Tbl.get_set_self (fun _ => ({} : Deed)) _ _ _

/-- A keeper's record other than `NONE` and `REMOTE` takes no arriving deed. -/
theorem State.takeDeeds_occupied {s : State} {src : NodeId} {d : OpenDeed} (hkeeper : d.key.keeper = s.me) (hregion : d.key.region = false)
    (hnone : (s.deed (.own d.key.lantern d.key.deed)).state ≠ .none) (hremote : (s.deed (.own d.key.lantern d.key.deed)).state ≠ .remote)
    (ds : List OpenDeed) : s.takeDeeds src none (d :: ds) = none := by
  have hplace : s.placeDeed none d.key = none := by simp [State.placeDeed, hkeeper, hregion, DState.vacant, hnone, hremote]
  rw [State.takeDeeds, hplace]

/-- A deed of an arriving lantern enters `INCOMING` in the table of the lantern's reserved entry. -/
theorem State.takeDeeds_lantern {s v : State} {src : NodeId} {k : Nat} {d : OpenDeed} {ps : List Page} (hpages : s.takeRatios d.pages = some (ps, v))
    (ds : List OpenDeed) : ∃ w : State, (w.deed (.own k d.key.deed)).state = .incoming ∧ (w.deed (.own k d.key.deed)).epoch = d.epoch ∧
      s.takeDeeds src (some k) (d :: ds) = (w.takeDeeds src (some k) ds).map (fun q => (.own k d.key.deed :: q.1, q.2)) := by
  have hplace : s.placeDeed (some k) d.key = some (.own k d.key.deed) := rfl
  rw [State.takeDeeds, hplace]
  simp only [hpages]
  exact ⟨_, by rw [State.deed_setDeed_own], by rw [State.deed_setDeed_own], rfl⟩

/-! ## The timers of a move at its source -/

section
variable {s : State} {mv : Nat} {m : MoveOut} (hm : s.moveOut mv = some m)
include hm

theorem exec_receiptDeadlineExpiry : exec (.receiptDeadlineExpiry mv) s = .next (if m.phase = 3 ∧ m.queried = 0 ∧ m.deadline < s.now then
    let m' : MoveOut := { m with queried := s.now, gap := bits (s.regN Reg.DEED_QUERY_GAP) 15 0, tmo := bits (s.regN Reg.DEED_TIMEOUT) 23 0 }
    (s.setMove m').queryMove m' else s) := by
  rw [show exec (.receiptDeadlineExpiry mv) s = execReceiptDeadlineExpiry mv s from rfl, execReceiptDeadlineExpiry, hm]

theorem exec_deedQueryRepeat : exec (.deedQueryRepeat mv) s = .next (if m.phase = 3 ∧ m.queried ≠ 0 ∧ m.queried + m.gap ≤ s.now then
    (s.setMove { m with queried := s.now }).queryMove { m with queried := s.now } else s) := by
  rw [show exec (.deedQueryRepeat mv) s = execDeedQueryRepeat mv s from rfl, execDeedQueryRepeat, hm]

theorem exec_deedTimeoutOrphan : exec (.deedTimeoutOrphan mv) s = .next (
    if m.phase = 3 ∧ m.deadline + (if m.queried = 0 then bits (s.regN Reg.DEED_TIMEOUT) 23 0 else m.tmo) < s.now then s.moveOrphaned m else s) := by
  rw [show exec (.deedTimeoutOrphan mv) s = execDeedTimeoutOrphan mv s from rfl, execDeedTimeoutOrphan, hm]

end

end Sys2Proof.Machine

open Sys2Proof Sys2Proof.Machine

/-- Settles O25: it holds. -/
theorem moveTransfer : Obligations.MoveTransfer := by
  refine ⟨fun s t f o data ok m => ⟨fun u l d ds => ⟨?_, ?_⟩, fun h => ?_, fun h hm => ?_, fun h hm => ?_, fun h hm hseal hgone => ?_, fun mv hm => ?_⟩,
    fun s t f r n m mv => ⟨fun h hm => ?_, fun h hk hm hsrc => ?_, fun cp h hk hm hcp hsrc => ?_, fun ring slot hup hm => ?_, fun hm hphase => ?_, fun h hm => ?_⟩⟩
  · rintro rfl hkeeper hregion hnone hremote
    exact State.takeDeeds_occupied hkeeper hregion hnone hremote ds
  · rintro k rfl ps v hpages
    exact State.takeDeeds_lantern hpages ds
  · intro u
    have hexec := exec_delivered (i := .moveOpenReceive f o) h rfl
    refine ⟨fun d r hdeeds hfind hhome hepoch => ?_, fun d refs v hdeeds hfind hlan hroom htake => ?_, fun d hdeeds hfind hlan hlack => ?_⟩
    · rw [hexec]
      simp [hdeeds, u, hfind, hhome, hepoch]
    · have hlack : ¬ 256 ≤ t.lore.movesIn.length := Nat.not_le.mpr hroom
      rw [hexec]
      simp [hdeeds, u, hfind, hlan, hlack, htake, State.takeRatios]
    · rw [hexec]
      rcases hlack with (hlack : 256 ≤ t.lore.movesIn.length) | hlack <;> simp [hdeeds, u, hfind, hlan, hlack]
  · intro pages m' u
    have hexec := exec_delivered (i := .moveDataReceive f data ok) h rfl
    rw [hexec]
    simp only [hm]
    refine ⟨fun hseal => ?_, fun hseal hgot hbad hok => ?_, fun hseal hfault => ?_⟩
    · exact congrArg (fun v => Host.Outcome.next (State.acked v f)) (if_pos (by simp [hseal]))
    · exact congrArg (fun v => Host.Outcome.next (State.acked v f)) ((if_neg (by simp [hseal])).trans (if_neg (by simp [hgot, hbad, hok])))
    · exact congrArg (fun v => Host.Outcome.next (State.acked v f)) ((if_neg (by simp [hseal])).trans (if_pos (by simpa using hfault)))
  · rw [exec_delivered (i := .moveAbortReceive f) h rfl, hm]
  · rw [exec_delivered (i := .moveDataReceive f data ok) h rfl, hm]
    simp only
    rw [if_pos (by simpa [hseal] using hgone)]
  · constructor <;> intro hlate <;> rw [show exec (.incomingAbandon mv) s = execIncomingAbandon mv s from rfl, execIncomingAbandon, hm]
    · simp only [if_pos hlate]
    · simp only [if_neg (show ¬ m.till < s.now by omega)]
  · rw [exec_delivered (i := .moveReceiptReceive f r) h rfl, hm]
  · rw [exec_delivered (i := .nackReceive f n) h rfl]
    rcases hk with hk | hk | hk <;> simp only [hk, hm, hsrc, if_true]
  · rw [exec_delivered (i := .nackReceive f n) h rfl]
    rcases hk with hk | hk | hk <;> simp only [hk, hm, hcp, hsrc, if_true]
  · rw [show exec (.moveKill ring slot) s = execMoveKill ring slot s from rfl, execMoveKill, if_neg (by simp [hup]), hm]
  · refine ⟨fun hfirst hlate => ?_, fun hearly => ?_, fun hasked hdue => ?_, fun hasked hearly => ?_, fun hasked hlate => ?_, fun hasked hearly => ?_⟩
    · rw [exec_receiptDeadlineExpiry hm, if_pos ⟨hphase, hfirst, hlate⟩]
    · rw [exec_receiptDeadlineExpiry hm, if_neg (by omega)]
    · rw [exec_deedQueryRepeat hm, if_pos ⟨hphase, hasked, hdue⟩]
    · rw [exec_deedQueryRepeat hm, if_neg (by omega)]
    · rw [exec_deedTimeoutOrphan hm, if_neg hasked, if_pos ⟨hphase, hlate⟩]
    · rw [exec_deedTimeoutOrphan hm, if_neg hasked, if_neg (by omega)]
  · rw [exec_delivered (i := .moveReceiptReceive f r) h rfl, hm]
end

section
/-! Deed queries, answers, notices and decrees (R193, R198, R201 to R205, R207): obligation O26. -/

namespace Sys2Proof.Machine

/-! ## A message about a deed held here -/

section
variable {s : State} {r : DRef} {k : DeedKey} (src : NodeId) {e : Nat}

theorem State.deedMessage_of_found (hfind : s.findDeed k = some r) (there : Bool) : s.deedMessage k src e there =
    if (s.deed r).state ≠ .home then s else if there then s.settle205 r src e
    else if (s.deed r).epoch < e then s.supersede r src e false else s := by
  rw [State.deedMessage, hfind]

theorem State.settle205_lower (hhome : (s.deed r).state = .home) (he : e < (s.deed r).epoch) :
    s.settle205 r src e = s.raise Ev.deedConflict src (s.keyOf r).lantern (s.keyOf r).deed := by
  rw [State.settle205, if_neg (not_not_intro hhome), if_pos he]

theorem State.settle205_higher (hhome : (s.deed r).state = .home) (he : (s.deed r).epoch < e) :
    s.settle205 r src e = s.supersede r src e true := by
  rw [State.settle205, if_neg (not_not_intro hhome), if_neg (Nat.lt_asymm he), if_pos he]

theorem State.settle205_equal (hhome : (s.deed r).state = .home) (he : e = (s.deed r).epoch) :
    s.settle205 r src e = (s.setDeed r { s.deed r with state := .orphaned }).raise Ev.deedConflict src (s.keyOf r).lantern (s.keyOf r).deed := by
  rw [State.settle205, if_neg (not_not_intro hhome), if_neg (by omega), if_neg (by omega)]

end

/-! ## A notice about a deed held here -/

section
variable {s : State} {r : DRef} {n : DeedNotice} (hfind : s.findDeed n.key = some r) (src : NodeId) (ember : Bool)
include hfind

theorem State.notice_remote {l i : Nat} (hr : r = .own l i) (hstate : (s.deed r).state = .remote) : s.notice n src ember =
    if n.epoch ≤ (s.deed r).epoch then s else if ember then s.toEmber l i n.epoch
    else s.setDeed r { s.deed r with home := n.home, epoch := n.epoch } := by
  subst hr
  rw [State.notice, hfind]
  simp only [hstate]

theorem State.notice_home (hstate : (s.deed r).state = .home) : s.notice n src false =
    if n.epoch ≤ (s.deed r).epoch ∧ (s.deed r).keeper = s.me then s else s.settle205 r src n.epoch := by
  rw [State.notice, hfind]
  simp only [hstate, Bool.false_eq_true, if_false]

theorem State.notice_else (hhome : (s.deed r).state ≠ .home) (hremote : (s.deed r).state ≠ .remote) : s.notice n src ember = s := by
  rw [State.notice, hfind]
  simp only
  split
  · contradiction
  · contradiction
  · rfl

end

/-! ## Answers and decrees -/

theorem State.answerIn_of_named {m : MoveIn} {a : DeedAnswer} {d : OpenDeed} (hd : m.op.deeds.find? (fun d => d.key == a.key) = some d) (s : State) :
    s.answerIn m a = if a.code = 2 ∧ a.epoch = d.epoch then s else s.abandon m := by
  rw [State.answerIn, hd]
  rfl

theorem State.endDecrees_decrees (s : State) (n : NodeId) : (s.endDecrees n).lore.decrees = s.lore.decrees.filter (fun d => d.dst != n) := by
  have hraise : ∀ (ds : List Decree) (t : State),
      (ds.foldl (fun (s : State) d => s.raise Ev.deedConflict n d.key.lantern d.key.deed) t).lore = t.lore := by
    intro ds
    induction ds with
    | nil => exact fun t => rfl
    | cons d ds ih => exact fun t => (ih _).trans (State.raise_lore _ _ _ _ _ _ _)
  rw [State.endDecrees]
  simp only [hraise, State.mapLore_lore]

end Sys2Proof.Machine

open Sys2Proof Sys2Proof.Machine

/-- Settles O26: it holds. -/
theorem deedMessages : Obligations.DeedMessages := by
  refine ⟨fun s t f q a => ⟨fun h => exec_delivered (i := .deedQueryReceive f q) h rfl, fun u r k n e hfind => ⟨fun hstate there => ?_,
      fun hhome => ⟨?_, fun he => ?_, fun he => ?_, State.settle205_lower n hhome, State.settle205_higher n hhome, State.settle205_equal n hhome⟩⟩,
      fun m h hm => ?_, fun h hm => ?_, fun c o ho => ?_⟩,
    fun s t f n d a id k => ⟨fun h => ⟨exec_delivered (i := .homeNoticeReceive f n) h rfl, exec_delivered (i := .emberNoticeReceive f n) h rfl⟩,
      fun u r src hfind => ⟨fun l i hr hstate => ⟨fun b he => ?_, fun he => ⟨?_, ?_⟩⟩, fun hhome => ⟨fun he hkeeper => ?_, fun hother => ?_⟩,
        fun hhome hremote b => State.notice_else hfind src b hhome hremote⟩, fun h => ⟨fun r hr hhome he => ?_, fun r hr hother => ?_, fun hr => ?_⟩,
      fun hk => ?_, State.endDecrees_decrees s, fun h hk hlan => ?_⟩⟩
  · rw [State.deedMessage_of_found n hfind, if_pos hstate]
  · rw [State.deedMessage_of_found n hfind, if_neg (not_not_intro hhome), if_pos rfl]
  · rw [State.deedMessage_of_found n hfind, if_neg (not_not_intro hhome), if_neg (by simp), if_neg (by omega)]
  · rw [State.deedMessage_of_found n hfind, if_neg (not_not_intro hhome), if_neg (by simp), if_pos he]
  · intro e1
    have hexec := exec_delivered (i := .deedAnswerReceive f a) h rfl
    simp only [hm] at hexec
    refine ⟨fun cb hv => ?_, fun hv => ?_, fun hv => ?_, fun hv => ?_⟩ <;> simp only [e1] at hv <;> rw [hexec] <;> simp only [hv]
  · intro t'
    have hexec := exec_delivered (i := .deedAnswerReceive f a) h rfl
    simp only [hm] at hexec
    refine ⟨fun o ho => ?_, fun ho => ⟨fun m d hm' hd => ⟨fun hstill => ?_, fun hgone => ?_⟩, fun hm' => ?_⟩⟩ <;> rw [hexec]
    · rw [ho]
    · simp only [t'] at ho hm'
      simp only [ho, hm', State.answerIn_of_named hd, if_pos hstill, t']
    · simp only [t'] at ho hm'
      simp only [ho, hm', State.answerIn_of_named hd, if_neg hgone, t']
    · rw [ho, hm']
  · constructor <;> intro htime <;> rw [show exec (.deedQueryTimeout c) s = execDeedQueryTimeout c s from rfl, execDeedQueryTimeout, ho]
    · simp only [if_pos htime]
    · simp only [if_neg (Nat.not_lt.mpr htime)]
  · rw [State.notice_remote hfind src b hr hstate, if_pos he]
  · rw [State.notice_remote hfind src false hr hstate, if_neg (by omega), if_neg (by simp)]
  · rw [State.notice_remote hfind src true hr hstate, if_neg (by omega), if_pos rfl]
  · rw [State.notice_home hfind src hhome, if_pos ⟨he, hkeeper⟩]
  · rw [State.notice_home hfind src hhome, if_neg]
    rintro ⟨he, hkeeper⟩
    rcases hother with hlt | hne
    · omega
    · exact hne hkeeper
  · rw [exec_delivered (i := .decreeNoticeReceive f d) h rfl]
    simp only [hr]
    rw [if_pos ⟨hhome, he⟩]
    rcases r with ⟨l, _ | i⟩ | i | i <;> rfl
  · rw [exec_delivered (i := .decreeNoticeReceive f d) h rfl]
    simp only [hr]
    rw [if_neg (by rintro ⟨hhome, he⟩; rcases hother with hne | hle; exacts [hne hhome, by omega])]
    rcases r with ⟨l, _ | i⟩ | i | i <;> rfl
  · rw [exec_delivered (i := .decreeNoticeReceive f d) h rfl, hr]
  · constructor <;> intro htime <;> rw [show exec (.decreeNoticeRepeat id) s = execDecreeNoticeRepeat id s from rfl, execDecreeNoticeRepeat, hk]
    · simp only [if_pos htime]
    · simp only [if_neg (Nat.not_le.mpr htime)]
  · rw [exec_delivered (i := .decreeAckReceive f a) h rfl, hk]
    simp only [hlan, if_true]
end

section
/-! The decision of the admission engine (R57 to R63, R401) and what becomes of a promise (R59, R61, R80, R81, R84): obligations O27
and O28. -/

namespace Sys2Proof.Machine

/-- The refusal terms that admission names, in order (Table 3.5). -/
def namedTerms : List Nat := [0x11, 0x12, 0x13, 0x14, 0x15, 0x16]

/-- The named term of one item that fails. -/
def Item.named (i : Item) : Option (Nat × Nat) :=
  namedTerms.findSome? (fun t => if i.fails.contains t then some (t, i.index) else none)

theorem Item.named_none {i : Item} (h : ∀ t ∈ i.fails, t < 0x11 ∨ 0x16 < t) : i.named = none := by
  rw [Item.named, List.findSome?_eq_none_iff]
  intro t ht
  have hrange : 0x11 ≤ t ∧ t ≤ 0x16 := by fin_cases ht <;> decide
  rw [if_neg]
  intro hfail
  have := h t (by simpa using hfail)
  omega

theorem Item.named_some {i : Item} {t : Nat} (ht : t ∈ namedTerms) (hfail : t ∈ i.fails) (hlow : ∀ u ∈ i.fails, u < t → u < 0x11) :
    i.named = some (t, i.index) := by
  have hnot : ∀ u, 0x11 ≤ u → u < t → u ∉ i.fails := fun u hu hut hmem => absurd (hlow u hmem hut) (Nat.not_lt.mpr hu)
  simp only [namedTerms, List.mem_cons, List.not_mem_nil, or_false] at ht
  rcases ht with rfl | rfl | rfl | rfl | rfl | rfl <;> simp [Item.named, namedTerms, hfail, hnot]

/-- One promised item that has a share of its class and time is weighed by its named terms, then by the room of its table. -/
theorem State.weigh_of_timely {s : State} {deadline : Nat} {i : Item} (hd : deadline ≠ noDeadline) (hnormal : s.clk.timing ≠ .derated)
    (hbeacon : s.holdoverOver = false ∨ i.hop = false) (hshut : i.shut = false) (htime : ¬ deadline < s.clk.time)
    (hbound : ¬ s.deadlineBeat deadline < s.now + (i.terms.map (·.2)).sum) : s.weigh deadline [i] =
      match i.named with
      | some (t, j) => .refuse .refusedBound t j (i.terms.map (·.2)).sum
      | none => if i.noSpace then .refuse .noSpace 0 i.index (i.terms.map (·.2)).sum else .accept (i.terms.map (·.2)).sum := by
  have hnamed : [0x11, 0x12, 0x13, 0x14, 0x15, 0x16].findSome? (fun t =>
      (([i].find? (fun i => i.fails.contains t)).map (·.index)).map (fun j => (t, j))) = i.named := by
    refine congrArg (fun f => List.findSome? f namedTerms) (funext fun t => ?_)
    by_cases hfail : i.fails.contains t = true
    · rw [List.find?_cons_of_pos (p := fun i : Item => i.fails.contains t) hfail, if_pos hfail]
      rfl
    · rw [List.find?_cons_of_neg (p := fun i : Item => i.fails.contains t) hfail, if_neg hfail]
      rfl
  rw [State.weigh, if_neg hnormal]
  have hopen : ¬ (s.holdoverOver = true ∧ i.hop = true) := by
    rintro ⟨hover, hhop⟩
    simp [hover, hhop] at hbeacon
  simp only [List.isEmpty_cons, List.any_cons, List.any_nil, Bool.or_false, List.map_cons, List.map_nil, List.sum_cons, List.sum_nil,
    Nat.add_zero, hd, hshut, Item.n, hnamed, hopen, htime, hbound, ne_eq, not_false_eq_true, true_and, Bool.false_eq_true, or_self, if_true, if_false]
  cases i.named with
  | some e => rfl
  | none => cases hspace : i.noSpace <;> simp [List.find?, hspace]

/-! ## A promise -/

theorem State.keepPromise_of_promise {s : State} {id : Nat} {p : Promise} (hp : s.promise id = some p) (b : Nat) (remote : Bool) :
    s.keepPromise (some id) b remote =
      let code : Code := if p.d < max p.last b then .overdue else .ok
      let u := if p.k + p.n < b then s.writeBreach p code (b - p.k) else s
      if 1 < p.left then (u.updPromise (some p.id) (fun q => { q with left := q.left - 1, remoteLeft := q.remoteLeft - b2n remote, last := max p.last b }), .ok)
      else (u.dropPromise p.id, code) := by
  rw [State.keepPromise, Option.bind_some, hp]

theorem State.failPromise_of_promise {s : State} {id : Nat} {p : Promise} (hp : s.promise id = some p) (code : Code) (excused : Bool) :
    s.failPromise (some id) code excused = (s.breachOf p code excused).dropPromise p.id := by
  rw [State.failPromise, Option.bind_some, hp]

theorem Promise.missed_iff {p : Promise} {now : Nat} : p.missed now = true ↔ p.k + p.n < now ∧ p.remoteLeft < p.left := by
  simp [Promise.missed]

theorem Promise.not_missed {p : Promise} {now : Nat} (h : now ≤ p.k + p.n ∨ p.left ≤ p.remoteLeft) : ¬ p.missed now = true := by
  rw [Promise.missed_iff]
  omega

theorem exec_promisedBeatExpiry {s : State} {id : Nat} {p : Promise} (hp : s.promise id = some p) : exec (.promisedBeatExpiry id) s =
    .next (if !s.cdUp ∨ !p.missed s.now then s
      else if (s.writeBreach p (p.known s.now) (s.now - p.k)).promiseHeld p then s.writeBreach p (p.known s.now) (s.now - p.k)
      else (s.writeBreach p (p.known s.now) (s.now - p.k)).dropPromise p.id) := by
  rw [show exec (.promisedBeatExpiry id) s = execPromisedBeatExpiry id s from rfl, execPromisedBeatExpiry, hp]

end Sys2Proof.Machine

open Sys2Proof Sys2Proof.Machine

/-- Settles O27: it holds. -/
theorem admissionDecision : Obligations.AdmissionDecision := by
  intro s deadline i hd n shown late
  refine ⟨fun hderated => ?_, fun hnormal => ⟨fun hover hhop => ?_, fun hbeacon => ⟨fun hlate => ?_, fun htimely => ?_⟩⟩⟩
  · rw [State.weigh, if_pos hderated]
    rfl
  · rw [State.weigh, if_neg hnormal]
    simp [hd, hover, hhop, shown, n, Item.n]
  · have hopen : ¬ (s.holdoverOver = true ∧ i.hop = true) := by
      rintro ⟨hover, hhop⟩
      simp [hover, hhop] at hbeacon
    rw [State.weigh, if_neg hnormal]
    simp only [List.isEmpty_cons, List.any_cons, List.any_nil, Bool.or_false, List.map_cons, List.map_nil, List.sum_cons, List.sum_nil,
      Nat.add_zero, hd, Item.n, hopen, ne_eq, not_false_eq_true, true_and, Bool.false_eq_true, if_false]
    exact if_pos hlate
  · simp only [late, not_or] at htimely
    obtain ⟨hshut, htime, hbound⟩ := htimely
    have hweigh := State.weigh_of_timely hd hnormal hbeacon (by simpa using hshut) htime hbound
    refine ⟨fun t ht hfail hlow => ?_, fun hfails hspace => ?_, fun hfails hspace => ?_⟩
    · rw [hweigh, Item.named_some ht hfail hlow]
    · rw [hweigh, Item.named_none hfails]
      simp [hspace, n]
    · rw [hweigh, Item.named_none hfails]
      simp [hspace, n]

/-- Settles O28: it holds. -/
theorem promiseKeptOrBreached : Obligations.PromiseKeptOrBreached := by
  intro s id b p remote hp last code u more
  have hkeep := State.keepPromise_of_promise hp b remote
  refine ⟨fun hleft hb => ?_, fun hleft hb => ?_, fun hleft hb => ?_, fun hleft hb => ?_, fun code => ?_, ⟨fun code hlate hlocal => ?_,
    fun code hopen => ?_, fun hup hlate hlocal => ⟨fun hheld => ?_, fun hheld => ?_⟩⟩, fun hopen => ?_, fun hbreached code n => ?_⟩
  · simp only [hkeep, if_neg (Nat.not_lt.mpr hb), if_neg (Nat.not_lt.mpr hleft)]
    rfl
  · simp only [hkeep, if_pos hb, if_neg (Nat.not_lt.mpr hleft)]
    rfl
  · simp only [hkeep, if_neg (Nat.not_lt.mpr hb), if_pos hleft]
    rfl
  · simp only [hkeep, if_pos hb, if_pos hleft]
    rfl
  · rw [State.failPromise_of_promise hp, State.breachOf, if_pos (show (!false) = true from rfl)]
  · rw [State.failPromise_of_promise hp, State.breachOf, if_neg (by simp), if_pos (Promise.missed_iff.mpr ⟨hlate, hlocal⟩)]
    rfl
  · rw [State.failPromise_of_promise hp, State.breachOf, if_neg (by simp), if_neg (Promise.not_missed hopen)]
  · rw [exec_promisedBeatExpiry hp, if_neg (by simp [hup, Promise.missed_iff.mpr ⟨hlate, hlocal⟩]), Promise.known, if_pos hheld]
  · rw [exec_promisedBeatExpiry hp, if_neg (by simp [hup, Promise.missed_iff.mpr ⟨hlate, hlocal⟩]), Promise.known, if_neg (ne_true_of_eq_false hheld)]
  · rw [exec_promisedBeatExpiry hp, if_pos (.inr (by simpa using Promise.not_missed hopen))]
  · rw [State.writeBreach, if_pos hbreached]
end

section
/-! Steps of a meadow (R34, R50, R53, R108, R144, R145, R178, R427, R549): obligation O29. -/

namespace Sys2Proof.Machine

@[simp] theorem State.mdw_setMdw_self (s : State) (m : Nat) (x : Meadow) : (s.setMdw m x).mdw m = x :=
  Tbl.get_set_self (fun _ => ({} : Meadow)) _ _ _

/-! ## `STEP_RUN` -/

theorem exec_stepRun_of_runs {s : State} {c : Nat} {w : IWord} {x : Ctx} (h : Runs s c 0x40 w x) :
    exec (.stepRun c w) s = .next (s.settle c (s.bodyStepRun c w x)) :=
  congrArg Host.Outcome.next (State.runInstr_runs h _ _ _ _ _)

/-- An admitted step stands last in its meadow, scheduled behind the one before (R50, R549). -/
theorem State.scheduleStep_spec (t : State) (m : Nat) (h : Hdr) (o : Owner) (id : Option Nat) (index : Nat) (rek : Option (Nat × Nat × Nat × Nat)) :
    let u := (t.scheduleStep m h o id index rek).1
    ∃ st, (u.mdw m).steps = (t.mdw m).steps ++ [st] ∧ st.started = false ∧ st.due = t.now + t.stepW m + 1 + h.pLen ∧
      st.commit = st.start + h.pLen ∧ st.promise = id ∧ (u.mdw m).program = some h ∧ ((t.mdw m).steps = [] → st.start = t.now + 1) ∧
      (∀ l, (t.mdw m).steps.getLast? = some l → st.start = max (t.now + (l.due - t.now) + 1) (l.commit + 1)) := by
  intro u
  have hmdw : u.mdw m = _ := State.mdw_setMdw_self t m _
  rw [hmdw]
  refine ⟨_, rfl, rfl, rfl, rfl, rfl, rfl, fun hnil => ?_, fun l hl => ?_⟩
  · simp [hnil, State.stepW]
  · simp [hl, State.stepW]

/-! ## The start -/

theorem State.changeDue_iff (s : State) (m : Nat) : s.changeDue m = false ↔
    (∀ k ∈ (s.field m).changes, ∀ b, k.commitAt = some b → s.now < b) ∧ (∀ a ∈ (s.field m).announced, ∀ b, a.commitAt = some b → s.now < b) := by
  have hopt : ∀ o : Option Nat, (match o with | none => false | some b => decide (b ≤ s.now)) = false ↔ ∀ b, o = some b → s.now < b := by
    rintro (_ | b) <;> simp
  simp only [State.changeDue, Bool.or_eq_false_iff, List.any_eq_false, Bool.not_eq_true]
  exact and_congr (forall₂_congr fun k _ => hopt _) (forall₂_congr fun a _ => hopt _)

theorem State.mayStart_iff {s : State} (hup : s.cdUp = true) (m : Nat) (t : Step) : s.mayStart m t = true ↔
    (s.field m).state ≠ 1 ∧ (s.mdw m).pendingDef = none ∧ t.started = false ∧ t.start ≤ s.now ∧
      (∀ k ∈ (s.field m).changes, ∀ b, k.commitAt = some b → s.now < b) ∧ (∀ a ∈ (s.field m).announced, ∀ b, a.commitAt = some b → s.now < b) ∧
      ¬ (s.sys.paused = true ∧ t.owner = .engine ∧ t.rekindle = none) := by
  have hdue := State.changeDue_iff s m
  simp only [State.mayStart, hup, Bool.true_and, Bool.and_eq_true, decide_eq_true_eq, Option.isNone_iff_eq_none, Bool.not_eq_true', hdue,
    State.heldStep, Bool.and_eq_false_iff, decide_eq_false_iff_not]
  constructor
  · rintro ⟨⟨⟨⟨⟨hfield, hdef⟩, hchanges⟩, hstarted⟩, htime⟩, hheld⟩
    exact ⟨hfield, hdef, hstarted, htime, hchanges.1, hchanges.2, fun hall => by simp [hall] at hheld⟩
  · rintro ⟨hfield, hdef, hstarted, htime, hchanges, hannounced, hheld⟩
    refine ⟨⟨⟨⟨⟨hfield, hdef⟩, hchanges, hannounced⟩, hstarted⟩, htime⟩, ?_⟩
    by_contra hnot
    simp only [not_or, Bool.not_eq_false, not_not] at hnot
    exact hheld ⟨hnot.1.1, hnot.1.2, Option.isNone_iff_eq_none.mp hnot.2⟩

/-- The head step of a meadow that starts has its beats from now on. -/
theorem State.beginStep_head (s : State) (m : Nat) (t : Step) : ∃ t' rest', ((s.beginStep m t).mdw m).steps = t' :: rest' ∧ t'.started = true ∧
    t'.start = (s.beginStep m t).now ∧ t'.commit = (s.beginStep m t).now + t.hdr.pLen ∧ t'.id = t.id := by
  rw [State.beginStep]
  exact ⟨_, _, congrArg Meadow.steps (State.mdw_setMdw_self _ _ _), rfl, rfl, rfl, rfl⟩

/-! ## The events of a meadow's head step -/

section
variable {s : State} {m : Nat} {t : Step} {rest : List Step} (hsteps : (s.mdw m).steps = t :: rest)
include hsteps

theorem exec_stepStart : exec (.stepStart m) s = .next (if !s.mayStart m t then s else
    let u := s.stepBoundary m
    if t.epoch ≠ u.fieldEpoch m then (u.abortStep m t .fieldChanged).failRekindle t.rekindle .fieldChanged
    else if (u.field m).halted then (u.abortStep m t .targetDead).failRekindle t.rekindle .targetDead
    else if (u.mdw m).stuck then u.abortStep m t .illegalInState (obsOf 6 (mCode (u.mdw m).state))
    else match ((u.beginStep m t).mdw m).steps.head? with
      | none => u.beginStep m t
      | some t' => (u.beginStep m t).callBack ((u.beginStep m t).stepSpans t').1 ((u.beginStep m t).stepSpans t').2) := by
  rw [show exec (.stepStart m) s = execStepStart m s from rfl, execStepStart, hsteps] <;> rfl

theorem exec_stepCommit (r : StepResult) : exec (.stepCommit m r) s = .next (
    if !s.cdUp ∨ !t.started ∨ s.now < t.start + max t.hdr.pLen (t.used.getD r.usedBeats) ∨ s.deadMember m ∨ s.stepSnooped t then s
    else s.atCommit.endStep m t (t.used.getD r.usedBeats) r) := by
  rw [show exec (.stepCommit m r) s = execStepCommit m r s from rfl, execStepCommit, hsteps]

theorem exec_fieldStepGraceExpiry : exec (.fieldStepGraceExpiry m) s = .next (
    if !s.cdUp ∨ !t.started ∨ !s.deadMember m ∨ s.now ≤ t.start + t.hdr.pLen + bits (s.regN Reg.FIELD_GRACE) 15 0 then s else
    let u := (s.setField m { s.field m with halted := true }).updPromise t.promise (fun p => { p with path := true })
    ((u.chargeStep t).abortStep m t .targetDead).failRekindle t.rekindle .targetDead) := by
  rw [show exec (.fieldStepGraceExpiry m) s = execFieldStepGraceExpiry m s from rfl, execFieldStepGraceExpiry, hsteps]

end

theorem exec_tileQuarantineLeave (s : State) (m : Nat) : exec (.tileQuarantineLeave m) s =
    .next (if (s.mdw m).steps.any (·.started) then s else s.leaveTiles m) := rfl

/-! ## The end of a step whose rows' tokens have been read -/

/-- The state after the tiles of a step have run and sent what they share. -/
def State.afterTiles (v : State) (m : Nat) (t : Step) (used : Nat) (r : StepResult) (rows : List (RowUse × List (BitVec 16))) : State :=
  ((v.tilesRan m (v.runStep m t rows).1).sendContributions m t (v.runStep m t rows).1.outgoing).noteSlack m t used r.stallBeats

/-- A token of the step would be written into a packed object. -/
def State.tokenSplits (v : State) (t : Step) : Bool :=
  t.rows.any (fun a => a.emits && v.splitsAt ((v.request a.request).outAddr + 2 * (v.request a.request).generated) 2)

/-- The code that the step ends with instead of its commit. -/
def State.stepFault (v : State) (m : Nat) (t : Step) (used : Nat) (r : StepResult) (ids : Option (List (RowUse × List (BitVec 16)))) : Option Code :=
  (r.fail.filter failsRequests).or (if ids.isNone ∨ 0 < (v.runStep m t (ids.getD [])).1.lost then some Code.checkFail
    else if (v.afterTiles m t used r (ids.getD [])).tokenSplits t then some .badOperand else none)

section
variable {u v : State} {m used : Nat} {t : Step} {r : StepResult} {ids : Option (List (RowUse × List (BitVec 16)))}

theorem State.endStep_of_fault (htokens : (u.markStep t r).stepTokens t.rows = (ids, v)) {code : Code} (hfault : v.stepFault m t used r ids = some code) :
    u.endStep m t used r = (v.afterTiles m t used r (ids.getD [])).failStep m t code (code == .isolated) := by
  rw [State.endStep, htokens]
  change (match v.stepFault m t used r ids with | some code => _ | none => _) = _
  rw [hfault]
  rfl

theorem State.endStep_of_clean (htokens : (u.markStep t r).stepTokens t.rows = (ids, v)) (hclean : v.stepFault m t used r ids = none) :
    u.endStep m t used r = (v.afterTiles m t used r (ids.getD [])).commitStep m t used (v.runStep m t (ids.getD [])).2
      (tileCrcs (v.runStep m t (ids.getD [])).2 r.faults) (v.runStep m t (ids.getD [])).1.stores
      ((ids.getD []).map (fun e => (e.1, e.2, v.rowToken m t.hdr e))) := by
  rw [State.endStep, htokens]
  change (match v.stepFault m t used r ids with | some code => _ | none => _) = _
  rw [hclean]
  rfl

theorem State.stepFault_reported {code : Code} (hfail : r.fail = some code) (hreq : failsRequests code = true) :
    v.stepFault m t used r ids = some code := by
  rw [State.stepFault, hfail, Option.filter_some, if_pos hreq, Option.some_or]

theorem State.stepFault_unread (hfail : r.fail = none) (hlost : ids = none ∨ 0 < (v.runStep m t (ids.getD [])).1.lost) :
    v.stepFault m t used r ids = some .checkFail := by
  rw [State.stepFault, hfail, Option.filter_none, Option.none_or, if_pos (hlost.imp_left Option.isNone_iff_eq_none.mpr)]

theorem State.stepFault_read (hfail : r.fail = none) (hids : ids.isSome = true) (hlost : (v.runStep m t (ids.getD [])).1.lost = 0) :
    v.stepFault m t used r ids = if (v.afterTiles m t used r (ids.getD [])).tokenSplits t then some .badOperand else none := by
  have hread : ¬ (ids.isNone = true ∨ 0 < (v.runStep m t (ids.getD [])).1.lost) := by
    rintro (hnone | hpos)
    · simp [Option.isNone_iff_eq_none.mp hnone] at hids
    · omega
  rw [State.stepFault, hfail, Option.filter_none, Option.none_or, if_neg hread]

end

end Sys2Proof.Machine

open Sys2Proof Sys2Proof.Machine

/-- Settles O29: it holds. -/
theorem stepsOfAMeadow : Obligations.StepsOfAMeadow := by
  refine ⟨fun s c w x h => ?_, fun s m t rest r hsteps hup => ⟨State.mayStart_iff hup m t, fun hmay => ?_, fun hmay => ?_, fun hstarted => ?_,
    fun hstarted => ?_, fun u v used ids htokens => ?_, fun hstarted => ?_, fun hnone => ?_, fun hstarted hdead => ?_⟩⟩
  · intro m
    refine ⟨fun g hg => ⟨fun hcode => ?_, fun hcode => ?_, fun code hcode hne => ?_⟩, fun hg => ⟨fun hd t id n hpre hhdr hgo => ?_,
      fun code obs hpre => ⟨fun hhdr => ?_, fun hd hhdr => ?_⟩⟩⟩
    · rw [exec_stepRun_of_runs h, State.bodyStepRun, hg]
      simp only [hcode]
      rfl
    · rw [exec_stepRun_of_runs h, State.bodyStepRun, hg]
      simp only [hcode]
      rw [State.settle_ok]
    · rw [exec_stepRun_of_runs h, State.bodyStepRun, hg]
      simp only [hcode]
      rw [State.settle_fail]
    · intro u
      refine ⟨?_, State.scheduleStep_spec t m hd (.instr c) id x.pc none⟩
      rw [exec_stepRun_of_runs h, State.bodyStepRun, hg]
      simp only [m] at hpre hgo
      simp only [hpre, hhdr, hgo]
      rfl
    · rw [exec_stepRun_of_runs h, State.bodyStepRun, hg]
      simp only [m] at hpre
      simp only [hpre, hhdr]
      rw [State.settle_fail]
    · rw [exec_stepRun_of_runs h, State.bodyStepRun, hg]
      simp only [m] at hpre
      simp only [hpre, hhdr]
      rw [State.settle_failAs]
  · rw [exec_stepStart hsteps, if_pos (by simp [hmay])]
  · intro u
    have hexec : exec (.stepStart m) s = _ := (exec_stepStart hsteps).trans (congrArg _ (if_neg (by simp [hmay])))
    refine ⟨fun hepoch => ?_, fun hepoch hhalted => ?_, fun hepoch hhalted hstuck => ?_, fun hepoch hhalted hstuck => ?_⟩
    · rw [hexec, if_pos hepoch]
    · rw [hexec, if_neg (not_not_intro hepoch), if_pos hhalted]
    · rw [hexec, if_neg (not_not_intro hepoch), if_neg (ne_true_of_eq_false hhalted), if_pos hstuck]
    · intro v
      obtain ⟨t', rest', hv, hspec⟩ := State.beginStep_head u m t
      refine ⟨t', rest', hv, hspec.1, hspec.2.1, hspec.2.2.1, hspec.2.2.2, ?_⟩
      rw [hexec, if_neg (not_not_intro hepoch), if_neg (ne_true_of_eq_false hhalted), if_neg (ne_true_of_eq_false hstuck), hv]
      rfl
  · intro used
    refine ⟨fun hwait => ?_, fun htime hlive hsnoop => ?_⟩
    · rw [exec_stepCommit hsteps, if_pos (.inr (.inr hwait))]
    · rw [exec_stepCommit hsteps, if_neg]
      simp [hup, hstarted, htime, hlive, hsnoop, used]
  · rw [exec_stepCommit hsteps, if_pos (.inr (.inl (by simp [hstarted])))]
  · intro rows run v' splits
    refine ⟨fun code hfail hreq => State.endStep_of_fault htokens (State.stepFault_reported hfail hreq),
      fun hfail hlost => State.endStep_of_fault htokens (State.stepFault_unread hfail hlost), fun hfail hids hlost hsplit => ?_,
      fun hfail hids hlost hsplit => ?_⟩
    · exact State.endStep_of_fault htokens ((State.stepFault_read hfail hids hlost).trans (if_pos hsplit))
    · exact State.endStep_of_clean htokens ((State.stepFault_read hfail hids hlost).trans (if_neg (ne_true_of_eq_false hsplit)))
  · rw [exec_tileQuarantineLeave, if_pos (by simp [hsteps, hstarted])]
  · rw [exec_tileQuarantineLeave, if_neg (by simp [hnone])]
    rfl
  · constructor
    · intro hgrace
      rw [exec_fieldStepGraceExpiry hsteps, if_pos (.inr (.inr (.inr hgrace)))]
    · intro hover u
      rw [exec_fieldStepGraceExpiry hsteps, if_neg (by simp [hup, hstarted, hdead, hover])]
end

section
/-! Shadow runs, the referee, canaries and the shadow set (R13, R146, R243 to R249): obligation O30. -/

namespace Sys2Proof.Machine

theorem exec_shadow_of_runs {s : State} {c : Nat} {w : IWord} {x : Ctx} (h : Runs s c 0x41 w x) (faults : List (Nat × Word)) :
    exec (.shadow c w faults) s = .next (s.settle c (s.bodyShadow c w faults x)) :=
  congrArg Host.Outcome.next (State.runInstr_runs h _ _ _ _ _)

section
variable {s : State} {c : Nat} {w : IWord} {x : Ctx} {faults : List (Nat × Word)}

theorem State.bodyShadow_accepted {h : Hdr} {k : Capture} {t : State} {id : Option Nat} {n : Nat}
    (hpre : s.preShadow w.opc.toNat w.opb.toNat x.entry.meadow = none) (hhdr : s.hdrAt w.opc.toNat = some h)
    (hcap : s.captureOf x.entry.meadow w.opb.toNat = some k)
    (hgo : (s.noteBody h).admitAt c x ((s.noteBody h).stepItem x.pc x.entry.meadow h true) = .go t id n) :
    s.bodyShadow c w faults x = .wait (t.startShadow x.entry.meadow k (some c) id h.watts faults) .op := by
  unfold State.bodyShadow
  simp only [hpre, hhdr, hcap, hgo]

theorem State.bodyShadow_noProgram (hhdr : s.hdrAt w.opc.toNat = none) : s.bodyShadow c w faults x = .fail .badOperand 0 := by
  unfold State.bodyShadow State.preShadow
  simp only [hhdr, badOp]

end

theorem exec_autoShadowRun {s : State} {m seq : Nat} (hm : s.eng.shadowPending.find? (·.1 == m) = some (m, seq)) (vts : List Nat) (cs : List Word) :
    exec (.autoShadowRun m vts cs) s = .next (if !s.cdUp ∨ s.shadowList.length < 2 ∨ s.eng.shadow.isSome then s else
      let t := s.mapEng (fun e => { e with shadowPending := e.shadowPending.erase (m, seq) })
      match (t.mdw m).captures.find? (fun k => k.seq == seq && k.lost == 0) with
      | none => t
      | some k => t.startShadow m k none none 0 (vts.zip cs)) := by
  rw [show exec (.autoShadowRun m vts cs) s = execAutoShadowRun m vts cs s from rfl, execAutoShadowRun, hm] <;> rfl

/-- The referee half's run of a disputed tile is decided by its third signature (R245). -/
theorem exec_refereeRun_of_dispute {s : State} {r : ShadowRun} {rest : List ShadowRun} {v orig sh : Nat} {a b : Word} (hup : s.cdUp = true)
    (hdone : s.jobDone 3 1 = true) (hreferee : s.eng.referee = r :: rest) (hmis : r.mismatch = some (v, orig, sh, a, b)) (faulty : Bool)
    (formed : Word) : exec (.refereeRun faulty formed) s = .next (
      let t := ((s.mapEng (fun e => { e with referee := rest })).dropJob 3 1).queueReferee
      let crc := if faulty then formed else r.truth
      if crc = a then t.quarantine sh (t.bandOf sh) r.hdr.pattern
      else if crc = b then
        let u := t.quarantine orig (t.bandOf orig) r.hdr.pattern
        if r.requests.isEmpty then u.raise Ev.shadowOriginalLost 0 r.seq 0 (some r.meadow)
        else r.requests.foldl (fun s q => s.raise Ev.shadowOriginalLost 0 r.seq q (some r.meadow)) u
      else (t.setMdw r.meadow { t.mdw r.meadow with resplit := some v }).raise Ev.shadowSplit 0 r.seq v (some r.meadow)) := by
  rw [show exec (.refereeRun faulty formed) s = execRefereeRun faulty formed s from rfl, execRefereeRun, hreferee]
  simp only
  rw [if_neg (by simp [hup, hdone]), hmis]

theorem exec_refereeRun_waits {s : State} (h : s.cdUp = false ∨ s.jobDone 3 1 = false) (faulty : Bool) (formed : Word) :
    exec (.refereeRun faulty formed) s = .next s := by
  rw [show exec (.refereeRun faulty formed) s = execRefereeRun faulty formed s from rfl, execRefereeRun]
  split
  · rfl
  · rw [if_pos (by simpa using h)]

/-! ## Canaries -/

section
variable {s : State} {i : Nat} (hup : s.cdUp = true) (hstate : (s.tile i).state = 3) (hband : s.bandOf i = (s.tile i).band)
  (hroom : s.bgRoom (resTile i) s.clk.len = true)
include hup hstate hband hroom

theorem exec_canaryRun_passes (want : Word) : exec (.canaryRun i want want) s =
    .next (if bits ((s.bgUse (resTile i) s.clk.len).regN Reg.CANARY_PASSES) 7 0 ≤ (s.tile i).passes + 1 then
      ((s.bgUse (resTile i) s.clk.len).setTile i { s.tile i with state := 2, passes := (s.tile i).passes + 1 }).raise Ev.tileReadmitted 0 i
      else (s.bgUse (resTile i) s.clk.len).setTile i { s.tile i with passes := (s.tile i).passes + 1 }) := by
  rw [show exec (.canaryRun i want want) s = execCanaryRun i want want s from rfl, execCanaryRun]
  simp only
  rw [if_neg (by simp [hup, hstate, hband, hroom]), if_pos trivial]

theorem exec_canaryRun_fails {got want : Word} (hne : got ≠ want) : exec (.canaryRun i got want) s =
    .next ((s.bgUse (resTile i) s.clk.len).setTile i { s.tile i with
      passes := 0, fails := (s.tile i).fails + 1, state := if 3 ≤ (s.tile i).fails + 1 then 4 else (s.tile i).state }) := by
  rw [show exec (.canaryRun i got want) s = execCanaryRun i got want s from rfl, execCanaryRun]
  simp only
  rw [if_neg (by simp [hup, hstate, hband, hroom]), if_neg hne, hstate]

end

theorem exec_canaryRun_waits {s : State} {i : Nat} (h : (s.tile i).state ≠ 3 ∨ s.bandOf i ≠ (s.tile i).band ∨ s.bgRoom (resTile i) s.clk.len = false)
    (got want : Word) : exec (.canaryRun i got want) s = .next s := by
  rw [show exec (.canaryRun i got want) s = execCanaryRun i got want s from rfl, execCanaryRun]
  simp only
  rw [if_pos (.inr (by simpa using h))]

/-! ## The shadow set -/

theorem State.shadowLegal_iff {s : State} {l : List Nat} : s.shadowLegal l = true ↔
    (l.length % 2 = 0 ∧ 2 ≤ l.length ∧ l.length ≤ 16) ∧ ∀ j ∈ l, (s.tile j).state ≠ 1 ∧ j ∉ s.claimedTiles := by
  simp [State.shadowLegal]

theorem exec_shadowSetWrite {s : State} (hup : s.cdUp = true) {word : Nat} (hword : word < 4) (v : BitVec 32) : exec (.shadowSetWrite word v) s =
    .next (if !s.shadowLegal (s.shadowNamed word v.toNat) then s.configReject (Reg.SHADOW_SET word) v.toNat
      else (s.setRegN (Reg.SHADOW_SET word) v.toNat).mapEng (fun e => { e with shadowSet := some (s.shadowNamed word v.toNat) })) := by
  rw [show exec (.shadowSetWrite word v) s = execShadowSetWrite word v s from rfl, execShadowSetWrite]
  simp [hup, Nat.not_le.mpr hword]

theorem exec_shadowSetEffect {s : State} (hup : s.cdUp = true) {l : List Nat} (hl : s.eng.shadowSet = some l) : exec .shadowSetEffect s =
    .next (if s.eng.shadow.isSome ∨ !s.eng.referee.isEmpty then s else
      (List.range 128).foldl (fun s i =>
        if (s.tile i).state = 2 ∧ !l.contains i then s.setTile i { s.tile i with state := 0 }
        else if (s.tile i).state = 0 ∧ l.contains i ∧ !s.claimedTiles.contains i then s.setTile i { s.tile i with state := 2 } else s)
        (s.mapEng (fun e => { e with shadowSet := none }))) := by
  rw [show exec .shadowSetEffect s = execShadowSetEffect s from rfl, execShadowSetEffect, hl]
  simp only [hup, Bool.not_true, Bool.false_eq_true, false_or]

end Sys2Proof.Machine

open Sys2Proof Sys2Proof.Machine

/-- Settles O30: it holds. -/
theorem shadowsAndCanaries : Obligations.ShadowsAndCanaries := by
  refine ⟨fun s c m seq w x faults vts cs faulty formed => ⟨fun hd k t id n h hpre hhdr hcap hgo => ?_, fun h hhdr => ?_, fun k o id watts => ?_,
      fun hpending => ⟨fun hwait => ?_, fun hup hset hnone => ?_⟩, fun hwait => exec_refereeRun_waits hwait faulty formed,
      fun r rest v orig sh a b hup hdone hreferee hmis => ?_⟩,
    fun s i word v got want hup => ⟨fun hstate hband hroom => ?_, fun hwait => exec_canaryRun_waits hwait got want, fun hstate => ?_, fun hstate => ?_,
      fun hword => ?_, fun l hl => ⟨fun hbusy => ?_, fun hshadow hreferee => ?_⟩⟩⟩
  · intro u
    rw [exec_shadow_of_runs h, State.bodyShadow_accepted hpre hhdr hcap hgo]
    rfl
  · rw [exec_shadow_of_runs h, State.bodyShadow_noProgram hhdr, State.settle_fail]
  · exact ⟨_, rfl, rfl, rfl, rfl⟩
  · rw [exec_autoShadowRun hpending, if_pos (by simpa using hwait)]
  · intro t
    have hexec := (exec_autoShadowRun hpending vts cs).trans (congrArg _ (if_neg (by simp [hup, hnone, Nat.not_lt.mpr hset])))
    refine ⟨fun hgone => ?_, fun k hk => ?_⟩
    · rw [hexec]
      simp only [t] at hgone
      simp only [hgone, t]
    · rw [hexec]
      simp only [t] at hk
      simp only [hk, t]
  · intro t crc u
    have hexec := exec_refereeRun_of_dispute hup hdone hreferee hmis faulty formed
    refine ⟨fun ha => ?_, fun ha hb => ?_, fun ha hb => ⟨fun hnil => ?_, fun q qs hcons => ?_⟩⟩
    · exact hexec.trans (congrArg _ (if_pos ha))
    · exact hexec.trans (congrArg _ ((if_neg ha).trans (if_neg hb)))
    · refine hexec.trans (congrArg _ ((if_neg ha).trans ((if_pos hb).trans ?_)))
      rw [hnil]
      rfl
    · refine hexec.trans (congrArg _ ((if_neg ha).trans ((if_pos hb).trans ?_)))
      rw [hcons]
      rfl
  · intro t
    refine ⟨fun hlow => ?_, fun hhigh => ?_, fun hne hfew => ?_, fun hne hmany => ?_⟩
    · rw [exec_canaryRun_passes hup hstate hband hroom, if_neg (Nat.not_le.mpr hlow)]
    · rw [exec_canaryRun_passes hup hstate hband hroom, if_pos hhigh]
    · rw [exec_canaryRun_fails hup hstate hband hroom hne, if_neg (by omega)]
    · rw [exec_canaryRun_fails hup hstate hband hroom hne, if_pos (by omega)]
  · rw [show exec (.tileClear i) s = execTileClear i s from rfl, execTileClear, if_pos ⟨hup, hstate⟩]
  · rw [show exec (.tileClear i) s = execTileClear i s from rfl, execTileClear, if_neg (fun hall => hstate hall.2)]
  · intro l
    refine ⟨fun heven hmin hmax hfree => ?_, fun hbad => ?_⟩
    · rw [exec_shadowSetWrite hup hword, State.shadowLegal_iff.mpr ⟨⟨heven, hmin, hmax⟩, hfree⟩]
      rfl
    · rw [exec_shadowSetWrite hup hword, if_pos]
      rw [Bool.not_eq_true', ← Bool.not_eq_true, State.shadowLegal_iff]
      rintro ⟨⟨heven, hmin, hmax⟩, hfree⟩
      rcases hbad with hodd | hlow | hhigh | ⟨j, hj, hused⟩
      · exact hodd heven
      · exact absurd hmin (Nat.not_le.mpr hlow)
      · exact absurd hmax (Nat.not_le.mpr hhigh)
      · exact hused.elim (hfree j hj).1 (hfree j hj).2
  · rw [exec_shadowSetEffect hup hl, if_pos (by simpa using hbusy)]
  · rw [exec_shadowSetEffect hup hl, if_neg (by simp [hshadow, hreferee])]
end

section
/-! Near-state attention at the keeper and at the home, the merge of partials, and `REKINDLE` (R147, R265 to R270, R275): obligation O31. -/

namespace Sys2Proof.Machine

/-! ## At the keeper -/

theorem exec_attnPartial_of_runs {s : State} {c : Nat} {w : IWord} {x : Ctx} (h : Runs s c 0x48 w x) (d : Bytes) :
    exec (.attnPartial c w d) s = .next (s.settle c (s.bodyPartial c w d x)) :=
  congrArg Host.Outcome.next (State.runInstr_runs h _ _ _ _ _)

/-- The query beat of a promised partial's next layer: its promise counts from there (R266). -/
theorem exec_attnPartialRoundAdmit {s : State} {id c n : Nat} {p : PartialOp} {st : Step} {y : Ctx} (hup : s.cdUp = true)
    (hp : s.eng.partials.find? (·.id == id) = some p) (hst : p.stepSeq.bind s.stepOf = some st) (hturn : p.sentLayers = p.doneLayers)
    (hmore : p.sentLayers < p.layers) (howner : p.owner = .instr c) (hctx : s.ctx c = some y) (hpromise : p.promise.isSome = true)
    (hweigh : s.weigh p.deadline [attnItem st.index p.dst p.hops p.pAttn st.hdr.allow] = .accept n) :
    exec (.attnPartialRoundAdmit id) s = .next ((s.updPromise p.promise (fun q => { q with
      k := s.now, terms := (attnItem st.index p.dst p.hops p.pAttn st.hdr.allow).terms, ends := [] })).sendQuery p (p.layerFirst + p.sentLayers) 1) := by
  rw [show exec (.attnPartialRoundAdmit id) s = execAttnPartialRoundAdmit id s from rfl, execAttnPartialRoundAdmit, hp]
  simp only [hst]
  rw [if_neg (by simp [hup, hturn]; omega)]
  simp only [howner, hweigh, Option.bind_some, hctx, hpromise, if_true]
  rw [← howner]

/-! ## At the home -/

theorem exec_partialRoundEnd_waits {s : State} {m id : Nat}
    (h : s.cdUp = false ∨ s.eng.rounds.find? (fun r => r.meadow == m && r.id == id && r.row.isSome && decide (r.due ≤ s.now)) = none) (bad : Bool) :
    exec (.partialRoundEnd m id bad) s = .next s := by
  rw [show exec (.partialRoundEnd m id bad) s = execPartialRoundEnd m id bad s from rfl, execPartialRoundEnd]
  rcases h with hdown | hnone
  · split
    · rfl
    · rw [if_pos (by simp [hdown])]
  · rw [hnone]

@[simp] theorem State.addPartials_me (s : State) (r : DRef) (up : Bool) : (s.addPartials r up).me = s.me := by
  cases r <;> rfl

/-- The end of a round takes it off the list and answers its sender. -/
theorem exec_partialRoundEnd_due {s : State} {m id : Nat} {r : Round} (hup : s.cdUp = true)
    (hr : s.eng.rounds.find? (fun r => r.meadow == m && r.id == id && r.row.isSome && decide (r.due ≤ s.now)) = some r) (bad : Bool) :
    exec (.partialRoundEnd m id bad) s = .next (
      let u := s.mapEng (fun e => { e with rounds := e.rounds.erase r })
      let q := r.query
      match u.findDeed q.key with
      | none => u.answerPartial r.src (.refused id .staleEpoch (u.loggedHome q.key).1 (u.loggedHome q.key).2)
      | some ref =>
        let v := u.addPartials ref false
        let e := v.deed ref
        if bad then v.answerPartial r.src (.refused id .checkFail v.me e.epoch) else v.answerPartial r.src (.record
          { id := id, lantern := q.key.lantern, deed := q.key.deed, rows := q.rows, epoch := e.epoch, placement := q.placement, posStart := e.posStart, posCount := e.posCount,
            layerFirst := q.layerFirst, layerCount := q.layerCount, headDim := ((v.modelOf q.model).map (·.headDim)).getD 0, stepSeq := 0, blocks := v.rangeBlocks e q })) := by
  rw [show exec (.partialRoundEnd m id bad) s = execPartialRoundEnd m id bad s from rfl, execPartialRoundEnd, hr]
  simp only
  rw [if_neg (by simp [hup])] <;> rfl

theorem exec_partialRoundStart_one {s : State} {m : Nat} {r : Round} (hup : s.cdUp = true) (hrounds : s.eng.rounds = [r]) (hm : r.meadow = m)
    (hrow : r.row = none) : exec (.partialRoundStart m) s = .next (if r.arrived < s.now then s.startRound m r else s) := by
  rw [show exec (.partialRoundStart m) s = execPartialRoundStart m s from rfl, execPartialRoundStart, if_neg (by simp [hup]), hrounds]
  by_cases harrived : r.arrived < s.now <;> simp [hm, hrow, harrived]

/-! ## `ATTN_MERGE` -/

section
variable {s : State} {c : Nat} {w : IWord} {x : Ctx} {d : Bytes} {recs : List PartialRec} {bad : Bool} (h : Runs s c 0x49 w x)
include h

theorem exec_attnMerge_refused {code : Code} {obs : Nat} (hpre : preMerge d recs = some (code, obs)) :
    exec (.attnMerge c w d ⟨recs, bad⟩) s = .next (s.failInstr c code obs) := by
  have hexec : exec (.attnMerge c w d ⟨recs, bad⟩) s = .next (s.runInstr c 0x49 w (.attnMerge c w d ⟨recs, bad⟩) (shapeOk 0x49 w) false false
      (fun _ => s.bodyMerge d ⟨recs, bad⟩)) := congrArg Host.Outcome.next (State.coherent_unready (by simp only [hpre, Option.isNone_some]))
  rw [hexec, State.runInstr_runs h, State.bodyMerge, State.settle_afterPre_some hpre]

theorem exec_attnMerge_read {read : Bool} {t : State} (hpre : preMerge d recs = none)
    (hlines : s.tracked (s.hdmSpan (le d 8 8) (mergeOut (le d 2 1 == 1) (mergeRecs recs)).length) = []) (hread : s.readRecords d recs 0 = (read, t)) :
    exec (.attnMerge c w d ⟨recs, bad⟩) s = .next (s.settle c (if bad ∨ !read then .failAs t .checkFail 0
      else t.writeOut (le d 8 8) (mergeOut (le d 2 1 == 1) (mergeRecs recs)) id)) := by
  rw [exec_coherent_of_runs (i := .attnMerge c w d ⟨recs, bad⟩) h (reads := []) hlines rfl, State.bodyMerge, State.settle_afterPre_none hpre, hread]

end

/-- The descriptor and the ranges come first, then the records themselves (R5, R270). -/
theorem preMerge_shape {d : Bytes} {recs : List PartialRec} (h : le d 0 2 = 0 ∨ 64 < le d 0 2 ∨ 1 < le d 2 1 ∨ zeroAt d 3 5 = false ∨ contiguous recs = false) :
    preMerge d recs = some (.badOperand, 0) := by
  rw [preMerge, if_pos]
  · rfl
  · simp only [mergeShape, Bool.not_eq_true', Bool.and_eq_false_iff, decide_eq_false_iff_not]
    rcases h with h | h | h | h | h
    · exact .inl (.inl (by omega))
    · exact .inl (.inl (by omega))
    · exact .inl (.inl (by omega))
    · exact .inl (.inr h)
    · exact .inr h

theorem preMerge_wellShaped {d : Bytes} {recs : List PartialRec} (h1 : 1 ≤ le d 0 2) (h64 : le d 0 2 ≤ 64) (hmode : le d 2 1 ≤ 1)
    (hzero : zeroAt d 3 5 = true) (hranges : contiguous recs = true) :
    preMerge d recs = if recs.length ≠ le d 0 2 ∨ !oneQuery recs then some (.illegalInState, 0) else none := by
  rw [preMerge, if_neg (by simp [mergeShape, h1, h64, hmode, hzero, hranges])]

/-! ## `REKINDLE` -/

theorem exec_rekindle_of_runs {s : State} {c : Nat} {w : IWord} {x : Ctx} (h : Runs s c 0x51 w x) (d : Bytes) :
    exec (.rekindle c w d) s = .next (s.settle c (s.bodyRekindle c w d x)) :=
  congrArg Host.Outcome.next (State.runInstr_runs h _ _ _ _ _)

end Sys2Proof.Machine

open Sys2Proof Sys2Proof.Machine

/-- Settles O31: it holds. -/
theorem attentionAndRekindle : Obligations.AttentionAndRekindle := by
  refine ⟨fun s t c m id w x d f q a => ⟨fun h hpre => ⟨fun hbound => ?_, fun v pr n hfree => ?_⟩, fun code obs h hpre => ⟨fun hkeeps => ?_, fun hkeeps => ?_⟩,
      fun p st y n hup hp hst hturn hmore howner hctx hpromise hweigh => exec_attnPartialRoundAdmit hup hp hst hturn hmore howner hctx hpromise hweigh,
      fun h => ⟨fun u hu => ?_, fun e he => ?_, fun u hf hu => ?_, fun u hf hu => ?_, fun p u hf hp hu => ?_⟩,
      fun r hup hrounds hm hrow => ⟨fun hlate => ?_, fun hearly => ?_⟩, fun r bad hup hr => ?_, fun hwait bad => exec_partialRoundEnd_waits hwait bad⟩,
    fun s c w x d recs bad => ⟨fun h => ?_, fun t id n h hpre hgo => ?_, fun code obs h hpre => ?_⟩⟩
  · intro u
    rw [exec_attnPartial_of_runs h, State.bodyPartial, hpre]
    simp only [owner_of_runs h]
    rw [if_pos (by simpa [State.makePartial] using hbound)]
    rfl
  · intro p hgo u
    rw [exec_attnPartial_of_runs h, State.bodyPartial, hpre]
    simp only [owner_of_runs h]
    rw [if_neg (by simp [State.makePartial, hfree]), hgo]
    rfl
  · rw [exec_attnPartial_of_runs h, State.bodyPartial, hpre]
    simp only [hkeeps]
    exact congrArg _ (State.settle_failAs _ _ _ _ _)
  · rw [exec_attnPartial_of_runs h, State.bodyPartial, hpre]
    simp only [hkeeps]
    exact congrArg _ (State.settle_failAs _ _ _ _ _)
  · rw [exec_delivered (i := .partialQueryReceive f q) h rfl, hu]
  · rw [exec_delivered (i := .partialQueryReceive f q) h rfl, he]
  · rw [exec_delivered (i := .partialResultReceive f a) h rfl]
    simp only [hf, hu, Bool.not_false, if_true]
  · rw [exec_delivered (i := .partialResultReceive f a) h rfl]
    simp only [hf, hu, Bool.not_false, if_true]
  · rw [exec_delivered (i := .partialResultReceive f a) h rfl]
    cases a with
    | record r =>
      simp only at hp
      simp only [hf, hp, hu, Bool.not_true, Bool.false_eq_true, if_false]
    | refused i code home epoch =>
      simp only at hp
      simp only [hf, hp, hu, Bool.not_true, Bool.false_eq_true, if_false]
  · rw [exec_partialRoundStart_one hup hrounds hm hrow, if_pos hlate]
  · rw [exec_partialRoundStart_one hup hrounds hm hrow, if_neg (Nat.not_lt.mpr hearly)]
  · intro q u
    have hexec := exec_partialRoundEnd_due hup hr bad
    refine ⟨fun hgone => ?_, fun ref href => ?_⟩
    · rw [hexec]
      simp only [u, q] at hgone
      simp only [hgone, u, q]
    · intro v e
      simp only [u, q] at href
      simp only [href] at hexec
      refine ⟨fun hbad => ?_, fun hbad => ?_⟩
      · rw [hexec, if_pos hbad, State.addPartials_me]
        rfl
      · rw [hexec, if_neg (ne_true_of_eq_false hbad)]
  · intro out
    refine ⟨fun hbad => exec_attnMerge_refused h (preMerge_shape hbad), fun h1 h64 hmode hzero hranges => ?_⟩
    have hpre := preMerge_wellShaped h1 h64 hmode hzero hranges
    refine ⟨fun hdiffer => exec_attnMerge_refused h (hpre.trans (if_pos (by simpa using hdiffer))), fun read t hlen hquery hlines hread => ?_⟩
    have hnone : preMerge d recs = none := hpre.trans (if_neg (by simp [hlen, hquery]))
    have hexec := fun bad => exec_attnMerge_read (bad := bad) h hnone hlines hread
    refine ⟨fun hfault => ?_, fun hgood hok hsplit => ?_, fun hgood hok hwhole => ?_⟩
    · rw [hexec, if_pos (by simpa using hfault), State.settle_failAs]
    · rw [hexec, if_neg (by simp [hgood, hok]), State.settle_writeOut_splits hsplit]
    · rw [hexec, if_neg (by simp [hgood, hok]), State.settle_writeOut_whole hwhole]
      rfl
  · intro u
    rw [exec_rekindle_of_runs h, State.bodyRekindle, State.settle_afterPre_none hpre, hgo]
    rfl
  · rw [exec_rekindle_of_runs h, State.bodyRekindle, State.settle_afterPre_some hpre]
end

section
/-! Objects, their tiers and tier moves (R151, R312 to R314): obligation O32. -/

namespace Sys2Proof.Machine

theorem State.whileFree_busy {s : State} {off : Nat} (h : s.busy off = true) (v : Nat) (go : State → State) :
    s.whileFree off v go = s.configReject off v :=
  if_pos h

/-- A register reads busy. -/
def State.markBusy (s : State) (off : Nat) : State := { s with sys := { s.sys with busy := off :: s.sys.busy } }

theorem State.whileFree_free {s : State} {off : Nat} (h : s.busy off = false) (v : Nat) (go : State → State) :
    s.whileFree off v go = (go s).markBusy off :=
  if_neg (ne_true_of_eq_false h)

/-! ## Object commands -/

/-- The object that a descriptor (Table 11.1) installs, its stored form at `loc` where the Cucia holds it. -/
def objOf (d : Bytes) (loc : Nat) : Obj :=
  { base := le d 0 8, size := le d 8 8, home := le d 16 1, exact := bit (le d 17 1) 0, ratio := bits (le d 17 1) 2 1,
    touch := bit (le d 17 1) 3, readOnly := bit (le d 17 1) 4, fmt := le d 18 1, state := if le d 16 1 = 3 then 4 else 1,
    loc := if le d 16 1 = 1 then le d 24 8 else loc, node := if le d 16 1 = 3 then BitVec.ofNat 64 (le d 24 8) else 0,
    window := le d 32 4, stored := objStored (le d 8 8) (bits (le d 17 1) 2 1) (bit (le d 17 1) 0), cookie := le d 56 8,
    placement := le d 16 1 }

section
variable {s : State} (hup : s.cdUp = true)
include hup

/-- What OBJ_CMD does with an install command. -/
theorem exec_objCmdInstall (i : Nat) (d : Bytes) : exec (.objCmdInstall i d) s = .next (s.whileFree Reg.OBJ_CMD (objCmd false i) (fun s =>
    if (s.obj i).state ≠ 0 then s.objDone i 0x02
    else match s.cxl.decoder with
      | none => s.objDone i 0x01
      | some (_, span) =>
        if !s.objShape d ∨ span < le d 0 8 + le d 8 8 ∨
            s.mem.objs.any (fun e => e.2.state != 0 && decide (e.2.base < le d 0 8 + le d 8 8 ∧ le d 0 8 < e.2.base + e.2.size)) then s.objDone i 0x01
        else match s.takeObj (le d 16 1) (ceilDiv (objStored (le d 8 8) (bits (le d 17 1) 2 1) (bit (le d 17 1) 0)) 4096) with
          | none => s.objDone i 0x03
          | some (loc, s) => (s.setObj i (objOf d loc)).objDone i 0x00)) := by
  rw [show exec (.objCmdInstall i d) s = execObjCmdInstall i d s from rfl, execObjCmdInstall]
  simp only [hup, Bool.not_true, Bool.false_eq_true, if_false]
  rfl

theorem exec_objCmdRemove (i : Nat) : exec (.objCmdRemove i) s = .next (s.whileFree Reg.OBJ_CMD (objCmd true i) (fun s =>
    if (s.obj i).state ≠ 1 ∨ s.objInUse (s.obj i) then s.objDone i 0x04
    else ((s.freeObj (s.obj i).home (s.obj i).loc (s.obj i).units).setObj i {}).objDone i 0x00)) := by
  rw [show exec (.objCmdRemove i) s = execObjCmdRemove i s from rfl, execObjCmdRemove, if_neg (by simp [hup])]

end

/-! ## Tier moves -/

theorem exec_tierMove_of_runs {s : State} {c : Nat} {w : IWord} {x : Ctx} (h : Runs s c 0x60 w x) :
    exec (.tierMove c w) s = .next (s.settle c (s.bodyTierMove c w x)) :=
  congrArg Host.Outcome.next (State.runInstr_runs h _ _ _ _ _)

/-- A resident object moves to host memory, or to a flash that takes writes. -/
theorem State.preTierMove_none {s : State} {w : IWord} {i : Nat} (hobj : s.objByBase w.opc.toNat = some i) (hstate : (s.obj i).state = 1)
    (htarget : w.opa.toNat = 1 ∨ (w.opa.toNat = 2 ∧ s.fls.state ≠ .readOnly)) : s.preTierMove w = none := by
  rw [State.preTierMove, hobj]
  simp only
  rw [if_neg (by omega), if_neg (not_not_intro hstate), if_neg]
  rintro ⟨htwo, hro⟩
  rcases htarget with hone | ⟨-, hnot⟩
  · omega
  · exact hnot hro

/-! ### The commit -/

/-- The code that the end of a tier move has. -/
def State.tierMoveCode (s : State) (tm : TierMv) (home : Nat) (lost : Bool) (fail : Option Code) : Option Code :=
  if tm.target = 2 ∧ s.fls.state = .readOnly then some .mediaReadOnly
  else if (onlyCodes [.noSpace, .mediaReadOnly, .checkFail] fail).isNone ∧ (lost ∨ (home = 2 ∧ s.fls.state = .failed)) then some .checkFail
  else onlyCodes [.noSpace, .mediaReadOnly, .checkFail] fail

section
variable {s : State} {i : Nat} {tm : TierMv} {data : Bytes} {rd : ReadReport} {fail : Option Code} (hfind : s.mem.tierMoves.find? (·.obj == i) = some tm)
include hfind

theorem exec_tierMoveCommit_waits (hwait : s.cdUp = false ∨ s.objSnooped (s.obj i) = true ∨ (tm.owner = .engine ∧ s.jobDone 7 i = false)) :
    exec (.tierMoveCommit i data ⟨fail, rd⟩) s = .next s := by
  rw [show exec (.tierMoveCommit i data ⟨fail, rd⟩) s = execTierMoveCommit i data ⟨fail, rd⟩ s from rfl, execTierMoveCommit, hfind]
  simp only
  rw [if_pos]
  rcases hwait with h | h | h
  · exact .inl (by simp [h])
  · exact .inr (.inl h)
  · exact .inr (.inr (.inr ⟨h.1, by simp [h.2]⟩))

omit hfind in
theorem tierMove_goes (hup : s.cdUp = true) (hsnoop : s.objSnooped (s.obj i) = false) (hjob : tm.owner = .engine → s.jobDone 7 i = true)
    (hflash : ((s.obj i).home = 2 ∨ tm.target = 2) → s.fls.state ≠ .restoring) :
    ¬ ((!s.cdUp) = true ∨ s.objSnooped (s.obj i) = true ∨ (((s.obj i).home = 2 ∨ tm.target = 2) ∧ s.fls.state = .restoring) ∨
      (tm.owner = .engine ∧ (!s.jobDone 7 i) = true)) := by
  rintro (h | h | h | h)
  · simp [hup] at h
  · simp [hsnoop] at h
  · exact hflash h.1 h.2
  · simp [hjob h.1] at h

variable (hup : s.cdUp = true) (hsnoop : s.objSnooped (s.obj i) = false) (hjob : tm.owner = .engine → s.jobDone 7 i = true)
  (hflash : ((s.obj i).home = 2 ∨ tm.target = 2) → s.fls.state ≠ .restoring)
include hup hsnoop hjob hflash

theorem exec_tierMoveCommit_fails {code : Code} {u : State}
    (hu : (if (decide ((s.obj i).home = 2) && s.flLost (s.obj i).loc (s.obj i).units) = true then s.flFault (s.obj i).loc (s.obj i).units else s) = u)
    (hcode : u.tierMoveCode tm (s.obj i).home (decide ((s.obj i).home = 2) && s.flLost (s.obj i).loc (s.obj i).units) fail = some code) :
    exec (.tierMoveCommit i data ⟨fail, rd⟩) s = .next ((u.readPhases tm.promise (homeTier (s.obj i).home) rd false).failTierMove tm code) := by
  rw [show exec (.tierMoveCommit i data ⟨fail, rd⟩) s = execTierMoveCommit i data ⟨fail, rd⟩ s from rfl, execTierMoveCommit, hfind]
  simp only
  rw [if_neg (tierMove_goes hup hsnoop hjob hflash), hu]
  refine congrArg Host.Outcome.next ?_
  change (match u.tierMoveCode tm (s.obj i).home _ fail with | some code => _ | none => _) = _
  rw [hcode]

theorem exec_tierMoveCommit_moves (hhome : (s.obj i).home = 0) (htarget : tm.target = 1) (hheld : tm.held = []) :
    exec (.tierMoveCommit i data ⟨none, rd⟩) s = .next (
      let t := ((s.readPhases tm.promise 0 rd true).dropJob 7 i).mapMem (fun m => { m with tierMoves := m.tierMoves.filter (fun y => y.obj != i) })
      let u := ((t.emit (.hostWrite tm.loc (Tbl.readBytes (t.bytesOf 0) (4096 * (s.obj i).loc) (s.obj i).stored))).freeObj 0 (s.obj i).loc (s.obj i).units).setObj i
        { s.obj i with home := 1, loc := tm.loc, state := 1, migrateFail := none }
      (u.keepPromise tm.promise u.now).1.finish tm.owner (u.keepPromise tm.promise u.now).2) := by
  rw [show exec (.tierMoveCommit i data ⟨none, rd⟩) s = execTierMoveCommit i data ⟨none, rd⟩ s from rfl, execTierMoveCommit, hfind]
  simp only
  rw [if_neg (tierMove_goes hup hsnoop hjob hflash)]
  simp [hhome, htarget, hheld, onlyCodes]
  rfl

end

end Sys2Proof.Machine

open Sys2Proof Sys2Proof.Machine

/-- Settles O32: it holds. -/
theorem objectsAndTierMoves : Obligations.ObjectsAndTierMoves := by
  intro s c i w x d data busy
  refine ⟨fun hup hbusy => ⟨?_, ?_⟩, fun hup hbusy hfree => ⟨fun b span loc t hdec hshape hspan hclear hhome htake => ?_, fun hdec => ?_⟩,
    fun hup hbusy htaken => ?_, fun hup hbusy hstate hused => ?_, fun hup hbusy hkept => ?_,
    fun hobj => ⟨fun t h hstate hhome htarget hstart => ?_, fun h hstate htarget => ?_, fun h htarget hstate => ?_⟩,
    fun hobj => ⟨fun h => ?_, fun h => ?_⟩, fun tm rd hfind => ⟨fun hwait fail => exec_tierMoveCommit_waits hfind hwait,
      fun hup hsnoop hjob hhome htarget => ⟨fun code hcode => ?_, fun hheld => ?_⟩, fun hup hsnoop hjob hhome htarget hready hlost => ?_⟩⟩
  · rw [exec_objCmdInstall hup, State.whileFree_busy hbusy]
    rfl
  · rw [exec_objCmdRemove hup, State.whileFree_busy hbusy]
    rfl
  · intro o
    rw [exec_objCmdInstall hup, State.whileFree_free hbusy]
    simp only [hfree, hdec]
    rw [if_neg (by simp), if_neg, hhome, htake]
    · simp only [objOf, hhome, o]
      rfl
    · rintro (hbad | hbad | hbad)
      · simp [hshape] at hbad
      · omega
      · exact Bool.false_ne_true (hclear.symm.trans hbad)
  · rw [exec_objCmdInstall hup, State.whileFree_free hbusy]
    simp only [hfree, hdec]
    rfl
  · rw [exec_objCmdInstall hup, State.whileFree_free hbusy, if_pos htaken]
    rfl
  · rw [exec_objCmdRemove hup, State.whileFree_free hbusy, if_neg (by simp [hstate, hused])]
    rfl
  · rw [exec_objCmdRemove hup, State.whileFree_free hbusy, if_pos hkept]
    rfl
  · rw [exec_tierMove_of_runs h, State.bodyTierMove, State.settle_afterPre_none (State.preTierMove_none hobj hstate htarget), hobj]
    simp only [hhome, if_true]
    rw [if_neg (by omega), owner_of_runs h, show homeTier 0 = 0 from rfl, hstart]
    rfl
  · rw [exec_tierMove_of_runs h, State.bodyTierMove, State.settle_afterPre_some]
    rw [State.preTierMove, hobj]
    simp only
    rw [if_neg htarget, if_pos hstate, illegal]
  · rw [exec_of_runs h rfl, hobj]
    simp only
    rw [if_neg htarget, if_neg hstate, State.settle_ok]
  · rw [exec_tierMove_of_runs h, State.bodyTierMove, State.settle_afterPre_some]
    rw [State.preTierMove, hobj, badOp]
  · rw [exec_of_runs h rfl, hobj]
    exact congrArg _ (State.settle_fail _ _ _ _)
  · have hflash : (s.obj i).home = 2 ∨ tm.target = 2 → s.fls.state ≠ .restoring := by omega
    have hexec := exec_tierMoveCommit_fails (data := data) (rd := rd) (fail := some code) (code := code) hfind hup hsnoop hjob hflash rfl
    simp only [hhome] at hexec
    refine hexec ?_
    simp [State.tierMoveCode, htarget, onlyCodes_of_mem hcode]
  · intro t u v code hkeep
    have hflash : (s.obj i).home = 2 ∨ tm.target = 2 → s.fls.state ≠ .restoring := by omega
    rw [exec_tierMoveCommit_moves hfind hup hsnoop hjob hflash hhome htarget hheld]
    exact congrArg (fun r : State × Code => Host.Outcome.next (r.1.finish tm.owner r.2)) hkeep
  · have hflash : (s.obj i).home = 2 ∨ tm.target = 2 → s.fls.state ≠ .restoring := by simp [hready]
    have hexec := exec_tierMoveCommit_fails (data := data) (rd := rd) (fail := none) (code := .checkFail) hfind hup hsnoop hjob hflash rfl
    simp only [hhome, hlost] at hexec
    refine hexec ?_
    simp [State.tierMoveCode, htarget, onlyCodes]
end

section
/-! Models, adapter versions and the weight window (R252 to R254, R278 to R282): obligation O33. -/

namespace Sys2Proof.Machine

/-! ## Model commands -/

section
variable {s : State} (hup : s.cdUp = true) (slot : Nat)
include hup

theorem exec_modelCmdInstall (d : Bytes) : exec (.modelCmdInstall slot d) s = .next (s.whileFree Reg.MODEL_CMD (2 ^ 31 + slot) (fun s =>
    match parseModel d with
    | none => s.modelDone slot 0x01
    | some m =>
      if (s.mem.models.find slot).isSome ∨ (s.modelOf m.model).isSome then s.modelDone slot 0x02
      else (s.mapMem (fun y => { y with models := Tbl.put (Tbl.drop y.models slot) slot m })).modelDone slot 0x00)) := by
  rw [show exec (.modelCmdInstall slot d) s = execModelCmdInstall slot d s from rfl, execModelCmdInstall, if_neg (by simp [hup])] <;> rfl

theorem exec_modelCmdRemove : exec (.modelCmdRemove slot) s = .next (s.whileFree Reg.MODEL_CMD (2 ^ 31 + 2 ^ 30 + slot) (fun s =>
    match s.mem.models.find slot with
    | none => s.modelDone slot 0x04
    | some m =>
      if s.modelUsed m then s.modelDone slot 0x03
      else (s.mapMem (fun y => { y with models := Tbl.drop y.models slot })).modelDone slot 0x00)) := by
  rw [show exec (.modelCmdRemove slot) s = execModelCmdRemove slot s from rfl, execModelCmdRemove, if_neg (by simp [hup])] <;> rfl

end

/-! ## Adapters -/

section
variable {s : State} {d payload : Bytes} {object : Nat} (hobj : (s.objByBase object).isSome = true) (hshape : adapterShape d = true)
  (hlen : le d 16 8 = payload.length)
include hobj hshape hlen

/-- A payload that verifies becomes the lowest free version. -/
theorem State.newAdapter_ok (hsha : (digestBytes (sha256 payload)).take 24 = (d.drop 40).take 24) {v : Nat}
    (hv : s.mem.adapters.lowestFree 0 4096 = some v) : s.newAdapter d payload object = .ok (v, s.mapMem (fun m =>
      { m with adapters := Tbl.put (Tbl.drop m.adapters v) v { state := 1, model := le d 4 2, payload := payload, object := object } })) := by
  rw [State.newAdapter, if_neg, if_neg (by simp [hlen, hsha]), hv]
  rintro (hnone | hbad)
  · rw [Option.isNone_iff_eq_none.mp hnone] at hobj
    nomatch hobj
  · simp [hshape] at hbad

omit hlen in
theorem State.newAdapter_checkFail (hsha : (digestBytes (sha256 payload)).take 24 ≠ (d.drop 40).take 24) :
    s.newAdapter d payload object = .error .checkFail := by
  rw [State.newAdapter, if_neg, if_pos (.inr hsha)]
  rintro (hnone | hbad)
  · rw [Option.isNone_iff_eq_none.mp hnone] at hobj
    nomatch hobj
  · simp [hshape] at hbad

end

/-! ## The weight window -/

theorem Meadow.not_streamHeld {g : Meadow} (hfree : g.state ≠ .free) (hrole : g.role ≠ 2) (hidle : g.steps.any (·.started) = false) :
    ¬ (g.state = .free ∨ g.role = 2 ∨ g.steps.any (·.started) = true) :=
  fun h => h.elim hfree (fun h => h.elim hrole (ne_true_of_eq_false hidle))

/-- `STREAM_WEIGHTS` of a weight object on a meadow that has a place for one. -/
theorem exec_streamWeights_of_shape {s : State} {c : Nat} {w : IWord} {x : Ctx} {d : Bytes} (h : Runs s c 0x62 w x) (hopb : w.opb ≠ 0)
    (hobj : (s.objByBase w.opc.toNat).isSome = true) (hshape : weightShape d = true) (fail : Option Code) :
    exec (.streamWeights c w d fail) s = .next (s.settle c (
      let g := s.mdw x.entry.meadow
      if g.state = .free ∨ g.role = 2 ∨ g.steps.any (·.started) then .fail .illegalInState (obsOf 6 (mCode g.state))
      else if (s.objByBase w.opc.toNat).any (fun i => (s.obj i).exact) ∧ (s.expanderOf x.entry.meadow).isNone then .fail .notResident 0
      else match onlyCodes [.noSpace, .notResident, .sizeExceeded, .sizeShort, .checkFail] fail with
        | some code => .fail code 0
        | none => .ok (s.setMdw x.entry.meadow { g with window := some (w.opc.toNat, w.opb.toNat, le d 6 2) }))) := by
  have hfits : ¬ (w.opb = 0 ∨ (s.objByBase w.opc.toNat).isNone = true ∨ (!weightShape d) = true) := by
    rintro (hzero | hnone | hbad)
    · exact hopb hzero
    · rw [Option.isNone_iff_eq_none.mp hnone] at hobj
      nomatch hobj
    · simp [hshape] at hbad
  rw [exec_of_runs h rfl, if_neg hfits] <;> rfl

end Sys2Proof.Machine

open Sys2Proof Sys2Proof.Machine

/-- Settles O33: it holds. -/
theorem modelsAdaptersWeights : Obligations.ModelsAdaptersWeights := by
  intro s c slot w x d payload busy
  refine ⟨fun hup hbusy => ⟨?_, ?_⟩, fun hup hbusy => ⟨fun m hm => ⟨fun hslot hnew => ?_, fun htaken => ?_⟩, fun hm => ?_, fun m hm => ⟨fun hunused => ?_, fun hused => ?_⟩,
      fun hm => ?_⟩, fun hobj hshape hlen => ⟨fun hsha v hv => ?_, fun hsha h => ?_⟩, fun h hstate => ?_, fun h hstate => ?_,
    fun h hopb hobj hshape => ?_⟩
  · rw [exec_modelCmdInstall hup, State.whileFree_busy hbusy]
  · rw [exec_modelCmdRemove hup, State.whileFree_busy hbusy]
  · rw [exec_modelCmdInstall hup, State.whileFree_free hbusy, hm]
    simp only [hslot, hnew]
    rfl
  · rw [exec_modelCmdInstall hup, State.whileFree_free hbusy, hm]
    simp only
    rw [if_pos htaken]
    rfl
  · rw [exec_modelCmdInstall hup, State.whileFree_free hbusy, hm]
    rfl
  · rw [exec_modelCmdRemove hup, State.whileFree_free hbusy, hm]
    simp only [hunused]
    rfl
  · rw [exec_modelCmdRemove hup, State.whileFree_free hbusy, hm]
    simp only [hused]
    rfl
  · rw [exec_modelCmdRemove hup, State.whileFree_free hbusy, hm]
    rfl
  · intro a t
    have hnew := State.newAdapter_ok hobj hshape hlen hsha hv
    refine ⟨fun h => ?_, fun h hstate => ?_⟩
    · rw [exec_of_runs h rfl, hnew]
      exact congrArg _ (State.settle_ok _ _ _)
    · intro u
      have hready : ¬ ((s.objByBase w.opc.toNat).isNone = true ∨ (!adapterShape d) = true) := by
        rw [Option.isNone_iff_eq_none, not_or]
        exact ⟨Option.isSome_iff_ne_none.mp hobj, by simp [hshape]⟩
      rw [exec_of_runs h rfl]
      simp only [if_neg hready, if_neg (not_not_intro hstate), hnew]
      exact congrArg _ (State.settle_ok _ _ _)
  · rw [exec_of_runs h rfl, State.newAdapter_checkFail hobj hshape hsha]
    exact congrArg _ (State.settle_fail _ _ _ _)
  · rw [exec_of_runs h rfl, if_neg (not_not_intro hstate), State.settle_ok]
  · rw [exec_of_runs h rfl, if_pos hstate, State.settle_fail]
  · intro g
    have hexec := exec_streamWeights_of_shape h hopb hobj hshape
    refine ⟨fun hfree hrole hidle => ⟨fun i hi hplain => ?_, fun i hi hexact hexp fail => ?_⟩, fun hstarted fail => ?_⟩
    · have hready : ¬ ((s.objByBase w.opc.toNat).any (fun i => (s.obj i).exact) = true ∧ (s.expanderOf x.entry.meadow).isNone = true) := by
        rw [hi, Option.any_some]
        rintro ⟨hexact, hexp⟩
        rcases hplain with hp | hp
        · simp [hp] at hexact
        · simp [Option.isNone_iff_eq_none.mp hexp] at hp
      refine ⟨?_, fun code hcode => ?_⟩
      · rw [hexec]
        simp only
        rw [if_neg (Meadow.not_streamHeld hfree hrole hidle), if_neg hready]
        exact congrArg _ (State.settle_ok _ _ _)
      · rw [hexec]
        simp only
        rw [if_neg (Meadow.not_streamHeld hfree hrole hidle), if_neg hready, onlyCodes_of_mem hcode]
        exact congrArg _ (State.settle_fail _ _ _ _)
    · rw [hexec]
      simp only
      rw [if_neg (Meadow.not_streamHeld hfree hrole hidle), if_pos (by simp [hi, hexact, hexp]), State.settle_fail]
    · rw [hexec]
      exact congrArg _ ((congrArg _ (if_pos (.inr (.inr hstarted)))).trans (State.settle_fail _ _ _ _))
end

section
/-! The host's accesses, snoops, the decoder and the DOE mailbox (R315, R324, R326, R436 to R443, R448 to R450): obligation O34. -/

namespace Sys2Proof.Machine

/-! ## Accesses -/

section
variable {s : State} {off : Nat}

theorem exec_hostRead_up (hup : s.cdUp = true) (u : Bool) : exec (.hostRead off u) s = .next (s.hostReadLine off u) := by
  rw [show exec (.hostRead off u) s = execHostRead off u s from rfl, execHostRead, if_neg (by simp [hup])]

theorem exec_hostWrite_up (hup : s.cdUp = true) (hide : s.cxl.ideInsecure = false) (data : Bytes) :
    exec (.hostWrite off data) s = .next (s.hostWriteLine off data) := by
  rw [show exec (.hostWrite off data) s = execHostWrite off data s from rfl, execHostWrite, if_neg (by simp [hup, hide])]

theorem State.hostReadLine_snooped (h : s.cxl.snoops.contains (lineOf off) = true) (u : Bool) :
    s.hostReadLine off u = s.mapCxl (fun c => { c with waiting := c.waiting ++ [(off, none)] }) :=
  if_pos h

theorem State.hostWriteLine_snooped (h : s.cxl.snoops.contains (lineOf off) = true) (data : Bytes) :
    s.hostWriteLine off data = s.mapCxl (fun c => { c with waiting := c.waiting ++ [(off, some data)] }) :=
  if_pos h

variable (hsnoop : s.cxl.snoops.contains (lineOf off) = false)
include hsnoop

theorem State.hostReadLine_unmapped (h : s.objAt off = none) (u : Bool) : s.hostReadLine off u = s.hdmUnmapped.emit (.hdmOnes off 64) := by
  rw [State.hostReadLine, if_neg (ne_true_of_eq_false hsnoop), h]

theorem State.hostWriteLine_unmapped (h : s.objAt off = none) (data : Bytes) : s.hostWriteLine off data = s.hdmUnmapped := by
  rw [State.hostWriteLine, if_neg (ne_true_of_eq_false hsnoop), h]

/-- A write to an object: held while it moves, else applied. -/
theorem State.hostWriteLine_object {i : Nat} (h : s.objAt off = some i) (data : Bytes) : s.hostWriteLine off data =
    let t := s.setObj i { s.obj i with touchBeat := s.now }
    if (t.obj i).state = 2 then
      t.mapMem (fun m => { m with tierMoves := m.tierMoves.map (fun y => if y.obj = i then { y with held := y.held ++ [(off, data)] } else y) })
    else (t.applyWrite i off data).touchMigrate i := by
  rw [State.hostWriteLine, if_neg (ne_true_of_eq_false hsnoop), h]

/-- A read of an object homed in GDDR7. -/
theorem State.hostReadLine_resident {i : Nat} (h : s.objAt off = some i)
    (hhome : ((s.setObj i { s.obj i with touchBeat := s.now }).obj i).home = 0) (u : Bool) : s.hostReadLine off u =
    let t := s.setObj i { s.obj i with touchBeat := s.now }
    let o := t.obj i
    let place := 4096 * o.loc + (off - o.base)
    let stored (a n : Nat) : Bytes := Tbl.readBytes t.mem.gddr (4096 * o.loc + a) n
    let v := (t.countRead o stored (off - o.base) 64).emit (.hdmData off (objRead o stored (off - o.base) 64))
    if u then ((t.bump (Reg.GDDR_UE (place / 4096 % 24))).raise Ev.gddrUe 0 (place / 4096 % 24) place).emit (.hdmOnes off 64)
    else if (decide (o.state = 1) && !o.readOnly) = true ∧ t.filterFull (lineOf off) = true then t.waitRoom off
    else if decide (o.state = 1) && !o.readOnly then v.grantLine (lineOf off) else v := by
  rw [State.hostReadLine, if_neg (ne_true_of_eq_false hsnoop), h]
  simp only [hhome]

theorem State.hostReadLine_elsewhere {i : Nat} (h : s.objAt off = some i) (u : Bool) :
    let t := s.setObj i { s.obj i with touchBeat := s.now }
    ((t.obj i).home = 3 → s.hostReadLine off u = t.partnerRead (t.obj i) off) ∧
    ((t.obj i).home = 1 ∨ (t.obj i).home = 2 → s.hostReadLine off u = (t.readThrough i off).touchMigrate i) := by
  intro t
  rw [State.hostReadLine, if_neg (ne_true_of_eq_false hsnoop), h]
  refine ⟨fun hhome => ?_, fun hhome => ?_⟩
  · simp only [t] at hhome
    simp only [hhome]
    rfl
  · simp only [t] at hhome
    rcases hhome with hhome | hhome <;> simp only [hhome] <;> rfl

end

/-! ## Completions, the link and the mailbox -/

theorem foldl_keeps {α β γ : Type} (p : α → γ) {f : α → β → α} (bs : List β) (hf : ∀ a b, p (f a b) = p a) (a : α) : p (bs.foldl f a) = p a := by
  induction bs generalizing a with
  | nil => rfl
  | cons b bs ih => exact (ih _).trans (hf a b)

@[simp] theorem State.raise_cxl (s : State) (code : Nat) (node : NodeId) (d0 d1 : Nat) (m : Option Nat) (o : Nat) :
    (s.raise code node d0 d1 m o).cxl = s.cxl := by
  unfold State.raise
  extract_lets
  split <;> rfl

@[simp] theorem State.countRead_cxl (s : State) (o : Obj) (stored : Nat → Nat → Bytes) (rel n : Nat) : (s.countRead o stored rel n).cxl = s.cxl :=
  rfl

theorem State.cxl_foldl_served (o : Obj) (stored : Nat → Nat → Bytes) (offs : List Nat) (s : State) :
    (offs.foldl (fun (s : State) off => (s.countRead o stored (off - o.base) 64).emit (.hdmData off (objRead o stored (off - o.base) 64))) s).cxl = s.cxl := by
  refine foldl_keeps State.cxl offs (fun t off => ?_) s
  rw [State.emit_cxl, State.countRead_cxl]

theorem State.cxl_foldl_ones (offs : List Nat) (s : State) :
    (offs.foldl (fun (s : State) off => s.emit (.hdmOnes off 64)) s).cxl = s.cxl := by
  refine foldl_keeps State.cxl offs (fun t off => ?_) s
  rfl

/-- The fetch from host memory at the head of the slot serves every read that joined it. -/
theorem exec_readThroughComplete_host {s : State} {r : ReadThrough} (hup : s.cdUp = true) (hr : s.mem.rts.find? (·.tier == 2) = some r)
    (hidle : s.cxl.ingress = []) (data : Bytes) (bad : Bool) : exec (.readThroughComplete 2 data bad) s = .next (
      let t := s.mapMem (fun m => { m with rts := m.rts.erase r })
      let o := s.obj r.obj
      let stored (a n : Nat) : Bytes := (data.drop (a - 4096 * r.unit)).take n ++ List.replicate (n - ((data.drop (a - 4096 * r.unit)).take n).length) 0
      if bad then (r.offs.foldl (fun (s : State) off => s.emit (.hdmOnes off 64)) t).raise Ev.gddrUe 0 r.obj
      else r.offs.foldl (fun (s : State) off => (s.countRead o stored (off - o.base) 64).emit (.hdmData off (objRead o stored (off - o.base) 64))) t) := by
  rw [show exec (.readThroughComplete 2 data bad) s = execReadThroughComplete 2 data bad s from rfl, execReadThroughComplete, hr]
  simp only
  rw [if_neg (by simp [hup])]
  have hflash : ((2 : Nat) = 4) = False := by simp
  have hfault : ((2 : Nat) == 4 && s.flLost (s.obj r.obj).loc (s.obj r.obj).units) = false := by simp
  cases bad
  · simp only [hfault, hflash, Bool.or_false, Bool.not_false, Bool.false_eq_true, if_true, if_false]
    rw [State.cxl_foldl_served, State.mapMem_cxl, hidle]
  · simp only [hfault, hflash, Bool.or_false, Bool.not_true, Bool.false_eq_true, if_true, if_false]
    rw [State.raise_cxl, State.cxl_foldl_ones, State.mapMem_cxl, hidle]

theorem exec_biSnoopAnswer {s : State} {line : Nat} (h : s.cxl.snoops.contains line = true) (modified : Option Bytes) (late : Bool) :
    exec (.biSnoopAnswer line modified late) s = .next (
      let t := s.mapCxl (fun c => { c with snoops := c.snoops.filter (· != line), lines := c.lines.filter (· != line) })
      let t := match modified, t.objAt line with
        | some d, some i => if (t.obj i).home = 0 then t.objWrite (t.obj i) (line - (t.obj i).base) d else t
        | _, _ => t
      let t := if late then (t.awaiting line).foldl State.lateFor ((t.mapCxl (fun c => { c with biLate := satInc 32 c.biLate })).raise Ev.biLate) else t
      ((t.mapCxl (fun c => { c with snoopFor := c.snoopFor.filter (·.1 != line) })).wake line).wakeFilter) := by
  rw [show exec (.biSnoopAnswer line modified late) s = execBiSnoopAnswer line modified late s from rfl, execBiSnoopAnswer, if_neg (by simp only [h]; decide)] <;> rfl

theorem exec_hdmDecoderCommit (base size : Nat) (s : State) : exec (.hdmDecoderCommit base size) s = .next (
    if base % mib256 ≠ 0 ∨ size % mib256 ≠ 0 ∨ 2 ^ 46 < size ∨ s.mem.objs.any (fun e => e.2.state != 0) then s
    else s.mapCxl (fun c => { c with decoder := some (base, size) })) := rfl

/-- A request of the SPDM messages of a mailbox object of ordinary length. -/
theorem exec_doeRequest_spdm {s : State} {code : Nat} {req : Bytes} (hlen : req.length ≤ 65536) (hcode : spdmCodes.contains code = true)
    (algs : List SpdmAlg) : exec (.doeRequest 1 code ⟨req, algs⟩) s = .next (s.spdm 1 code req algs) := by
  rw [show exec (.doeRequest 1 code ⟨req, algs⟩) s = execDoeRequest 1 code ⟨req, algs⟩ s from rfl, execDoeRequest]
  simp only
  rw [if_neg (by omega), if_neg (by omega), if_neg (by rw [hcode]; simp), if_pos (by simp)]

/-- A key set in the secured session. -/
theorem exec_doeRequest_keySet {s : State} {req : Bytes} (hlen : req.length ≤ 65536) (algs : List SpdmAlg) :
    exec (.doeRequest 2 0xFE ⟨req, algs⟩) s = .next (if s.cxl.session = 2 then
      (s.mapCxl (fun c => { c with ideInsecure := false })).emit (.doe (Config.standardReply 2 0xFE req)) else s.emit (spdmError 0x04 0)) := by
  rw [show exec (.doeRequest 2 0xFE ⟨req, algs⟩) s = execDoeRequest 2 0xFE ⟨req, algs⟩ s from rfl, execDoeRequest]
  simp only
  rw [if_neg (by omega), if_pos (by simp)]

end Sys2Proof.Machine

open Sys2Proof Sys2Proof.Machine

/-- Settles O34: it holds. -/
theorem hostInterface : Obligations.HostInterface := by
  refine ⟨fun s off i data => ⟨fun hdown => ⟨fun u => ?_, ?_⟩, fun hup hsnoop => ⟨fun u => ?_, fun hide => ?_⟩, fun hup hide => ?_,
      fun hup hsnoop hnone => ⟨fun u => ?_, fun hide => ?_⟩, fun hup hsnoop hobj => ?_⟩,
    fun s data r line base size width rate code addr req algs => ⟨fun hup hr hidle => ?_, fun hsnoop => ?_, fun hsnoop m l => ?_, rfl,
      ⟨fun hall => ?_, fun hbase => ?_, fun hany => ?_⟩, fun hperst hclk => ?_, fun hlen => ⟨fun hcode => ?_, ?_, ?_, fun halgs => ?_, fun hsession => ?_, fun hsession => ?_⟩, rfl⟩⟩
  · rw [show exec (.hostRead off u) s = execHostRead off u s from rfl, execHostRead, if_pos (by simp [hdown])]
  · rw [show exec (.hostWrite off data) s = execHostWrite off data s from rfl, execHostWrite, if_pos (.inl (by simp [hdown]))]
  · rw [exec_hostRead_up hup, State.hostReadLine_snooped hsnoop]
  · rw [exec_hostWrite_up hup hide, State.hostWriteLine_snooped hsnoop]
  · rw [show exec (.hostWrite off data) s = execHostWrite off data s from rfl, execHostWrite, if_pos (.inr hide)]
  · rw [exec_hostRead_up hup, State.hostReadLine_unmapped hsnoop hnone]
  · rw [exec_hostWrite_up hup hide, State.hostWriteLine_unmapped hsnoop hnone]
  · intro t o place stored v
    have hread := fun hhome u => (exec_hostRead_up hup u).trans (congrArg _ (State.hostReadLine_resident hsnoop hobj hhome u))
    have hwrite := fun hide => (exec_hostWrite_up hup hide data).trans (congrArg _ (State.hostWriteLine_object hsnoop hobj data))
    refine ⟨fun hhome hstate => ?_, fun hhome hstate hro hroom => ?_, fun hhome hstate hro hfull => ?_, fun hhome => ?_, fun hhome u => ?_, fun hhome u => ?_,
      fun hide hstate => ?_, fun hide hstate hhome hro => ?_, fun hide hstate hother => ?_⟩
    · have hgrants : (decide (o.state = 1) && !o.readOnly) = false := by rcases hstate with h | h <;> simp [h]
      refine (hread hhome false).trans (congrArg _ ?_)
      exact (if_neg Bool.false_ne_true).trans ((if_neg (fun h => Bool.false_ne_true (hgrants.symm.trans h.1))).trans
        (if_neg (ne_true_of_eq_false hgrants)))
    · have hgrants : (decide (o.state = 1) && !o.readOnly) = true := by simp [hstate, hro]
      refine (hread hhome false).trans (congrArg _ ?_)
      exact (if_neg Bool.false_ne_true).trans ((if_neg (fun h => Bool.false_ne_true (hroom.symm.trans h.2))).trans (if_pos hgrants))
    · have hgrants : (decide (o.state = 1) && !o.readOnly) = true := by simp [hstate, hro]
      exact (hread hhome false).trans (congrArg _ ((if_neg Bool.false_ne_true).trans (if_pos ⟨hgrants, hfull⟩)))
    · exact (hread hhome true).trans (congrArg _ (if_pos rfl))
    · rw [exec_hostRead_up hup, (State.hostReadLine_elsewhere hsnoop hobj u).1 hhome]
    · rw [exec_hostRead_up hup, (State.hostReadLine_elsewhere hsnoop hobj u).2 hhome]
    · exact (hwrite hide).trans (congrArg _ (if_pos hstate))
    · refine (hwrite hide).trans (congrArg _ ((if_neg hstate).trans ?_))
      exact congrArg (fun t : State => t.touchMigrate i) (if_pos ⟨hhome, (Bool.not_eq_true' _).mpr hro⟩)
    · refine (hwrite hide).trans (congrArg _ ((if_neg hstate).trans ?_))
      exact congrArg (fun t : State => t.touchMigrate i) (if_neg (by rintro ⟨h0, hro⟩; rcases hother with h | h; exacts [h h0, Bool.false_ne_true (((Bool.not_eq_true' _).mp hro).symm.trans h)]))
  · intro t o stored
    exact ⟨exec_readThroughComplete_host hup hr hidle data false, exec_readThroughComplete_host hup hr hidle data true⟩
  · intro t woken
    refine ⟨exec_biSnoopAnswer hsnoop none false, exec_biSnoopAnswer hsnoop none true, fun i d hi hhome => ?_⟩
    rw [exec_biSnoopAnswer hsnoop]
    simp only [t] at hi hhome
    simp only [hi, hhome, if_true]
    rfl
  · rw [show exec (.biSnoopAnswer line m l) s = execBiSnoopAnswer line m l s from rfl, execBiSnoopAnswer, if_pos (by simp only [hsnoop]; decide)]
  · obtain ⟨hbase, hsize, hmax, hnone⟩ := hall
    rw [exec_hdmDecoderCommit, if_neg]
    rintro (h | h | h | h)
    · exact h hbase
    · exact h hsize
    · omega
    · exact Bool.false_ne_true (hnone.symm.trans h)
  · rw [exec_hdmDecoderCommit, if_pos (.inl hbase)]
  · rw [exec_hdmDecoderCommit, if_pos (.inr (.inr (.inr hany)))]
  · refine ⟨s.free.1, ?_⟩
    intro t
    have hexec : exec (.cxlLinkTrained width rate) s = .next (if width < 16 ∨ rate < 64 then t.raise Ev.cxlLinkDegraded 0 width rate else t) := by
      rw [show exec (.cxlLinkTrained width rate) s = execCxlLinkTrained width rate s from rfl, execCxlLinkTrained,
        if_neg (by simp [hperst, hclk])]
      rfl
    exact ⟨fun hw hr => hexec.trans (congrArg _ (if_neg (by omega))), fun h => hexec.trans (congrArg _ (if_pos h))⟩
  · rw [show exec (.doeRequest 1 code ⟨req, algs⟩) s = execDoeRequest 1 code ⟨req, algs⟩ s from rfl, execDoeRequest]
    simp only
    rw [if_neg (by omega), if_neg (by omega), if_pos (by rw [hcode]; simp)]
    rfl
  · intro both
    rw [exec_doeRequest_spdm hlen (by decide)]
    refine ⟨fun hnone => congrArg _ (if_pos (List.isEmpty_iff.mpr hnone)), fun hsome => congrArg _ (if_neg (fun h => hsome (List.isEmpty_iff.mp h)))⟩
  · rw [exec_doeRequest_spdm hlen (by decide)]
    rfl
  · rw [exec_doeRequest_spdm hlen (by decide)]
    exact congrArg _ (if_pos halgs)
  · rw [exec_doeRequest_keySet hlen, if_pos hsession]
  · rw [exec_doeRequest_keySet hlen, if_neg hsession]
    rfl
end

section
/-! Windows opened and revoked (R375 to R378): obligation O35. -/

namespace Sys2Proof.Machine

/-! ## The opening and revocation of a window -/

/-- `WIN_OPEN` of a closed window without a region over a list of software's own. -/
theorem State.bodyWinOpen_user {s t : State} {c r : Nat} {w : IWord} {d : Bytes} {stage : List Page} (hshape : winShape d = true)
    (hclosed : (s.window w.opb.toNat).state = 0) (hdeed : (s.window w.opb.toNat).deed.state = .none) (hlist : s.listAt (le d 0 8) = .user r)
    (hbound : (s.plist r).bound = none) (hro : (s.plist r).readOnly = false) (hratio : sameRatio (s.plist r).pages = true)
    (hsize : le d 24 8 + 8 ≤ (s.plist r).pages.length * pageBytes (((s.plist r).pages.head?.map (·.ratio)).getD 0))
    (hstage : s.takePages 0 (((s.plist r).pages.head?.map (·.ratio)).getD 0) (le d 16 4) = some (stage, t)) :
    s.bodyWinOpen c w d =
      let i := w.opb.toNat
      let u := t.takeRegion i (le d 0 8) (.user r) (s.plist r).pages
      let gen := nextGen (u.window i).generation
      let lamp := le d 22 2
      .ok ((u.setWindow i { u.window i with
        state := 1, generation := gen, peer := BitVec.ofNat 64 (le d 8 8), rights := le d 20 1, tcMask := le d 21 1,
        lamp := (if bit lamp 15 then none else some (lamp % 2 ^ 14)), sealOff := le d 24 8, staging := stage,
        ratio := ((s.plist r).pages.head?.map (·.ratio)).getD 0 }).setOut (.instr c) (fun y => { y with out0 := gen })) := by
  have hpages : s.pagesAt (.user r) = (s.plist r).pages := rfl
  have hown : s.listOwner (.user r) = (s.plist r).bound := rfl
  have hread : s.listReadOnly (.user r) = (s.plist r).readOnly := rfl
  unfold State.bodyWinOpen
  simp only [hlist, hpages, hown, hread, hbound, hro]
  rw [if_neg (by simp [hshape]), if_neg (not_not_intro hclosed), if_neg (by simp [hdeed]), if_neg (by simp [hratio]; omega), hstage]

/-- A revocation that has drained closes the window. -/
theorem exec_winRevokeComplete_drained {s : State} {i : Nat} (hup : s.cdUp = true) (hstate : (s.window i).state = 2)
    (hbeats : (s.window i).revokeBeat + 3 ≤ s.now) (hlanded : s.fab.copiesIn.any (fun y => y.window == i && y.sealedAt) = false) :
    exec (.winRevokeComplete i) s = .next (
      let t := (s.dropPages ((s.window i).staging ++ (s.fab.copiesIn.filter (·.window == i)).flatMap (·.stage))).mapFab (fun f => { f with copiesIn := f.copiesIn.filter (fun y => y.window != i) })
      let u := (t.setWindow i { t.window i with state := 0, staging := [], revokeCtx := none }).lightLamp (s.window i).revokeLamp 1
      match (s.window i).revokeCtx with
      | some c => u.finish (.instr c) .ok
      | none => u) := by
  rw [show exec (.winRevokeComplete i) s = execWinRevokeComplete i s from rfl, execWinRevokeComplete]
  simp only
  have hdrained : ¬ ((!s.cdUp) = true ∨ (s.window i).state ≠ 2 ∨ s.now < (s.window i).revokeBeat + 3 ∨
      (s.fab.copiesIn.any fun c => c.window == i && c.sealedAt) = true) := by
    rintro (h | h | h | h)
    · simp [hup] at h
    · exact h hstate
    · omega
    · exact Bool.false_ne_true (hlanded.symm.trans h)
  rw [if_neg hdrained] <;> rfl

theorem exec_winRevokeComplete_waits {s : State} {i : Nat} (h : s.now < (s.window i).revokeBeat + 3 ∨
    s.fab.copiesIn.any (fun y => y.window == i && y.sealedAt) = true) : exec (.winRevokeComplete i) s = .next s := by
  rw [show exec (.winRevokeComplete i) s = execWinRevokeComplete i s from rfl, execWinRevokeComplete]
  simp only
  rw [if_pos (.inr (.inr h))]

end Sys2Proof.Machine

open Sys2Proof Sys2Proof.Machine

/-- Settles O35: it holds. -/
theorem windowOpenRevoke : Obligations.WindowOpenRevoke := by
  refine fun s c i w x d => ⟨fun r stage t h hi hshape hclosed hdeed hlist hbound hro hratio => ?_, fun h hi hshape hopen => ?_,
    fun h hi => ⟨fun hopen => ?_, fun hnot => ?_⟩, fun hup hstate => ⟨fun hearly => exec_winRevokeComplete_waits (.inl hearly),
      fun hland => exec_winRevokeComplete_waits (.inr hland), fun hbeats hlanded hctx => ?_⟩⟩
  · intro ratio hsize hstage u gen lamp win
    subst hi
    rw [exec_of_runs h rfl, State.bodyWinOpen_user hshape hclosed hdeed hlist hbound hro hratio hsize hstage]
    exact congrArg _ (State.settle_ok _ _ _)
  · subst hi
    rw [exec_of_runs h rfl, State.bodyWinOpen, if_neg (by simp [hshape]), if_pos hopen, State.settle_fail]
  · subst hi
    intro t
    rw [exec_of_runs h rfl]
    simp only
    rw [if_neg (not_not_intro hopen)]
    rfl
  · subst hi
    rw [exec_of_runs h rfl]
    simp only
    rw [if_pos hnot, State.settle_fail]
  · intro t u
    rw [exec_winRevokeComplete_drained hup hstate hbeats hlanded, hctx]
end

section
/-! Frames that name a window, `SEAL`, remote loads and copies (R153, R154, R188, R377, R379 to R388, R394): obligations O36 and O37. -/

namespace Sys2Proof.Machine

/-! ## The checks at the target (Table 13.12) -/

section
variable {s : State} {f : Frame} {wn right : Nat} {inside : Window → Bool} (hwin : f.window = some wn)
include hwin

theorem State.windowCheck_generation (hgen : f.generation ≠ (s.window wn).generation) : s.windowCheck f right inside = some 1 := by
  rw [State.windowCheck, hwin]
  exact if_pos (.inr hgen)

variable (hgen : f.generation = (s.window wn).generation)
include hgen

theorem State.windowCheck_state (hstate : (s.window wn).state ≠ 1) : s.windowCheck f right inside = some 2 := by
  rw [State.windowCheck, hwin]
  exact (if_neg (by simp [hgen])).trans (if_pos hstate)

variable (hstate : (s.window wn).state = 1)
include hstate

theorem State.windowCheck_access (h : s.admitted (s.window wn) f.src = false ∨ bit (s.window wn).rights right = false ∨
    bit (s.window wn).tcMask f.tc = false ∨ inside (s.window wn) = false) : s.windowCheck f right inside = some 3 := by
  rw [State.windowCheck, hwin]
  refine (if_neg (by simp [hgen])).trans ((if_neg (not_not_intro hstate)).trans (if_pos ?_))
  simpa using h

/-- A frame that passes the first three checks. -/
theorem State.windowCheck_served (hadm : s.admitted (s.window wn) f.src = true) (hright : bit (s.window wn).rights right = true)
    (htc : bit (s.window wn).tcMask f.tc = true) (hin : inside (s.window wn) = true) :
    s.windowCheck f right inside = if (s.window wn).deed.state ≠ .home then some 4 else none := by
  rw [State.windowCheck, hwin]
  exact (if_neg (by simp [hgen])).trans ((if_neg (not_not_intro hstate)).trans (if_neg (by simp [hadm, hright, htc, hin])))

end

/-! ## Frames that name a window -/

theorem exec_winSealReceive_passes {s t : State} {f : Frame} (h : Delivered s f .winSeal t) {wn : Nat} (hwin : f.window = some wn)
    (hcheck : t.windowCheck f 2 (fun _ => true) = none) (light : Bool) : exec (.winSealReceive f light) s = .next (
      (match light, (t.window wn).lamp with
        | true, some j => (t.writeStream (t.window wn).deed.pages (t.window wn).sealOff
            (leBytes 8 (leVal (pageStream (t.window wn).deed.pages t (t.window wn).sealOff 8) + 1))).lightLamp j 1
        | _, _ => t.writeStream (t.window wn).deed.pages (t.window wn).sealOff
            (leBytes 8 (leVal (pageStream (t.window wn).deed.pages t (t.window wn).sealOff 8) + 1))).acked f) := by
  rw [exec_delivered (i := .winSealReceive f light) h rfl, hcheck, hwin]
  rfl

theorem exec_readReceive_serves {s t : State} {f : Frame} (h : Delivered s f .read t) {wn len : Nat} (hwin : f.window = some wn)
    (hcheck : t.windowCheck f 0 (fun w => true && decide (f.offset % 64 = 0 ∧ len % 64 = 0 ∧ 64 ≤ len ∧ len ≤ 4096 ∧ f.offset + len ≤ w.size)) = none) :
    exec (.readReceive f len true) s = .next
      ((t.send f.src .readResp 3 len (.bytes (pageStream (t.window wn).deed.pages t f.offset len)) f.ref none 0 f.offset).acked f) := by
  rw [exec_delivered (i := .readReceive f len true) h rfl]
  simp only [hcheck]
  rw [hwin]
  rfl

theorem exec_loadTimeout {s : State} {i : Nat} {y : Load} (hy : s.fab.loads.find? (·.id == i) = some y) : exec (.loadTimeout i) s = .next (
    if s.clk.time < y.sentNs + 1000 * bits (s.regN Reg.LOAD_TIMEOUT) 7 0 then s
    else (((s.dropLoad i).bump Reg.LOAD_TIMEOUTS).raise Ev.remoteLoadTimeout y.dst y.window y.off).emit (.hdmOnes y.hdm y.len)) := by
  rw [show exec (.loadTimeout i) s = execLoadTimeout i s from rfl, execLoadTimeout, hy]

/-! ## `SEAL` -/

/-- `SEAL` through its precondition, with the window's generation as it is known here. -/
theorem exec_sealWin_of_runs {s u : State} {c gen : Nat} {w : IWord} {x : Ctx} (h : Runs s c 0x73 w x) (hgen : s.knownGen w.opc w.opb.toNat = (gen, u)) :
    exec (.sealWin c w) s = .next (s.settle c (afterPre (s.preSeal w x) (.wait
      ((u.mapFab (fun f => { f with nextId := s.fab.nextId + 1, seals := f.seals ++ [{ id := s.fab.nextId, owner := .instr c, node := w.opc }] })).send
        w.opc .winSeal 4 8 (.sealW (w.flag 8) s.fab.nextId) s.fab.nextId (some w.opb.toNat) gen 0 0 false none x.entry.svc) .op))) := by
  rw [exec_of_runs h rfl, hgen]

/-! ## `COPY` at the initiator -/

theorem turnOf_of_runs {s : State} {c op : Nat} {w : IWord} {x : Ctx} (h : Runs s c op w x) : s.turnOf c op w = true := by
  obtain ⟨⟨hctx, hphase, hwait, hword, hpaused, hheld⟩, ⟨hshape, hmeadow⟩, hposted⟩ := h
  simp only [State.turnOf, hctx, hphase, hwait, hword, hpaused, hheld, hshape, hposted]
  simpa [or_iff_not_imp_left] using hmeadow

/-- An instruction whose turn has come calls back the lines of its operands that the host holds. -/
theorem State.coherent_calls {s : State} {c op : Nat} {w : IWord} {x : Ctx} (h : Runs s c op w x) {ok : Bool} (hok : ok = true)
    {reads writes : List (Nat × Nat)} (hlines : s.tracked (reads ++ writes) ≠ []) (go : State → State) : s.coherent c op w ok reads writes go =
      (s.callBack reads writes).mapCxl (fun y => { y with snoopFor := (y.snoopFor ++ (s.tracked (reads ++ writes)).map (·, c)).eraseDups }) :=
  if_pos ⟨turnOf_of_runs h, hok, hlines⟩

theorem exec_copy_of_runs {s : State} {c : Nat} {w : IWord} {x : Ctx} (h : Runs s c 0x72 w x) {d : Bytes}
    (hlines : s.tracked (s.gddrSpan (le d 0 8) (le d 32 8)) = []) : exec (.copy c w d) s = .next (s.settle c (s.bodyCopy c w d x)) :=
  exec_coherent_of_runs (i := .copy c w d) h (writes := []) (by rwa [List.append_nil]) rfl

/-! ## `COPY` at the target -/

/-- A copy's open that passes the checks takes staging pages with the present bytes. -/
theorem exec_copyOpenReceive_of_check {s t : State} {f : Frame} {o : CopyOpen} (h : Delivered s f .openK t) {r : Option Nat}
    (hcheck : t.windowCheck f 1 (fun w => decide (1 ≤ o.len ∧ o.dstOff + o.len ≤ w.size ∧ (touched w.ratio o.dstOff o.len).2 ≤ w.staging.length)) = r) :
    exec (.copyOpenReceive f o) s = .next (State.acked (match (generalizing := false) r with
      | some k => t.refuseCopy f .openK k
      | none =>
        let win := t.window (f.window.getD 0)
        let first := (touched win.ratio o.dstOff o.len).1
        let n := (touched win.ratio o.dstOff o.len).2
        let u := (t.setWindow (f.window.getD 0) { win with staging := win.staging.drop n }).copyPages ((win.deed.pages.drop first).take n) (win.staging.take n)
        u.mapFab (fun g => { g with copiesIn := g.copiesIn ++
          [{ id := f.ref, src := f.src, window := f.window.getD 0, op := o, firstPage := first, stage := win.staging.take n, got := 0, sealedAt := false, till := o.promised + bits (u.regN Reg.DEED_TIMEOUT) 23 0 }] })) f) := by
  rw [exec_delivered (i := .copyOpenReceive f o) h rfl]
  subst hcheck
  rfl

/-- A transfer with one more data frame arrived. -/
def CopyIn.withFrame (y : CopyIn) (f : Frame) : CopyIn := { y with got := y.got + 1, sealedAt := y.sealedAt || f.sealBit }

/-- What a data frame whose bytes stand in staging does: the transfer goes on, or with the sealed last frame it lands or is refused. -/
def State.takeCopyData (u : State) (f : Frame) (y : CopyIn) (collided : Bool) : State :=
  if y.got + 1 < y.op.frames ∨ !(y.sealedAt || f.sealBit) then
    u.mapFab (fun g => { g with copiesIn := g.copiesIn.map (fun q => if q.id = y.id ∧ q.src = y.src then y.withFrame f else q) })
  else if (u.window y.window).deed.state ≠ .home then (u.dropCopyIn (y.withFrame f)).sendNack f .data .staleEpoch
  else if collided then ((u.bump Reg.COMMONS_COLLISIONS).dropCopyIn (y.withFrame f)).sendNack f .data .writeCollided
  else u.landCopy (y.withFrame f)

section
variable {u : State} {f : Frame} {y : CopyIn}

theorem State.takeCopyData_more (h : y.got + 1 < y.op.frames ∨ (y.sealedAt || f.sealBit) = false) (collided : Bool) :
    u.takeCopyData f y collided =
      u.mapFab (fun g => { g with copiesIn := g.copiesIn.map (fun q => if q.id = y.id ∧ q.src = y.src then y.withFrame f else q) }) :=
  if_pos (h.imp id (Bool.not_eq_true' _).mpr)

theorem State.takeCopyData_last (hall : y.op.frames ≤ y.got + 1) (hsealed : (y.sealedAt || f.sealBit) = true) (collided : Bool) :
    u.takeCopyData f y collided = if (u.window y.window).deed.state ≠ .home then (u.dropCopyIn (y.withFrame f)).sendNack f .data .staleEpoch
      else if collided then ((u.bump Reg.COMMONS_COLLISIONS).dropCopyIn (y.withFrame f)).sendNack f .data .writeCollided
      else u.landCopy (y.withFrame f) :=
  if_neg (by rw [hsealed]; simpa using hall)

end

/-- A data frame of a transfer under way that passes the checks of its window. -/
theorem exec_copyDataReceive_of_check {s t : State} {f : Frame} {data : Bytes} {y : CopyIn} (h : Delivered s f .data t) (hy : t.copyInOf f = some y)
    (hcheck : t.windowCheck f 1 (fun _ => decide (y.op.dstOff ≤ f.offset ∧ f.offset + data.length ≤ y.op.dstOff + y.op.len)) = none) (ok collided : Bool) :
    exec (.copyDataReceive f data ok collided) s = .next ((
      if !ok then (t.dropCopyIn y).sendNack f .data .checkFail
      else (t.writeStream y.stage (f.offset - y.firstPage * pageBytes (t.window y.window).ratio) data).takeCopyData f y collided).acked f) := by
  rw [exec_delivered (i := .copyDataReceive f data ok collided) h rfl]
  simp only [hy]
  rw [hcheck]
  rfl

theorem exec_copyCommitReceive {s t u : State} {f : Frame} {beat : Nat} {code : Code} {z : CopyOut} (h : Delivered s f .commit t)
    (hz : t.fab.copies.find? (fun x => x.id == f.ref && x.dst == f.src) = some z) (hkeep : (t.dropCopy z).keepPromise z.promise beat true = (u, code)) :
    exec (.copyCommitReceive f beat) s = .next ((u.finish z.owner code).acked f) := by
  rw [exec_delivered (i := .copyCommitReceive f beat) h rfl, hz]
  exact congrArg (fun r : State × Code => Host.Outcome.next ((r.1.finish z.owner r.2).acked f)) hkeep

end Sys2Proof.Machine

open Sys2Proof Sys2Proof.Machine

/-- Settles O36: it holds. -/
theorem windowFrames : Obligations.WindowFrames := by
  refine fun s t f c i len wn w x data y => ⟨fun hwin => ⟨fun right inside => ⟨State.windowCheck_generation hwin, State.windowCheck_state hwin,
      State.windowCheck_access hwin, fun hgen hstate hadm hright htc hin => ?_⟩, fun kind => ⟨rfl, ?_, ?_, ?_⟩, fun h hcheck => ?_,
      fun k h hcheck l => ?_, fun h h1 h2 h3 h4 h5 hgen hstate hadm hright htc hhome => ?_⟩,
    fun h hy => ?_, fun hy => ⟨fun hearly => ?_, fun hlate => ?_⟩, fun gen u h hpre hgen => ?_, fun code obs h hpre => ?_, fun n z h hkind hz => ?_⟩
  · rw [State.windowCheck_served hwin hgen hstate hadm hright htc hin]
    exact ⟨fun h => if_pos h, fun h => if_neg (not_not_intro h)⟩
  iterate 3
    · simp [State.refuseWindow, hwin]
  · refine ⟨exec_winSealReceive_passes h hwin hcheck false, fun j hj => ?_⟩
    rw [exec_winSealReceive_passes h hwin hcheck true, hj]
  · rw [exec_delivered (i := .winSealReceive f l) h rfl, hcheck]
  · refine exec_readReceive_serves h hwin ?_
    rw [State.windowCheck_served hwin hgen hstate hadm hright htc (by simp [h1, h2, h3, h4, h5])]
    exact if_neg (not_not_intro hhome)
  · rw [exec_delivered (i := .readRespReceive f data) h rfl, hy]
  · rw [exec_loadTimeout hy, if_pos hearly]
  · rw [exec_loadTimeout hy, if_neg (Nat.not_lt.mpr hlate)]
  · intro v
    rw [exec_sealWin_of_runs h hgen, State.settle_afterPre_none hpre]
    rfl
  · rw [exec_sealWin_of_runs h rfl, State.settle_afterPre_some hpre]
  · rw [exec_delivered (i := .nackReceive f n) h rfl]
    simp only [hkind, hz]

/-- Settles O37: it holds. -/
theorem copies : Obligations.Copies := by
  refine fun s t f c beat w x d data o y z => ⟨fun h hshape hlines => ?_, fun u id n h hlines hpre hadmit => ?_, fun code obs h hlines hpre => ?_,
    fun h => ⟨fun hcheck => ?_, fun k hcheck => ?_⟩, fun h hy hcheck => ⟨fun col => ?_, fun col hmore => ?_, fun hall hsealed hgone col => ?_,
      fun hall hsealed hhome => ?_⟩, fun u code h hz hkeep => exec_copyCommitReceive h hz hkeep⟩
  · refine congrArg Host.Outcome.next ?_
    rw [State.coherent_calls h (by rwa [ctx_of_runs h]) (by rwa [List.append_nil]), List.append_nil]
  · intro v
    rw [exec_copy_of_runs h hlines, State.bodyCopy, State.settle_afterPre_none hpre, hadmit, owner_of_runs h]
    rfl
  · rw [exec_copy_of_runs h hlines, State.bodyCopy, State.settle_afterPre_some hpre]
  · intro first n u
    exact exec_copyOpenReceive_of_check h hcheck
  · exact exec_copyOpenReceive_of_check h hcheck
  · rw [exec_copyDataReceive_of_check h hy hcheck]
    rfl
  · rw [exec_copyDataReceive_of_check h hy hcheck, if_neg (by simp), State.takeCopyData_more hmore]
    rfl
  · rw [exec_copyDataReceive_of_check h hy hcheck, if_neg (by simp), State.takeCopyData_last hall hsealed, if_pos hgone]
    rfl
  · constructor <;>
      rw [exec_copyDataReceive_of_check h hy hcheck, if_neg (by simp), State.takeCopyData_last hall hsealed, if_neg (not_not_intro hhome)] <;> rfl
end

section
/-! Fields: forming, membership changes, a field at work, and FIELD_CTRL (R212, R213, R414 to R433): obligations O38 and O39. -/

namespace Sys2Proof.Machine

@[simp] theorem State.field_setField_self (s : State) (m : Nat) (f : FieldSt) : (s.setField m f).field m = f :=
  Tbl.get_set_self (fun _ => ({} : FieldSt)) _ _ _

/-! ## The field instructions (Table 5.19) -/

/-- A form at a member other than the root: READY goes to the root. -/
theorem State.startForm_member {s : State} {f : FieldDesc} (hroot : f.root ≠ s.me) (m c : Nat) : s.startForm m c f =
    (s.setField m (FieldSt.forming f c s.now)).sendMgmt f.root
      (.fieldReady { fieldId := f.fieldId, crc := f.crc, freeBeat := s.freeBeat m, refused := false }) :=
  if_neg hroot

section
variable {s : State} {c : Nat} {w : IWord} {x : Ctx} {d : Bytes}

theorem exec_fieldForm_of_runs (h : Runs s c 0x78 w x) : exec (.fieldForm c w d) s = .next (s.settle c
    (afterPre (s.preForm w.opa.toNat d) (.wait (s.startForm w.opa.toNat c (parseField d)) .op))) :=
  congrArg Host.Outcome.next (State.runInstr_runs h _ _ _ _ _)

/-- The descriptor that `FIELD_ADMIT` sends: the members with the new node, at the highest weight among them. -/
def FieldSt.admitting (f : FieldSt) (n : NodeId) : FieldDesc :=
  f.descOf (f.members ++ [{ node := n, meadow := 0, weight := f.members.foldl (fun a e => max a e.weight) 1 }])

theorem exec_fieldAdmit_of_runs (h : Runs s c 0x79 w x) : exec (.fieldAdmit c w) s = .next (s.settle c
    (afterPre (s.preFieldAdmit x.entry.meadow w.opc)
      (.wait (s.startChange x.entry.meadow .join ((s.field x.entry.meadow).admitting w.opc) w.opc (some c)) .op))) :=
  congrArg Host.Outcome.next (State.runInstr_runs h _ _ _ _ _)

theorem exec_fieldExpel_of_runs (h : Runs s c 0x7A w x) : exec (.fieldExpel c w) s = .next (s.settle c
    (afterPre (s.preExpel x.entry.meadow w.opc) (.wait (s.startChange x.entry.meadow .expel
      ((s.field x.entry.meadow).descOf ((s.field x.entry.meadow).members.filter (fun e => e.node != w.opc))) w.opc (some c)) .op))) :=
  congrArg Host.Outcome.next (State.runInstr_runs h _ _ _ _ _)

/-- What a re-form that passes its precondition does: it is refused where this Cucia's own answer is a refusal. -/
def State.reformStart (s : State) (c m : Nat) (d : Bytes) : IRes :=
  if s.answerTo m { kind := .reform, desc := parseField d, subject := (parseField d).root } = some true then
    .failAs (s.setOut (.instr c) (fun y => { y with out0 := s.me.toNat })) .illegalInState (obsOf 5 (s.field m).state)
  else .wait (((s.withdrawAll m (droppedBy (parseField d)) .fieldChanged).publish (.instr c) 4 0 (parseField d).members.length).startChange
    m .reform (parseField d) (parseField d).root (some c)) .op

theorem exec_fieldReform_of_runs (h : Runs s c 0x7B w x) : exec (.fieldReform c w d) s = .next (s.settle c
    (afterPre (s.preReform x.entry.meadow d) (s.reformStart c x.entry.meadow d))) :=
  congrArg Host.Outcome.next (State.runInstr_runs h _ _ _ _ _)

end

/-! ## READY, the commit beat and aborts -/

theorem any_node_iff {ms : List FieldMember} {n : NodeId} : ms.any (·.node == n) = true ↔ ∃ e ∈ ms, e.node = n := by
  simp

theorem exec_fieldReadyReceive_forming {s t : State} {f : Frame} {r : FieldReady} {m : Nat} {x : FieldSt} (h : Delivered s f .mgmt t)
    (hx : t.fld.find? (fun e => e.2.id == r.fieldId && e.2.state == 1 && e.2.root == t.me) = some (m, x)) :
    exec (.fieldReadyReceive f r) s = .next (State.acked (if x.desc.map (·.crc) ≠ some r.crc ∨ !x.members.any (·.node == f.src) then t
      else (t.setField m { x with ready := x.ready.filter (fun e => e.1 != f.src) ++ [(f.src, r)] }).tryForm m) f) := by
  rw [exec_delivered (i := .fieldReadyReceive f r) h rfl, hx]

theorem exec_fieldCommitBeatReceive_forming {s t : State} {f : Frame} {id m c : Nat} {x : FieldSt} (h : Delivered s f .mgmt t)
    (hx : t.fld.find? (fun e => e.2.id == id && e.2.state == 1 && e.2.root == f.src) = some (m, x)) :
    exec (.fieldCommitBeatReceive f id c) s = .next (State.acked (
      if c < t.now then (t.endForm m .fieldChanged none).raise Ev.fieldCommitLate f.src id c (some m)
      else t.setField m { x with commitAt := some c }) f) := by
  rw [exec_delivered (i := .fieldCommitBeatReceive f id c) h rfl, hx]

/-! ## The end of a form -/

theorem exec_fieldFormTimeout_forming {s : State} {m : Nat} (hstate : (s.field m).state = 1) : exec (.fieldFormTimeout m) s = .next (
    if (s.field m).commitAt.isSome ∨ s.now < (s.field m).since + bits (s.regN Reg.FIELD_FORM_TIMEOUT) 23 0 then s
    else if (s.field m).root = s.me then
      let n := (missing ((s.field m).members.map (·.node)) (s.field m).ready).getD 0
      ((s.field m).members.foldl (fun (s' : State) e => if e.node = s'.me then s' else s'.sendMgmt e.node (.fieldAbort (s.field m).id n)) s).endForm m .targetDead (some n)
    else s.endForm m .targetDead (some (s.field m).root)) := by
  rw [show exec (.fieldFormTimeout m) s = execFieldFormTimeout m s from rfl, execFieldFormTimeout]
  simp only [hstate, if_true]

/-- The field that a form becomes at its commit beat (R415). -/
def FieldSt.formed (f : FieldSt) : FieldSt :=
  { f with state := 2, epoch := 1, commitAt := none, owner := none, desc := none, ready := [], health := f.members.map (fun e => (e.node, 1000)) }

theorem exec_fieldCommit_forming {s : State} {m : Nat} (hup : s.cdUp = true) (hsteps : (s.mdw m).steps.any (·.started) = false)
    (hstate : (s.field m).state = 1) : exec (.fieldCommit m) s = .next (if dueBy s.now (s.field m).commitAt then
      ((s.setField m (s.field m).formed).setMdw m { s.mdw m with captures := loseCaptures 2 (s.mdw m).captures }).endFieldOp (s.field m).owner .ok none
      else s) := by
  rw [show exec (.fieldCommit m) s = execFieldCommit m s from rfl, execFieldCommit]
  simp only [hup, hsteps, hstate, if_true]
  rw [if_neg (by simp)]
  rfl

/-! ## A field at work -/

section
variable {s t : State} {f : Frame} {ch : FieldChange} {m : Nat} {same : Bool}

theorem exec_fieldChangeReceive_hold (h : Delivered s f .mgmt t) (hm : t.changeMeadow ch = some m) {kind : ChangeKind} (hkind : ch.kind = kind)
    (hhold : isHold kind = true) : exec (.fieldChangeReceive f ⟨ch, same⟩) s = .next ((t.takeHold m f.src ch.subject kind).acked f) := by
  rw [exec_delivered (i := .fieldChangeReceive f ⟨ch, same⟩) h rfl]
  simp only [hm, hkind, hhold, if_true]

theorem State.takeHold_other {src : NodeId} (hroot : (s.field m).root ≠ src) (subject : NodeId) (kind : ChangeKind) :
    s.takeHold m src subject kind = s :=
  if_pos hroot

theorem State.takeHold_hold {src : NodeId} (hroot : (s.field m).root = src) (hstate : (s.field m).state = 2) (subject : NodeId) (reason : Nat) :
    s.takeHold m src subject (.hold reason) = s.enterHold m subject reason :=
  (if_neg (not_not_intro hroot)).trans (if_pos hstate)

theorem State.takeHold_release {src : NodeId} (hroot : (s.field m).root = src) (hstate : (s.field m).state = 3) (subject : NodeId) :
    s.takeHold m src subject .release = s.setField m { s.field m with state := 2 } :=
  (if_neg (not_not_intro hroot)).trans (if_pos hstate)

/-- A change that a member hears of: announced, and answered unless it names a new root whose count differs. -/
theorem exec_fieldChangeReceive_announced (h : Delivered s f .mgmt t) (hm : t.changeMeadow ch = some m) (hhold : isHold ch.kind = false)
    (hkind : ch.kind ≠ .withdraw) {conflict : Bool}
    (hconflict : (decide (ch.kind = .reform ∧ (t.field m).root ≠ 0 ∧ ch.desc.root ≠ (t.field m).root) && !same) = conflict) :
    exec (.fieldChangeReceive f ⟨ch, same⟩) s = .next (
      ((((if conflict then t.raise Ev.beaconConflict ch.desc.root 0 t.now else t).setField m { t.field m with announced := (t.field m).announced ++
        [{ change := ch, issuer := f.src, answered := conflict, commitAt := none, hold := decide (ch.kind = .expel ∧ (t.field m).state = 3) }] }).answerChange
          m (t.field m).announced.length)).acked f) := by
  subst hconflict
  rw [exec_delivered (i := .fieldChangeReceive f ⟨ch, same⟩) h rfl]
  simp only [hm, hhold, if_neg hkind]
  rfl

/-- A change that has been answered gets no other answer. -/
theorem State.answerChange_answered {s : State} {m : Nat} {g : FieldSt} {a : Announced} (ha : a.answered = true) :
    (s.setField m { g with announced := g.announced ++ [a] }).answerChange m g.announced.length =
      s.setField m { g with announced := g.announced ++ [a] } := by
  rw [State.answerChange, State.field_setField_self]
  simp [ha]

theorem exec_stepReportReceive {r : StepReport} (h : Delivered s f .mgmt t) {o : Option Nat} (hm : t.fieldBy r.fieldId = o) :
    exec (.stepReportReceive f r) s = .next (State.acked (match (generalizing := false) o with
      | none => t
      | some m => if (t.field m).root ≠ t.me ∨ !(t.field m).members.any (·.node == f.src) then t
        else t.setField m { t.field m with
          reports := (t.field m).reports ++ [(f.src, r)], evalSeq := some ((t.field m).evalSeq.getD r.stepSeq), reportBeat := t.now }) f) := by
  subst hm
  rw [exec_delivered (i := .stepReportReceive f r) h rfl] <;> rfl

/-- Step data of a member of a field, under its stamps. -/
theorem exec_collectiveReceive {seq row : Nat} {deeds : List (Nat × Nat)} {data : Bytes} {x : FieldSt} (h : Delivered s f .collective t)
    (hfwd : f.forwarded = false) (hx : t.fld.find? (fun e => t.fielded e.1 && e.2.members.any (·.node == f.src)) = some (m, x)) :
    exec (.collectiveReceive f ⟨seq, row, deeds⟩ data) s = .next (State.acked (
      if !t.contributionOk m f.stamp row deeds then (t.bump Reg.STALE_DISCARDS).sendNack f .collective .staleEpoch
      else t.setField m { x with data := x.data.filter (fun e => decide (t.regN (Reg.STEP_SEQ m) ≤ e.2.1)) ++ [(f.src, seq, data)] }) f) := by
  rw [exec_delivered (i := .collectiveReceive f ⟨seq, row, deeds⟩ data) h rfl, hx]
  simp only [hfwd]
  rfl

/-- The guard on a contribution for a row that has a request (R212, R213). -/
theorem State.contributionOk_iff {stamp row k : Nat} {deeds : List (Nat × Nat)} {q : Request}
    (hq : t.lore.requests.find? (fun e => e.2.meadow == m && e.2.state.live && e.2.row == some row) = some (k, q)) :
    t.contributionOk m stamp row deeds = true ↔ stamp = q.placement ∧ ∀ e ∈ deeds, (t.deed (.own q.lantern e.1)).epoch = e.2 := by
  rw [State.contributionOk, hq]
  simp only [Bool.and_eq_true, decide_eq_true_eq, List.all_eq_true]

end

/-! ### The evaluation of a step at the root (R421, R422) -/

/-- A member's report of a step. -/
def FieldSt.reportOf (f : FieldSt) (q : Nat) (n : NodeId) : Option StepReport := (f.reports.find? (fun r => r.1 == n && r.2.stepSeq == q)).map (·.2)

/-- A member's score before the step. -/
def FieldSt.scoreOf (f : FieldSt) (n : NodeId) : Nat := ((f.health.find? (·.1 == n)).map (·.2)).getD 1000

/-- The field once step `q` has been evaluated. -/
def FieldSt.evaluated (f : FieldSt) (pen q : Nat) : FieldSt :=
  { f with
    health := f.members.map (fun e => (e.node, if f.state = 3 then f.scoreOf e.node else scoreAfter pen (f.scoreOf e.node) (f.reportOf q e.node)))
    late := f.members.map (fun e => (e.node, if (f.reportOf q e.node).all (fun r => decide (r.slack < 0)) then ((f.late.find? (·.1 == e.node)).map (·.2)).getD 0 + 1 else 0))
    reports := f.reports.filter (fun r => decide (q < r.2.stepSeq))
    evalSeq := if (f.reports.filter (fun r => decide (q < r.2.stepSeq))).isEmpty then none else some (q + 1) }

section
variable {s : State} {m q : Nat} (hup : s.cdUp = true) (hleads : s.leads m = true) (hq : (s.field m).evalSeq = some q)
include hq

theorem exec_fieldStepEvaluation : exec (.fieldStepEvaluation m) s = .next (
    if !s.cdUp ∨ !s.leads m ∨ !(((s.field m).members.all (fun e => ((s.field m).reportOf q e.node).isSome) && decide ((s.field m).reportBeat < s.now)) ||
      decide (q < s.regN (Reg.STEP_SEQ m))) then s
    else if (s.field m).state = 2 then
      ((s.setField m ((s.field m).evaluated (s.regN Reg.HEALTH_PEN) q)).straggle m).expelCandidate m
    else s.setField m ((s.field m).evaluated (s.regN Reg.HEALTH_PEN) q)) := by
  rw [show exec (.fieldStepEvaluation m) s = execFieldStepEvaluation m s from rfl, execFieldStepEvaluation]
  simp only [hq]
  rfl

theorem exec_fieldStepEvaluation_waits (hseq : s.regN (Reg.STEP_SEQ m) ≤ q)
    (h : (∃ e ∈ (s.field m).members, (s.field m).reportOf q e.node = none) ∨ s.now ≤ (s.field m).reportBeat) :
    exec (.fieldStepEvaluation m) s = .next s := by
  rw [exec_fieldStepEvaluation hq, if_pos]
  refine .inr (.inr ?_)
  rcases h with ⟨e, he, hnone⟩ | hearly
  · have hall : ((s.field m).members.all fun e => ((s.field m).reportOf q e.node).isSome) = false :=
      List.all_eq_false.mpr ⟨e, he, by simp [hnone]⟩
    simp [hseq, hall]
  · simp [hseq, hearly]

include hup hleads

/-- The step is due: every report is there and the beat after the last has come, or a later step has committed. -/
theorem exec_fieldStepEvaluation_due (h : ((∀ e ∈ (s.field m).members, ((s.field m).reportOf q e.node).isSome = true) ∧ (s.field m).reportBeat < s.now) ∨
    q < s.regN (Reg.STEP_SEQ m)) : exec (.fieldStepEvaluation m) s = .next (if (s.field m).state = 2 then
      ((s.setField m ((s.field m).evaluated (s.regN Reg.HEALTH_PEN) q)).straggle m).expelCandidate m
    else s.setField m ((s.field m).evaluated (s.regN Reg.HEALTH_PEN) q)) := by
  rw [exec_fieldStepEvaluation hq, if_neg]
  rcases h with ⟨hall, hbeat⟩ | hlater
  · simp [hup, hleads, hbeat, List.all_eq_true.mpr hall]
  · simp [hup, hleads, hlater]

end

/-! ## FIELD_CTRL -/

section
variable {s : State} {m failures : Nat} (hup : s.cdUp = true)
include hup

theorem exec_fieldCtrlPrep : exec (.fieldCtrlPrep m) s = .next (
    if (s.mdw m).state ≠ .drained ∨ bit (s.regN Reg.FIELD_READY) 30 then s.configReject Reg.FIELD_CTRL (0x90000000 + m)
    else (s.setRegN Reg.FIELD_READY (2 ^ 30 + 256 * m)).addJob 8 prepJob ((s.mdw m).tiles.map (fun t => (resTile t, s.prepNs)))) := by
  rw [show exec (.fieldCtrlPrep m) s = execFieldCtrlPrep m s from rfl, execFieldCtrlPrep, if_neg (by simp [hup]),
    show fieldReadyReg false true m 0 = 2 ^ 30 + 256 * m by simp [fieldReadyReg, b2n]]

theorem exec_fieldPrepComplete_done (hbusy : bit (s.regN Reg.FIELD_READY) 30 = true) (hdone : s.jobDone 8 prepJob = true) :
    exec (.fieldPrepComplete failures) s = .next (
      (((s.dropJob 8 prepJob).mdw (bits (s.regN Reg.FIELD_READY) 10 8)).tiles.foldl State.zeroTile (s.dropJob 8 prepJob)).setRegN
        Reg.FIELD_READY (fieldReadyReg (failures == 0) false (bits (s.regN Reg.FIELD_READY) 10 8) failures)) := by
  rw [show exec (.fieldPrepComplete failures) s = execFieldPrepComplete failures s from rfl, execFieldPrepComplete]
  simp only
  rw [if_neg (by simp [hup, hbusy, hdone])]

end

theorem exec_fieldPrepComplete_waits {s : State} {failures : Nat} (h : bit (s.regN Reg.FIELD_READY) 30 = false ∨ s.jobDone 8 prepJob = false) :
    exec (.fieldPrepComplete failures) s = .next s := by
  rw [show exec (.fieldPrepComplete failures) s = execFieldPrepComplete failures s from rfl, execFieldPrepComplete]
  simp only
  rw [if_pos (.inr (h.imp (Bool.not_eq_true' _).mpr (Bool.not_eq_true' _).mpr))]

end Sys2Proof.Machine

open Sys2Proof Sys2Proof.Machine

/-- Settles O38: it holds. -/
theorem fieldForming : Obligations.FieldForming := by
  refine ⟨fun s c w x d code obs => ⟨fun h => ⟨fun hpre hroot => ?_, fun hpre _ => ?_, fun hpre => ?_⟩, fun h => ⟨fun hpre => ?_, fun hpre => ?_⟩,
      fun h => ⟨fun hpre => ?_, fun hpre => ?_⟩, fun h => ⟨fun hpre hans => ?_, fun hpre hans => ?_, fun hpre => ?_⟩⟩,
    fun s t f r m c node x => ⟨fun h hx => ⟨fun hno => ?_, fun hcrc hmember => ?_⟩, fun h hx => ⟨fun hlater => ?_, fun hpassed => ?_, ?_⟩,
      fun hstate => ⟨fun hearly => ?_, fun hset => ?_, fun hnone hlate hroot => ?_, fun hup hsteps => ⟨fun b hb hearly => ?_, fun b hb hdue howner => ?_⟩⟩⟩⟩
  · rw [exec_fieldForm_of_runs h, State.settle_afterPre_none hpre, State.startForm_member hroot]
    rfl
  · rw [exec_fieldForm_of_runs h, State.settle_afterPre_none hpre]
    rfl
  · rw [exec_fieldForm_of_runs h, State.settle_afterPre_some hpre]
  · rw [exec_fieldAdmit_of_runs h, State.settle_afterPre_none hpre]
    rfl
  · rw [exec_fieldAdmit_of_runs h, State.settle_afterPre_some hpre]
  · rw [exec_fieldExpel_of_runs h, State.settle_afterPre_none hpre]
    rfl
  · rw [exec_fieldExpel_of_runs h, State.settle_afterPre_some hpre]
  · rw [exec_fieldReform_of_runs h, State.settle_afterPre_none hpre, State.reformStart, if_neg hans]
    rfl
  · rw [exec_fieldReform_of_runs h, State.settle_afterPre_none hpre, State.reformStart, if_pos hans, State.settle_failAs]
  · rw [exec_fieldReform_of_runs h, State.settle_afterPre_some hpre]
  · rw [exec_fieldReadyReceive_forming h hx, if_pos]
    exact hno.imp id (fun h => (Bool.not_eq_true' _).mpr (Bool.eq_false_iff.mpr (mt any_node_iff.mp h)))
  · rw [exec_fieldReadyReceive_forming h hx, if_neg]
    rintro (h | h)
    · exact h hcrc
    · exact Bool.false_ne_true (((Bool.not_eq_true' _).mp h).symm.trans (any_node_iff.mpr hmember))
  · rw [exec_fieldCommitBeatReceive_forming h hx, if_neg (Nat.not_lt.mpr hlater)]
  · rw [exec_fieldCommitBeatReceive_forming h hx, if_pos hpassed]
  · rw [exec_delivered (i := .fieldAbortReceive f x.id node) h rfl, hx]
  · rw [exec_fieldFormTimeout_forming hstate, if_pos (.inr hearly)]
  · rw [exec_fieldFormTimeout_forming hstate, if_pos (.inl hset)]
  · rw [exec_fieldFormTimeout_forming hstate, if_neg, if_neg hroot]
    rw [hnone]
    simpa using hlate
  · rw [exec_fieldCommit_forming hup hsteps hstate, hb, if_neg (by simpa [dueBy] using hearly)]
  · rw [exec_fieldCommit_forming hup hsteps hstate, hb, howner, if_pos (by simpa [dueBy] using hdue)]
    have hfield := State.field_setField_self s m (s.field m).formed
    have hmdw := State.mdw_setMdw_self (s.setField m (s.field m).formed) m { s.mdw m with captures := loseCaptures 2 (s.mdw m).captures }
    exact ⟨_, rfl, congrArg FieldSt.state hfield, congrArg FieldSt.epoch hfield, (congrArg FieldSt.members hfield).trans rfl, (congrArg FieldSt.root hfield).trans rfl,
      congrArg FieldSt.health hfield, congrArg Meadow.captures hmdw, (congrArg Meadow.steps hmdw).trans rfl, rfl, rfl, rfl, rfl, rfl⟩

/-- Settles O39: it holds. -/
theorem fieldsAtWork : Obligations.FieldsAtWork := by
  refine ⟨fun s t f ch r m seq row same deeds data x => ⟨fun h => ⟨fun hnone => ?_, fun hm hhold hkind => ?_, fun reason hkind hm => ⟨fun hroot hstate => ?_,
      fun hroot => ?_⟩, fun hkind hm hroot hstate => ?_, fun hm hroot hmember => ?_, fun hnone => ?_⟩, fun h hfwd hx => ⟨fun hok => ?_, fun hok => ?_⟩,
      fun k q hq => State.contributionOk_iff hq, fun q hup hleads hq => ?_, fun pen score r hzero => ?_, fun pen score r hne => if_neg hne⟩,
    fun s m failures hup => ⟨fun hleads hstate => ?_, fun hnot => ?_, fun hdrained hfree => ?_, fun hnot => ?_, fun _ hdone => ?_, fun hbusy hdone => ?_, fun hfree => ?_⟩⟩
  · rw [exec_delivered (i := .fieldChangeReceive f ⟨ch, same⟩) h rfl]
    simp only [hnone]
  · intro g a
    refine ⟨fun hknown => ?_, fun hreform hroot hnew hsame => ?_⟩
    · refine exec_fieldChangeReceive_announced h hm hhold hkind ?_
      rcases hknown with h | h | h | h <;> simp [g, h]
    · rw [exec_fieldChangeReceive_announced h hm hhold hkind (conflict := true) (by simp_all [g]), State.answerChange_answered rfl]
      rfl
  · rw [exec_fieldChangeReceive_hold h hm hkind rfl, State.takeHold_hold hroot hstate]
  · rw [exec_fieldChangeReceive_hold h hm hkind rfl, State.takeHold_other hroot]
  · rw [exec_fieldChangeReceive_hold h hm hkind rfl, State.takeHold_release hroot hstate]
  · rw [exec_stepReportReceive h hm]
    simp only
    rw [if_neg]
    rintro (h | h)
    · exact h hroot
    · exact Bool.false_ne_true (((Bool.not_eq_true' _).mp h).symm.trans (any_node_iff.mpr hmember))
  · rw [exec_stepReportReceive h hnone]
  · rw [exec_collectiveReceive h hfwd hx, hok]
    rfl
  · rw [exec_collectiveReceive h hfwd hx, hok]
    rfl
  · intro g of old
    have hfield := State.field_setField_self s m ((s.field m).evaluated (s.regN Reg.HEALTH_PEN) q)
    refine ⟨fun hseq hwait => exec_fieldStepEvaluation_waits hq hseq hwait, fun hall hbeat hstate => ?_, fun hdue hstate => ?_⟩
    · refine ⟨_, (exec_fieldStepEvaluation_due hup hleads hq (.inl ⟨hall, hbeat⟩)).trans (congrArg _ (if_neg (by rw [hstate]; decide))),
        (congrArg FieldSt.health hfield).trans (List.map_congr_left fun e _ => congrArg _ (if_pos hstate)), congrArg FieldSt.reports hfield⟩
    · intro h
      refine ⟨_, (exec_fieldStepEvaluation_due hup hleads hq hdue).trans (congrArg _ (if_pos hstate)),
        (congrArg FieldSt.health hfield).trans (List.map_congr_left fun e _ => congrArg _ (if_neg (by rw [hstate]; decide))), congrArg FieldSt.reports hfield, rfl, rfl, rfl⟩
  · rw [scoreAfter, hzero]
    simp [bits]
  · rw [show exec (.fieldCtrlRelease m) s = execFieldCtrlRelease m s from rfl, execFieldCtrlRelease, if_pos ⟨hup, hleads, hstate⟩]
  · rw [show exec (.fieldCtrlRelease m) s = execFieldCtrlRelease m s from rfl, execFieldCtrlRelease, if_neg]
    rintro ⟨-, hleads, hstate⟩
    rcases hnot with h | h
    · exact Bool.false_ne_true (h.symm.trans hleads)
    · exact h hstate
  · rw [exec_fieldCtrlPrep hup, if_neg]
    rw [hdrained, hfree]
    simp
  · rw [exec_fieldCtrlPrep hup, if_pos hnot]
  · exact exec_fieldPrepComplete_waits (.inr hdone)
  · intro m' u t
    rw [exec_fieldPrepComplete_done hup hbusy hdone]
    refine ⟨fun hzero => ?_, fun hne => ?_⟩
    · rw [hzero]
      simp [fieldReadyReg, b2n, m', t, u]
    · simp [fieldReadyReg, b2n, m', t, u, hne]
  · exact exec_fieldPrepComplete_waits (.inl hfree)
end

section
/-! Following a root and its beacons (R35, R38 to R42, R411, R412): obligation O42. -/

namespace Sys2Proof.Machine

@[simp] theorem State.reg_setReg_ne {s : State} {o o' : Nat} (v : Word) (h : o ≠ o') : (s.setReg o v).reg o' = s.reg o' :=
  Tbl.get_set_ne _ _ _ h

/-! ## FIELD_FOLLOW (R39, R411) -/

theorem exec_fieldFollow {s : State} {v : BitVec 64} (hup : s.cdUp = true) (hfield : s.anyField = false) (hv : v ≠ BitVec.allOnes 64) :
    exec (.fieldFollow v) s = .next (
      let u := (s.setReg Reg.FIELD_FOLLOW v).follow v
      if v = 0 ∨ v = s.me then u else (u.mapClk (fun c => { c with followAt := some c.now })).sendMgmt v (.follow none)) := by
  rw [show exec (.fieldFollow v) s = execFieldFollow v s from rfl, execFieldFollow, if_neg (by simp [hup]), if_neg (not_or.mpr ⟨hv, by simp [hfield]⟩)]
  have hme : ((s.setReg Reg.FIELD_FOLLOW v).follow v).me = s.me := by
    rw [← show (s.setReg Reg.FIELD_FOLLOW v).me = s.me from State.reg_setReg_ne v (by decide)]
    rw [State.follow]
    split
    · rfl
    · split <;> rfl
  simp only [hme]

theorem State.follow_other {s : State} {v : BitVec 64} (hzero : v ≠ 0) (hme : v ≠ s.me) : s.follow v =
    s.mapClk (fun c => { c with beacon := .acquiring, root := v, inBand := 0, correction := 0, lastBeacon := c.now, children := [], followers := [] }) :=
  (if_neg hzero).trans (if_neg hme)

theorem State.follow_self {s : State} {v : BitVec 64} (hzero : v ≠ 0) (hme : v = s.me) : s.follow v =
    s.mapClk (fun c => { c with beacon := .master, root := s.me, hops := 0, offset := 0, correction := 0, followAt := none }) :=
  (if_neg hzero).trans (if_pos hme)

/-! ## The root's tree (R412) -/

section
variable {s t : State} {f : Frame} (h : Delivered s f .mgmt t)
include h

/-- A new follower at the master: placed, or refused by a full tree. -/
theorem exec_followRequestReceive_master (hmaster : t.clk.beacon = .master) (hnew : f.src ∉ t.clk.followers) :
    exec (.followRequestReceive ⟨f, none⟩) s = .next (State.acked (
      if treeMax ≤ t.clk.followers.length then t.sendNack f .mgmt .noSpace
      else match parentOf (t.clk.followers ++ [f.src]) t.clk.followers.length with
        | none => t.mapClk (fun c => { c with followers := t.clk.followers ++ [f.src], children := (t.clk.followers ++ [f.src]).take 8 })
        | some p => (t.mapClk (fun c => { c with followers := t.clk.followers ++ [f.src], children := (t.clk.followers ++ [f.src]).take 8 })).sendMgmt
            p (.follow (some f.src))) f) := by
  rw [exec_delivered (i := .followRequestReceive ⟨f, none⟩) h rfl]
  simp only
  rw [if_neg (by simp [hmaster, hnew])]
  simp only [List.length_append, List.length_singleton, Nat.add_sub_cancel]
  rfl

theorem exec_followRequestReceive_child {n : NodeId} (hlocked : t.clk.beacon = .locked) (hroot : f.src = t.clk.root) (hnew : n ∉ t.clk.children)
    (hroom : t.clk.children.length < 8) :
    exec (.followRequestReceive ⟨f, some n⟩) s = .next ((t.mapClk (fun c => { c with children := c.children ++ [n] })).acked f) := by
  rw [exec_delivered (i := .followRequestReceive ⟨f, some n⟩) h rfl]
  simp only
  rw [if_neg (by simp [hlocked, hroot, hnew, hroom])]

end

theorem parentOf_near {l : List NodeId} {i : Nat} (h : i < 8) : parentOf l i = none := if_pos h

/-- The parent of a follower beyond the first eight is an earlier one. -/
theorem parentOf_far {l : List NodeId} {n : NodeId} (h : 8 ≤ l.length) :
    ∃ p, l[(l.length - 8) / 8]? = some p ∧ parentOf (l ++ [n]) l.length = some p := by
  have hi : (l.length - 8) / 8 < l.length := by omega
  exact ⟨l[(l.length - 8) / 8], List.getElem?_eq_getElem hi,
    (if_neg (Nat.not_lt.mpr h)).trans ((List.getElem?_append_left hi).trans (List.getElem?_eq_getElem hi))⟩

/-! ## Locking and losing (R38 to R41) -/

theorem exec_followLockTimeout {s : State} {k : Nat} (hk : s.clk.followAt = some k) : exec .followLockTimeout s = .next (
    if s.now < k + 1024 then s else if s.clk.beacon = .locked then s.mapClk (fun c => { c with followAt := none }) else s.freeRun) := by
  rw [show exec .followLockTimeout s = execFollowLockTimeout s from rfl, execFollowLockTimeout, hk]

section
variable {s t : State} {f : Frame} {b : Beacon} {arrival : Nat} (h : Delivered s f .beacon t)
  (hfollows : t.clk.beacon = .acquiring ∨ t.clk.beacon = .locked)
include h hfollows

theorem exec_beaconReceive_follower : exec (.beaconReceive f b arrival) s = .next (State.acked (
    if beaconValid b f.payloadLen then t.hear f.link b arrival else t.bump Reg.BEACON_DISCARDS) f) := by
  rw [exec_delivered (i := .beaconReceive f b arrival) h rfl, if_neg]
  rcases hfollows with h | h <;> rw [h] <;> decide

end

/-- A follower after a valid beacon of its root: its state, and its count in the band. -/
def State.heard (s : State) (link : Nat) (b : Beacon) (arrival : Nat) (st : BeaconState) (n : Nat) : State :=
  let u := s.mapClk (fun c => { c with
    beacon := st
    inBand := n
    offset := s.beaconOffset link b arrival
    correction := s.beaconOffset link b arrival
    hops := b.hops
    lastBeacon := c.now
    beaconLink := some link })
  if b.hops < 4 then u.relay { b with hops := b.hops + 1 } else u

theorem State.queueFrame_clk (s : State) (f : OutFrame) (promise : Option Nat) (svc : Nat) : (s.queueFrame f promise svc).clk = s.clk := by
  unfold State.queueFrame
  split <;> rfl

theorem State.relay_clk (s : State) (b : Beacon) : (s.relay b).clk = s.clk :=
  foldl_keeps State.clk _ (fun _ _ => State.queueFrame_clk _ _ _ _) s

theorem State.heard_beacon (s : State) (link : Nat) (b : Beacon) (arrival : Nat) (st : BeaconState) (n : Nat) :
    (s.heard link b arrival st n).clk.beacon = st := by
  unfold State.heard
  extract_lets u
  split
  · rw [State.relay_clk]
    rfl
  · rfl

section
variable {s : State} {link : Nat} {b : Beacon} {arrival : Nat} (hfollows : s.clk.beacon = .acquiring ∨ s.clk.beacon = .locked)
include hfollows

theorem State.hear_other (hroot : b.rootId ≠ s.clk.root) : s.hear link b arrival = s.bump Reg.BEACON_DISCARDS := by
  unfold State.hear
  rcases hfollows with h | h <;> simp only [h, hroot, if_false]

theorem State.hear_near (hroot : b.rootId = s.clk.root) (h1 : -25 ≤ s.beaconOffset link b arrival) (h2 : s.beaconOffset link b arrival ≤ 25) :
    s.hear link b arrival = s.heard link b arrival (if s.clk.beacon = .locked ∨ 16 ≤ s.clk.inBand + 1 then .locked else .acquiring) (s.clk.inBand + 1) := by
  unfold State.hear
  rcases hfollows with h | h <;> simp only [h, if_pos hroot, h1, h2, and_self, decide_true, if_true, true_or, reduceCtorEq, false_or] <;> rfl

theorem State.hear_far (hroot : b.rootId = s.clk.root) (hfar : s.beaconOffset link b arrival < -25 ∨ 25 < s.beaconOffset link b arrival) :
    s.hear link b arrival = s.heard link b arrival .acquiring 0 := by
  have hout : ¬ (-25 ≤ s.beaconOffset link b arrival ∧ s.beaconOffset link b arrival ≤ 25) := by omega
  unfold State.hear
  rcases hfollows with h | h <;> simp only [h, if_pos hroot, hout, decide_false, Bool.false_eq_true, if_false] <;> rfl

end

theorem exec_beaconHoldoverEnd (s : State) : exec .beaconHoldoverEnd s = .next (if s.cdUp ∧ s.holdoverOver then s.beaconFault else s) := rfl

end Sys2Proof.Machine

open Sys2Proof Sys2Proof.Machine

/-- Settles O42: it holds. -/
theorem beacons : Obligations.Beacons := by
  intro s t f b arrival v n free
  refine ⟨fun hup hfield hv => ⟨fun hzero hme => ?_, fun hzero => ?_, fun hzero hme => ?_⟩, fun hup hno => ?_, fun h hmaster hnew => ?_,
    fun h hlocked hroot hnew hroom => exec_followRequestReceive_child h hlocked hroot hnew hroom, fun k hk => ⟨fun hearly => ?_, fun hlate hlocked => ?_,
      fun hlate hnot => ?_⟩, fun h hfollows => ⟨fun hbad => ?_, fun hgood hroot => ?_, fun hgood hroot => ?_⟩, fun hup hfollows => ⟨fun hlate => ?_, fun hearly => ?_⟩,
    fun hover hup => ?_, fun hnot => ?_⟩
  · rw [exec_fieldFollow hup hfield hv]
    refine congrArg Host.Outcome.next ((if_neg (not_or.mpr ⟨hzero, hme⟩)).trans ?_)
    rw [State.follow_other hzero (by rwa [show (s.setReg Reg.FIELD_FOLLOW v).me = s.me from State.reg_setReg_ne v (by decide)])]
    rfl
  · exact ⟨_, (exec_fieldFollow hup hfield hv).trans (congrArg _ (if_pos (.inl hzero))), by rw [State.follow, if_pos hzero]; exact ⟨rfl, rfl, rfl⟩⟩
  · refine ⟨_, (exec_fieldFollow hup hfield hv).trans (congrArg _ (if_pos (.inr hme))), ?_⟩
    have hkeep : (s.setReg Reg.FIELD_FOLLOW v).me = s.me := State.reg_setReg_ne v (by decide)
    rw [State.follow_self hzero (hme.trans hkeep.symm), hkeep]
    exact ⟨rfl, rfl, rfl⟩
  · rw [show exec (.fieldFollow v) s = execFieldFollow v s from rfl, execFieldFollow, if_neg (by simp [hup]), if_pos hno.symm]
  · intro l u
    rw [exec_followRequestReceive_master h hmaster hnew]
    refine ⟨fun hnear => ?_, fun hfar hroom => ?_, fun hfull => ?_⟩
    · rw [if_neg (by unfold treeMax; omega), parentOf_near hnear]
    · obtain ⟨p, hp, hparent⟩ := parentOf_far (n := f.src) hfar
      exact ⟨p, hp, by rw [if_neg (Nat.not_le.mpr hroom), hparent]⟩
    · rw [if_pos hfull]
  · rw [exec_followLockTimeout hk, if_pos hearly]
  · rw [exec_followLockTimeout hk, if_neg (Nat.not_lt.mpr hlate), if_pos hlocked]
  · rw [exec_followLockTimeout hk, if_neg (Nat.not_lt.mpr hlate), if_neg hnot]
    rfl
  · rw [exec_beaconReceive_follower h hfollows, if_neg (by simp [hbad])]
  · rw [exec_beaconReceive_follower h hfollows, if_pos hgood, State.hear_other hfollows hroot]
  · refine ⟨_, (exec_beaconReceive_follower h hfollows).trans (congrArg (fun r : State => Host.Outcome.next (r.acked f)) (if_pos hgood)),
      fun h1 h2 => ?_, fun hfar => ?_⟩
    · rw [State.hear_near hfollows hroot h1 h2, State.heard_beacon]
    · rw [State.hear_far hfollows hroot hfar, State.heard_beacon]
  · exact congrArg Host.Outcome.next (if_pos ⟨hup, hfollows, hlate⟩)
  · exact congrArg Host.Outcome.next (if_neg (fun hall => Nat.not_lt.mpr hearly hall.2.2))
  · rw [exec_beaconHoldoverEnd, if_pos ⟨hup, hover⟩]
  · rw [exec_beaconHoldoverEnd, if_neg (by simp [hnot])]
end

section
/-! Slack, gating and background work, telemetry and PLDM (R48, R49, R320, R321, R525 to R532): obligation O43. -/

namespace Sys2Proof.Machine

/-! ## Registers as numbers -/

theorem State.regN_setRegN_ne {s : State} {o o' : Nat} (v : Nat) (h : o ≠ o') : (s.setRegN o v).regN o' = s.regN o' :=
  congrArg BitVec.toNat (Tbl.get_set_ne _ _ _ h)

theorem State.regN_setRegN_self {s : State} {v : Nat} (o : Nat) (h : v < 2 ^ 64) : (s.setRegN o v).regN o = v := by
  rw [State.regN, State.reg, State.setRegN_regs, Tbl.get_set_self, BitVec.toNat_ofNat, Nat.mod_eq_of_lt h]

theorem satAdd_lt {w : Nat} (a b : Nat) (h : w ≤ 64) : satAdd w a b < 2 ^ 64 := by
  have hw : 2 ^ w ≤ 2 ^ 64 := Nat.pow_le_pow_right (by decide) h
  have hpos : 0 < 2 ^ w := Nat.two_pow_pos w
  unfold satAdd
  omega

theorem State.regN_bump_self (s : State) (o : Nat) : (s.bump o).regN o = satAdd 32 (s.regN o) 1 :=
  State.regN_setRegN_self o (satAdd_lt _ _ (by decide))

/-! ## Slack and gating (R48, R49) -/

theorem State.mem_gated {s : State} {tile : Nat} (h : tile < 128) : tile ∈ s.gateTiles.eng.gated ↔ s.gates tile = true := by
  simp [State.gateTiles, State.mapEng, h]

/-- Beats of slack that a tile's step leaves it. -/
theorem Step.slack_of {t : Step} (now : Nat) (h : t.started = true ∧ t.used.isSome = true) : t.slack now = t.start + t.hdr.pLen - now := if_pos h

theorem Step.slack_le (t : Step) (now : Nat) : t.slack now ≤ t.start + t.hdr.pLen - now := by
  unfold Step.slack
  split <;> omega

theorem Step.slack_busy {t : Step} {now : Nat} (h : t.started = true → (t.started = true ∧ t.used.isSome = true) → t.start + t.hdr.pLen - now = 0)
    (hstarted : t.started = true) : t.slack now = 0 := by
  unfold Step.slack
  split
  · next hs => exact h hstarted hs
  · rfl

section
variable {s : State} {tile : Nat}

theorem State.gates_idle (h : s.headStep tile = none) : s.gates tile = false := by
  simp [State.gates, h]

theorem State.gates_iff {t : Step} (h : s.headStep tile = some t) : s.gates tile = true ↔
    s.tileWanted tile = false ∧ (4 ≤ t.slack s.now ∨ tile ∈ s.eng.gated ∧ 2 ≤ t.slack s.now) := by
  simp [State.gates, h]

/-- A job that is no march run takes a tile's beat when no step needs it. -/
theorem State.mayServe_tile {t : Step} (h : s.headStep tile = some t) (htile : tile < 128) {j : BgJob} (hj : j.act ≠ 8) :
    s.mayServe j (resTile tile) = decide (1 ≤ if t.started then t.slack s.now else t.start - s.now) := by
  have hact : (j.act == 8) = false := by simpa using hj
  have hkey : resTile 0 ≤ resTile tile ∧ resTile tile < resTile 128 := by unfold resTile; omega
  have hsub : resTile tile - resTile 0 = tile := by unfold resTile; omega
  have hleft : s.slackLeft tile = some (if t.started then t.slack s.now else t.start - s.now) := by rw [State.slackLeft, h]; rfl
  simp only [State.mayServe, hact, Bool.false_and, Bool.not_false, Bool.true_or, Bool.true_and, if_pos hkey, hsub, hleft, Bool.false_eq_true, if_false]

end

/-! ## Background work (R320, R321, R525 to R527) -/

theorem exec_gddrPatrolScrub_full {s : State} {frame : Nat} (hroom : s.bgRoom (frame % 24) 4096 = false) (a b : Bool) :
    exec (.gddrPatrolScrub frame a b) s = .next s := by
  rw [show exec (.gddrPatrolScrub frame a b) s = execGddrPatrolScrub frame a b s from rfl, execGddrPatrolScrub]
  simp only
  rw [if_pos (by simp [hroom])]

section
variable {s : State} (hup : s.cdUp = true)
include hup

/-- Patrol scrub of a unit before the last that is read clean, or cannot be corrected. -/
theorem exec_gddrPatrolScrub_clean {frame : Nat} (hroom : s.bgRoom (frame % 24) 4096 = true) (hframe : frame + 1 < dataUnits) (bad : Bool) :
    exec (.gddrPatrolScrub frame false bad) s = .next ((if bad then (s.bgUse (frame % 24) 4096).bump (Reg.GDDR_UE (frame % 24)) else s.bgUse (frame % 24) 4096).mapMem
      (fun m => { m with ceRuns := Tbl.set (fun _ => 0) m.ceRuns frame 0 })) := by
  rw [show exec (.gddrPatrolScrub frame false bad) s = execGddrPatrolScrub frame false bad s from rfl, execGddrPatrolScrub]
  simp only
  rw [if_neg (by simp [hup, hroom]; omega), if_neg (by omega)]
  rfl

/-- A unit that a pass corrects. -/
theorem exec_gddrPatrolScrub_corrected {frame : Nat} (hroom : s.bgRoom (frame % 24) 4096 = true) (hframe : frame + 1 < dataUnits) :
    exec (.gddrPatrolScrub frame true false) s = .next (
      let n := Tbl.get (fun _ => 0) s.mem.ceRuns frame + 1
      let u := ((s.bgUse (frame % 24) 4096).bump (Reg.GDDR_CE (frame % 24))).mapMem (fun m => { m with ceRuns := Tbl.set (fun _ => 0) m.ceRuns frame (if 3 ≤ n then 0 else n) })
      if n < 3 ∨ s.mem.retired.contains frame then u
      else if s.unitFree frame then u.retireUnit frame
      else u.mapMem (fun m => { m with retirePending := if m.retirePending.contains frame then m.retirePending else frame :: m.retirePending })) := by
  rw [show exec (.gddrPatrolScrub frame true false) s = execGddrPatrolScrub frame true false s from rfl, execGddrPatrolScrub]
  simp only
  rw [if_neg (by simp [hup, hroom]; omega), if_neg (by omega)]
  rfl

theorem exec_gddrRecalibration {channel : Nat} (hchannel : channel < 24) (hnew : s.sys.bg.recalDone.contains channel = false) (hroom : s.bgRoom channel 288000 = true) :
    exec (.gddrRecalibration channel) s = .next (
      let u := (s.bgUse channel 288000).mapBg (fun b => { b with recalDone := channel :: b.recalDone })
      if u.sys.bg.recalDone.length < 24 then u
      else (u.passEnds 1 s.sys.bg.recalStart s.sys.bg.calNs).mapBg (fun b => { b with recalDone := [], recalStart := max u.clk.time (b.recalStart + b.calNs) })) := by
  rw [show exec (.gddrRecalibration channel) s = execGddrRecalibration channel s from rfl, execGddrRecalibration]
  simp only
  rw [if_neg (by simp only [hup, hnew, hroom]; simpa using hchannel)]

theorem exec_taperCalibration {pair : Nat} (hpair : pair < 64) (hnew : s.sys.bg.taperDone.contains pair = false) : exec (.taperCalibration pair) s = .next (
    if !s.tileFree (2 * pair) ∨ !s.tileFree (2 * pair + 1) ∨ !s.bgRooms (s.taperNeed pair) then s
    else
      let u := (s.bgUses (s.taperNeed pair)).mapBg (fun b => { b with taperDone := pair :: b.taperDone })
      if u.sys.bg.taperDone.length < 64 then u
      else (u.passEnds 2 s.sys.bg.taperStart s.sys.bg.calNs).mapBg (fun b => { b with taperDone := [], taperStart := max u.clk.time (b.taperStart + b.calNs) })) := by
  have hopen : ¬ (64 ≤ pair) := Nat.not_le.mpr hpair
  rw [show exec (.taperCalibration pair) s = execTaperCalibration pair s from rfl, execTaperCalibration]
  simp only [hup, hnew, hopen, Bool.not_true, Bool.false_eq_true, false_or]

/-- The start of a window, before what each pass past its period adds. -/
def State.windowOpened (s : State) : State :=
  let u := s.setRegN Reg.BG_PEAK s.bgPeak
  u.mapBg (fun b => { b with
    used := []
    windowAt := some u.now
    share := bits (u.regN Reg.BG_SHARE) 9 0
    calMs := bits (u.regN Reg.CAL_PERIOD) 15 0
    days := bits (u.regN Reg.FLASH_PATROL_DAYS) 7 0 })

end

/-- Two states with one background record and one BG_PEAK. -/
def SameWindow (s t : State) : Prop := t.sys.bg = s.sys.bg ∧ t.regN Reg.BG_PEAK = s.regN Reg.BG_PEAK

theorem SameWindow.trans {s t u : State} (h : SameWindow s t) (k : SameWindow t u) : SameWindow s u := ⟨k.1.trans h.1, k.2.trans h.2⟩

/-- A pass past its period shows in BG_STATUS and in an event, and nowhere else of the background. -/
theorem SameWindow.passLate (s : State) (activity started period : Nat) : SameWindow s (s.passLate activity started period) := by
  unfold State.passLate
  split
  · exact ⟨rfl, rfl⟩
  · have hraise := fun t : State => Still.raise t Ev.bgBehind 0 activity 0 none 0
    exact ⟨congrArg Sys.bg (hraise _).sys,
      (congrArg BitVec.toNat ((hraise _).regs Reg.BG_PEAK (by decide))).trans (State.regN_setRegN_ne _ (by decide))⟩

theorem State.bgPeak_le (s : State) : s.bgPeak ≤ 1023 := by
  have key : ∀ (l : Tbl Nat) (m : Nat), m ≤ 1023 →
      l.foldl (fun m e => max m (min 1023 (if s.capacity e.1 = 0 then 0 else e.2 * 1024 / s.capacity e.1))) m ≤ 1023 := by
    intro l
    induction l with
    | nil => exact fun m h => h
    | cons e l ih => exact fun m h => ih _ (Nat.max_le.mpr ⟨h, Nat.min_le_left _ _⟩)
  exact key _ 0 (by decide)

theorem exec_bgWindowStart_starts {s : State} (hup : s.cdUp = true) (hat : s.now % 1024 = 0) (hnew : s.sys.bg.windowAt ≠ some s.now) :
    ∃ t, exec .bgWindowStart s = .next t ∧ SameWindow s.windowOpened t := by
  rw [show exec .bgWindowStart s = execBgWindowStart s from rfl, execBgWindowStart, if_neg (by simp [hup, hat, hnew])]
  refine ⟨_, rfl, ?_⟩
  extract_lets s0 w b recal taper scrub
  have hopened : SameWindow s.windowOpened w := ⟨rfl, rfl⟩
  have hrecal : SameWindow w recal := SameWindow.passLate _ _ _ _
  have htaper : SameWindow recal taper := SameWindow.passLate _ _ _ _
  have hscrub : SameWindow taper scrub := SameWindow.passLate _ _ _ _
  have hthree : SameWindow s.windowOpened scrub := ((hopened.trans hrecal).trans htaper).trans hscrub
  split
  · exact hthree
  · exact hthree.trans (SameWindow.passLate _ _ _ _)

/-! ## Telemetry (R531) -/

section
variable {s : State} (hup : s.cdUp = true) (hon : bit (s.regN Reg.TELEM_CTRL) 31 = true) (hat : s.now % bits (s.regN Reg.TELEM_CTRL) 23 0 = 0)
  (hnew : s.sys.telem.tried ≠ s.now) (hblock : s.sys.blocks.any (fun b => b.1 == 10) = false)
include hup hon hat hnew hblock

/-- A snapshot that is due: tried once in its beat, dropped and counted without a ring, room in it, or background share. -/
theorem exec_telemetrySnapshot_due : exec .telemetrySnapshot s = .next (
    let u := s.mapSys (fun y => { y with telem := { y.telem with tried := s.now } })
    let pi := s.regN Reg.TELEM_RING_PI
    let size := 2 ^ bits (s.regN Reg.TELEM_RING_SIZE) 3 0
    if s.regN Reg.TELEM_RING_BASE = 0 ∨ min size 4095 ≤ (pi + 4096 - s.regN Reg.TELEM_RING_CI % 4096) % 4096 ∨ !s.bgRoom resCxl 4096 then u.bump Reg.TELEM_DROPPED
    else (((u.emit (.hostWrite (s.regN Reg.TELEM_RING_BASE + 4096 * (pi % size)) (u.snapBody ++ leBytes 4 (crc32c u.snapBody)))).setRegN
      Reg.TELEM_RING_PI ((pi + 1) % 4096)).bgUse resCxl 4096).sampled) := by
  rw [show exec .telemetrySnapshot s = execTelemetrySnapshot s from rfl, execTelemetrySnapshot]
  simp only
  rw [if_neg (by simp [hup, hon, hat, hnew, hblock])]
  rfl

end

theorem State.snapBody_magic (s : State) : le s.snapBody 0 4 = 0x4D4C4554 := by
  unfold State.snapBody
  simp only [List.append_assoc]
  rw [le_append_left (by simp [length_packLE])]
  exact le_packLE [] _ 4 _

end Sys2Proof.Machine

open Sys2Proof Sys2Proof.Machine

/-- Settles O43: it holds. -/
theorem backgroundWork : Obligations.BackgroundWork := by
  refine ⟨fun s tile htile => ⟨fun hnone => ?_, fun t ht => ?_, rfl, rfl, rfl⟩, fun s frame channel pair type cmd arg hup =>
    ⟨?_, fun hch hnew hroom hlen => ?_, fun hch hroom => ?_, fun hch hnew hroom hlen => ?_, ?_, fun hno => ?_, fun hat hnew => ?_,
      fun hon hat hnew hblock => ⟨fun hbase => ?_, ?_⟩, fun hno => ?_, fun hpower htype => ?_, fun h0 h2 => ?_⟩⟩
  · rw [State.mem_gated htile, State.gates_idle hnone]
    exact Bool.false_ne_true
  · intro n slack
    have hle : t.slack s.now ≤ n := t.slack_le s.now
    simp only [State.mem_gated htile, State.gates_iff ht]
    refine ⟨fun hs hidle hn => ⟨hidle, .inl ((Step.slack_of s.now hs).symm ▸ hn)⟩, fun hs hidle hn hgated => ⟨hidle, .inr ⟨hgated, (Step.slack_of s.now hs).symm ▸ hn⟩⟩,
      fun hn hgated hg => ?_, fun hn hg => ?_, fun j hj => ?_⟩
    · rcases hg.2 with h4 | ⟨hmem, -⟩
      · omega
      · exact hgated hmem
    · rcases hn with hn | hn | hn
      · rcases hg.2 with h4 | ⟨-, h2⟩ <;> omega
      · have hzero : t.slack s.now = 0 := if_neg hn
        rcases hg.2 with h4 | ⟨-, h2⟩ <;> omega
      · exact Bool.false_ne_true (hg.1.symm.trans hn)
    · rw [State.mayServe_tile ht htile hj]
      refine ⟨fun hs => ?_, fun hbusy hstarted => ?_, fun hstarted hstart => ?_⟩
      · rw [if_pos hs.1.1, Step.slack_of _ hs.1]
        exact decide_eq_true hs.2
      · rw [if_pos hstarted, Step.slack_busy hbusy hstarted]
        rfl
      · rw [if_neg (by simp [hstarted]), Nat.sub_eq_zero_of_le hstart]
        rfl
  · intro ch t hframe
    refine ⟨fun hroom a b => exec_gddrPatrolScrub_full hroom a b, fun hroom => ⟨exec_gddrPatrolScrub_clean hup hroom hframe false,
      exec_gddrPatrolScrub_clean hup hroom hframe true, fun hruns => ?_, fun hruns hheld hfree => ⟨?_, ?_, ?_⟩⟩⟩
    · rw [exec_gddrPatrolScrub_corrected hup hroom hframe]
      simp only
      rw [if_pos (.inl (by omega)), if_neg (by omega)]
    · exact (t.bump (Reg.GDDR_CE ch)).mapMem (fun m => { m with ceRuns := Tbl.set (fun _ => 0) m.ceRuns frame 0 })
    · rw [exec_gddrPatrolScrub_corrected hup hroom hframe]
      simp only
      rw [if_neg (by rw [hruns, hheld]; decide), if_pos hfree, if_pos (by omega)]
    · exact State.regN_bump_self t _
  · rw [exec_gddrRecalibration hup hch hnew hroom]
    exact congrArg Host.Outcome.next (if_pos (Nat.add_lt_add_right hlen 1))
  · rw [show exec (.gddrRecalibration channel) s = execGddrRecalibration channel s from rfl, execGddrRecalibration]
    simp only
    rw [if_pos (by simp [hroom])]
  · refine ⟨_, (exec_gddrRecalibration hup hch hnew hroom).trans (congrArg Host.Outcome.next (if_neg ?_)), rfl⟩
    exact Nat.not_lt.mpr (Nat.succ_le_succ hlen.ge)
  · intro need hpair hnew
    refine ⟨fun hno => ?_, fun hf1 hf2 hroom => ⟨fun hlen => ?_, fun hlen => ?_⟩⟩
    · rw [exec_taperCalibration hup hpair hnew]
      exact congrArg Host.Outcome.next (if_pos (by simpa [need, State.taperNeed] using hno))
    · rw [exec_taperCalibration hup hpair hnew]
      exact congrArg Host.Outcome.next ((if_neg (by simpa [hf1, hf2, need, State.taperNeed] using hroom)).trans (if_pos (Nat.add_lt_add_right hlen 1)))
    · refine ⟨_, (exec_taperCalibration hup hpair hnew).trans
        (congrArg Host.Outcome.next ((if_neg (by simpa [hf1, hf2, need, State.taperNeed] using hroom)).trans (if_neg (Nat.not_lt.mpr (Nat.succ_le_succ hlen.ge))))), rfl⟩
  · exact congrArg Host.Outcome.next (if_pos (.inr hno))
  · obtain ⟨t, ht, hbg, hpeak⟩ := exec_bgWindowStart_starts hup hat hnew
    refine ⟨t, ht, by rw [hbg]; rfl, ?_, ?_, ?_, by rw [hbg]; rfl, ?_⟩
    · rw [hbg, ← State.regN_setRegN_ne (s := s) (o := Reg.BG_PEAK) s.bgPeak (by decide)]
      exact congrArg (· % 1024) (Nat.div_one _)
    · rw [hbg, ← State.regN_setRegN_ne (s := s) (o := Reg.BG_PEAK) s.bgPeak (by decide)]
      exact congrArg (· % 65536) (Nat.div_one _)
    · rw [hbg, ← State.regN_setRegN_ne (s := s) (o := Reg.BG_PEAK) s.bgPeak (by decide)]
      exact congrArg (· % 256) (Nat.div_one _)
    · exact hpeak.trans (State.regN_setRegN_self _ (s.bgPeak_le.trans_lt (by decide)))
  · exact ⟨_, (exec_telemetrySnapshot_due hup hon hat hnew hblock).trans (congrArg Host.Outcome.next (if_pos (.inl hbase))), State.regN_bump_self _ _, rfl⟩
  · intro pi size hbase hused hroom
    refine ⟨_, _, (exec_telemetrySnapshot_due hup hon hat hnew hblock).trans (congrArg Host.Outcome.next (if_neg ?_)), rfl, State.snapBody_magic _, ?_, rfl⟩
    · simpa [hbase, hroom] using hused
    · exact State.regN_setRegN_self _ (by omega)
  · exact congrArg Host.Outcome.next (if_pos (.inr (.inr (.inl hno))))
  · refine ⟨_, congrArg Host.Outcome.next (if_neg ?_)⟩
    rw [hpower]
    rcases htype with h | h <;> simp [h]
  · exact congrArg Host.Outcome.next (if_pos (.inr ⟨h0, h2⟩))
end

section
/-! The admission of an entry, and work without deadline that has waited (R58, R62, R95, R105 to R108): obligation O44. -/

namespace Sys2Proof.Machine

section
variable {s : State} {c : Nat} {x : Ctx} {descs : List Bytes}

/-! ## The entry's turn -/

theorem exec_entryAdmission (hup : s.cdUp = true) (hheld : s.sys.hold = false) (hpaused : s.sys.paused = false)
    (hblock : s.sys.blocks.any (fun b => b.1 == 3) = false) (hsteps : s.stepsWait = false) (hctx : (s.atOrder 5).ctx c = some x) :
    exec (.entryAdmission c descs) s = .next (if x.phase ≠ .presented ∨ !(s.atOrder 5).firstTurn x then s.atOrder 5
      else (s.atOrder 5).admitEntry c x descs) := by
  rw [show exec (.entryAdmission c descs) s = execEntryAdmission c descs s from rfl, execEntryAdmission,
    if_neg (by simp [hup, State.intakeHeld, hheld, hpaused, State.admitReset, hblock, hsteps])]
  simp only [hctx]

theorem exec_entryAdmission_waits (h : s.stepsWait = true ∨ s.sys.hold = true ∨ s.sys.paused = true) :
    exec (.entryAdmission c descs) s = .next s := by
  rw [show exec (.entryAdmission c descs) s = execEntryAdmission c descs s from rfl, execEntryAdmission, if_pos]
  rcases h with h | h | h <;> simp [State.intakeHeld, h]

theorem State.firstTurn_of_first (h : ∀ e ∈ s.io.ctxs, e.2.phase = .presented → x.turn ≤ e.2.turn) : s.firstTurn x = true := by
  refine List.all_eq_true.mpr fun e he => ?_
  by_cases hp : e.2.phase = .presented
  · simp [h e he hp]
  · simp [hp]

/-! ## The verdict on an entry (R108) -/

theorem State.admitEntry_malformed (hbad : x.entry.bad = true) : s.admitEntry c x descs = s.refuseEntry c x .badOperand 0 0 0 0 := if_pos hbad

theorem State.admitEntry_reserved (hbad : x.entry.bad = false) {i obs : Nat} (hfirst : (s.tryGroup c x descs).first = some (i, .badOperand, obs)) :
    s.admitEntry c x descs = s.refuseEntry c x .badOperand i obs 0 0 := by
  unfold State.admitEntry
  rw [if_neg (by simp [hbad])]
  simp only [hfirst]

/-- Behind the operands: the meadow is looked at, then the preconditions, then the weighing. -/
theorem State.admitEntry_wellShaped (hbad : x.entry.bad = false) (hfirst : ∀ i obs, (s.tryGroup c x descs).first ≠ some (i, .badOperand, obs)) :
    s.admitEntry c x descs =
      if (decide (x.entry.meadow ≠ 0xFF) && (s.mdw x.entry.meadow).state == .free) = true then s.refuseEntry c x .illegalInState 0 (obsOf 6 0) 0 0
      else match (s.tryGroup c x descs).first with
        | some (i, code, obs) => s.refuseEntry c x code i obs 0 0
        | none => match s.weigh x.entry.deadline (s.tryGroup c x descs).items with
          | .refuse code term i n => s.refuseEntry c x code i 0 term n
          | .accept n => s.acceptEntry c x descs (s.tryGroup c x descs).items n := by
  unfold State.admitEntry
  rw [if_neg (by simp [hbad])]
  extract_lets t
  split
  · next i obs h => exact absurd h (hfirst i obs)
  · rfl

section
variable (hbad : x.entry.bad = false) (hmeadow : x.entry.meadow = 0xFF ∨ (s.mdw x.entry.meadow).state ≠ .free)
include hbad hmeadow

theorem State.admitEntry_unmet {i obs : Nat} {code : Code} (hfirst : (s.tryGroup c x descs).first = some (i, code, obs)) :
    s.admitEntry c x descs = s.refuseEntry c x code i obs 0 0 := by
  by_cases hcode : code = .badOperand
  · subst hcode
    exact State.admitEntry_reserved hbad hfirst
  · rw [State.admitEntry_wellShaped hbad (by simp [hfirst, hcode]), if_neg (by rcases hmeadow with h | h <;> simp [h]), hfirst]

theorem State.admitEntry_weighed (hfirst : (s.tryGroup c x descs).first = none) {v : Verdict}
    (hweigh : s.weigh x.entry.deadline (s.tryGroup c x descs).items = v) : s.admitEntry c x descs =
      match (generalizing := false) v with
      | .refuse code term i n => s.refuseEntry c x code i 0 term n
      | .accept n => s.acceptEntry c x descs (s.tryGroup c x descs).items n := by
  rw [State.admitEntry_wellShaped hbad (by simp [hfirst]), if_neg (by rcases hmeadow with h | h <;> simp [h]), hfirst]
  subst hweigh
  exact Eq.refl _

end

/-! ## Work that has waited (R53, R62) -/

theorem exec_powerCapAdmit (hup : s.cdUp = true) (hsteps : s.stepsWait = false) (hctx : (s.atOrder 5).ctx c = some x) {watts since : Nat}
    (hwait : x.wait = .power watts since) : exec (.powerCapAdmit c) s = .next (
      if longest (s.atOrder 5).powerWaits = some c ∧ !(s.atOrder 5).powerFail watts then (s.atOrder 5).rouse c x else s.atOrder 5) := by
  rw [show exec (.powerCapAdmit c) s = execPowerCapAdmit c s from rfl, execPowerCapAdmit, if_neg (by simp [hup, hsteps])]
  simp only [hctx, hwait]

theorem exec_noDeadlineAdmit (hup : s.cdUp = true) (hsteps : s.stepsWait = false) (hctx : (s.atOrder 5).ctx c = some x) {cls : Nat}
    (hlongest : longest ((s.atOrder 5).roomWaits cls) = some c) : exec (.noDeadlineAdmit cls) s = .next (
      if !(s.atOrder 5).classRoom cls then s.atOrder 5 else (s.atOrder 5).rouse c x) := by
  rw [show exec (.noDeadlineAdmit cls) s = execNoDeadlineAdmit cls s from rfl, execNoDeadlineAdmit, if_neg (by simp [hup, hsteps])]
  simp only [hlongest, hctx]

end

end Sys2Proof.Machine

open Sys2Proof Sys2Proof.Machine

/-- Settles O44: it holds. -/
theorem entryAdmitted : Obligations.EntryAdmitted := by
  intro s c x descs hup u
  refine ⟨fun h => exec_entryAdmission_waits (.inl h), fun h => exec_entryAdmission_waits (.inr h), fun hsteps hctx => ⟨fun hheld hpaused hblock =>
    ⟨fun hno => ?_, fun hphase hfirst => ?_⟩, fun watts since hwait => ⟨fun hlongest hroom => ?_, fun hfull => ?_⟩, fun cls hlongest => ⟨fun hroom => ?_, fun hfull => ?_⟩⟩⟩
  · rw [exec_entryAdmission hup hheld hpaused hblock hsteps hctx, if_pos (hno.imp id (Bool.not_eq_true' _).mpr)]
  · have hadmit : exec (.entryAdmission c descs) s = .next (u.admitEntry c x descs) := by
      have hturn : (s.atOrder 5).firstTurn x = true := State.firstTurn_of_first hfirst
      rw [exec_entryAdmission hup hheld hpaused hblock hsteps hctx, if_neg (by simp [hphase, hturn])]
    rw [hadmit]
    refine ⟨fun hbad => ?_, fun i obs hbad hres => ?_, fun hbad hshape hmeadow hfree => ?_, fun hbad hmeadow =>
      ⟨fun i code obs hpre => ?_, fun code term i n hpre hweigh => ?_, fun n hpre hweigh => ?_⟩⟩
    · rw [State.admitEntry_malformed hbad]
    · rw [State.admitEntry_reserved hbad hres]
    · rw [State.admitEntry_wellShaped hbad hshape, if_pos (by simp [hmeadow, hfree])]
    · rw [State.admitEntry_unmet hbad hmeadow hpre]
    · rw [State.admitEntry_weighed hbad hmeadow hpre hweigh]
    · rw [State.admitEntry_weighed hbad hmeadow hpre hweigh]
  · rw [exec_powerCapAdmit hup hsteps hctx hwait, if_pos ⟨hlongest, (Bool.not_eq_true' _).mpr hroom⟩]
  · rw [exec_powerCapAdmit hup hsteps hctx hwait, if_neg (by simp [u, hfull])]
  · rw [exec_noDeadlineAdmit hup hsteps hctx hlongest, if_neg (by simp [u, hroom])]
  · rw [exec_noDeadlineAdmit hup hsteps hctx hlongest, if_pos (by simp [u, hfull])]
end

section
/-! Rings and stores of the host side (R77, R87, R96, R99, R104, R120): obligation O45. -/

namespace Sys2Proof.Machine

section
variable {s : State} (hup : s.cdUp = true)
include hup

/-- The bursts of the enabled rings but this one. -/
def State.otherBursts (s : State) (ring : Nat) : Nat := s.burstSum - (if s.ringOn ring then s.ringBurst ring else 0)

theorem exec_intakeCtrlWrite {ring : Nat} {v : BitVec 32} {r : RegSpec} (hring : ring < 256) (hr : findReg (Reg.INTAKE_CTRL ring) = some r) :
    exec (.intakeCtrlWrite ring v) s = .next (
      let new := (r.write (s.regN (Reg.INTAKE_CTRL ring)) v.toNat).1
      if bit new 31 ∧ 1024 < s.otherBursts ring + bits new 6 0 then s.configReject (Reg.INTAKE_CTRL ring) v.toNat
      else
        let t := s.setRegN (Reg.INTAKE_CTRL ring) new
        let u := if bit new 31 then t else t.setRing ring { t.ring ring with state := 0 }
        if (r.write (s.regN (Reg.INTAKE_CTRL ring)) v.toNat).2 then u.configReject (Reg.INTAKE_CTRL ring) v.toNat else u) := by
  rw [show exec (.intakeCtrlWrite ring v) s = execIntakeCtrlWrite ring v s from rfl, execIntakeCtrlWrite,
    if_neg (by simpa [hup] using hring), State.ringCtrl]
  simp only [hr] <;> rfl

end

theorem exec_resultRecordRetry {s : State} {ring slot : Nat} {r : ResultOut} (hr : s.io.retries.find? (fun r => r.ring == ring && r.slot == slot) = some r)
    (success : Bool) : exec (.resultRecordRetry ring slot success) s = .next (
      let t := (s.mapIo (fun io => { io with retries := io.retries.erase r })).emit (.hostWrite r.addr r.bytes)
      if success ∧ s.cxl.up then t.recordDone r
      else (t.bump Reg.RESULT_WRITE_ERRORS).setRegN Reg.RESULT_ERR_LAST (r.ring * 2 ^ 24 + r.status * 2 ^ 16 + r.slot)) := by
  rw [show exec (.resultRecordRetry ring slot success) s = execResultRecordRetry ring slot success s from rfl, execResultRecordRetry, hr] <;> rfl

/-! ## The stores (R87, R120) -/

theorem ringRoom_none {base : Nat} (h : base = 0) (lg pi ci : Nat) : ringRoom base lg pi ci = 0 := if_pos h

theorem State.drainBreaches_stuck {s : State} (h : s.regN Reg.BREACH_RING_BASE = 0) : s.drainBreaches = s := by
  rw [State.drainBreaches, ringRoom_none h, Nat.zero_min]
  exact if_pos rfl

/-- With room for one record the oldest breach record goes out. -/
theorem State.drainBreaches_one {s : State} {b : Bytes} {rest : List Bytes} (hstore : s.io.brStore = b :: rest)
    (hroom : ringRoom (s.regN Reg.BREACH_RING_BASE) (s.regN Reg.BREACH_RING_SIZE) (s.regN Reg.BREACH_RING_PI) (s.regN Reg.BREACH_RING_CI) = 1) :
    s.drainBreaches = ((s.emit (.hostWrite (s.regN Reg.BREACH_RING_BASE + 64 * (s.regN Reg.BREACH_RING_PI % 2 ^ s.regN Reg.BREACH_RING_SIZE)) b)).setRegN
      Reg.BREACH_RING_PI ((s.regN Reg.BREACH_RING_PI + 1) % 2 ^ 20)).mapIo (fun io => { io with brStore := io.brStore.drop 1, brWrote := true }) := by
  rw [State.drainBreaches, hroom, hstore]
  have hone : min 1 (b :: rest).length = 1 := Nat.min_eq_left (Nat.succ_le_succ (Nat.zero_le _))
  rw [hone]
  rfl

theorem State.drainEvents_stuck {s : State} (h : s.regN Reg.EVENT_RING_BASE = 0) : s.drainEvents = s := by
  rw [State.drainEvents, ringRoom_none h, Nat.zero_min]
  simp

/-- With room for one record, and none lost, the oldest event record goes out, to its ring and to the service UART. -/
theorem State.drainEvents_one {s : State} {e : Nat × EvRec} {rest : List (Nat × EvRec)} (hstore : s.io.evStore = e :: rest) (hlost : s.io.evLost = false)
    (hroom : ringRoom (s.regN Reg.EVENT_RING_BASE) (s.regN Reg.EVENT_RING_SIZE) (s.regN Reg.EVENT_RING_PI) (s.regN Reg.EVENT_RING_CI) = 1) :
    s.drainEvents = (((s.emit (.hostWrite (s.regN Reg.EVENT_RING_BASE + 32 * (s.regN Reg.EVENT_RING_PI % 2 ^ s.regN Reg.EVENT_RING_SIZE)) (evBytes e.1 e.2))).emit
      (.uart 1 (le (evBytes e.1 e.2) 0 4))).setRegN Reg.EVENT_RING_PI ((s.regN Reg.EVENT_RING_PI + 1) % 2 ^ 20)).mapIo
        (fun io => { io with evStore := io.evStore.drop 1, evWrote := true, evLost := io.evLost && true, evSeq := io.evSeq }) := by
  have hone : min 1 (e :: rest).length = 1 := Nat.min_eq_left (Nat.succ_le_succ (Nat.zero_le _))
  rw [State.drainEvents, hroom, hstore, hlost, hone]
  rfl

/-! ## Held register values (R77) -/

theorem exec_pendingWriteRelease {s : State} {off : Nat} {w : PendingWrite} (hctrl : off ≠ Reg.GATE_CTRL) (hgate : ∀ k < 8, off ≠ Reg.GATE_FRACTION k)
    (hlen : off ≠ Reg.LEN_OVERHEAD) (hw : s.io.pendingWrites.find? (·.off == off) = some w) :
    exec (.pendingWriteRelease off) s = .next (if w.promises.any (fun i => (s.promise i).isSome) then s
      else (s.mapIo (fun io => { io with pendingWrites := io.pendingWrites.filter (fun x => x.off != off) })).inForce off w.value) := by
  rw [show exec (.pendingWriteRelease off) s = execPendingWriteRelease off s from rfl, execPendingWriteRelease, if_neg]
  · have hother : (off != Reg.LEN_OVERHEAD) = true := bne_iff_ne.mpr hlen
    simp only [hw, hother, Bool.true_or, Bool.and_true]
  · rintro (h | h)
    · obtain ⟨k, hk, rfl⟩ := List.mem_map.mp (List.contains_iff_mem.mp h)
      exact hgate k (List.mem_range.mp hk) rfl
    · exact hctrl h

end Sys2Proof.Machine

open Sys2Proof Sys2Proof.Machine

/-- Settles O45: it holds. -/
theorem ringsAndStores : Obligations.RingsAndStores := by
  refine fun s ring slot off v hup => ⟨fun r hring hr => ?_, fun r hr => ?_, fun b rest hstore => ?_, fun e rest hstore hlost => ?_,
    fun w hctrl hgate hlen hw => ⟨fun hopen => ?_, fun hended => ?_⟩⟩
  · intro new others
    rw [exec_intakeCtrlWrite hup hring hr]
    refine ⟨fun hon hover => ?_, fun hgood => ⟨fun hon hfits => ?_, fun hoff => ?_⟩⟩
    · exact congrArg Host.Outcome.next (if_pos ⟨hon, hover⟩)
    · exact congrArg Host.Outcome.next ((if_neg fun h => Nat.not_lt.mpr hfits h.2).trans
        ((if_neg (ne_true_of_eq_false hgood)).trans (if_pos hon)))
    · exact congrArg Host.Outcome.next ((if_neg fun h => Bool.false_ne_true (hoff.symm.trans h.1)).trans
        ((if_neg (ne_true_of_eq_false hgood)).trans (if_neg (ne_true_of_eq_false hoff))))
  · intro t
    refine ⟨fun hlink => ?_, ?_⟩
    · rw [exec_resultRecordRetry hr]
      exact congrArg Host.Outcome.next (if_pos ⟨rfl, hlink⟩)
    · rw [exec_resultRecordRetry hr]
      exact congrArg Host.Outcome.next (if_neg fun h => Bool.false_ne_true h.1)
  · intro base pi size
    rw [show exec .breachStoreDrain s = .next (if s.cdUp then s.drainBreaches else s) from rfl, if_pos hup]
    refine ⟨fun hbase => by rw [State.drainBreaches_stuck hbase], fun _ hroom => ?_⟩
    rw [State.drainBreaches_one hstore hroom, ← show (b :: rest).drop 1 = rest from rfl, ← hstore]
    rfl
  · intro base pi size
    rw [show exec .eventStoreDrain s = .next (if s.cdUp then s.drainEvents else s) from rfl, if_pos hup]
    refine ⟨fun hbase => by rw [State.drainEvents_stuck hbase], fun _ hroom => ⟨_, rfl, ?_⟩⟩
    rw [State.drainEvents_one hstore hlost hroom]
    refine ⟨congrArg (List.drop 1) hstore, State.regN_setRegN_self _ ((Nat.mod_lt _ (by decide)).trans (by decide)), ?_⟩
    exact List.mem_cons_of_mem _ List.mem_cons_self
  · rw [exec_pendingWriteRelease hctrl hgate hlen hw, if_pos (List.any_eq_true.mpr hopen)]
  · rw [exec_pendingWriteRelease hctrl hgate hlen hw, if_neg]
    rw [List.any_eq_true]
    rintro ⟨p, hp, hsome⟩
    rw [hended p hp] at hsome
    nomatch hsome
end

section
/-! Meadows: definition, role and drain (R156, R406 to R410): obligation O46. -/

namespace Sys2Proof.Machine

section
variable {s : State} {c : Nat} {w : IWord} {x : Ctx}

theorem exec_meadowDefine_of_runs (h : Runs s c 0x80 w x) (d : Bytes) : exec (.meadowDefine c w d) s = .next (s.settle c (afterPre (s.preDefine w.opa.toNat d) (
    if (s.mdw w.opa.toNat).state = .free ∧ (descTiles d).isEmpty then .ok s
    else .wait (s.setMdw w.opa.toNat { s.mdw w.opa.toNat with pendingDef := some (d, s.now), defOwner := some c }) .op))) :=
  congrArg Host.Outcome.next (State.runInstr_runs h _ _ _ _ _)

theorem exec_meadowRole_of_runs (h : Runs s c 0x81 w x) : exec (.meadowRole c w) s = .next (s.settle c (afterPre (s.preRole w.opa.toNat w.opb.toNat)
    (.wait ((s.setMdw w.opa.toNat { s.mdw w.opa.toNat with pendingRole := some w.opb.toNat, roleOwner := some c }).publish (.instr c) 4 0 1) .op))) :=
  congrArg Host.Outcome.next (State.runInstr_runs h _ _ _ _ _)

theorem exec_meadowDrain_of_runs (h : Runs s c 0x82 w x) : exec (.meadowDrain c w) s = .next (s.settle c (
    if (s.mdw w.opa.toNat).state ≠ .running then .fail .illegalInState (obsOf 6 (mCode (s.mdw w.opa.toNat).state))
    else .wait (s.setMdw w.opa.toNat { s.mdw w.opa.toNat with state := .draining, drainOwner := some c }) .op)) :=
  congrArg Host.Outcome.next (State.runInstr_runs h _ _ _ _ _)

end

section
variable {s : State} {m : Nat}

theorem exec_meadowDefineEffect {d : Bytes} {since : Nat} (hdef : (s.mdw m).pendingDef = some (d, since)) : exec (.meadowDefineEffect m) s = .next (
    if !s.cdUp ∨ s.now ≤ since ∨ (s.mdw m).steps.any (·.started) then s else s.defineNow m d) := by
  rw [show exec (.meadowDefineEffect m) s = execMeadowDefineEffect m s from rfl, execMeadowDefineEffect]
  simp only [hdef]

/-- A meadow as a definition leaves it (R408), `bad` the tiles that it could not take. -/
def Meadow.defined (g : Meadow) (d : Bytes) (bad : List Nat) : Meadow :=
  let y : Meadow := if (descTiles d).isEmpty then { g with state := .free, role := 0, tiles := [], chans := 0, portShares := [], desc := [], window := none }
    else { g with state := .running, role := descRole d, tiles := descTiles d, chans := descChans d, portShares := descShares d, desc := d.take 64 }
  { y with
    pendingDef := none
    defOwner := none
    program := none
    ran := []
    captures := loseCaptures 1 g.captures
    shadowNext := 0
    resplit := none
    quarantined := bad
    stuck := false
    deficits := []
    rotation := 0 }

theorem Meadow.defined_running {g : Meadow} {d : Bytes} {bad : List Nat} (h : descTiles d ≠ []) : (g.defined d bad).state = .running ∧
    (g.defined d bad).tiles = descTiles d ∧ (g.defined d bad).role = descRole d ∧ (g.defined d bad).chans = descChans d ∧
    (g.defined d bad).portShares = descShares d ∧ (g.defined d bad).pendingDef = none ∧ (g.defined d bad).program = none := by
  simp [Meadow.defined, List.isEmpty_eq_false_iff.mpr h]

theorem Meadow.defined_free {g : Meadow} {d : Bytes} {bad : List Nat} (h : descTiles d = []) : (g.defined d bad).state = .free ∧
    (g.defined d bad).tiles = [] ∧ (g.defined d bad).chans = 0 ∧ (g.defined d bad).pendingDef = none := by
  simp [Meadow.defined, h]

theorem State.unready_mdw (s : State) (m i : Nat) : (s.unready m).mdw i = s.mdw i := by
  unfold State.unready
  extract_lets v
  split <;> rfl

/-- The tiles of a definition that its meadow could not take. -/
def State.untaken (s : State) (m : Nat) (d : Bytes) : List Nat :=
  let u := s.assignTiles m (s.mdw m).tiles (descTiles d)
  (descTiles d).filter (fun i => !((u.tile i).state == 1 && (u.tile i).meadow == m))

theorem State.mdw_defineNow (hown : (s.mdw m).defOwner = none) (d : Bytes) : (s.defineNow m d).mdw m = (s.mdw m).defined d (s.untaken m d) := by
  unfold State.defineNow
  extract_lets g new same u bad free y u1 u2
  have hu1 : u1.mdw m = y := State.mdw_setMdw_self u m y
  have hu2 : u2.mdw m = u1.mdw m := by
    simp only [u2]
    split
    · rfl
    · exact State.unready_mdw _ _ _
  rw [show g.defOwner = none from hown]
  exact hu2.trans hu1

theorem exec_meadowDrained : exec (.meadowDrained m) s = .next (
    if !s.cdUp ∨ (s.mdw m).state ≠ .draining ∨ s.lore.requests.any (fun e => e.2.meadow == m && e.2.state.inFlight) then s
    else match (s.mdw m).drainOwner with
      | none => s.setMdw m { s.mdw m with state := .drained, drainOwner := none }
      | some c => (s.setMdw m { s.mdw m with state := .drained, drainOwner := none }).finish (.instr c) .ok) := rfl

end

end Sys2Proof.Machine

open Sys2Proof Sys2Proof.Machine

/-- Settles O46: it holds. -/
theorem meadows : Obligations.Meadows := by
  intro s c w x d code obs m g
  refine ⟨fun h => ⟨fun hpre hwait => ?_, fun hpre hfree hnone => ?_, fun hpre => ?_⟩, fun since hdef => ⟨fun hearly => ?_, fun hstep => ?_, fun hup hlate hidle => ?_⟩,
    fun hown => ?_, fun h => ⟨fun hpre => ?_, fun hpre => ?_⟩, fun h => ⟨fun hrun => ?_, fun hnot => ?_⟩, fun hup hdraining => ⟨fun hnone howner => ?_, fun hsome => ?_⟩⟩
  · intro t
    rw [exec_meadowDefine_of_runs h, State.settle_afterPre_none hpre, if_neg]
    · rfl
    · rintro ⟨hfree, hempty⟩
      rcases hwait with hne | hne
      · exact hne hfree
      · exact hne (List.isEmpty_iff.mp hempty)
  · rw [exec_meadowDefine_of_runs h, State.settle_afterPre_none hpre, if_pos ⟨hfree, List.isEmpty_iff.mpr hnone⟩, State.settle_ok]
  · rw [exec_meadowDefine_of_runs h, State.settle_afterPre_some hpre]
  · rw [exec_meadowDefineEffect hdef, if_pos (.inr (.inl hearly))]
  · rw [exec_meadowDefineEffect hdef, if_pos (.inr (.inr hstep))]
  · rw [exec_meadowDefineEffect hdef, if_neg]
    rintro (h | h | h)
    · simp [hup] at h
    · omega
    · exact Bool.false_ne_true (hidle.symm.trans h)
  · intro u
    rw [State.mdw_defineNow hown d]
    exact ⟨fun htiles => Meadow.defined_running htiles, fun htiles => Meadow.defined_free htiles⟩
  · intro t
    rw [exec_meadowRole_of_runs h, State.settle_afterPre_none hpre]
    rfl
  · rw [exec_meadowRole_of_runs h, State.settle_afterPre_some hpre]
  · intro t
    rw [exec_meadowDrain_of_runs h, if_neg (not_not_intro hrun)]
    rfl
  · rw [exec_meadowDrain_of_runs h, if_pos hnot, State.settle_fail]
  · rw [exec_meadowDrained, if_neg]
    · rw [howner]
    · rintro (h | h | h)
      · simp [hup] at h
      · exact h hdraining
      · obtain ⟨e, he, hin⟩ := List.any_eq_true.mp h
        simp only [Bool.and_eq_true, beq_iff_eq] at hin
        exact Bool.false_ne_true ((hnone e he hin.1).symm.trans hin.2)
  · obtain ⟨e, he, hm, hin⟩ := hsome
    rw [exec_meadowDrained, if_pos (.inr (.inr (List.any_eq_true.mpr ⟨e, he, by simp [hm, hin]⟩)))]
end

section
/-! On the chip: the commons with their check bits, `MARCH`, `SCRUB_NOW` and MSI-X (R157, R445, R446, R453 to R466): obligation O47. -/

namespace Sys2Proof.Machine

section
variable {s : State}

/-! ## The commons as the host writes and reads them (R445, R453, R455) -/

theorem State.commonsWrite_taken (hup : s.cdUp = true) {off : Nat} (halign : off % 8 = 0) (hlow : s.hostRegion ≤ off) (hhigh : off < 2 ^ 26)
    (hheld : s.bankHeld (off / 2 ^ 20) = false) (view : Nat) (v : Word) (rmw : Bool) (f : Word → Word) :
    s.commonsWrite view off 8 v rmw f =
      let t := if rmw then (s.readWord (off / 8)).2 else s
      t.setCommons (off / 8) (f (t.commonsWord (off / 8))) := by
  rw [State.commonsWrite, if_neg (by simp [hup]), if_neg (by simp [halign]),
    if_neg (by simp only [hheld, Bool.false_eq_true, or_false]; omega)]

theorem State.commonsWrite_discarded (hup : s.cdUp = true) {off : Nat} (halign : off % 8 = 0)
    (hout : off < s.hostRegion ∨ s.bankHeld (off / 2 ^ 20) = true) (view : Nat) (v : Word) (rmw : Bool) (f : Word → Word) :
    s.commonsWrite view off 8 v rmw f = (s.bump Reg.COMMONS_HOST_DISCARD).raise Ev.commonsHostDiscard 0 off := by
  rw [State.commonsWrite, if_neg (by simp [hup]), if_neg (by simp [halign]), if_pos (hout.imp id .inr)]

theorem State.commonsWord_setCommons_self (k : Nat) (v : Word) : (s.setCommons k v).commonsWord k = v :=
  Tbl.get_set_self (fun _ => (0 : Word)) _ _ _

theorem State.commonsWord_setCommons_ne {j k : Nat} (v : Word) (h : j ≠ k) : (s.setCommons k v).commonsWord j = s.commonsWord j :=
  Tbl.get_set_ne (fun _ => (0 : Word)) _ _ (Ne.symm h)

theorem State.readWord_clean {k : Nat} (h : Tbl.find s.sys.upsets k = none) : s.readWord k = (some (s.commonsWord k), s) := by
  simp only [State.readWord, h]

theorem State.readWord_corrected {k : Nat} (h : Tbl.find s.sys.upsets k = some 1) :
    s.readWord k = (some (s.commonsWord k), (s.setCommons k (s.commonsWord k)).bump Reg.SRAM_CE) := by
  simp only [State.readWord, h]

theorem State.readWord_lost {k n : Nat} (hn : n ≠ 1) (h : Tbl.find s.sys.upsets k = some n) : s.readWord k = (none, s.bump Reg.SRAM_UE) := by
  simp only [State.readWord, h]

/-- A host read of one whole word outside a held bank. -/
theorem State.bar2Read_word {off : Nat} (halign : off % 8 = 0) (hview : off < 3 * 2 ^ 26) (hheld : s.bankHeld (off % 2 ^ 26 / 2 ^ 20) = false)
    {r : Option Word × State} (hr : s.readWord (off % 2 ^ 26 / 8) = r) : s.bar2Read off 8 =
      match (generalizing := false) r.1 with
      | some v => r.2.emit (.bar2Data off (leBytes 8 v.toNat))
      | none => (r.2.raise Ev.sramUe 0 (off % 2 ^ 26 / 2 ^ 20) (off % 2 ^ 26 % 2 ^ 20)).emit (.bar2Data off (leBytes 8 (2 ^ 64 - 1))) := by
  have hbyte : off % 2 ^ 26 % 8 = 0 := by omega
  unfold State.bar2Read State.commonsRead
  simp only
  rw [if_neg (by simp only [hheld, Bool.false_eq_true, or_false]; omega), hr, hbyte]
  obtain ⟨o, t⟩ := r
  cases o with
  | none => rfl
  | some v =>
    have hv : (BitVec.ofNat 64 (v.toNat / 2 ^ (8 * 0) % 2 ^ (8 * 8))).toNat = v.toNat := by
      rw [Nat.mul_zero, Nat.pow_zero, Nat.div_one, BitVec.toNat_ofNat, Nat.mod_mod, Nat.mod_eq_of_lt v.isLt]
    exact congrArg (fun n => t.emit (.bar2Data off (leBytes 8 n))) hv

/-! ## `MARCH` (R157, R461 to R466) -/

/-- The run that `MARCH` starts. -/
def State.marchRun (s : State) (c : Nat) (w : IWord) : MarchRun :=
  let r : MarchRun := { id := s.sys.nextMarch, owner := .instr c, kind := w.opa.toNat / 256, index := w.opa.toNat % 256, destructive := w.flag 8, repair := w.flag 9 }
  { r with work := s.marchWork r }

theorem exec_march_of_runs {c : Nat} {w : IWord} {x : Ctx} (h : Runs s c 0x88 w x) : exec (.march c w) s = .next (s.settle c (afterPre (s.preMarch w) (
    let r := s.marchRun c w
    let u := s.mapSys (fun y => { y with marches := y.marches ++ [r], nextMarch := y.nextMarch + 1 })
    .wait ((if w.flag 8 then u else u.addJob 8 r.id [(r.resource, r.ns)]).publish (.instr c) 5 0 r.work) .op))) :=
  congrArg Host.Outcome.next (State.runInstr_runs h _ _ _ _ _)

section
variable {run failing : Nat} {r : MarchRun} (hup : s.cdUp = true) (hr : (s.sys.marches.take 8).find? (·.id == run) = some r) (hkeep : r.destructive = false)
include hr hkeep

theorem exec_marchRunComplete_waits (hwait : s.jobDone 8 run = false) : exec (.marchRunComplete run failing) s = .next s := by
  rw [show exec (.marchRunComplete run failing) s = execMarchRunComplete run failing s from rfl, execMarchRunComplete, hr]
  simp only
  rw [if_pos (by simp [hkeep, hwait])]

include hup

/-- The end of a preserving run that has had its background share, with what its repair leaves. -/
theorem exec_marchRunComplete_done (hdone : s.jobDone 8 run = true) {e : State × Nat}
    (he : (if r.repair then ((s.mapSys (fun y => { y with marches := y.marches.filter (·.id != run) })).dropJob 8 run).repairRows r failing
      else ((s.mapSys (fun y => { y with marches := y.marches.filter (·.id != run) })).dropJob 8 run, failing)) = e) :
    exec (.marchRunComplete run failing) s = .next
      (((e.1.publish r.owner 5 r.work r.work).setOut r.owner (fun x => { x with outLen := failing })).finish r.owner (if e.2 = 0 then .ok else .checkFail)) := by
  rw [show exec (.marchRunComplete run failing) s = execMarchRunComplete run failing s from rfl, execMarchRunComplete, hr]
  simp only
  rw [if_neg (by simp [hup, hdone]), ← he, hkeep] <;> rfl

end

theorem State.repairRows_enough {r : MarchRun} {failing : Nat} (h : failing ≤ s.regN r.spares) :
    s.repairRows r failing = (s.setRegN r.spares (s.regN r.spares - failing), 0) := by
  rw [State.repairRows, Nat.min_eq_left h]
  exact if_pos (Nat.le_refl _)

/-! ## `SCRUB_NOW` -/

theorem State.endScrubs_one {r : ScrubRun} (hr : s.sys.bg.scrubs = [r]) : s.endScrubs =
    if s.jobDone (if r.flash then 6 else 5) r.job then
      let t := (s.dropJob (if r.flash then 6 else 5) r.job).mapBg (fun b => { b with scrubs := [] })
      if r.bad then (t.scrubFault r.flash r.start r.mib).finish r.owner .checkFail else t.finish r.owner .ok
    else s := by
  have hlist : ((s.dropJob (if r.flash then 6 else 5) r.job).sys.bg.scrubs.filter (fun x => x.job != r.job)) = [] := by
    rw [show (s.dropJob (if r.flash then 6 else 5) r.job).sys.bg.scrubs = [r] from hr]
    simp
  rw [State.endScrubs, hr]
  by_cases hdone : s.jobDone (if r.flash then 6 else 5) r.job = true
  · rw [if_pos hdone]
    simp only [List.filter_cons, if_pos hdone, List.filter_nil, List.foldl_cons, List.foldl_nil, State.mapBg, hlist]
  · rw [if_neg hdone]
    simp only [List.filter_cons, if_neg hdone, List.filter_nil, List.foldl_nil]

/-! ## MSI-X (R446) -/

theorem exec_msixEntryUnmask {entry : Nat} (h : entry < 256) : exec (.msixEntryUnmask entry) s = .next (
    let t := s.setVector (4 * entry + 3) (s.vector (4 * entry + 3) / 2 * 2)
    if s.cxl.vecPending.contains entry then ({ t with cxl := { t.cxl with vecPending := t.cxl.vecPending.filter (· != entry) } }).emit (.msix entry)
    else t) :=
  congrArg Host.Outcome.next (if_pos h)

end

end Sys2Proof.Machine

open Sys2Proof Sys2Proof.Machine

/-- Settles O47: it holds. -/
theorem onChipEngines : Obligations.OnChipEngines := by
  refine fun s c off size run entry failing bad v w x code obs => ⟨fun hup hsize halign hlow hhigh hheld => ?_, fun hup hsize halign hout => ?_,
    fun k => ⟨State.commonsWord_setCommons_self k v, ?_, fun j hj => State.commonsWord_setCommons_ne v hj⟩,
    fun k => ⟨State.readWord_clean, State.readWord_corrected, fun n hn => State.readWord_lost hn⟩, fun halign hview hheld => ?_,
    fun h => ⟨fun hpre => ?_, fun hpre => ?_⟩, fun r hup hr hkeep => ?_, fun hnone => ?_, fun h => ?_, fun r hr => ?_, fun hentry hpend => ?_, fun hentry hpend => ?_⟩
  · subst hsize
    refine ⟨?_, ?_, ?_⟩
    · exact congrArg Host.Outcome.next (State.commonsWrite_taken hup halign hlow hhigh hheld _ _ _ _)
    · exact congrArg Host.Outcome.next (State.commonsWrite_taken hup halign hlow hhigh hheld _ _ _ _)
    · exact congrArg Host.Outcome.next (State.commonsWrite_taken hup halign hlow hhigh hheld _ _ _ _)
  · subst hsize
    refine ⟨?_, ?_, ?_⟩
    · exact congrArg Host.Outcome.next (State.commonsWrite_discarded hup halign hout _ _ _ _)
    · exact congrArg Host.Outcome.next (State.commonsWrite_discarded hup halign hout _ _ _ _)
    · exact congrArg Host.Outcome.next (State.commonsWrite_discarded hup halign hout _ _ _ _)
  · simp [State.setCommons, Tbl.find_drop]
  · intro k
    refine ⟨fun hclean => ?_, fun htwo => ?_⟩
    · rw [State.bar2Read_word halign hview hheld (State.readWord_clean hclean)]
    · rw [State.bar2Read_word halign hview hheld (State.readWord_lost (by decide) htwo)]
  · intro r0 r u t
    refine ⟨fun hall => ?_, fun hall => ?_⟩
    · rw [exec_march_of_runs h, State.settle_afterPre_none hpre, hall]
      rfl
    · intro u'
      rw [exec_march_of_runs h, State.settle_afterPre_none hpre, hall]
      rfl
  · rw [exec_march_of_runs h, State.settle_afterPre_some hpre]
  · intro t done
    refine ⟨exec_marchRunComplete_waits hr hkeep, fun hdone => ⟨fun hzero hplain => ?_, fun hne hplain => ?_, fun hfew hrepair => ?_⟩⟩
    · rw [exec_marchRunComplete_done hup hr hkeep hdone (if_neg (ne_true_of_eq_false hplain)), if_pos hzero]
    · rw [exec_marchRunComplete_done hup hr hkeep hdone (if_neg (ne_true_of_eq_false hplain)), if_neg hne]
    · rw [exec_marchRunComplete_done hup hr hkeep hdone ((if_pos hrepair).trans (State.repairRows_enough hfew))]
      rfl
  · rw [show exec (.marchRunComplete run failing) s = execMarchRunComplete run failing s from rfl, execMarchRunComplete, hnone]
  · intro n flash r t
    rw [exec_of_runs h rfl]
    rfl
  · intro act t
    rw [State.endScrubs_one hr]
    exact ⟨fun hwait => if_neg (ne_true_of_eq_false hwait), fun hdone hgood => (if_pos hdone).trans (if_neg (ne_true_of_eq_false hgood)),
      fun hdone hbad => (if_pos hdone).trans (if_pos hbad)⟩
  · intro t
    rw [exec_msixEntryUnmask hentry]
    exact congrArg Host.Outcome.next (if_pos hpend)
  · rw [exec_msixEntryUnmask hentry]
    exact congrArg Host.Outcome.next (if_neg (ne_true_of_eq_false hpend))
end

section
/-! The flash steward's commands: trim, time, checkpoints, format, journal and restart (R157, R337 to R355): obligation O48. -/

namespace Sys2Proof.Machine

section
variable {s : State}

theorem State.journalPage_nil (h : s.fls.recs = []) : s.journalPage = s := by
  rw [State.journalPage, h]
  rfl

theorem State.journalAll_nil (h : s.fls.recs = []) : s.journalAll = s := by
  rw [State.journalAll, h]
  exact State.journalPage_nil h

/-- With no record waiting a checkpoint leaves its own record alone. -/
theorem State.checkpoint_nil (h : s.fls.recs = []) : s.checkpoint =
    (s.mapFls (fun f => { f with ckptSeq := s.fls.ckptSeq + 1, ckptTime := s.clk.time, pages := 0 })).journal
      { typ := 0x0B, index := (s.fls.ckptSeq + 1 + 1) % 2, aux := (s.fls.ckptSeq + 1) % 2 ^ 32 } := by
  rw [State.checkpoint, State.journalAll_nil h]

/-! ## `FLASH_TRIM` -/

/-- What a trim leaves of its range, and of the superblocks that it has half emptied where collection is asked for. -/
def State.trimmed (s : State) (w : IWord) : State :=
  let t := (s.trimRange (w.opc.toNat / 65536) w.opb.toNat).journalAll
  if w.flag 8 then
    t.mapFls (fun f => { f with gcQueue := f.gcQueue ++ ((s.sbsOf (w.opc.toNat / 65536) w.opb.toNat).filter t.halfEmpty).filter (fun b => !f.gcQueue.contains b) })
  else t

theorem exec_flashTrim_of_runs {c : Nat} {w : IWord} {x : Ctx} (h : Runs s c 0x8A w x) : exec (.flashTrim c w) s = .next (s.settle c (afterPre (s.preTrim w)
    (.ok ((s.trimmed w).publish (.instr c) 1 (65536 * w.opb.toNat) (65536 * w.opb.toNat))))) :=
  congrArg Host.Outcome.next (State.runInstr_runs h _ _ _ _ _)

/-! ## Commands of the steward -/

theorem exec_flashCheckpointDue : exec .flashCheckpointDue s = .next (
    if s.flashRuns ∧ (s.fls.ckptTime + s.regN Reg.FLASH_CKPT_PERIOD % 65536 * 1000000000 ≤ s.clk.time ∨ 131072 ≤ s.fls.pages) then s.checkpoint else s) := by
  rw [show exec .flashCheckpointDue s = execFlashCheckpointDue s from rfl, execFlashCheckpointDue]
  simp only [show bits (s.regN Reg.FLASH_CKPT_PERIOD) 15 0 = s.regN Reg.FLASH_CKPT_PERIOD % 65536 by simp [bits], show 10 ^ 9 = 1000000000 from rfl, halfRing]

/-- The steward as a format leaves it, ahead of its first checkpoint. -/
def State.formatted (s : State) : State :=
  let t := s.mapFls (fun f => { f with
    state := .ready
    map := []
    sbs := (s.fls.sbs.map (fun e => (e.1, ({ erases := e.2.erases } : Superblock)))).filter (fun e => e.2 != {})
    opens := []
    recs := []
    seq := 0
    pages := 0
    live := []
    parity := []
    parityNext := 0
    readOnly := false
    gc := none
    gcActive := false
    gcQueue := []
    formats := f.formats + 1
    dropTier := false
    system := [] })
  t.eraseSystem.mapMem (fun m => { m with flashUsed := [], flash := [] })

theorem exec_flashCmdFormat_failed (h : s.fls.state = .failed) : exec .flashCmdFormat s = .next s.formatted.checkpoint :=
  congrArg Host.Outcome.next (if_neg (not_not_intro h))

theorem exec_flashRestart {i : RestartInput} (hstate : s.fls.state = .restoring) (hheld : s.fls.held = false) : exec (.flashRestart i) s = .next (
    if !i.checkpointValid then s.mapFls (fun f => { f with state := .failed })
    else
      let t := (i.rebuilt.filter s.closeOpen.inClosed).foldl (fun (s : State) u => (s.bump Reg.FLASH_REBUILDS).moveUnit u) s.closeOpen
      let t := (i.lostUnits.filter t.inClosed).foldl State.loseUnit t
      let t := if t.fls.dropTier then t.dropExported else t.journalAll
      t.eraseEmpties.checkpoint.mapFls (fun f => { f with readOnly := f.readOnly || i.readOnlyRecord, state := if f.readOnly || i.readOnlyRecord then .readOnly else .ready })) :=
  congrArg Host.Outcome.next (if_neg (by simp [hstate, hheld]))

end

end Sys2Proof.Machine

open Sys2Proof Sys2Proof.Machine

/-- Settles O48: it holds. -/
theorem flashSteward : Obligations.FlashSteward := by
  refine fun s c w x v i code obs => ⟨fun h => ⟨fun hpre hflag => ?_, fun hpre hflag => ?_, fun hpre => ?_⟩, ⟨_, rfl, ?_, rfl, rfl, rfl, rfl, rfl, rfl⟩,
    fun hruns => ⟨?_, ?_, fun hdue => ?_, fun hearly hfew => ?_⟩, fun hstill => ⟨?_, ?_, ?_⟩, fun hstate => ?_, fun hstate => ?_, fun hstate => ?_,
    fun hstate hheld => ⟨fun hnone => ?_, fun hvalid => ⟨_, (exec_flashRestart hstate hheld).trans (congrArg _ (if_neg (by simp [hvalid]))), ?_, fun hro => ?_⟩⟩⟩
  · rw [exec_flashTrim_of_runs h, State.settle_afterPre_none hpre, State.trimmed, hflag]
    rfl
  · rw [exec_flashTrim_of_runs h, State.settle_afterPre_none hpre, State.trimmed, hflag]
    rfl
  · rw [exec_flashTrim_of_runs h, State.settle_afterPre_some hpre]
  · change (s.clk.time : Int) + ((v.toNat : Int) - s.clk.time) = v.toNat
    omega
  · exact congrArg Host.Outcome.next (if_pos hruns)
  · exact congrArg Host.Outcome.next (if_pos hruns)
  · rw [exec_flashCheckpointDue, if_pos ⟨hruns, hdue⟩]
  · rw [exec_flashCheckpointDue, if_neg (by omega)]
  · exact congrArg Host.Outcome.next (if_neg (ne_true_of_eq_false hstill))
  · exact congrArg Host.Outcome.next (if_neg (ne_true_of_eq_false hstill))
  · rw [exec_flashCheckpointDue, if_neg (by simp [hstill])]
  · exact congrArg Host.Outcome.next (if_pos hstate)
  · refine ⟨_, exec_flashCmdFormat_failed hstate, ?_⟩
    rw [State.checkpoint_nil rfl]
    exact ⟨rfl, rfl, rfl, rfl, rfl, rfl, rfl, rfl, rfl, rfl, rfl, rfl, rfl⟩
  · exact congrArg Host.Outcome.next (if_pos (.inl hstate))
  · rw [exec_flashRestart hstate hheld, hnone]
    rfl
  · exact (ite_eq_or_eq _ FState.readOnly FState.ready).symm
  · exact if_pos (by rw [hro, Bool.or_true])
end

section
/-! Spares, thresholds, parity and the media of the flash (R335, R336, R340 to R354): obligation O49. -/

namespace Sys2Proof.Machine

/-! ## Spares (R346, R347) -/

/-- The address of a spare block names its die, channel and plane. -/
theorem bits_blockAddr {i die plane channel : Nat} (hi : i < 80) (hdie : die < 8) (hplane : plane < 4) (hchannel : channel < 16) :
    bits (blockAddr (2404 + i) die plane channel) 27 25 = die ∧ bits (blockAddr (2404 + i) die plane channel) 31 28 = channel ∧
      bits (blockAddr (2404 + i) die plane channel) 24 23 = plane := by
  unfold bits blockAddr
  refine ⟨?_, ?_, ?_⟩ <;> omega

/-- The spare blocks of one plane of a hole's die. -/
def spareBlocks (hole plane : Nat) : List Nat := (List.range 80).map (fun i => blockAddr (2404 + i) (bits hole 27 25) plane (bits hole 31 28))

theorem State.spareFor_eq (s : State) (hole : Nat) : s.spareFor hole =
    ((spareBlocks hole (bits hole 24 23)).find? (fun b => !s.fls.spares.any (fun e => e.2 == b))).or
      ((((List.range 4).filter (· != bits hole 24 23)).flatMap (spareBlocks hole)).find? (fun b => !s.fls.spares.any (fun e => e.2 == b))) :=
  List.find?_append

theorem bits_spareBlocks {hole plane b : Nat} (hplane : plane < 4) (hb : b ∈ spareBlocks hole plane) :
    bits b 27 25 = bits hole 27 25 ∧ bits b 31 28 = bits hole 31 28 ∧ bits b 24 23 = plane := by
  obtain ⟨i, hi, rfl⟩ := List.mem_map.mp hb
  exact bits_blockAddr (List.mem_range.mp hi) (Nat.mod_lt _ (by decide)) hplane (Nat.mod_lt _ (by decide))

theorem State.spare_used {s : State} {b : Nat} (h : ¬ (!s.fls.spares.any (fun e => e.2 == b)) = true) : ∃ e ∈ s.fls.spares, e.2 = b := by
  simpa using h

/-- A hole's spare: a free spare block of its die, of another plane only once its own has none left. -/
theorem State.spareFor_some {s : State} {hole b : Nat} (h : s.spareFor hole = some b) : bits b 27 25 = bits hole 27 25 ∧ bits b 31 28 = bits hole 31 28 ∧
    (∀ e ∈ s.fls.spares, e.2 ≠ b) ∧ (bits b 24 23 ≠ bits hole 24 23 → ∀ c ∈ spareBlocks hole (bits hole 24 23), ∃ e ∈ s.fls.spares, e.2 = c) := by
  have hown : bits hole 24 23 < 4 := Nat.mod_lt _ (by decide)
  rw [State.spareFor_eq] at h
  rcases Option.or_eq_some_iff.mp h with hfirst | ⟨hnone, hother⟩
  · obtain ⟨hdie, hchannel, hplane⟩ := bits_spareBlocks hown (List.mem_of_find?_eq_some hfirst)
    exact ⟨hdie, hchannel, by simpa using List.find?_some hfirst, fun hne => absurd hplane hne⟩
  · obtain ⟨plane, hmem, hb⟩ := List.mem_flatMap.mp (List.mem_of_find?_eq_some hother)
    have hplane : plane < 4 := List.mem_range.mp (List.mem_filter.mp hmem).1
    obtain ⟨hdie, hchannel, -⟩ := bits_spareBlocks hplane hb
    exact ⟨hdie, hchannel, by simpa using List.find?_some hother, fun _ c hc => State.spare_used (List.find?_eq_none.mp hnone c hc)⟩

theorem State.enterReadOnly_spares (s : State) : s.enterReadOnly.fls.spares = s.fls.spares ∧ s.enterReadOnly.fls.holes = s.fls.holes := by
  unfold State.enterReadOnly
  split
  · exact ⟨rfl, rfl⟩
  · have hraise := fun t : State => (Still.raise t Ev.flashReadOnly 0 0 0 none 0).fls
    exact ⟨(congrArg Flash.spares (hraise _)).trans rfl, (congrArg Flash.holes (hraise _)).trans rfl⟩

theorem State.attachSpare_some {s : State} {hole b : Nat} (h : s.spareFor hole = some b) :
    (s.attachSpare hole).fls.spares = (hole, b) :: s.fls.spares ∧ (s.attachSpare hole).fls.holes = s.fls.holes.filter (· != hole) := by
  unfold State.attachSpare
  simp only [h]
  split
  · exact State.enterReadOnly_spares _
  · exact ⟨rfl, rfl⟩

/-! ## Parity (R335) -/

section
variable {s : State}

theorem State.parityHeld_programParity (phys : Nat) : (s.programParity phys).parityHeld phys = true := by
  simp [State.parityHeld, State.programParity, State.mapFls]

theorem State.parityHeld_slotIn {t : State} {sb p : Nat} (h : s.slotIn sb = some (p, t)) : t.parityHeld p = true := by
  unfold State.slotIn at h
  split at h
  · nomatch h
  · obtain ⟨rfl, rfl⟩ := Prod.mk.inj (Option.some.inj h)
    exact State.parityHeld_programParity _

theorem State.parityHeld_nextSlot {t : State} {stream p : Nat} (h : s.nextSlot stream = some (p, t)) : t.parityHeld p = true := by
  unfold State.nextSlot at h
  split at h
  · split at h
    · next r hr =>
      cases h
      exact State.parityHeld_slotIn hr
    · split at h
      · nomatch h
      · exact State.parityHeld_slotIn h
  · split at h
    · nomatch h
    · exact State.parityHeld_slotIn h

theorem State.releaseParity_same {phys sb : Nat} (h : physSb phys = sb) : (s.releaseParity sb).parityHeld phys = false := by
  simp only [State.parityHeld, State.releaseParity, State.mapFls, List.any_filter, List.any_eq_false]
  rintro e -
  simp only [Bool.and_eq_true, bne_iff_ne, beq_iff_eq, not_and]
  rintro hne rfl
  exact hne h

theorem State.releaseParity_other {phys sb : Nat} (h : physSb phys ≠ sb) : (s.releaseParity sb).parityHeld phys = s.parityHeld phys := by
  simp only [State.parityHeld, State.releaseParity, State.mapFls, List.any_filter]
  refine congrArg s.fls.parity.any (funext fun e => ?_)
  by_cases he : e.2 = phys
  · simp [he, h]
  · simp [he]

/-- The next place is free: within a block, or at the start of one whose parity is released. -/
theorem State.programParity_next {phys : Nat} (h : ¬ (s.fls.parityNext % paritySlots = 0 ∧
    s.fls.parity.any (fun e => e.1 / paritySlots == s.fls.parityNext / paritySlots) = true)) :
    (s.programParity phys).fls.parity = (s.fls.parityNext, phys) :: s.fls.parity := by
  have hplace : s.parityPlace (4095 + 1) s.fls.parityNext = s.fls.parityNext := by
    rw [State.parityPlace, if_neg h]
  exact congrArg (fun p => (p, phys) :: s.fls.parity) hplace

/-! ### The page that is missing -/

/-- The XOR of the bytes that a list of columns has at one place. -/
def xorOf (g : Nat → Byte) (l : List Nat) : Byte := l.foldl (fun x c => x ^^^ g c) 0

theorem foldl_xor (g : Nat → Byte) (l : List Nat) (x : Byte) : l.foldl (fun x c => x ^^^ g c) x = x ^^^ xorOf g l := by
  unfold xorOf
  induction l generalizing x with
  | nil => simp
  | cons c l ih =>
    rw [List.foldl_cons, List.foldl_cons, ih, ih (0 ^^^ g c)]
    simp [BitVec.xor_assoc]

theorem xorOf_cons (g : Nat → Byte) (c : Nat) (l : List Nat) : xorOf g (c :: l) = g c ^^^ xorOf g l := by
  rw [xorOf, List.foldl_cons, foldl_xor]
  simp

theorem xorOf_erase {g : Nat → Byte} {j : Nat} {l : List Nat} (hj : j ∈ l) (hl : l.Nodup) : xorOf g l = g j ^^^ xorOf g (l.filter (· != j)) := by
  induction l with
  | nil => nomatch hj
  | cons c l ih =>
    obtain ⟨hc, hl⟩ := List.nodup_cons.mp hl
    rcases List.mem_cons.mp hj with rfl | hj
    · have hall : l.filter (· != j) = l := List.filter_eq_self.mpr fun a ha => bne_iff_ne.mpr fun e => hc (e ▸ ha)
      rw [xorOf_cons, List.filter_cons_of_neg (by simp), hall]
    · have hne : (c != j) = true := bne_iff_ne.mpr fun e => hc (e ▸ hj)
      rw [xorOf_cons, ih hj hl, List.filter_cons_of_pos (p := (· != j)) hne, xorOf_cons, ← BitVec.xor_assoc, BitVec.xor_comm (g c), BitVec.xor_assoc]

theorem xorPages_map (f : Nat → Bytes) (l : List Nat) : xorPages (l.map f) = (List.range 16384).map (fun i => xorOf (fun c => (f c).getD i 0) l) := by
  unfold xorPages xorOf
  simp only [List.foldl_map]

theorem length_readBytes (m : Tbl Byte) (a n : Nat) : (Tbl.readBytes m a n).length = n := by
  simp [Tbl.readBytes]

/-- The XOR of the other 15 pages of a group with the group's parity page is the page that is missing. -/
theorem State.rebuiltPage_eq (unit k : Nat) : s.rebuiltPage unit k = s.unitPage unit k := by
  have hmem : k % 16 ∈ List.range 16 := List.mem_range.mpr (Nat.mod_lt _ (by decide))
  have hk : 16 * (k / 16) + k % 16 = k := Nat.div_add_mod k 16
  unfold State.rebuiltPage State.parityPage
  rw [xorPages_map, xorPages]
  refine List.ext_getElem (by simp [State.unitPage, length_readBytes]) fun i hi hj => ?_
  have hi : i < 16384 := by simpa using hi
  rw [List.getElem_map, List.getElem_range, List.foldl_cons, List.foldl_map, foldl_xor (fun c => (s.unitPage unit (16 * (k / 16) + c)).getD i 0)]
  rw [List.getD_eq_getElem _ _ (by simpa using hi), List.getElem_map, List.getElem_range, xorOf_erase hmem List.nodup_range, hk,
    show ∀ a : Byte, (0 : Byte) ^^^ a = a from fun _ => BitVec.zero_xor, BitVec.xor_assoc, BitVec.xor_self, BitVec.xor_zero, List.getD_eq_getElem _ _ hj]

end

/-! ## Thresholds (R349 to R351) -/

section
variable {s : State} {page : Nat}

theorem State.thresholds_aged (haged : (s.sb (physSb page)).aged = true) (htime : s.fls.timeSet = false) :
    s.thresholds page = (7, diffBucket (dieTemp s.fls.dieTemps (blockDie page) - dieTemp (s.sb (physSb page)).temps (blockDie page))) := by
  rw [State.thresholds]
  simp [haged, htime]

theorem State.thresholds_dated (h : (s.sb (physSb page)).aged = false ∨ s.fls.timeSet = true) : s.thresholds page =
    (ageBucket (s.flashTime - (s.sb (physSb page)).opened).toNat,
      diffBucket (dieTemp s.fls.dieTemps (blockDie page) - dieTemp (s.sb (physSb page)).temps (blockDie page))) := by
  rw [State.thresholds]
  rcases h with h | h <;> simp [h]

end

/-! ## Collection (R340 to R342) -/

section
variable {s : State} {unit : Nat}

theorem exec_gcStart_due (h : s.fls.state = .ready) (hheld : s.fls.held = false) (hidle : s.fls.gcActive = false) (hdue : s.freeSbs < s.gcLow ∨ s.fls.gcQueue ≠ []) :
    exec .gcStart s = .next s.gcNext :=
  congrArg Host.Outcome.next (if_pos ⟨h, (Bool.not_eq_true' _).mpr hheld, (Bool.not_eq_true' _).mpr hidle,
    hdue.imp_right fun hne => by cases hq : s.fls.gcQueue with | nil => exact absurd hq hne | cons => rfl⟩)

theorem exec_gcStart_enough (hlow : s.gcLow ≤ s.freeSbs) (hq : s.fls.gcQueue = []) : exec .gcStart s = .next s := by
  refine congrArg Host.Outcome.next (if_neg ?_)
  rintro ⟨-, -, -, h | h⟩
  · exact absurd h (Nat.not_lt.mpr hlow)
  · rw [hq] at h
    nomatch h

theorem exec_gcUnitMove_waits (h : s.fls.gc ≠ some (physSb (s.mapEnt unit).phys) ∨ s.flashReads = true) (b : Bool) : exec (.gcUnitMove unit b) s = .next s :=
  congrArg Host.Outcome.next (if_pos (.inr (.inr (.inr (.inr h)))))

/-- A unit of the victim that may be moved now. -/
structure State.Collects (s : State) (unit : Nat) : Prop where
  ready : s.fls.state = .ready
  free : s.fls.held = false
  whole : (s.mapEnt unit).lost = false
  mapped : (s.mapEnt unit).phys ≠ 0xFFFFFFFF
  victim : s.fls.gc = some (physSb (s.mapEnt unit).phys)
  quiet : s.flashReads = false

theorem State.Collects.not_waiting (h : s.Collects unit) : ¬ (s.fls.state ≠ .ready ∨ s.fls.held = true ∨ (s.mapEnt unit).lost = true ∨
    (s.mapEnt unit).phys = 0xFFFFFFFF ∨ s.fls.gc ≠ some (physSb (s.mapEnt unit).phys) ∨ s.flashReads = true) := by
  simp [h.ready, h.free, h.whole, h.mapped, h.victim, h.quiet]

theorem exec_gcUnitMove_lost (h : s.Collects unit) (hparity : s.parityHeld (s.mapEnt unit).phys = false) :
    exec (.gcUnitMove unit true) s = .next ((s.readFault unit).journalAll.eraseIfEmpty (physSb (s.mapEnt unit).phys)) :=
  congrArg Host.Outcome.next ((if_neg h.not_waiting).trans (if_pos ⟨rfl, (Bool.not_eq_true' _).mpr hparity⟩))

/-- A unit that can be read, or rebuilt, is copied; what was copied is counted. -/
theorem exec_gcUnitMove_copied (h : s.Collects unit) {b : Bool} (hparity : b = true → s.parityHeld (s.mapEnt unit).phys = true) :
    exec (.gcUnitMove unit b) s = .next (
      let t := (if b then ((s.bump Reg.FLASH_RETRY1).bump Reg.FLASH_RETRY2).bump Reg.FLASH_REBUILDS else s).moveUnit unit
      if s.fls.recs.length < t.fls.recs.length then t.bump Reg.FLASH_GC_BYTES (2 ^ 20) 64 else t) := by
  refine congrArg Host.Outcome.next ((if_neg h.not_waiting).trans (if_neg ?_))
  rintro ⟨hb, hlost⟩
  exact Bool.false_ne_true (((Bool.not_eq_true' _).mp hlost).symm.trans (hparity hb))

theorem State.moveUnit_journals {t : State} {p : Nat} (h : s.Collects unit) (hvalid : (s.mapEnt unit).valid ≠ 0)
    (hrec : s.fls.recs.any (fun r => r.typ == 3 && r.index == unit) = false) (hslot : s.nextSlot 1 = some (p, t)) (hstate : t.fls.state ≠ .readOnly) :
    s.moveUnit unit = t.journal { typ := 0x03, index := unit, oldPhys := (s.mapEnt unit).phys, newPhys := p, valid := (s.mapEnt unit).valid } := by
  have hgo : ¬ (s.fls.state = .readOnly ∨ (s.mapEnt unit).lost = true ∨ (s.mapEnt unit).valid = 0 ∨ (s.mapEnt unit).phys = 0xFFFFFFFF ∨
      s.fls.recs.any (fun r => r.typ == 3 && r.index == unit) = true) := by
    simp [h.ready, h.whole, hvalid, h.mapped, hrec]
  rw [State.moveUnit, if_neg hgo, hslot]
  exact if_neg hstate

theorem State.recs_journal (r : JRec) : (s.journal r).fls.recs.length = s.fls.recs.length + 1 := List.length_append

end

/-! ## Superblocks (R336, R346) -/

section
variable {s : State} {sb unit die plane channel : Nat}

theorem exec_sbVerify_waits (h : (s.sb sb).state ≠ 2 ∨ s.hasJob 6 (verifyJob sb) = false ∨ s.jobDone 6 (verifyJob sb) = false) (bad : List Nat) :
    exec (.sbVerify sb bad) s = .next s :=
  congrArg Host.Outcome.next (if_pos (.inr (h.imp_right (Or.imp (Bool.not_eq_true' _).mpr (Bool.not_eq_true' _).mpr))))

/-- A superblock that was read back is `VERIFIED` and its parity released. -/
def State.sbVerified (t : State) (sb : Nat) : State :=
  (((t.setSb sb { t.sb sb with state := 3 }).journal { typ := 0x08, index := sb }).releaseParity sb).dropJob 6 (verifyJob sb)

theorem exec_sbVerify_done (hruns : s.flashRuns = true) (hstate : (s.sb sb).state = 2) (hjob : s.hasJob 6 (verifyJob sb) = true)
    (hdone : s.jobDone 6 (verifyJob sb) = true) (bad : List Nat) : exec (.sbVerify sb bad) s = .next (State.sbVerified
      ((bad.filter (fun u => (s.unitsIn sb).contains u)).foldl (fun (s : State) u => (s.bump Reg.FLASH_REBUILDS).moveUnit u) s) sb) := by
  refine congrArg Host.Outcome.next (if_neg ?_)
  simp [hruns, hstate, hjob, hdone]

theorem exec_sbEraseComplete_waits (h : (s.sb sb).state ≠ 4 ∨ s.flashReads = true) : exec (.sbEraseComplete sb) s = .next s :=
  congrArg Host.Outcome.next (if_pos (.inr h))

theorem exec_sbEraseComplete_done (hruns : s.flashRuns = true) (hstate : (s.sb sb).state = 4) (hquiet : s.flashReads = false) (hgc : s.fls.gc ≠ some sb) :
    exec (.sbEraseComplete sb) s = .next (((s.setSb sb { erases := (s.sb sb).erases + 1 }).journal
      { typ := 0x09, index := sb, aux := s.eraseCount sb + 1 }).releaseParity sb) := by
  have hgo : ¬ (!s.flashRuns ∨ (s.sb sb).state ≠ 4 ∨ s.flashReads = true) := by simp [hruns, hstate, hquiet]
  exact congrArg Host.Outcome.next ((if_neg hgo).trans (if_neg hgc))

theorem exec_flashEraseFail_retires (hruns : s.flashRuns = true) (hstate : (s.sb sb).state = 4) (hdie : die < 8) (hplane : plane < 4) (hchannel : channel < 16) :
    exec (.flashEraseFail sb die plane channel) s = .next (s.retireBlock (blockAddr sb die plane channel)) := by
  refine congrArg Host.Outcome.next (if_neg ?_)
  simp [hruns, hstate, hdie, hplane, hchannel]

theorem exec_flashProgramFail_retires (hruns : s.flashRuns = true) (hstate : (s.sb sb).state = 1) (hdie : die < 8) (hplane : plane < 4) (hchannel : channel < 16)
    (hnew : s.fls.holes.contains (blockAddr sb die plane channel) = false) (hrecs : s.fls.recs = []) (hunits : s.unitsIn sb = []) :
    exec (.flashProgramFail sb die plane channel) s =
      .next ((s.mapFls (fun f => { f with recs := [] })).retireBlock (blockAddr sb die plane channel)) := by
  have hgo : ¬ (!s.flashRuns ∨ (s.sb sb).state ≠ 1 ∨ 8 ≤ die ∨ 4 ≤ plane ∨ 16 ≤ channel ∨ s.fls.holes.contains (blockAddr sb die plane channel) = true) := by
    rw [hnew]
    simp [hruns, hstate, hdie, hplane, hchannel]
  have hkept : ((s.mapFls (fun f => { f with recs := [] })).retireBlock (blockAddr sb die plane channel)).unitsIn sb = [] :=
    (congrArg (fun t : State => t.unitsIn sb) (if_neg (ne_true_of_eq_false hnew))).trans hunits
  refine congrArg Host.Outcome.next ((if_neg hgo).trans ?_)
  simp only [hrecs, List.foldl_nil, hkept, List.filter_nil]

theorem State.retireBlock_new {hole : Nat} (h : s.fls.holes.contains hole = false) : s.retireBlock hole =
    (s.journal { typ := 0x0A, index := hole, aux := 0xFFFFFFFF }).mapFls (fun f => { f with holes := f.holes ++ [hole], retired := f.retired + 1 }) :=
  if_neg (ne_true_of_eq_false h)

/-! ## Patrol (R350, R354) -/

/-- What a patrol read that is not the last of its pass does with a unit. -/
def State.patrolled (t : State) (unit phys : Nat) (retries : Nat) (failed : Bool) : State :=
  let t := if 1 ≤ retries ∨ failed then t.bump Reg.FLASH_RETRY1 else t
  let t := if 2 ≤ retries ∨ failed then t.bump Reg.FLASH_RETRY2 else t
  if failed then if t.parityHeld phys then (t.bump Reg.FLASH_REBUILDS).moveUnit unit else t.unitFault unit
  else if 2 ≤ retries then t.moveUnit unit
  else if t.wearVictim = some (physSb phys) ∧ t.bgRooms unitRead then (t.bgUses unitRead).moveUnit unit else t

section
variable {t : State} {phys : Nat}

theorem State.patrolled_clean (h : t.wearVictim ≠ some (physSb phys)) : t.patrolled unit phys 0 false = t := if_neg fun hwear => h hwear.1

theorem State.patrolled_twice : t.patrolled unit phys 2 false = ((t.bump Reg.FLASH_RETRY1).bump Reg.FLASH_RETRY2).moveUnit unit := rfl

theorem State.patrolled_failed : t.patrolled unit phys 2 true =
    (if t.parityHeld phys then (((t.bump Reg.FLASH_RETRY1).bump Reg.FLASH_RETRY2).bump Reg.FLASH_REBUILDS).moveUnit unit
    else ((t.bump Reg.FLASH_RETRY1).bump Reg.FLASH_RETRY2).unitFault unit) := rfl

end

theorem exec_flashPatrol_read (hruns : s.flashRuns = true) (hwhole : (s.mapEnt unit).lost = false) (hmapped : (s.mapEnt unit).phys ≠ 0xFFFFFFFF)
    (hroom : s.bgRooms unitRead = true) (hmore : ∃ k ∈ s.fls.map, unit < k.1) (retries : Nat) (failed : Bool) :
    exec (.flashPatrol unit retries failed) s = .next ((s.bgUses unitRead).patrolled unit (s.mapEnt unit).phys retries failed) := by
  have hgo : ¬ (!s.flashRuns ∨ (s.mapEnt unit).lost = true ∨ (s.mapEnt unit).phys = 0xFFFFFFFF ∨ (!s.bgRooms unitRead) = true) := by
    simp [hruns, hwhole, hmapped, hroom]
  have hlast : ¬ s.fls.map.all (fun e => decide (e.1 ≤ unit)) = true := by
    obtain ⟨k, hk, hlt⟩ := hmore
    exact fun hall => absurd (of_decide_eq_true (List.all_eq_true.mp hall k hk)) (Nat.not_le.mpr hlt)
  refine congrArg Host.Outcome.next ((if_neg hgo).trans ?_)
  simp only [if_neg hlast, State.patrolled]

end

end Sys2Proof.Machine

open Sys2Proof Sys2Proof.Machine

/-- Settles O49: it holds. -/
theorem flashMedia : Obligations.FlashMedia := by
  unfold Obligations.FlashMedia
  refine ⟨?spares, ?parity, ?media⟩
  case spares =>
    intro s hole b page
    refine ⟨fun h => ?_, fun h => ?_, fun haged htime => State.thresholds_aged haged htime, fun h => State.thresholds_dated h, rfl, fun hlo hhi => ?_, fun hlo hhi => ?_, fun h => ?_, fun h => ?_⟩
    · obtain ⟨hdie, hchannel, hfree, hother⟩ := State.spareFor_some h
      exact ⟨hdie, hchannel, hfree, fun hne i hi => hother hne _ (List.mem_map.mpr ⟨i, List.mem_range.mpr hi, rfl⟩)⟩
    · obtain ⟨hspares, hholes⟩ := State.attachSpare_some h
      refine ⟨hspares, ?_⟩
      rw [hholes]
      simp
    · unfold ageBucket
      simp only
      split_ifs <;> omega
    all_goals unfold diffBucket
    all_goals split_ifs <;> omega
  case parity =>
    intro s unit k sb phys stream
    refine ⟨fun p t h => State.parityHeld_nextSlot h, State.parityHeld_programParity _, fun _ => State.rebuiltPage_eq _ _,
      State.releaseParity_same, State.releaseParity_other, fun _ hfree => State.programParity_next ?_, fun hwithin => State.programParity_next fun h => hwithin h.1⟩
    rintro ⟨-, h⟩
    obtain ⟨e, he, heq⟩ := List.any_eq_true.mp h
    exact hfree e he (eq_of_beq heq)
  case media =>
    intro s unit sb die plane channel bad
    refine ⟨?start, ?collect, ?blocks⟩
    case start =>
      intro h hheld hidle
      exact ⟨fun hlow => exec_gcStart_due h hheld hidle (.inl hlow), fun hq => exec_gcStart_due h hheld hidle (.inr hq), exec_gcStart_enough⟩
    case collect =>
      intro e hready hheld hwhole hmapped
      refine ⟨exec_gcUnitMove_waits, fun hvictim hquiet => ?_⟩
      have hcollects : s.Collects unit := ⟨hready, hheld, hwhole, hmapped, hvictim, hquiet⟩
      refine ⟨exec_gcUnitMove_lost hcollects, fun hparity => ?_, fun hvalid hrec p t hslot hlen hstate => ?_⟩
      · intro t
        have hmove := exec_gcUnitMove_copied hcollects (b := true) fun _ => hparity
        exact ⟨fun hmore => hmove.trans (congrArg Host.Outcome.next (if_pos hmore)), fun hless => hmove.trans (congrArg Host.Outcome.next (if_neg (Nat.not_lt.mpr hless)))⟩
      · refine (exec_gcUnitMove_copied hcollects (b := false) fun h => nomatch h).trans (congrArg Host.Outcome.next ?_)
        simp only [Bool.false_eq_true, if_false]
        rw [State.moveUnit_journals hcollects hvalid hrec hslot hstate, State.recs_journal, if_pos (by omega)]
    case blocks =>
      intro hruns
      refine ⟨fun hstate hjob hdone => ?_, fun h => exec_sbVerify_waits h bad, fun hstate hquiet hgc => exec_sbEraseComplete_done hruns hstate hquiet hgc,
        exec_sbEraseComplete_waits, fun hdie hplane hchannel hnew => ?_, ?_⟩
      · intro ends
        refine ⟨fun hbad => ?_, fun hbad hmem => ?_⟩
        · rw [exec_sbVerify_done hruns hstate hjob hdone, hbad]
          rfl
        · have hfilter : [unit].filter (fun u => (s.unitsIn sb).contains u) = [unit] := List.filter_cons_of_pos (List.contains_iff_mem.mpr hmem)
          rw [exec_sbVerify_done hruns hstate hjob hdone, hbad, hfilter]
          rfl
      · refine ⟨fun hstate => exec_flashEraseFail_retires hruns hstate hdie hplane hchannel, fun hstate hrecs hunits =>
          ⟨_, exec_flashProgramFail_retires hruns hstate hdie hplane hchannel hnew hrecs hunits, ?_⟩⟩
        rw [State.retireBlock_new (by exact hnew)]
        exact ⟨rfl, rfl, rfl⟩
      · intro e hwhole hmapped hroom hmore t u
        have hread := exec_flashPatrol_read hruns hwhole hmapped hroom hmore
        refine ⟨fun hwear => ?_, (hread 2 false).trans (congrArg Host.Outcome.next State.patrolled_twice), fun hparity => ?_, fun hparity => ?_⟩
        · rw [hread, State.patrolled_clean hwear]
        · rw [hread, State.patrolled_failed, if_neg (ne_true_of_eq_false hparity)]
        · rw [hread, State.patrolled_failed, if_pos hparity]
end

section
/-! Firmware on the device: staging, arming, activation, commit and settings (R158, R508, R512 to R522): obligation O50. -/

namespace Sys2Proof.Machine

/-! ## `FW_STAGE` (R508, R512) -/

section
variable {s : State} {w : IWord} {c : Nat} {p q : FwPackage} {ok : Bool}

theorem State.preStage_unaligned (h : w.opc.toNat % 4096 ≠ 0) : s.preStage w = some (.badOperand, 0) := if_pos h

theorem State.preStage_armed (h : w.opc.toNat % 4096 = 0) (harmed : s.fw.armed.isSome = true) : s.preStage w = some (.illegalInState, 0) :=
  (if_neg (not_not_intro h)).trans (if_pos harmed)

section
variable (h : w.opc.toNat % 4096 = 0) (harmed : s.fw.armed = none)
include h harmed

theorem State.preStage_steward (hstate : s.fls.state ≠ .ready) : s.preStage w = some (.illegalInState, obsOf 8 (fCode s.fls.state)) := by
  rw [State.preStage, if_neg (not_not_intro h), harmed, if_neg (by decide), if_pos hstate]
  rfl

theorem State.preStage_none (hstate : s.fls.state = .ready) : s.preStage w = none := by
  rw [State.preStage, if_neg (not_not_intro h), harmed, if_neg (by decide), if_neg (not_not_intro hstate)]

end

theorem State.bodyStage_refused {code : Code} {obs : Nat} (h : s.preStage w = some (code, obs)) : s.bodyStage c w p ok = .failAs (s.fwDone code) code obs := by
  simp only [State.bodyStage, h, IRes.fwFail]

/-- The inactive slot emptied, and the package written to it. -/
def State.emptied (s : State) : State := (s.mapFw (fun f => f.setSlot (1 - f.active) { state := 0, pkg := none })).systemWrite 3 (2 ^ 20)
def State.staged (s : State) (q : FwPackage) : State := s.emptied.systemWrite (1 - s.fw.active) q.len

/-- What `FW_STAGE` does with the package it names: it is too long, invalid, does not read back, or fills the slot. -/
theorem State.bodyStage_named (h : s.preStage w = none) (hq : (if w.opc = 0 then s.fw.store else some p) = some q) : s.bodyStage c w p ok =
    if maxPackage < q.len then .failAs (s.fwDone .noSpace) .noSpace 0
    else if (!s.fwValid q) = true then .failAs (s.emptied.fwDone .checkFail) .checkFail 0
    else if (!ok) = true then .failAs ((s.staged q).fwDone .checkFail) .checkFail 0
    else .ok (((((s.staged q).mapFw (fun f => f.setSlot (1 - f.active) { state := 1, pkg := some q })).systemWrite 3 (2 ^ 20)).fwDone .ok).publish (.instr c) 6 6 6) := by
  simp only [State.bodyStage, h, hq, IRes.fwFail]
  rfl

theorem State.bodyStage_long (h : s.preStage w = none) (hq : (if w.opc = 0 then s.fw.store else some p) = some q) (hlong : maxPackage < q.len) :
    s.bodyStage c w p ok = .failAs (s.fwDone .noSpace) .noSpace 0 := by
  rw [State.bodyStage_named h hq, if_pos hlong]

theorem State.bodyStage_invalid (h : s.preStage w = none) (hq : (if w.opc = 0 then s.fw.store else some p) = some q) (hlen : q.len ≤ maxPackage)
    (hvalid : s.fwValid q = false) : s.bodyStage c w p ok = .failAs (s.emptied.fwDone .checkFail) .checkFail 0 := by
  rw [State.bodyStage_named h hq, if_neg (Nat.not_lt.mpr hlen), if_pos ((Bool.not_eq_true' _).mpr hvalid)]

theorem State.bodyStage_valid (h : s.preStage w = none) (hq : (if w.opc = 0 then s.fw.store else some p) = some q) (hlen : q.len ≤ maxPackage)
    (hvalid : s.fwValid q = true) : s.bodyStage c w p ok = if (!ok) = true then .failAs ((s.staged q).fwDone .checkFail) .checkFail 0
      else .ok (((((s.staged q).mapFw (fun f => f.setSlot (1 - f.active) { state := 1, pkg := some q })).systemWrite 3 (2 ^ 20)).fwDone .ok).publish (.instr c) 6 6 6) := by
  rw [State.bodyStage_named h hq, if_neg (Nat.not_lt.mpr hlen), if_neg (by rw [hvalid]; decide)]

/-! ## `FW_ARM` (R514, R515) -/

theorem State.bodyArm_disarm (hflag : w.flag 8 = true) (harmed : s.fw.armed.isSome = true) :
    s.bodyArm w ok = .ok ((s.mapFw (fun f => { f with armed := none, loaded := none })).fwDone .ok) :=
  (if_pos hflag).trans (if_neg (by rw [Option.isSome_iff_ne_none] at harmed; simpa using harmed))

theorem State.bodyArm_not_armed (hflag : w.flag 8 = true) (harmed : s.fw.armed = none) : s.bodyArm w ok = .failAs (s.fwDone .illegalInState) .illegalInState 0 :=
  (if_pos hflag).trans (if_pos (by rw [harmed]; rfl))

section
variable (hflag : w.flag 8 = false)
include hflag

theorem State.bodyArm_early (h : s.fw.spare.state ≠ 1 ∨ s.fw.armed.isSome = true ∨ w.opc.toNat < s.now + 1024 ∨ w.opc.toNat ≤ s.promisedMax) :
    s.bodyArm w ok = .failAs (s.fwDone .illegalInState) .illegalInState 0 :=
  (if_neg (ne_true_of_eq_false hflag)).trans (if_pos h)

theorem State.bodyArm_armed (hspare : s.fw.spare.state = 1) (harmed : s.fw.armed = none) (hfar : s.now + 1024 ≤ w.opc.toNat) (hpast : s.promisedMax < w.opc.toNat) :
    s.bodyArm w ok = if (!ok) = true then .failAs (s.fwDone .checkFail) .checkFail 0
      else .ok ((s.mapFw (fun f => { f with armed := some w.opc.toNat, loaded := f.spare.pkg })).fwDone .ok) := by
  refine (if_neg (ne_true_of_eq_false hflag)).trans (if_neg ?_)
  rintro (hne | hsome | hnear | hbefore)
  · exact hne hspare
  · rw [harmed] at hsome
    nomatch hsome
  · exact absurd hnear (Nat.not_lt.mpr hfar)
  · exact absurd hbefore (Nat.not_le.mpr hpast)

end

end

/-! ## Activation (R158, R516 to R519) -/

section
variable {s : State} {p : FwPackage} {ok : Bool} {a : Nat}

/-- An activation that has ended, with the beat in which it did. -/
def State.activated (t : State) (now : Nat) : State := (t.mapFw (fun f => { f with armed := none, loaded := none })).mapSys (fun y => { y with actEnd := now })

theorem exec_fwActivation_moving (h : s.stillness = false) : exec (.fwActivation ok) s = .next s :=
  congrArg Host.Outcome.next (if_pos (.inr (.inr ((Bool.not_eq_true' _).mpr h))))

section
variable (hup : s.cdUp = true) (hpaused : s.sys.paused = true) (harmed : s.fw.armed = some a) (hstill : s.stillness = true) (hloaded : s.fw.loaded = some p)
include hup hpaused harmed hstill hloaded

theorem exec_fwActivation_switches : exec (.fwActivation true) s = .next ((s.switchFw p).activated s.now) := by
  refine congrArg Host.Outcome.next ((if_neg (by simp [hup, hpaused, hstill])).trans ?_)
  simp only [harmed, hloaded, State.activated]

omit hloaded in
theorem exec_fwActivation_fails : exec (.fwActivation false) s = .next ((s.raise Ev.fwActivateFailed).activated s.now) := by
  refine congrArg Host.Outcome.next ((if_neg (by simp [hup, hpaused, hstill])).trans ?_)
  simp only [harmed, State.activated]

end

/-- The slots after the switch, the write of the system partition and the settings aside. -/
def State.switching (s : State) (p : FwPackage) : State :=
  s.mapFw (fun f => ({ f with kept := f.active, active := 1 - s.fw.active, trial := true, running := some p, source := 1 - s.fw.active }).setSlot (1 - s.fw.active)
    { state := 2, pkg := some p })

/-- Without settings records the switch writes what it says and nothing else of the firmware's state. -/
theorem State.switchFw_sys (h : s.fw.settings = []) : (s.switchFw p).sys =
    { (s.switching p).sys with
      meas := s.measure p (1 - s.fw.active)
      patches := patchTable p
      fw := { (s.switching p).fw with applied := 0 } } := by
  have hset : ((((s.switching p).systemWrite 3 (2 ^ 20)).mapSys (fun y => { y with meas := s.measure p (1 - s.fw.active) })).applyPatches p).fw.settings = [] := by
    refine (congrArg (fun y : Sys => y.fw.settings) (Steward.systemWrite (s.switching p) 3 (2 ^ 20)).sys).trans (.trans ?_ h)
    show (Firmware.setSlot _ _ _).settings = s.fw.settings
    unfold Firmware.setSlot
    split <;> rfl
  rw [show s.switchFw p = (((((s.switching p).systemWrite 3 (2 ^ 20)).mapSys (fun y => { y with meas := s.measure p (1 - s.fw.active) })).applyPatches
    p).applySettings p.settings).raise Ev.fwActivated from rfl, (Still.raise _ _ _ _ _ _ _).sys, State.applySettings, hset]
  show ({ (State.systemWrite _ _ _).sys with meas := _, patches := _, fw := { (State.systemWrite _ _ _).sys.fw with applied := 0 } } : Sys) = _
  rw [(Steward.systemWrite (s.switching p) 3 (2 ^ 20)).sys]
  rfl

theorem Firmware.slot_setSlot_self (f : Firmware) (j : Nat) (x : Slot) : (f.setSlot j x).slot j = x := by
  unfold Firmware.slot Firmware.setSlot
  split <;> rfl

/-! ## The end of the pause (R158) -/

theorem exec_fwActResume_waits (h : s.fw.armed.isSome = true ∨ s.now < s.sys.resumeAt) : exec .fwActResume s = .next s :=
  congrArg Host.Outcome.next (if_pos (.inr (h.imp_right .inl)))

theorem exec_fwActResume_resumes (hpaused : s.sys.paused = true) (harmed : s.fw.armed = none) (hnow : s.sys.resumeAt ≤ s.now) (hend : s.sys.actEnd < s.now) :
    exec .fwActResume s = .next (if s.sys.resumeAt ≤ s.sys.actEnd then (s.mapSys (fun y => { y with paused := false })).raise Ev.fwActLate
      else s.mapSys (fun y => { y with paused := false })) := by
  refine congrArg Host.Outcome.next (if_neg ?_)
  rintro (h | h | h | h)
  · rw [hpaused] at h
    nomatch h
  · rw [harmed] at h
    nomatch h
  · exact absurd h (Nat.not_lt.mpr hnow)
  · exact absurd h (Nat.not_le.mpr hend)

/-! ## FW_CMD (R521, R522) -/

/-- The firmware's state after a commit. -/
def Firmware.committed (f : Firmware) : Firmware :=
  { f with
    trial := false
    kept := f.active
    floor := max f.floor (((f.slot f.active).pkg.map (·.security)).getD 0)
    settings := match f.settings.find? (fun e => e.1 == f.applied) with | some e => [e] | none => f.settings.take 1 }

theorem exec_fwCmdCommit : exec .fwCmdCommit s = .next (((s.mapFw Firmware.committed).systemWrite 3 (2 ^ 20)).systemWrite 4 (2 ^ 20)) := rfl

theorem Firmware.floor_committed {f : Firmware} {p : FwPackage} (h : (f.slot f.active).pkg = some p) : p.security ≤ f.committed.floor := by
  show _ ≤ max f.floor (((f.slot f.active).pkg.map (·.security)).getD 0)
  rw [h]
  exact Nat.le_max_right _ _

theorem Steward.gddr {s t : State} (h : Steward s t) : t.mem.gddr = s.mem.gddr := by
  obtain ⟨u, hmem⟩ := h.mem
  rw [hmem]

end

end Sys2Proof.Machine

open Sys2Proof Sys2Proof.Machine

/-- Settles O50: it holds. -/
theorem firmwareUpdate : Obligations.FirmwareUpdate := by
  unfold Obligations.FirmwareUpdate
  intro s c w x p q ok j
  refine ⟨?stage, fun kind n => ⟨(Steward.systemWrite _ _ _).sys, (Steward.systemWrite _ _ _).lore, (Steward.systemWrite _ _ _).gddr⟩, ?arm, ?activation, ?resume, ?commit,
    fun hspare hparts hfloor => ?_, fun hspare => ?_, fun hrunning => ?_⟩
  case stage =>
    intro h
    have hrun : ∀ {r : IRes}, s.bodyStage c w p ok = r → exec (.fwStage c w p ok) s = .next (s.settle c r) := fun hr => (exec_of_runs h rfl).trans (congrArg (fun r => Host.Outcome.next (s.settle c r)) hr)
    refine ⟨fun hoff => hrun (State.bodyStage_refused (State.preStage_unaligned hoff)), fun hoff harmed => hrun (State.bodyStage_refused (State.preStage_armed hoff harmed)),
      fun hoff harmed hstate => hrun (State.bodyStage_refused (State.preStage_steward hoff harmed hstate)), fun hoff harmed hstate hstore hgiven => ?_⟩
    have hpre := State.preStage_none hoff harmed hstate
    have hq : (if w.opc = 0 then s.fw.store else some p) = some q := by
      split
      · next hzero => exact hstore hzero
      · next hzero => rw [hgiven hzero]
    intro emptied written
    refine ⟨fun hlong => hrun (State.bodyStage_long hpre hq hlong), fun hlen hvalid hok => ?_, fun hlen hvalid => hrun (State.bodyStage_invalid hpre hq hlen hvalid),
      fun hlen hvalid hok => ?_⟩
    · exact hrun ((State.bodyStage_valid hpre hq hlen hvalid).trans (if_neg (by rw [hok]; decide)))
    · exact hrun ((State.bodyStage_valid hpre hq hlen hvalid).trans (if_pos (by rw [hok]; rfl)))
  case arm =>
    intro h
    have hrun : ∀ {ok : Bool} {r : IRes}, s.bodyArm w ok = r → exec (.fwArm c w ok) s = .next (s.settle c r) := fun hr => (exec_of_runs h rfl).trans (congrArg (fun r => Host.Outcome.next (s.settle c r)) hr)
    refine ⟨fun hflag harmed => hrun (State.bodyArm_disarm hflag harmed), fun hflag harmed => hrun (State.bodyArm_not_armed hflag harmed),
      fun hflag hspare harmed hfar hpast => ?_, fun hflag hearly => hrun (State.bodyArm_early hflag hearly)⟩
    exact ⟨hrun ((State.bodyArm_armed hflag hspare harmed hfar hpast).trans (if_neg (by decide))),
      hrun (r := .failAs _ _ _) ((State.bodyArm_armed hflag hspare harmed hfar hpast).trans (if_pos rfl))⟩
  case activation =>
    intro a hup hpaused harmed settled
    refine ⟨exec_fwActivation_moving, fun hstill hloaded => ⟨exec_fwActivation_switches hup hpaused harmed hstill hloaded,
      exec_fwActivation_fails hup hpaused harmed hstill⟩, fun hactive hset => ?_⟩
    intro t
    have hsys : t.sys = _ := State.switchFw_sys hset
    have hkeep : ∀ (f : Firmware) (x : Slot), (f.setSlot j x).active = f.active ∧ (f.setSlot j x).trial = f.trial ∧ (f.setSlot j x).kept = f.kept ∧
        (f.setSlot j x).running = f.running := by
      intro f x
      unfold Firmware.setSlot
      split <;> exact ⟨rfl, rfl, rfl, rfl⟩
    rw [show t.fw = t.sys.fw from rfl, hsys]
    exact ⟨(hkeep _ _).1, (hkeep _ _).2.1, (hkeep _ _).2.2.1, (hkeep _ _).2.2.2, Firmware.slot_setSlot_self _ _ _, rfl, rfl⟩
  case resume =>
    intro hpaused
    refine ⟨fun h => exec_fwActResume_waits (.inl h), fun h => exec_fwActResume_waits (.inr h), fun harmed hnow hend => ?_⟩
    intro t
    have hresume := exec_fwActResume_resumes hpaused harmed hnow hend
    exact ⟨fun h => hresume.trans (congrArg Host.Outcome.next (if_neg (Nat.not_le.mpr h))), fun h => hresume.trans (congrArg Host.Outcome.next (if_pos h))⟩
  case commit =>
    have hsteward : Steward (s.mapFw Firmware.committed) (((s.mapFw Firmware.committed).systemWrite 3 (2 ^ 20)).systemWrite 4 (2 ^ 20)) :=
      (Steward.systemWrite _ _ _).trans (Steward.systemWrite _ _ _)
    refine ⟨_, exec_fwCmdCommit, ?_⟩
    rw [State.fw, hsteward.sys, hsteward.gddr, hsteward.lore]
    exact ⟨rfl, rfl, rfl, Nat.le_max_left _ _, fun p hp => Firmware.floor_committed hp, rfl, rfl⟩
  · exact congrArg Host.Outcome.next (if_pos ⟨hspare, hparts, hfloor⟩)
  · exact congrArg Host.Outcome.next (if_neg fun h => h.1 hspare)
  · rw [show exec .fwCmdSave s = execFwCmdSave s from rfl, execFwCmdSave, hrunning]
end

section
/-! Resets: their sources, their reach, the frame that asks for one, and the reset of one block (R486 to R496, R545): obligation O52. -/

namespace Sys2Proof.Machine

/-! ## What a reset leaves (R486, R487, R544) -/

/-- The parts of the state that no message of a reset changes. -/
def State.spared (s : State) : List Instr × Store × Flash := (s.pending, s.mem, s.fls)

section
variable (s : State)

theorem State.spared_raise (code : Nat) (node : NodeId) (d0 d1 : Nat) (m : Option Nat) (o : Nat) : (s.raise code node d0 d1 m o).spared = s.spared :=
  have h := Still.raise s code node d0 d1 m o
  congrArg₂ Prod.mk h.pending (congrArg₂ Prod.mk h.mem h.fls)

theorem State.spared_sendMsix (n : Nat) : (s.sendMsix n).spared = s.spared := by
  unfold State.sendMsix
  split <;> rfl

theorem State.spared_chargeLink (svc n : Nat) : (s.chargeLink svc n).spared = s.spared := rfl

theorem State.spared_transmit (link ns : Nat) (f : OutFrame) (fwd charged : Bool) (promise : Option Nat) (svc : Nat) :
    (s.transmit link ns f fwd charged promise svc).spared = s.spared := by
  unfold State.transmit
  extract_lets f' n s1 l s2 s3 tr
  have h1 : s1.spared = s.spared := by
    simp only [s1]
    split <;> rfl
  have h3 : s3.spared = s.spared := by
    refine Eq.trans ?_ h1
    simp only [s3]
    split
    · split
      · exact State.spared_raise _ _ _ _ _ _ _
      · rfl
    · rfl
  split
  · exact h3
  · split
    · exact h3
    · exact (State.spared_chargeLink _ _ _).trans h3

theorem State.spared_leaveOnce : s.leaveOnce.spared = s.spared := by
  refine foldl_keeps State.spared _ (fun s e => ?_) s
  split
  · rfl
  · split
    · exact State.spared_transmit _ _ _ _ _ _ _ _
    · rfl

/-- The state as a reset finds it: the host told, and the partners. -/
def State.warned (s : State) (r : Reach) : State :=
  let t := if !r.cxl ∧ bit (s.regN Reg.RST_NOTIFY) 8 then s.sendMsix (bits (s.regN Reg.RST_NOTIFY) 7 0) else s
  if r.iod then t else t.leaveOnce

theorem State.spared_warned (r : Reach) : (s.warned r).spared = s.spared := by
  unfold State.warned
  simp only
  split <;> split
  · exact State.spared_sendMsix _ _
  · rfl
  · exact (State.spared_leaveOnce _).trans (State.spared_sendMsix _ _)
  · exact State.spared_leaveOnce _

/-- A reset clears the state it finds, but for registers of its own. -/
theorem State.resetTo_clears (r : Reach) (mask : Nat) : ∃ (u : State) (regs : Tbl Word), u.spared = s.spared ∧ s.resetTo r mask = { u.clear r with regs := regs } := by
  by_cases hr : r = .power
  · exact ⟨s.warned r, _, State.spared_warned _ _, if_pos hr⟩
  · exact ⟨(s.warned r).noteCause mask, _, State.spared_warned _ _, if_neg hr⟩

theorem State.clear_tiles (r : Reach) : ∀ e ∈ (s.clear r).eng.tiles, e.2.state = 4 := fun _ he => eq_of_beq (List.mem_filter.mp he).2

end

/-! ## Sources (R486, R491 to R494) -/

section
variable {s : State}

theorem exec_perstDeassert_released (hpower : s.sys.powered = true) (hperst : s.sys.perst = true) (st : Straps) :
    exec (.perstDeassert st) s = .next ((if s.sys.hold then (s.resetTo .power 0).setRegN Reg.DEV_LATCH 1 else s).mapSys
      (fun y => { y with perst := false, bootSel := st.bootSel.toNat, clkSel := st.clkSel.toNat })) :=
  congrArg Host.Outcome.next (if_neg (by simp [hpower, hperst]))

theorem State.armed_of {b : Nat} (hb : s.sys.armBeat = some b) (hnow : s.now ≤ b + 1024) : s.armed = true := by
  simp only [State.armed, hb, hnow, decide_true]

theorem State.not_armed (h : ∀ b, s.sys.armBeat = some b → b + 1024 < s.now) : s.armed = false := by
  unfold State.armed
  split
  · rfl
  · next b hb => exact decide_eq_false (Nat.not_le.mpr (h b hb))

theorem exec_rstCmd_unarmed (h : s.armed = false) (v : BitVec 32) : exec (.rstCmd v) s = .next (s.configReject Reg.RST_CMD v.toNat) :=
  congrArg Host.Outcome.next (if_pos ((Bool.not_eq_true' _).mpr h))

theorem exec_rstCmd_armed (h : s.armed = true) {v : BitVec 32} (hgo : v.getLsbD 31 = true) :
    exec (.rstCmd v) s = .next (if v.getLsbD 0 then s.resetTo .core 0x88 else s.resetTo .device 8) :=
  congrArg Host.Outcome.next ((if_neg (by rw [h]; decide)).trans (if_neg (by rw [hgo]; decide)))

theorem State.starved_of (hon : bit (s.regN Reg.WDOG_CTRL) 31 = true) (hdue : s.sys.fed + bits (s.regN Reg.WDOG_CTRL) 23 0 ≤ s.now) : s.starved = true := by
  rw [State.starved, hon, decide_eq_true hdue]
  rfl

theorem State.not_starved (h : bit (s.regN Reg.WDOG_CTRL) 31 = false ∨ s.now < s.sys.fed + bits (s.regN Reg.WDOG_CTRL) 23 0) : s.starved = false := by
  rcases h with h | h
  · rw [State.starved, h, Bool.false_and]
  · rw [State.starved, decide_eq_false (Nat.not_le.mpr h), Bool.and_false]

/-! ## Reset frames (R493) -/

theorem State.resetCheck_passed {r : ResetFrame} (h : s.resetCheck true r = none) :
    r.target = s.me ∧ s.regN Reg.RST_FRAME_CTR < r.counter ∧ hmac s.resetKey r.macInput = r.mac ∧ (r.reach = 0 ∨ r.reach = 1) := by
  unfold State.resetCheck at h
  split_ifs at h with hattested hkey htarget hcounter hmac hreach
  exact ⟨not_ne_iff.mp htarget, Nat.not_le.mp hcounter, not_ne_iff.mp hmac, by omega⟩

/-- The sender is a partner whose attestation held. -/
def State.vouched (s : State) (src : NodeId) : Bool :=
  match s.partnerOf src with | none => false | some i => (s.partner i).attest == 1

/-- The first check that failed refuses the frame; without one it is taken. -/
def State.judgeReset (s : State) (src : NodeId) (r : ResetFrame) : Option Nat → State
  | some k => s.refuseReset src k
  | none => s.takeReset src r

theorem exec_fabricResetFrame {f : Frame} {r : ResetFrame} {t : State} (hst : s.partnerState f.src = .live ∨ s.partnerState f.src = .dead ∨ s.partnerState f.src = .left)
    (h : Delivered s f .mgmt t) : exec (.fabricResetFrame f r) s = .next ((t.judgeReset f.src r (t.resetCheck (t.vouched f.src) r)).acked f) := by
  refine congrArg Host.Outcome.next ((if_neg ?_).trans (State.receive_delivered h _))
  rcases hst with hst | hst | hst <;> simp only [hst] <;> decide

/-! ## One block (R131, R495, R496) -/

theorem State.resetBlock_held {k : Nat} (h : ∃ b ∈ s.sys.blocks, b.1 = k) : s.resetBlock k = s := by
  obtain ⟨b, hb, rfl⟩ := h
  exact if_pos (.inr (.inr (List.any_eq_true.mpr ⟨b, hb, beq_self_eq_true _⟩)))

theorem State.not_resetBlock_held {k : Nat} (hlo : 3 ≤ k) (hhi : k ≤ 15) (h : ∀ b ∈ s.sys.blocks, b.1 ≠ k) :
    ¬ (k < 3 ∨ 15 < k ∨ s.sys.blocks.any (·.1 == k) = true) := by
  rintro (hlt | hlt | hany)
  · omega
  · omega
  · obtain ⟨b, hb, heq⟩ := List.any_eq_true.mp hany
    exact h b hb (eq_of_beq heq)

/-- A block that holds nothing is only marked. -/
theorem State.resetBlock_marks {k : Nat} (hk : k = 3 ∨ k = 10) (h : ∀ b ∈ s.sys.blocks, b.1 ≠ k) :
    s.resetBlock k = s.mapSys (fun y => { y with blocks := y.blocks ++ [(k, s.now)] }) := by
  refine (if_neg (State.not_resetBlock_held (by omega) (by omega) h)).trans ?_
  rcases hk with rfl | rfl <;> rfl

theorem State.isolateMarches_idle (hmarches : s.sys.marches = []) (hprep : bit (s.regN Reg.FIELD_READY) 30 = false) :
    s.isolateMarches = s.mapBg (fun b => { b with jobs := b.jobs.filter (fun j => j.act != 8) }) := by
  have hsys : s.mapSys (fun y => { y with marches := [] }) = s := by
    rw [State.mapSys, ← hmarches]
  unfold State.isolateMarches
  rw [hmarches, hsys]
  exact if_neg (ne_true_of_eq_false hprep)

theorem exec_blockReset {c : Nat} {w : IWord} {x : Ctx} (h : Runs s c 0x8D w x) : exec (.blockReset c w) s = .next (s.settle c
    (if w.opa.toNat % 256 < 3 ∨ 15 < w.opa.toNat % 256 then .fail .badOperand 0 else .ok (s.resetBlock (w.opa.toNat % 256)))) :=
  congrArg Host.Outcome.next (State.runInstr_runs h _ _ _ _ _)

/-- The one bit that is set names the one block. -/
theorem filter_twoPow {n : Nat} (h : n < 16) : (List.range 16).filter (fun k => (BitVec.twoPow 32 n).getLsbD k) = [n] := by
  decide +revert

end

end Sys2Proof.Machine

open Sys2Proof Sys2Proof.Machine

/-- Settles O52: it holds. -/
theorem resets : Obligations.Resets := by
  unfold Obligations.Resets
  intro s t f r c n w x v st
  refine ⟨rfl, ?sources, ?fed, ?perst, fun h => ?_, ⟨congrArg Host.Outcome.next (if_pos rfl), fun h => congrArg Host.Outcome.next (if_neg h)⟩, fun h => exec_rstCmd_unarmed (State.not_armed h) v,
    ?cmd, ?reach, ?frame, State.resetCheck_passed, ?block, ?blk, fun k => State.resetBlock_marks, ?marches, fun k => State.resetBlock_held, rfl⟩
  case sources =>
    intro hpower hperst
    refine ⟨congrArg Host.Outcome.next (if_neg (by simp [hpower, hperst])), congrArg Host.Outcome.next (if_pos ⟨hpower, (Bool.not_eq_true' _).mpr hperst⟩),
      fun hup hon hdue => congrArg Host.Outcome.next (if_pos ⟨hup, State.starved_of hon hdue⟩), fun h => congrArg Host.Outcome.next (if_neg ?_)⟩
    exact fun hgo => Bool.false_ne_true ((State.not_starved h).symm.trans hgo.2)
  case fed =>
    intro stalled
    cases stalled <;> rfl
  case perst =>
    intro hpower hperst
    have hrelease := exec_perstDeassert_released hpower hperst st
    exact ⟨fun hhold => by rw [hrelease, if_neg (ne_true_of_eq_false hhold)], fun hhold => by rw [hrelease, if_pos hhold]⟩
  · exact congrArg Host.Outcome.next (if_pos (h.imp (Bool.not_eq_true' _).mpr (Bool.not_eq_true' _).mpr))
  case cmd =>
    intro b hb hnow hgo
    have hcmd := exec_rstCmd_armed (State.armed_of hb hnow) hgo
    exact ⟨fun hcore => by rw [hcmd, if_pos hcore], fun hcore => by rw [hcmd, if_neg (ne_true_of_eq_false hcore)]⟩
  case reach =>
    intro reach mask
    obtain ⟨u, regs, hu, hreset⟩ := State.resetTo_clears s reach mask
    obtain ⟨hpending, hmem, hfls⟩ : u.pending = s.pending ∧ u.mem = s.mem ∧ u.fls = s.fls := by
      simpa only [State.spared, Prod.mk.injEq] using hu
    rw [hreset, ← hmem, ← hfls]
    exact ⟨hpending, rfl, rfl, rfl, rfl, rfl, rfl, rfl, rfl, rfl, rfl, rfl, rfl, rfl, State.clear_tiles u reach⟩
  case frame =>
    intro hst h ok
    have hframe := exec_fabricResetFrame (r := r) hst h
    exact ⟨fun k hk => hframe.trans (congrArg (fun v => Host.Outcome.next ((t.judgeReset f.src r v).acked f)) hk),
      fun hk => hframe.trans (congrArg (fun v => Host.Outcome.next ((t.judgeReset f.src r v).acked f)) hk)⟩
  case block =>
    intro h
    refine ⟨fun hlo hhi => ?_, fun hout => ?_⟩
    · rw [exec_blockReset h, if_neg (by omega)]
      rfl
    · rw [exec_blockReset h, if_pos hout]
      rfl
  case blk =>
    rintro hn rfl
    refine congrArg Host.Outcome.next ?_
    rw [filter_twoPow hn]
    rfl
  case marches =>
    intro hblocks hmarches hprep
    refine (if_neg (State.not_resetBlock_held (by decide) (by decide) hblocks)).trans ?_
    exact State.isolateMarches_idle hmarches hprep
end

section
/-! Power, temperature and the status LEDs (R55, R343, R470 to R485): obligation O53. -/

namespace Sys2Proof.Machine

section
variable {s : State}

/-! ## Power (R343, R470, R474 to R476) -/

theorem exec_pwrFailAssert_holds {ns : Nat} (hpower : s.sys.powered = true) (hhold : s.sys.hold = false) (hns : 1000 ≤ ns) (hstate : s.fls.state = .ready)
    (hup : s.cdUp = true) : exec (.pwrFailAssert ns) s =
      .next (((s.journalAll.mapSys (fun y => { y with hold := true })).mapFls (fun f => { f with held := true })).leaveAll) := by
  have hgo : ¬ ((!s.sys.powered) = true ∨ ns < 1000 ∨ s.sys.hold = true) := by
    simp only [hpower, hhold, Bool.not_true, Bool.false_eq_true, false_or, or_false]
    omega
  have hjournal : ¬ (s.fls.state = .restoring ∨ s.fls.state = .failed) := by rw [hstate]; decide
  have hup' : ((s.journalAll.mapSys (fun y => { y with hold := true })).mapFls (fun f => { f with held := true })).cdUp = true :=
    (congrArg (fun y : Sys => y.ready && !y.coreOff) (Steward.journalAll s).sys).trans hup
  refine congrArg Host.Outcome.next ((if_neg hgo).trans ?_)
  simp only [if_neg hjournal, if_pos hup']

section
variable (hpower : s.sys.powered = true)
include hpower

theorem exec_powerLoss : exec (.powerLoss s.sys.hold) s = .next s.powerOff := by
  refine congrArg Host.Outcome.next (if_neg ?_)
  simp [hpower]

theorem exec_powerEnvelope (watts : Nat) : exec (.powerEnvelope watts) s = .next (
    if 850 < watts then (s.setRegN Reg.DEV_POWER (min watts 4095)).raise Ev.powerEnvelope 0 watts else s.setRegN Reg.DEV_POWER (min watts 4095)) :=
  congrArg Host.Outcome.next (if_neg (by simp [hpower]))

end

/-! ## Temperature (R478 to R481, R485) -/

/-- A sample may raise events and writes the sensor registers: the parts of the state that it leaves alone. -/
structure Sampled (s t : State) : Prop where
  sys : t.sys = s.sys
  ctxs : t.io.ctxs = s.io.ctxs
  lore : t.lore = s.lore
  mem : t.mem = s.mem

theorem Sampled.trans {s t u : State} (h : Sampled s t) (k : Sampled t u) : Sampled s u :=
  ⟨k.sys.trans h.sys, k.ctxs.trans h.ctxs, k.lore.trans h.lore, k.mem.trans h.mem⟩

theorem Sampled.raise (s : State) (code : Nat) (node : NodeId) (d0 d1 : Nat) (m : Option Nat) (o : Nat) : Sampled s (s.raise code node d0 d1 m o) :=
  ⟨(Still.raise _ _ _ _ _ _ _).sys, State.raise_ctxs _ _ _ _ _ _ _, State.raise_lore _ _ _ _ _ _ _, (Still.raise _ _ _ _ _ _ _).mem⟩

theorem Sampled.setRegN (s : State) (off value : Nat) : Sampled s (s.setRegN off value) := ⟨rfl, rfl, rfl, rfl⟩

theorem Sampled.foldl {f : State → Nat → State} (hf : ∀ s i, Sampled s (f s i)) (l : List Nat) (s : State) : Sampled s (l.foldl f s) := by
  induction l generalizing s with
  | nil => exact ⟨rfl, rfl, rfl, rfl⟩
  | cons i l ih => exact (hf s i).trans (ih _)

theorem Sampled.publishTemps (s : State) : Sampled s s.publishTemps := by
  unfold State.publishTemps
  exact (Sampled.foldl (fun _ _ => Sampled.setRegN _ _ _) _ _).trans (Sampled.setRegN _ _ _)

theorem Sampled.threshold (s : State) (t limit : Int) (armed : Bool) (code : Nat) : Sampled s (s.threshold t limit armed code).1 := by
  unfold State.threshold
  split
  · exact Sampled.raise s code 0 (byteOf t) 0 none 0
  · exact ⟨rfl, rfl, rfl, rfl⟩

/-- A sample at its two thresholds. -/
def State.atWarn (s : State) (t : Temps) : State × Bool :=
  let s := (s.mapSys (fun y => { y with samples := (t :: y.samples).take 100 })).publishTemps
  s.threshold (maxOf t.junction) (bits (s.regN Reg.TJ_WARN) 7 0) s.sys.warnArmed Ev.tjWarn
def State.atLimit (s : State) (t : Temps) : State × Bool :=
  (s.atWarn t).1.threshold (maxOf t.junction) 105 (s.atWarn t).1.sys.limitArmed Ev.tjLimit

/-- The samples in a row that show too little coolant. -/
def State.coolRun (s : State) (t : Temps) : Nat := if t.inlet + 20 < t.outlet then s.sys.coolCount + 1 else 0

/-- What a sample's averages and events leave. -/
def State.measured (s : State) (t : Temps) : State :=
  let u := (s.atLimit t).1
  if 100 ≤ u.coolRun t ∧ !u.sys.coolRaised then u.raise Ev.coolantFlowLow else u

theorem State.limit_same (s : State) (t : Temps) : Sampled (s.mapSys (fun y => { y with samples := (t :: y.samples).take 100 })) (s.atLimit t).1 :=
  ((Sampled.publishTemps _).trans (Sampled.threshold _ _ _ _ _)).trans (Sampled.threshold (s.atWarn t).1 _ _ _ _)

theorem State.measured_same (s : State) (t : Temps) : Sampled (s.mapSys (fun y => { y with samples := (t :: y.samples).take 100 })) (s.measured t) := by
  unfold State.measured
  extract_lets u
  split
  · exact (State.limit_same s t).trans (Sampled.raise _ _ _ _ _ _ _)
  · exact State.limit_same s t

/-- The consecutive samples at the trip point. -/
def State.tripRun (s : State) (t : Temps) : Nat := if 115 ≤ maxOf t.junction then s.sys.tripCount + 1 else 0

/-- The state with the flags and counts of a sample. -/
def State.flagged (s : State) (t : Temps) : State :=
  let u := (s.atLimit t).1
  (s.measured t).mapSys (fun y => { y with
    warnArmed := (s.atWarn t).2
    limitArmed := (s.atLimit t).2
    coolCount := u.coolRun t
    coolRaised := decide (100 ≤ u.coolRun t)
    tripCount := u.tripRun t })

theorem exec_tempSample (hpower : s.sys.powered = true) (t : Temps) : exec (.tempSample t) s =
    .next (if 2 ≤ (s.atLimit t).1.tripRun t ∧ !(s.flagged t).sys.coreOff then (s.flagged t).thermalTrip else s.flagged t) := by
  have hgo : ¬ (!s.sys.powered) = true := by rw [hpower]; decide
  exact congrArg Host.Outcome.next (if_neg hgo)

theorem exec_thermalTripRecovery {k : Temps} {rest : List Temps} (hk : s.sys.samples = k :: rest) : exec .thermalTripRecovery s =
    .next (if s.sys.coreOff ∧ maxOf k.junction < 95 then s.mapSys (fun y => { y with coreOff := false }) else s) := by
  rw [show exec .thermalTripRecovery s = execThermalTripRecovery s from rfl, execThermalTripRecovery, hk]

/-! ## Declared power (R55) -/

section
variable (hup : s.cdUp = true) {watts : Nat}
include hup

theorem exec_powerOverDeclared_within (h : 10 * watts ≤ 11 * s.powerSum) :
    exec (.powerOverDeclared watts) s = .next (s.mapClk (fun c => { c with overBeats := 0, overRaised := false })) :=
  congrArg Host.Outcome.next ((if_neg (by rw [hup]; decide)).trans (if_neg (Nat.not_lt.mpr h)))

theorem exec_powerOverDeclared_over (h : 11 * s.powerSum < 10 * watts) {n : Nat} (hn : (if s.clk.overBeats ≠ 0 ∧ s.clk.overAt = s.now then s.clk.overBeats
      else if s.clk.overBeats ≠ 0 ∧ s.clk.overAt + 1 = s.now then s.clk.overBeats + 1 else 1) = n) :
    exec (.powerOverDeclared watts) s = .next (
      let raised := s.clk.overRaised && decide (1 < n)
      let t := s.mapClk (fun c => { c with overBeats := n, overAt := c.now, overRaised := raised || decide (16 ≤ n) })
      if 16 ≤ n ∧ !raised then t.raise Ev.powerOverDeclared 0 watts s.powerSum else t) := by
  subst hn
  exact congrArg Host.Outcome.next ((if_neg (by rw [hup]; decide)).trans (if_pos h))

end

/-! ## Status LEDs (R483, Table 18.10) -/

theorem State.junctionLimit_iff : s.junctionLimit = true ↔ ∃ t rest, s.sys.samples = t :: rest ∧ 105 ≤ maxOf t.junction := by
  unfold State.junctionLimit
  cases h : s.sys.samples <;> simp

theorem Sys.not_pwrGood {y : Sys} (h : y.coreOff = true ∨ y.switchOpen = true) : y.pwrGood = false := by
  rcases h with h | h <;> simp [Sys.pwrGood, h]

theorem Sys.tripLow_iff {y : Sys} : y.tripLow = true ↔ y.coreOff = true ∨ y.switchOpen = true := by rw [Sys.tripLow, Bool.or_eq_true]

section
variable (hpower : s.sys.powered = true)
include hpower

theorem Sys.input_powered : s.sys.input = true := by rw [Sys.input, hpower, Bool.true_or]

/-- With the input there, the state that stands highest in the table shows. -/
theorem State.statLed_powered : s.statLed = if s.sys.tripLow = true ∨ s.fls.state = .failed then .amber 2
    else if s.clk.timing = .derated ∨ s.junctionLimit = true ∨ s.sys.hold = true ∨ s.fls.state = .readOnly then .amber 0
    else if (!s.sys.ready) = true ∨ s.fls.state = .restoring then .green 1 else .green 0 :=
  if_neg (by rw [Sys.input_powered hpower]; decide)

theorem State.pwrLed_powered : s.pwrLed = if s.sys.pwrGood then .green 0 else .green 1 := by
  simp [State.pwrLed, Sys.input_powered hpower]

theorem State.locLed_powered : s.locLed = if bit (s.regN Reg.DEV_LED) 0 then .blue 1 else .off := by
  simp [State.locLed, Sys.input_powered hpower]

end

end

end Sys2Proof.Machine

open Sys2Proof Sys2Proof.Machine

/-- Settles O53: it holds. -/
theorem powerAndTemperature : Obligations.PowerAndTemperature := by
  unfold Obligations.PowerAndTemperature
  refine ⟨?power, ?leds⟩
  case power =>
    intro s ns watts t
    refine ⟨fun hpower => ?supply, ⟨rfl, rfl, rfl, rfl, rfl⟩, fun hpower hcore => ?sample, fun k rest hk => ?recovery, fun hup => ?declared⟩
    case supply =>
      refine ⟨fun hhold hns hstate hup => exec_pwrFailAssert_holds hpower hhold hns hstate hup, fun h => congrArg Host.Outcome.next (if_pos (.inr h)), exec_powerLoss hpower,
        congrArg Host.Outcome.next (if_pos hpower), fun hlow => ?_, fun hhigh => ?_⟩
      · rw [exec_powerEnvelope hpower, if_neg (Nat.not_lt.mpr hlow), Nat.min_eq_left (by omega)]
      · rw [exec_powerEnvelope hpower, if_pos hhigh]
    case sample =>
      have hsame := State.measured_same s t
      have hcold : (s.flagged t).sys.coreOff = false := (congrArg Sys.coreOff hsame.sys).trans hcore
      have htrip : (s.atLimit t).1.tripRun t = if 115 ≤ maxOf t.junction then s.sys.tripCount + 1 else 0 :=
        congrArg (fun n => if 115 ≤ maxOf t.junction then n + 1 else 0) ((congrArg Sys.tripCount (State.limit_same s t).sys).trans rfl)
      refine ⟨_, exec_tempSample hpower t, fun hhot hone => ?_, fun h => ?_⟩
      · rw [htrip, if_pos hhot, if_pos ⟨by omega, (Bool.not_eq_true' _).mpr hcold⟩]
        exact ⟨rfl, Bool.and_false _⟩
      · rw [if_neg]
        · refine ⟨hcold, htrip.trans ?_, hsame.ctxs, hsame.lore, hsame.mem⟩
          split
          · next hhot => rw [h.resolve_left (Int.not_lt.mpr hhot)]
          · rfl
        · rintro ⟨htwo, -⟩
          rw [htrip] at htwo
          split at htwo <;> omega
    case recovery =>
      refine ⟨fun hcore hcool => ?_, fun hhot => ?_⟩
      · rw [exec_thermalTripRecovery hk, if_pos ⟨hcore, hcool⟩]
      · rw [exec_thermalTripRecovery hk, if_neg fun h => absurd h.2 (Int.not_lt.mpr hhot)]
    case declared =>
      refine ⟨exec_powerOverDeclared_within hup, fun hover hbeats hat hraised => ?_, fun hover hbeats => ?_⟩
      · have hn : (if s.clk.overBeats ≠ 0 ∧ s.clk.overAt = s.now then s.clk.overBeats
            else if s.clk.overBeats ≠ 0 ∧ s.clk.overAt + 1 = s.now then s.clk.overBeats + 1 else 1) = 16 := by
          rw [if_neg (by omega), if_pos ⟨by omega, hat⟩, hbeats]
        rw [exec_powerOverDeclared_over hup hover hn, hraised]
        rfl
      · have hn : (if s.clk.overBeats ≠ 0 ∧ s.clk.overAt = s.now then s.clk.overBeats
            else if s.clk.overBeats ≠ 0 ∧ s.clk.overAt + 1 = s.now then s.clk.overBeats + 1 else 1) = 1 := by
          rw [if_neg fun h => h.1 hbeats, if_neg fun h => h.1 hbeats]
        rw [exec_powerOverDeclared_over hup hover hn, show decide (1 < 1) = false from rfl, Bool.and_false]
        rfl
  case leds =>
    intro s amber trip
    have hamber : (s.clk.timing = .derated ∨ s.junctionLimit = true ∨ s.sys.hold = true ∨ s.fls.state = .readOnly) ↔ amber := by
      rw [State.junctionLimit_iff]
    have htrip : s.sys.tripLow = true ↔ trip := Sys.tripLow_iff
    refine ⟨fun hpower => ?_, fun hpower hswitch => ?_⟩
    · have hstat := State.statLed_powered hpower
      rw [State.pwrLed_powered hpower, State.locLed_powered hpower, hstat]
      refine ⟨fun hswitch hcore => if_pos ?_, fun h => if_neg (ne_true_of_eq_false (Sys.not_pwrGood h)), fun h => if_pos (h.imp_left htrip.mpr), fun hno hfailed ham => ?_,
        fun hno hfailed ham hstart => ?_, fun hno ham hready hstate => ?_, fun hled => if_pos ?_, fun hled => if_neg ?_⟩
      · simp [Sys.pwrGood, hpower, hswitch, hcore]
      · rw [if_neg (not_or.mpr ⟨mt htrip.mp hno, hfailed⟩), if_pos (hamber.mpr ham)]
      · rw [if_neg (not_or.mpr ⟨mt htrip.mp hno, hfailed⟩), if_neg (mt hamber.mp ham), if_pos (hstart.imp_left (Bool.not_eq_true' _).mpr)]
      · rw [if_neg (not_or.mpr ⟨mt htrip.mp hno, by rw [hstate]; decide⟩), if_neg (mt hamber.mp ham), if_neg (by rw [hready, hstate]; decide)]
      · simpa [bit] using hled
      · simp [bit, hled]
    · have hinput : ¬ s.sys.input = true := by simp [Sys.input, hpower, hswitch]
      exact ⟨(if_neg fun h => hinput h.1).trans (if_neg hinput), if_pos ((Bool.not_eq_true' _).mpr (eq_false_of_ne_true hinput)), if_neg fun h => hinput h.1⟩
end

section
/-! Ports, links, keys, `HELLO` and delay probes (R356 to R358, R368, R389, R390): obligation O54. -/

namespace Sys2Proof.Machine

theorem bit_toNat {w : Nat} (v : BitVec w) (i : Nat) : bit v.toNat i = v.getLsbD i := by
  rw [bit, BitVec.getLsbD, Nat.testBit_eq_decide_div_mod_eq]
  rfl

/-! ## PORT_CFG (R356) -/

/-- A port register: its low bits, and its enable. -/
def portValue (low : Nat) (on : Bool) : Nat := low + if on then 2 ^ 31 else 0

theorem bit_portValue {low : Nat} (h : low < 8) (on : Bool) : bit (portValue low on) 31 = on := by
  cases on <;> simp [bit, portValue] <;> omega

theorem bits_portValue (low : Nat) (on : Bool) : bits (portValue low on) 1 0 = low % 4 := by
  cases on <;> simp [bits, portValue]
  omega

section
variable {s : State} {port : Nat} {v : BitVec 32}

/-- The enable that a write asks for: without a node identifier there is none. -/
def State.enables (s : State) (v : BitVec 32) : Bool := v.getLsbD 31 && s.me != 0

theorem State.enables_of (h : v.getLsbD 31 = true) (hme : s.me ≠ 0) : s.enables v = true := by
  rw [State.enables, h, Bool.true_and, bne_iff_ne]
  exact hme

theorem State.not_enables (h : v.getLsbD 31 = false ∨ s.me = 0) : s.enables v = false := by
  rcases h with h | h
  · rw [State.enables, h, Bool.false_and]
  · rw [State.enables, h, bne_self_eq_false, Bool.and_false]

/-- What follows from the enable before and after. -/
def State.portSwitched (s : State) (port old new : Nat) : State :=
  if bit new 31 ∧ !bit old 31 then s.openPort port (bits new 1 0) else if bit old 31 ∧ !bit new 31 then s.closePort port else s

section
variable (hport : port < 8)
include hport

theorem exec_portCfgWrite_refused (hon : bit (s.regN (Reg.PORT_CFG port)) 31 = true) (hchange : v.toNat % 8 ≠ s.regN (Reg.PORT_CFG port) % 8) :
    exec (.portCfgWrite port v) s = .next (s.configReject (Reg.PORT_CFG port) v.toNat) :=
  congrArg Host.Outcome.next ((if_neg (Nat.not_le.mpr hport)).trans (if_pos ⟨hon, hchange⟩))

theorem exec_portCfgWrite_taken (hfree : ¬ (bit (s.regN (Reg.PORT_CFG port)) 31 = true ∧ v.toNat % 8 ≠ s.regN (Reg.PORT_CFG port) % 8)) (hsplit : v.toNat % 4 ≠ 3) :
    exec (.portCfgWrite port v) s = .next ((s.setRegN (Reg.PORT_CFG port) (portValue (v.toNat % 8) (s.enables v))).portSwitched port
      (s.regN (Reg.PORT_CFG port)) (portValue (v.toNat % 8) (s.enables v))) := by
  have hvalue : v.toNat % 8 / 4 * 4 + v.toNat % 4 + (if bit v.toNat 31 ∧ s.me ≠ 0 then 2 ^ 31 else 0) = portValue (v.toNat % 8) (s.enables v) := by
    have hlow : v.toNat % 8 / 4 * 4 + v.toNat % 4 = v.toNat % 8 := by omega
    rw [hlow, bit_toNat, portValue, State.enables]
    simp
  refine congrArg Host.Outcome.next ((if_neg (Nat.not_le.mpr hport)).trans ((if_neg hfree).trans ?_))
  simp only [if_neg hsplit, hvalue, State.portSwitched]

theorem exec_portCfgWrite_reserved (hoff : bit (s.regN (Reg.PORT_CFG port)) 31 = false) (hsplit : v.toNat % 4 = 3) (hno : s.enables v = false) :
    exec (.portCfgWrite port v) s = .next ((s.configReject (Reg.PORT_CFG port) v.toNat).setRegN (Reg.PORT_CFG port)
      (v.toNat % 8 / 4 * 4 + s.regN (Reg.PORT_CFG port) % 4)) := by
  have hzero : (if bit v.toNat 31 ∧ s.me ≠ 0 then 2 ^ 31 else 0) = 0 := by
    rw [bit_toNat]
    refine if_neg fun h => ?_
    rw [State.enables_of h.1 h.2] at hno
    nomatch hno
  have hnew : bit (v.toNat % 8 / 4 * 4 + s.regN (Reg.PORT_CFG port) % 4) 31 = false := by
    rw [bit, Nat.div_eq_of_lt (by omega)]
    rfl
  have hfree : ¬ (bit (s.regN (Reg.PORT_CFG port)) 31 = true ∧ v.toNat % 8 ≠ s.regN (Reg.PORT_CFG port) % 8) := fun h => Bool.false_ne_true (hoff.symm.trans h.1)
  refine congrArg Host.Outcome.next ((if_neg (Nat.not_le.mpr hport)).trans ((if_neg hfree).trans ?_))
  simp only [if_pos hsplit, hzero, Nat.add_zero, hnew, hoff, Bool.false_eq_true, false_and, if_false]

end

theorem State.portSwitched_on {old new : Nat} (hoff : bit old 31 = false) (hon : bit new 31 = true) : s.portSwitched port old new = s.openPort port (bits new 1 0) :=
  if_pos ⟨hon, (Bool.not_eq_true' _).mpr hoff⟩

theorem State.portSwitched_off {old new : Nat} (hon : bit old 31 = true) (hoff : bit new 31 = false) : s.portSwitched port old new = s.closePort port :=
  (if_neg fun h => Bool.false_ne_true (hoff.symm.trans h.1)).trans (if_pos ⟨hon, (Bool.not_eq_true' _).mpr hoff⟩)

theorem State.portSwitched_stays {old new : Nat} (hwas : bit old 31 = false) (hoff : bit new 31 = false) : s.portSwitched port old new = s :=
  (if_neg fun h => Bool.false_ne_true (hoff.symm.trans h.1)).trans (if_neg fun h => Bool.false_ne_true (hwas.symm.trans h.1))

/-! ## Links and keys (R357, R358, R389, R390) -/

variable {link : Nat}

theorem exec_helloSend_due (h : (s.link link).state = 2) (hdue : (s.link link).lastHello = 0 ∨ (s.link link).lastHello + 1024 ≤ s.now) :
    exec (.helloSend link) s = .next ((s.setLink link { s.link link with lastHello := s.now }).enqueue link 4
      (.frame (s.mkFrame (s.link link).neighbour .hello 4 8 (.bytes (leBytes 8 s.me.toNat))) false false none 0 s.now)) := by
  refine congrArg Host.Outcome.next (if_neg ?_)
  rintro (hne | ⟨hne, hlt⟩)
  · exact hne h
  · exact hdue.elim hne fun hle => absurd hlt (Nat.not_lt.mpr hle)

theorem exec_probeSend_due (h : (s.link link).state = 2) (hdue : (s.link link).lastProbe = 0 ∨ (s.link link).lastProbe + 1024 ≤ s.now) :
    exec (.probeSend link) s = .next ((s.setLink link { s.link link with lastProbe := s.now }).sendProbe link false) := by
  refine congrArg Host.Outcome.next (if_neg ?_)
  rintro (hne | ⟨hne, hlt⟩)
  · exact hne h
  · exact hdue.elim hne fun hle => absurd hlt (Nat.not_lt.mpr hle)

theorem exec_keyCmdActivate_held {k : Nat × Nat} (hk : (s.link s.keyLink).keys.getD s.keySlot none = some k) :
    exec .keyCmdActivate s = .next (s.setLink s.keyLink { s.link s.keyLink with encrypted := true, slot := s.keySlot, counter := 0 }) :=
  congrArg Host.Outcome.next (if_neg (by rw [hk]; exact Bool.false_ne_true))

theorem exec_keyCmdActivate_empty (hk : (s.link s.keyLink).keys.getD s.keySlot none = none) :
    exec .keyCmdActivate s = .next (s.configReject Reg.KEY_CMD 0x80000001) :=
  congrArg Host.Outcome.next (if_pos (by rw [hk]; rfl))

/-- The neighbour learned, and asked to join where it has no entry. -/
def State.neighbourJoined (s : State) (n : NodeId) : State := if (s.partnerOf n).isNone then s.startJoin n else s

theorem State.neighbourJoined_known {n : NodeId} (h : (s.partnerOf n).isSome = true) : s.neighbourJoined n = s :=
  if_neg (by rw [Option.isSome_iff_ne_none] at h; simpa using h)

theorem State.neighbourJoined_new {n : NodeId} (h : s.partnerOf n = none) : s.neighbourJoined n = s.startJoin n := if_pos (by rw [h]; rfl)

end

end Sys2Proof.Machine

open Sys2Proof Sys2Proof.Machine

/-- Settles O54: it holds. -/
theorem portsLinksKeys : Obligations.PortsLinksKeys := by
  unfold Obligations.PortsLinksKeys
  intro s t f port link v
  refine ⟨?ports, ?links, ?keys, fun h => ?hello, fun h ns => ⟨exec_delivered (i := .probeReceive f false ns) h rfl, exec_delivered (i := .probeReceive f true ns) h rfl⟩⟩
  case ports =>
    intro hport old new
    have hlow : v.toNat % 8 < 8 := Nat.mod_lt _ (by decide)
    have hon : v.getLsbD 31 = true → s.me ≠ 0 → portValue (v.toNat % 8) (s.enables v) = new ∧ bit new 31 = true := by
      intro hv hme
      have hnew : new = portValue (v.toNat % 8) true := congrArg (v.toNat % 8 + ·) (if_pos ⟨hv, hme⟩)
      rw [State.enables_of hv hme, hnew]
      exact ⟨rfl, bit_portValue hlow true⟩
    have hoff : v.getLsbD 31 = false ∨ s.me = 0 → portValue (v.toNat % 8) (s.enables v) = new ∧ bit new 31 = false := by
      intro hno
      have hnew : new = portValue (v.toNat % 8) false :=
        congrArg (v.toNat % 8 + ·) (if_neg fun h => hno.elim (fun hv => Bool.false_ne_true (hv.symm.trans h.1)) h.2)
      rw [State.not_enables hno, hnew]
      exact ⟨rfl, bit_portValue hlow false⟩
    refine ⟨exec_portCfgWrite_refused hport, fun hwas hsplit hno => exec_portCfgWrite_reserved hport hwas hsplit (State.not_enables hno), fun hsplit hwas => ?_,
      fun hsplit hwas hsame hno => ?_⟩
    · have htaken := exec_portCfgWrite_taken hport (fun h => Bool.false_ne_true (hwas.symm.trans h.1)) hsplit
      refine ⟨fun hv hme => ?_, fun hno => ?_⟩
      · obtain ⟨hnew, hbit⟩ := hon hv hme
        rw [htaken, hnew, State.portSwitched_on hwas hbit, ← hnew, bits_portValue]
        congr 2
        omega
      · obtain ⟨hnew, hbit⟩ := hoff hno
        rw [htaken, hnew, State.portSwitched_stays hwas hbit]
    · obtain ⟨hnew, hbit⟩ := hoff hno
      rw [exec_portCfgWrite_taken hport (fun h => h.2 hsame) hsplit, hnew, State.portSwitched_off hwas hbit]
  case links =>
    refine ⟨fun h => congrArg Host.Outcome.next (if_pos h), fun h => congrArg Host.Outcome.next (if_neg h),
      fun h htrained hlate => congrArg Host.Outcome.next (if_pos ⟨h, (Bool.not_eq_true' _).mpr htrained, hlate⟩),
      fun hearly => congrArg Host.Outcome.next (if_neg fun h => absurd h.2.2 (Nat.not_le.mpr hearly)), fun h => congrArg Host.Outcome.next (if_pos h),
      fun h => congrArg Host.Outcome.next (if_neg h), exec_helloSend_due, fun h => congrArg Host.Outcome.next (if_pos (.inl h)), exec_probeSend_due,
      fun h => congrArg Host.Outcome.next (if_pos (.inl h))⟩
  case keys =>
    exact ⟨fun h => congrArg Host.Outcome.next (if_neg h), fun hon hslot => congrArg Host.Outcome.next (if_pos ⟨hon, hslot⟩), fun k hk => exec_keyCmdActivate_held hk,
      exec_keyCmdActivate_empty, rfl⟩
  case hello =>
    have hhear := exec_delivered (i := .helloReceive f) h rfl
    refine ⟨fun hknown => ?_, fun hnew => ?_⟩
    · exact hhear.trans (congrArg (fun u : State => Host.Outcome.next (u.acked f)) (State.neighbourJoined_known hknown))
    · exact hhear.trans (congrArg (fun u : State => Host.Outcome.next (u.acked f)) (State.neighbourJoined_new hnew))
end

section
/-! Route maps, targets under each epoch, stubs and forwarding (R208 to R210, R366, R369, R402): obligation O55. -/

namespace Sys2Proof.Machine

/-! ## Maps (R208, R366) -/

section
variable {s : State} {v : BitVec 32} {map : Bytes}

theorem exec_routeInstall_parsed (hepoch : v.toNat = (s.fab.epoch + 1) % 2 ^ 32) {r : RouteMap} (hr : parseMap map = some r) :
    exec (.routeInstall v map) s = .next (s.mapFab (fun f => { f with newMap := some r })) := by
  refine congrArg Host.Outcome.next ((if_neg (not_not_intro hepoch)).trans ?_)
  simp only [hr]

theorem exec_routeInstall_refused (hepoch : v.toNat = (s.fab.epoch + 1) % 2 ^ 32) (hr : parseMap map = none) :
    exec (.routeInstall v map) s = .next (s.raise Ev.routeMapBad 0 (s.regN Reg.ROUTE_MAP_BASE)) := by
  refine congrArg Host.Outcome.next ((if_neg (not_not_intro hepoch)).trans ?_)
  simp only [hr]

end

/-! ## Frames on their way (R209, R210, R369) -/

section
variable {s t : State} {f : Frame} {kind : FrameKind} {ns : Nat} {data : Bytes}

/-- A frame that does not stay goes to where its stub says, or to its destination: it goes on by the route, or is dropped. -/
def State.sentOn (s : State) (f : Frame) (kind : FrameKind) (ns : Nat) (payload : Bytes) (stub : Option NodeId) : State :=
  match s.route (stub.getD f.dst) with
  | none => s.bump Reg.FWD_DROPS
  | some (link, _) =>
    if 15 ≤ f.hops then s.bump Reg.FWD_DROPS
    else (if stub.isSome then s.bump Reg.MAP_FORWARDS else s).enqueue link f.tc (.frame
      (onward f kind ns payload (stub.getD f.dst) (if stub.isSome then s.fab.epoch else f.routeEpoch) stub.isSome) (kind == .read || kind == .readResp) true none 0 s.now)

theorem exec_frameForward_on (h : s.linkCheck f = (t, true)) {stub : Option NodeId} (hstub : t.stubMet f kind = stub)
    (hgo : ¬ ((f.dst = t.me ∧ stub.isNone = true) ∨ kind = .hello ∨ kind = .probe ∨ kind = .beacon)) :
    exec (.frameForward f kind ns data) s = .next (t.sentOn f kind ns data stub) := by
  subst hstub
  rw [show exec (.frameForward f kind ns data) s = execFrameForward f kind ns data s from rfl, execFrameForward, h]
  refine congrArg Host.Outcome.next ((if_neg hgo).trans ?_)
  cases hmet : t.stubMet f kind <;> rfl

theorem exec_frameForward_here (h : s.linkCheck f = (t, true)) (hdst : f.dst = t.me) (hstub : t.stubMet f kind = none) :
    exec (.frameForward f kind ns data) s = .next t := by
  rw [show exec (.frameForward f kind ns data) s = execFrameForward f kind ns data s from rfl, execFrameForward, h]
  exact congrArg Host.Outcome.next (if_pos (.inl ⟨hdst, by rw [hstub]; rfl⟩))

theorem exec_frameForward_bad (h : s.linkCheck f = (t, false)) : exec (.frameForward f kind ns data) s = .next t := by
  rw [show exec (.frameForward f kind ns data) s = execFrameForward f kind ns data s from rfl, execFrameForward, h]

theorem State.stubMet_elsewhere (h : f.dst ≠ s.me) : s.stubMet f kind = none := if_pos h

theorem State.stubMet_stub (h : f.dst = s.me) {n : Nat} (htarget : targetOf f kind = some n) (hplaced : s.placed f.routeEpoch n = .stub) :
    s.stubMet f kind = s.stubFor f.routeEpoch n := by
  refine (if_neg (not_not_intro h)).trans ?_
  simp only [htarget, hplaced]

theorem targetOf_named (hkind : kind = .partialK ∨ kind = .collective) (href : f.ref ≠ 0) : targetOf f kind = some f.ref := by
  rcases hkind with rfl | rfl <;> exact if_neg href

section
variable {stub : Option NodeId}

theorem State.sentOn_lost (h : s.route (stub.getD f.dst) = none) : s.sentOn f kind ns data stub = s.bump Reg.FWD_DROPS := by
  simp only [State.sentOn, h]

variable {l : Nat} {r : Nat × Nat × Nat} (h : s.route (stub.getD f.dst) = some (l, r))
include h

theorem State.sentOn_worn (hhops : 15 ≤ f.hops) : s.sentOn f kind ns data stub = s.bump Reg.FWD_DROPS := by
  simp only [State.sentOn, h, if_pos hhops]

theorem State.sentOn_route (hhops : f.hops < 15) : s.sentOn f kind ns data stub =
    (if stub.isSome then s.bump Reg.MAP_FORWARDS else s).enqueue l f.tc (.frame
      (onward f kind ns data (stub.getD f.dst) (if stub.isSome then s.fab.epoch else f.routeEpoch) stub.isSome) (kind == .read || kind == .readResp) true none 0 s.now) := by
  simp only [State.sentOn, h, if_neg (Nat.not_le.mpr hhops)]

end

/-! ## Targets under each epoch (R209) -/

section
variable {e n : Nat}

theorem State.stubFor_drain (h : e + 1 = s.fab.epoch ∧ s.now < s.fab.drainEnd) : s.stubFor e n = (s.fab.stubs.find? (·.1 == n)).map (·.2) := if_pos h

theorem State.stubFor_ended (h : ¬ (e + 1 = s.fab.epoch ∧ s.now < s.fab.drainEnd)) : s.stubFor e n = none := if_neg h

theorem State.placed_now (h : e = s.fab.epoch) : s.placed e n = .accept := if_pos h

theorem State.placed_before (h : e < s.fab.epoch) : s.placed e n =
    if e + 1 = s.fab.epoch ∧ s.now < s.fab.drainEnd ∧ (s.placedAt n == some s.me) = true then .accept
    else if (s.stubFor e n).isSome then .stub else .stale :=
  (if_neg (Nat.ne_of_lt h)).trans (if_pos h)

theorem State.placed_after (h : s.fab.epoch < e) : s.placed e n = if (s.placedAt n == some s.me) = true then .accept else .behind :=
  (if_neg (Nat.ne_of_gt h)).trans (if_neg (Nat.lt_asymm h))

end

/-! ## A frame refused for its epoch -/

section
variable {n : Nat} {effect : State → State} (harrives : s.arrival f kind = (true, t)) (htarget : targetOf f kind = some n)
include harrives htarget

theorem State.receive_stale (h : t.placed f.routeEpoch n = .stale) :
    s.receive f kind effect = ((t.bump Reg.MAP_STALE).sendNack f kind .staleMap).acked f := by
  rw [State.receive, harrives]
  simp only [State.routed, htarget, h]

theorem State.receive_behind (h : t.placed f.routeEpoch n = .behind) :
    s.receive f kind effect = (((t.bump Reg.MAP_STALE).sendNack f kind .staleMap).raise Ev.mapBehind f.src n f.routeEpoch).acked f := by
  rw [State.receive, harrives]
  simp only [State.routed, htarget, h]

end

end

end Sys2Proof.Machine

open Sys2Proof Sys2Proof.Machine

/-- Settles O55: it holds. -/
theorem routesAndStubs : Obligations.RoutesAndStubs := by
  unfold Obligations.RoutesAndStubs
  intro s t f kind v map e n ns seq row deeds data
  refine ⟨fun h => congrArg Host.Outcome.next (if_pos h), fun h => ⟨fun r hr => exec_routeInstall_parsed h hr, exec_routeInstall_refused h⟩,
    fun hold hend => congrArg Host.Outcome.next (if_pos ⟨hold, hend⟩), fun h => congrArg Host.Outcome.next (if_neg fun hend => absurd hend.2 (Nat.not_le.mpr h)),
    fun h hdst hhello hprobe hbeacon => ?onward, fun moved l r h hdst hkind href hplaced hstub hroute hhops => ?stub, exec_frameForward_here, exec_frameForward_bad,
    ?placed, fun harrives href => ?refused⟩
  case onward =>
    have hon : exec (.frameForward f kind ns data) s = .next (t.sentOn f kind ns data none) := exec_frameForward_on h (State.stubMet_elsewhere hdst) (by
      rintro (⟨hme, -⟩ | hk | hk | hk)
      · exact hdst hme
      · exact hhello hk
      · exact hprobe hk
      · exact hbeacon hk)
    exact ⟨fun hroute => hon.trans (congrArg Host.Outcome.next (State.sentOn_lost hroute)), fun l r hroute =>
      ⟨fun hhops => hon.trans (congrArg Host.Outcome.next (State.sentOn_worn hroute hhops)),
        fun hhops => hon.trans (congrArg Host.Outcome.next (State.sentOn_route hroute hhops))⟩⟩
  case stub =>
    have hmet : t.stubMet f kind = some moved := (State.stubMet_stub hdst (targetOf_named hkind href) hplaced).trans hstub
    rw [exec_frameForward_on h hmet, State.sentOn_route hroute hhops]
    · rcases hkind with rfl | rfl <;> rfl
    · rcases hkind with rfl | rfl <;> simp
  case placed =>
    intro here drain
    have hhere : (s.placedAt n == some s.me) = true ↔ here := beq_iff_eq
    have hbefore : drain → e < s.fab.epoch := fun hdrain => Nat.lt_of_succ_le (Nat.le_of_eq hdrain.1)
    refine ⟨State.placed_now, fun hdrain hin => ?_, fun moved hdrain hout hmoved => ?_, fun hlt hdrain => ?_, fun hdrain hout hno => ?_, fun hlt hin => ?_, fun hlt hout => ?_⟩
    · rw [State.placed_before (hbefore hdrain), if_pos ⟨hdrain.1, hdrain.2, hhere.mpr hin⟩]
    · have hstub : s.stubFor e n = some moved := (State.stubFor_drain hdrain).trans hmoved
      refine ⟨?_, hstub⟩
      rw [State.placed_before (hbefore hdrain), if_neg fun h => hout (hhere.mp h.2.2), hstub]
      rfl
    · rw [State.placed_before hlt, if_neg fun h => hdrain ⟨h.1, h.2.1⟩, State.stubFor_ended hdrain]
      rfl
    · have hfind : s.fab.stubs.find? (·.1 == n) = none := List.find?_eq_none.mpr fun x hx heq => hno x hx (eq_of_beq heq)
      rw [State.placed_before (hbefore hdrain), if_neg fun h => hout (hhere.mp h.2.2), State.stubFor_drain hdrain, hfind]
      rfl
    · rw [State.placed_after hlt, if_pos (hhere.mpr hin)]
    · rw [State.placed_after hlt, if_neg (mt hhere.mp hout)]
  case refused =>
    have htarget := targetOf_named (f := f) (kind := .collective) (.inr rfl) href
    exact ⟨fun h => congrArg Host.Outcome.next (State.receive_stale harrives htarget h), fun h => congrArg Host.Outcome.next (State.receive_behind harrives htarget h)⟩
end

section
/-! Gate lists, the choice of a link, the share of step data and queue samples (R77, R396 to R404, R407): obligation O56. -/

namespace Sys2Proof.Machine

section
variable {s : State}

/-! ## GATE_CTRL.apply (R77, R399) -/

/-- GATE_CTRL with the entries that a write names. -/
def State.gateEntries (s : State) (e : BitVec 4) : State := s.setRegN Reg.GATE_CTRL (setBits (s.regN Reg.GATE_CTRL) 3 0 e.toNat)

/-- The classes of which a list lowers the fraction, and the promises that drew on those. -/
def State.lowered (s : State) (l : List (Nat × Nat)) : List Nat :=
  (List.range 8).filter (fun c => decide ((gateFractions s.clk.len s.overhead l).getD c 0 < s.fab.gateFrac.getD c 0))
def State.hurt (s : State) (l : List (Nat × Nat)) : List Nat := ((s.lowered l).flatMap (fun c => s.drewOn (Reg.GATE_FRACTION c))).eraseDups

theorem State.mem_lowered {l : List (Nat × Nat)} {c : Nat} :
    c ∈ s.lowered l ↔ c < 8 ∧ (gateFractions s.clk.len s.overhead l).getD c 0 < s.fab.gateFrac.getD c 0 := by
  rw [State.lowered, List.mem_filter, List.mem_range, decide_eq_true_iff]

theorem State.mem_hurt {l : List (Nat × Nat)} {p : Nat} : p ∈ s.hurt l ↔ ∃ c ∈ s.lowered l, p ∈ s.drewOn (Reg.GATE_FRACTION c) := by
  rw [State.hurt, List.mem_eraseDups, List.mem_flatMap]

section
variable {e : BitVec 4} {l : List (Nat × Nat)}

/-- The list that waits until the promises it would hurt have ended. -/
def State.gatesHeld (s : State) (l : List (Nat × Nat)) : State :=
  let writes : List PendingWrite := (s.lowered l).map (fun c =>
    { off := Reg.GATE_FRACTION c
      value := (gateFractions s.clk.len s.overhead l).getD c 0
      promises := s.drewOn (Reg.GATE_FRACTION c) })
  (s.mapFab (fun f => { f with gatesWait := some (l, s.hurt l), gatesPending := none })).mapIo
    (fun io => { io with pendingWrites := io.pendingWrites.filter (fun w => !((s.lowered l).map Reg.GATE_FRACTION).contains w.off) ++ writes })

variable {u : State} (hu : s.gateEntries e = u) (hl : u.stagedGates e.toNat = l)
include hu hl

theorem exec_gateCtrlApply_refused (h : u.gatesLegal (min u.clk.len (u.clk.lenPending.getD u.clk.len)) l = false ∨ ∃ g ∈ u.fld, g.2.state ≠ 0) :
    exec (.gateCtrlApply e) s = .next (u.configReject Reg.GATE_CTRL (0x80000000 + e.toNat)) := by
  subst hu hl
  refine congrArg Host.Outcome.next (if_pos (h.imp (Bool.not_eq_true' _).mpr ?_))
  rintro ⟨g, hg, hne⟩
  exact List.any_eq_true.mpr ⟨g, hg, bne_iff_ne.mpr hne⟩

variable (hlegal : u.gatesLegal (min u.clk.len (u.clk.lenPending.getD u.clk.len)) l = true) (hfields : ∀ g ∈ u.fld, g.2.state = 0)
include hlegal hfields

theorem exec_gateCtrlApply_taken : exec (.gateCtrlApply e) s = .next (
    if (u.hurt l).isEmpty then u.mapFab (fun f => { f with gatesPending := some l, gatesWait := none }) else u.gatesHeld l) := by
  subst hu hl
  refine congrArg Host.Outcome.next (if_neg ?_)
  rintro (hill | hany)
  · exact Bool.false_ne_true (((Bool.not_eq_true' _).mp hill).symm.trans hlegal)
  · obtain ⟨g, hg, hne⟩ := List.any_eq_true.mp hany
    exact bne_iff_ne.mp hne (hfields g hg)

end

/-! ## The choice of a link (R397) -/

section
variable {link ns c : Nat}

/-- A class that is open and has something to send. -/
def State.ableClass (s : State) (link ns c : Nat) : Bool :=
  gateOpen (gateSpans s.clk.len 0 s.fab.gates) (s.guardNs (s.link link).lanes) c ns && (s.queue link c).any (fun q => s.canSend link q)

/-- The next item of a class goes out. -/
def State.sendsFrom (s : State) (link ns c : Nat) (charged : Bool) : State :=
  match s.nextItem link c with
  | (some (i, q), s1) => s1.sendItem link ns c i q charged
  | (none, s1) => s1

theorem State.sendsFrom_item {i : Nat} {q : QItem} {u : State} (h : s.nextItem link c = (some (i, q), u)) (charged : Bool) :
    s.sendsFrom link ns c charged = u.sendItem link ns c i q charged := by
  simp only [State.sendsFrom, h]

/-- The link may start a frame. -/
structure State.LinkFree (s : State) (link ns : Nat) : Prop where
  up : s.cdUp = true
  serving : (s.link link).state = 2
  counts : (s.link link).counter < 2 ^ 63
  within : ns < s.clk.len

variable (h : s.LinkFree link ns)
include h

theorem State.LinkFree.not_waiting : ¬ ((!s.cdUp) = true ∨ (s.link link).state ≠ 2 ∨ 2 ^ 63 ≤ (s.link link).counter ∨ s.clk.len ≤ ns) := by
  obtain ⟨hup, hserving, hcounts, hwithin⟩ := h
  rintro (hdown | hne | hend | hlate)
  · rw [hup] at hdown
    nomatch hdown
  · exact hne hserving
  · exact absurd hcounts (Nat.not_lt.mpr hend)
  · exact absurd hwithin (Nat.not_lt.mpr hlate)

theorem exec_linkTransmitSelect_credit (hc : ((List.range 8).filter (s.ableClass link ns)).find? (fun c => decide (0 < s.credit link c)) = some c) :
    exec (.linkTransmitSelect link ns) s = .next (s.sendsFrom link ns c true) := by
  refine congrArg Host.Outcome.next ((if_neg h.not_waiting).trans ?_)
  simp only [show List.find? _ (List.filter (fun c => gateOpen _ _ c ns && _) (List.range 8)) = some c from hc]
  rfl

theorem exec_linkTransmitSelect_none (hnone : ((List.range 8).filter (s.ableClass link ns)).find? (fun c => decide (0 < s.credit link c)) = none)
    (hc : ((List.range 8).filter (s.ableClass link ns)).head? = some c) :
    exec (.linkTransmitSelect link ns) s = .next (s.sendsFrom link ns c false) := by
  refine congrArg Host.Outcome.next ((if_neg h.not_waiting).trans ?_)
  simp only [show List.find? _ (List.filter (fun c => gateOpen _ _ c ns && _) (List.range 8)) = none from hnone,
    show List.head? (List.filter (fun c => gateOpen _ _ c ns && _) (List.range 8)) = some c from hc]
  rfl

theorem exec_linkTransmitSelect_idle (hnone : (List.range 8).filter (s.ableClass link ns) = []) : exec (.linkTransmitSelect link ns) s = .next s := by
  refine congrArg Host.Outcome.next ((if_neg h.not_waiting).trans ?_)
  simp only [show List.filter (fun c => gateOpen _ _ c ns && _) (List.range 8) = [] from hnone, List.find?_nil, List.head?_nil]

end

/-! ## Queue samples and the items of a queue (R402, R404, R407) -/

theorem exec_queueSel_free {v : BitVec 32} (h : s.busy Reg.QUEUE_SEL = false) : exec (.queueSel v) s = .next (
    let k := 8 * (v.toNat / 256 % 32) + v.toNat % 8
    let o := Tbl.get (fun _ => ({} : QSample)) s.fab.samples k
    let u := ((s.setRegN Reg.QUEUE_SEL (v.toNat / 256 % 32 * 256 + v.toNat % 8)).mapFab (fun f => { f with queueSnap := o })).markBusy Reg.QUEUE_SEL
    if v.getLsbD 30 then u.mapFab (fun f => { f with samples := Tbl.set (fun _ => {}) f.samples k { o with depthMax := 0, delayMax := 0 } }) else u) := by
  refine congrArg Host.Outcome.next ((State.whileFree_free h _ _).trans ?_)
  have hbits : bits v.toNat 12 8 = v.toNat / 256 % 32 ∧ bits v.toNat 2 0 = v.toNat % 8 := ⟨rfl, congrArg (· % 8) (Nat.div_one _)⟩
  simp only [bit_toNat, hbits.1, hbits.2]
  split <;> rfl

theorem State.canSend_shared {link : Nat} {f : OutFrame} {m : Nat} (h : shareOwner f false = some m) (p : Option Nat) (a b : Nat) :
    s.canSend link (.frame f false false p a b) = (s.sendable f false && decide (s.tc0Used link m < s.tc0Share link m)) := by
  simp only [State.canSend, State.ready, State.tc0Room, h]

theorem State.useTc0_forwarded {link : Nat} {f : OutFrame} (h : f.payload = .none) : s.useTc0 link f true = s := by
  simp only [State.useTc0, shareOwner, h]

/-- A forwarded frame of TC1 to TC3 that waited longer than a beat is counted as it goes out. -/
theorem State.sendItem_forwarded {f : OutFrame} (h : f.payload = .none) (link ns tc pos : Nat) (p : Option Nat) (svc since : Nat) :
    s.sendItem link ns tc pos (.frame f false true p svc since) true =
      (((if true ∧ 1 ≤ tc ∧ tc ≤ 3 ∧ (since + 1 < s.now ∨ (since + 1 = s.now ∧ f.cameNs < ns)) then s.bump Reg.FWD_LATE else s).setQueue link tc
        ((s.queue link tc).eraseIdx pos)).transmit link ns f true true p svc) :=
  congrArg (fun u : State => u.transmit link ns f true true p svc) (State.useTc0_forwarded h)

end

end Sys2Proof.Machine

open Sys2Proof Sys2Proof.Machine

/-- Settles O56: it holds. -/
theorem gatesAndQueues : Obligations.GatesAndQueues := by
  unfold Obligations.GatesAndQueues
  intro s link ns v e
  refine ⟨?gates, fun hup hserving hcounts hwithin => ?select, ?sample, fun f m a b p h => State.canSend_shared h p a b, fun f tc pos svc since p h => ?item⟩
  case gates =>
    intro u l b
    refine ⟨exec_gateCtrlApply_refused rfl rfl, fun hlegal hfields hfree => ?_, fun c p hc hlegal hfields hlow hp => ?_⟩
    · have hnone : u.hurt l = [] := List.eq_nil_iff_forall_not_mem.mpr fun p hp => by
        obtain ⟨c, hc, hdrew⟩ := State.mem_hurt.mp hp
        obtain ⟨hlt, hlow⟩ := State.mem_lowered.mp hc
        rw [hfree c hlt hlow] at hdrew
        nomatch hdrew
      rw [exec_gateCtrlApply_taken rfl rfl hlegal hfields]
      exact congrArg Host.Outcome.next (if_pos (List.isEmpty_iff.mpr hnone))
    · have hmem : p ∈ u.hurt l := State.mem_hurt.mpr ⟨c, State.mem_lowered.mpr ⟨hc, hlow⟩, hp⟩
      have hsome : ¬ (u.hurt l).isEmpty = true := fun hnil => by
        rw [List.isEmpty_iff.mp hnil] at hmem
        nomatch hmem
      exact ⟨u.gatesHeld l, (exec_gateCtrlApply_taken rfl rfl hlegal hfields).trans (congrArg Host.Outcome.next (if_neg hsome)), rfl, rfl, u.hurt l, rfl, hmem⟩
  case select =>
    intro able
    have hlink : s.LinkFree link ns := ⟨hup, hserving, hcounts, hwithin⟩
    have hable : ∀ c, able c ↔ c < 8 ∧ s.ableClass link ns c = true := fun c => by
      rw [State.ableClass, Bool.and_eq_true]
    refine ⟨fun hno => ?_, fun c i q u hc hcredit hlow hitem => ?_, fun c i q u hc hlow hitem => ?_⟩
    · refine exec_linkTransmitSelect_idle hlink (List.filter_eq_nil_iff.mpr fun c hc habl => hno c ((hable c).mpr ⟨List.mem_range.mp hc, habl⟩))
    · obtain ⟨hlt, habl⟩ := (hable c).mp hc
      rw [exec_linkTransmitSelect_credit hlink, State.sendsFrom_item hitem]
      rw [List.find?_filter, List.find?_range_eq_some]
      refine ⟨decide_eq_true ⟨habl, decide_eq_true hcredit⟩, List.mem_range.mpr hlt, fun d hd => (Bool.not_eq_true' _).mpr (decide_eq_false ?_)⟩
      rintro ⟨hdable, hdcredit⟩
      exact absurd hd (Nat.not_lt.mpr (hlow d ((hable d).mpr ⟨by omega, hdable⟩) (of_decide_eq_true hdcredit)))
    · obtain ⟨hlt, habl⟩ := (hable c).mp hc
      rw [exec_linkTransmitSelect_none hlink ?_ (c := c) ?_, State.sendsFrom_item hitem]
      · refine List.find?_eq_none.mpr fun d hd hcredit => ?_
        obtain ⟨hdlt, hdable⟩ := List.mem_filter.mp hd
        exact absurd (of_decide_eq_true hcredit) (Int.not_lt.mpr (hlow d ((hable d).mpr ⟨List.mem_range.mp hdlt, hdable⟩)).1)
      · rw [List.head?_filter, List.find?_range_eq_some]
        refine ⟨habl, List.mem_range.mpr hlt, fun d hd => (Bool.not_eq_true' _).mpr (eq_false_of_ne_true fun hdable => ?_)⟩
        exact absurd hd (Nat.not_lt.mpr (hlow d ((hable d).mpr ⟨by omega, hdable⟩)).2)
  case sample =>
    intro k o u
    refine ⟨fun hbusy => congrArg Host.Outcome.next (State.whileFree_busy hbusy _ _), fun hbusy hv => ?_, fun hbusy hv => ?_⟩
    · exact (exec_queueSel_free hbusy).trans (congrArg Host.Outcome.next (if_neg (ne_true_of_eq_false hv)))
    · exact (exec_queueSel_free hbusy).trans (congrArg Host.Outcome.next (if_pos hv))
  case item =>
    intro r
    refine ⟨fun hlo hhi hlate => ?_, fun hsoon => ?_⟩
    · rw [State.sendItem_forwarded h, if_pos ⟨rfl, hlo, hhi, hlate⟩]
    · rw [State.sendItem_forwarded h, if_neg (by omega)]
end

section
/-! The transport: sequence numbers, acknowledgements, retransmission, heartbeats and departures (R362 to R364, R373, R374, R550): obligation O57. -/

namespace Sys2Proof.Machine

@[simp] theorem State.partner_setPartner_self (s : State) (i : Nat) (p : Partner) : (s.setPartner i p).partner i = p :=
  Tbl.get_set_self (fun _ => ({} : Partner)) _ _ _

theorem State.partnerState_of {s : State} {n : NodeId} {i : Nat} (h : s.partnerOf n = some i) : s.partnerState n = (s.partner i).state := by
  simp only [State.partnerState, h]

/-! ## Sequence numbers (R362, R363) -/

/-- What becomes of a transported frame of a `LIVE` partner, by the class of its number. -/
def State.sequenced (s : State) (i : Nat) (p : Partner) (f : Frame) : SeqClass → Bool × State
  | .outside => (false, (s.bump Reg.TP_OUT_OF_WINDOW).acked f)
  | .duplicate => (false, ((s.bump Reg.TP_DUPLICATES).setPartner i { p with ackOwed := true }).acked f)
  | .fresh => (true, s.setPartner i { p with
      rxNext := (advanceSeq p.rxNext (f.seq :: p.rxSeen) 65536).1
      rxSeen := (advanceSeq p.rxNext (f.seq :: p.rxSeen) 65536).2
      ackOwed := true })

section
variable {s t : State} {f : Frame} {i : Nat} {kind : FrameKind} {q : Partner}

theorem State.arrival_live (hup : s.cdUp = true) (hlink : s.linkCheck f = (t, true)) (hdst : f.dst = t.me) (hkind : transported kind = true)
    (hof : t.partnerOf f.src = some i) (hlive : (t.partner i).state = .live) (hq : { t.partner i with heard := t.now } = q)
    (hstill : (t.setPartner i q).partnerOf f.src = some i) :
    s.arrival f kind = (t.setPartner i q).sequenced i q f (seqClass q.rxNext q.rxSeen f.seq) := by
  have hqlive : (q.state = .live) = True := eq_true (hq ▸ hlive)
  have hst := (State.partnerState_of hof).trans hlive
  rw [State.arrival, if_neg (by rw [hup]; decide), hlink]
  simp only [hdst, hst, hof, hq, hstill, hkind, hqlive, State.partner_setPartner_self, ne_eq, not_true_eq_false, false_and, if_false, reduceCtorEq, or_self,
    Bool.not_true, Bool.false_eq_true]
  cases seqClass q.rxNext q.rxSeen f.seq <;> rfl

end

/-! ## Acknowledgements, heartbeats and silence (R363, R373, R374) -/

section
variable {s : State} {i : Nat}

theorem exec_ackSend_owed (hup : s.cdUp = true) (hlive : (s.partner i).state = .live) (howed : (s.partner i).ackOwed = true) (hsent : (s.partner i).sent < s.now) :
    exec (.ackSend i) s = .next ((s.setPartner i { s.partner i with ackOwed := false }).sendAck (s.partner i)) :=
  congrArg Host.Outcome.next (if_pos ⟨hup, hlive, howed, hsent⟩)

theorem exec_ackSend_none (h : (s.partner i).ackOwed = false) : exec (.ackSend i) s = .next s :=
  congrArg Host.Outcome.next (if_neg fun hgo => Bool.false_ne_true (h.symm.trans hgo.2.2.1))

/-! ## Retransmission (R364) -/

section
variable {seq sentAt n : Nat} {g : OutFrame}

theorem exec_retransmitTimeout_acked (h : (s.partner i).unacked.find? (·.1 == seq) = none) : exec (.retransmitTimeout i seq) s = .next s := by
  rw [show exec (.retransmitTimeout i seq) s = execRetransmitTimeout i seq s from rfl, execRetransmitTimeout]
  simp only [h]

/-- The beat in which a frame has waited long enough for its acknowledgement. -/
def State.retxDue (s : State) (i sentAt : Nat) : Nat :=
  sentAt + 2 * ((s.route (s.partner i).node).map (fun r => r.2.2.1)).getD 1 + bits (s.regN Reg.RETX_MARGIN) 7 0

/-- The frame once more in what waits for its acknowledgement, counted. -/
def State.retxCounted (s : State) (i seq n : Nat) (g : OutFrame) : State :=
  let p := s.partner i
  (((s.setPartner i { p with unacked := p.unacked.map (fun u => if u.1 = seq then (seq, g, s.now, n + 1) else u) }).bump Reg.TP_RETX).pathFault g.promise).countRetx p.node

variable (h : (s.partner i).unacked.find? (·.1 == seq) = some (seq, g, sentAt, n))
include h

theorem exec_retransmitTimeout_early (hearly : s.now < s.retxDue i sentAt) : exec (.retransmitTimeout i seq) s = .next s := by
  rw [show exec (.retransmitTimeout i seq) s = execRetransmitTimeout i seq s from rfl, execRetransmitTimeout]
  simp only [h]
  exact congrArg Host.Outcome.next (if_pos (.inr (.inr hearly)))

variable (hup : s.cdUp = true) (hlive : (s.partner i).state = .live) (hdue : s.retxDue i sentAt ≤ s.now)
include hup hlive hdue

theorem exec_retransmitTimeout_dead (hlimit : bits (s.regN Reg.RETX_LIMIT) 3 0 ≤ n) :
    exec (.retransmitTimeout i seq) s = .next ((s.partnerGone i .dead).raise Ev.partnerDead (s.partner i).node) := by
  rw [show exec (.retransmitTimeout i seq) s = execRetransmitTimeout i seq s from rfl, execRetransmitTimeout]
  simp only [h]
  refine congrArg Host.Outcome.next ((if_neg ?_).trans ((if_pos hlimit).trans (if_pos hlive)))
  exact not_or.mpr ⟨by rw [hup]; decide, not_or.mpr ⟨by simp [hlive], Nat.not_lt.mpr hdue⟩⟩

theorem exec_retransmitTimeout_again (hlimit : n < bits (s.regN Reg.RETX_LIMIT) 3 0) {l a b c : Nat} (hroute : s.route (s.partner i).node = some (l, a, b, c)) :
    exec (.retransmitTimeout i seq) s = .next ((s.retxCounted i seq n g).enqueue (if c = 0xFF then l else c) g.tc
      (.frame { g with retransmit := true } (g.kind == .read || g.kind == .readResp) false g.promise g.svc (s.retxCounted i seq n g).now)) := by
  rw [show exec (.retransmitTimeout i seq) s = execRetransmitTimeout i seq s from rfl, execRetransmitTimeout]
  simp only [h]
  refine congrArg Host.Outcome.next ((if_neg ?_).trans ((if_neg (Nat.not_le.mpr hlimit)).trans ?_))
  · exact not_or.mpr ⟨by rw [hup]; decide, not_or.mpr ⟨by simp [hlive], Nat.not_lt.mpr hdue⟩⟩
  · simp only [hroute]
    rfl

end

theorem State.pathFault_now (s : State) (p : Option Nat) : (s.pathFault p).now = s.now := by
  unfold State.pathFault State.updPromise
  split <;> rfl

theorem State.retxCounted_now (s : State) (i seq n : Nat) (g : OutFrame) : (s.retxCounted i seq n g).now = s.now := State.pathFault_now _ _

/-! ## Departures (R374) -/

section
variable {f : Frame} {t : State} (h : Delivered s f .leave t) (hof : t.partnerOf f.src = some i)
include h hof

theorem exec_leaveDepartureReceive : exec (.leaveDepartureReceive f) s =
    .next ((((t.partnerGone i .left).raise Ev.partnerLeft f.src).sendAck (t.partner i)).acked f) := by
  rw [exec_delivered (i := .leaveDepartureReceive f) h rfl]
  simp only [hof]

theorem exec_leaveEvictionReceive : exec (.leaveEvictionReceive f) s = .next (State.acked
    (if t.pins f.src ≠ 0 ∨ t.waitsOn f.src then t.sendNack f .leave .illegalInState
    else ((t.setPartner i {}).dropFrames (fun g => g.dst == f.src)).sendAck (t.partner i)) f) := by
  rw [exec_delivered (i := .leaveEvictionReceive f) h rfl]
  simp only [hof]

end

end

end Sys2Proof.Machine

open Sys2Proof Sys2Proof.Machine

/-- Settles O57: it holds. -/
theorem transport : Obligations.Transport := by
  unfold Obligations.Transport
  intro s t f i seq kind map p
  refine ⟨fun hup hlink hdst hkind hof hlive => ?arrival, fun hup hlive => ?live, exec_retransmitTimeout_acked, fun h hof => ?ack,
    fun h => exec_delivered (i := .heartbeatReceive f) h rfl, fun h hof => ?leave, fun hup => congrArg Host.Outcome.next (if_pos hup)⟩
  case arrival =>
    intro q u hstill
    have harrival := State.arrival_live hup hlink hdst hkind hof hlive rfl hstill
    refine ⟨fun hc => harrival.trans (congrArg (u.sequenced i q f) hc), fun hc => harrival.trans (congrArg (u.sequenced i q f) hc), fun hc =>
      ⟨_, harrival.trans (congrArg (u.sequenced i q f) hc), ?_⟩⟩
    rw [State.partner_setPartner_self]
    exact ⟨rfl, rfl⟩
  case live =>
    refine ⟨exec_ackSend_owed hup hlive, exec_ackSend_none, fun hdue => congrArg Host.Outcome.next (if_pos ⟨hup, hlive, hdue⟩),
      fun hsoon => congrArg Host.Outcome.next (if_neg fun hgo => absurd hgo.2.2 (Nat.not_le.mpr hsoon)),
      fun hdue => congrArg Host.Outcome.next (if_pos ⟨hup, hlive, hdue⟩),
      fun hsoon => congrArg Host.Outcome.next (if_neg fun hgo => absurd hgo.2.2 (Nat.not_le.mpr hsoon)), fun g sentAt n h => ?retransmit⟩
    case retransmit =>
      intro hops due
      refine ⟨exec_retransmitTimeout_early h, exec_retransmitTimeout_dead h hup hlive, fun l a b c hdue hlimit hroute => ?_⟩
      intro u
      rw [exec_retransmitTimeout_again h hup hlive hdue hlimit hroute, State.retxCounted_now]
      rfl
  case ack =>
    rw [exec_delivered (i := .ackReceive f map) h rfl]
    simp only [hof]
  case leave =>
    refine ⟨exec_leaveDepartureReceive h hof, fun hheld => ?_, fun hpins hwaits => ?_⟩
    · rw [exec_leaveEvictionReceive h hof, if_pos hheld]
    · rw [exec_leaveEvictionReceive h hof, if_neg]
      rintro (hne | hwait)
      · exact hne hpins
      · exact Bool.false_ne_true (hwaits.symm.trans hwait)
end

section
/-! Joins: the handshake, its retries and its timeout, and PARTNER_CMD (R370 to R372, R392): obligation O58. -/

namespace Sys2Proof.Machine

/-! ## The end of the handshake (R371, R372) -/

section
variable {s : State} {i : Nat} {node : NodeId}

theorem State.partner_raise (s : State) (i code : Nat) (n : NodeId) (d0 d1 : Nat) (m : Option Nat) (o : Nat) :
    (s.raise code n d0 d1 m o).partner i = s.partner i := by
  obtain ⟨q, hq⟩ := (Still.raise s code n d0 d1 m o).fab
  rw [State.partner, State.partner, hq]

theorem State.sharedKeys_of_lore {t : State} (h : t.lore = s.lore) (n : NodeId) : t.sharedKeys n = s.sharedKeys n := by
  unfold State.sharedKeys State.keyOf State.deed
  rw [h]

theorem State.reconnect_none (h : s.sharedKeys node = []) : s.reconnect node = s := by rw [State.reconnect, h, List.foldl_nil]

/-- A node that shares one deed is asked about it where that deed is `HOME` here. -/
theorem State.reconnect_one {k : DeedKey} {r : DRef} (hkeys : s.sharedKeys node = [k]) (hfind : s.findDeed k = some r) : s.reconnect node =
    if (s.deed r).state ≠ .home then s
    else s.sendDeed node (.query { key := k, epoch := (s.deed r).epoch, query := 0, homeAtSender := some (s.deed r).epoch }) := by
  rw [State.reconnect, hkeys, List.foldl_cons, List.foldl_nil]
  simp only [hfind]

/-- What a partner's entry becomes as it turns `LIVE`. -/
def Partner.joined (p : Partner) (now : Nat) : Partner :=
  { p with state := .live, attest := 1, txNext := 1, rxNext := 1, rxSeen := [], unacked := [], joinBeat := now, heard := now, sent := now, leaving := false, evicting := false, evictRefused := false }

theorem State.partner_becomeLive (h : s.sharedKeys (s.partner i).node = []) : (s.becomeLive i).partner i = (s.partner i).joined s.now := by
  have hkeys : ((s.clearRefusals.setPartner i ((s.partner i).joined s.now)).raise Ev.partnerJoined (s.partner i).node).sharedKeys (s.partner i).node = [] :=
    (State.sharedKeys_of_lore (State.raise_lore _ _ _ _ _ _ _) _).trans h
  rw [show s.becomeLive i = ((s.clearRefusals.setPartner i ((s.partner i).joined s.now)).raise Ev.partnerJoined (s.partner i).node).reconnect (s.partner i).node from rfl,
    State.reconnect_none hkeys, State.partner_raise, State.partner_setPartner_self]

theorem State.verified_live (h : bit (s.regN Reg.FAB_CTRL) 0 = false) : s.verified i = s.becomeLive i := if_neg (ne_true_of_eq_false h)

theorem State.verified_held (h : bit (s.regN Reg.FAB_CTRL) 0 = true) : (s.verified i).partner i = { s.partner i with attest := 2 } := by
  rw [State.verified, if_pos h, State.partner_raise, State.partner_setPartner_self]

/-! ## Entries -/

theorem State.startJoin_evicting (h : s.evictingFor node = true) : s.startJoin node = s := if_pos (.inr (.inr (.inr (.inr h))))

theorem State.entryFor_evicting (hof : s.partnerOf node = none) (h : s.evictingFor node = true) (b : Bool) : s.entryFor node b = (none, s) := by
  rw [State.entryFor, hof]
  exact if_pos h

end

/-! ## The steps of the handshake -/

section
variable {s t : State} {f : Frame} {i : Nat} {nonce : Digest} {q : JoinProof} (h : Delivered s f .join t)
include h

theorem exec_joinNonceReceive_entry {u : State} (hof : t.partnerOf f.src = none) (hentry : t.entryFor f.src false = (some i, u)) :
    exec (.joinNonceReceive f nonce) s = .next ((u.respond i f.src nonce).acked f) := by
  rw [exec_delivered (i := .joinNonceReceive f nonce) h rfl]
  simp only [hof, hentry]

theorem exec_joinNonceReceive_full {u : State} (hof : t.partnerOf f.src = none) (hentry : t.entryFor f.src false = (none, u)) :
    exec (.joinNonceReceive f nonce) s = .next (u.acked f) := by
  rw [exec_delivered (i := .joinNonceReceive f nonce) h rfl]
  simp only [hof, hentry]

variable (hof : t.partnerOf f.src = some i)
include hof

theorem exec_joinNonceReceive_live (hlive : (t.partner i).state = .live) : exec (.joinNonceReceive f nonce) s = .next (t.acked f) := by
  rw [exec_delivered (i := .joinNonceReceive f nonce) h rfl]
  simp only [hof, hlive]

theorem exec_joinNonceReceive_both (hst : (t.partner i).state = .joining) (hinit : (t.partner i).initiator = true) :
    exec (.joinNonceReceive f nonce) s = .next ((if t.me < f.src then t else t.respond i f.src nonce).acked f) := by
  rw [exec_delivered (i := .joinNonceReceive f nonce) h rfl]
  simp only [hof, hst, hinit, if_true]

section
variable (hst : (t.partner i).state = .joining) (hattest : (t.partner i).attest ≠ 2)
include hst hattest

theorem exec_joinProofReceive (hinit : (t.partner i).initiator = true) : exec (.joinProofReceive f q) s = .next (State.acked
    (if (!q.chainOk) = true ∨ (!q.sigOk) = true then (t.joinEnds i Ev.partnerRefused).sendResult f.src false
    else
      let y := { t.partner i with nonce := q.nonce, digest := q.digest, joinStep := 3, joinSent := t.now }
      (t.setPartner i y).sendProof y) f) := by
  have hgo : ¬ ((t.partner i).state ≠ .joining ∨ (!(t.partner i).initiator) = true ∨ (t.partner i).attest = 2) := by
    rw [hst, hinit]
    simpa using hattest
  rw [exec_delivered (i := .joinProofReceive f q) h rfl]
  simp only [hof]
  rw [if_neg hgo]

theorem exec_joinResultReceive_accepted (hinit : (t.partner i).initiator = true) (hstep : (t.partner i).joinStep = 3) :
    exec (.joinResultReceive f true) s = .next (((t.setPartner i { t.partner i with joinStep := 4 }).verified i).acked f) := by
  rw [exec_delivered (i := .joinResultReceive f true) h rfl]
  simp only [hof]
  rw [if_neg (not_not_intro hst), if_neg (by decide), if_pos ⟨hinit, hstep, hattest⟩]

omit hattest in
theorem exec_joinResultReceive_refused : exec (.joinResultReceive f false) s = .next ((t.joinEnds i Ev.partnerRefused).acked f) := by
  rw [exec_delivered (i := .joinResultReceive f false) h rfl]
  simp only [hof]
  rw [if_neg (not_not_intro hst)]
  rfl

/-- A partner that is `LIVE` now is told so. -/
def State.answersLive (s : State) (i : Nat) (n : NodeId) : State := if (s.partner i).state = .live then s.sendResult n true else s

/-- The responder judges the initiator's proof. -/
theorem exec_joinInitiatorProofReceive (hinit : (t.partner i).initiator = false) : exec (.joinInitiatorProofReceive f q) s = .next (State.acked
    (if (!q.chainOk) = true ∨ (!q.sigOk) = true then (t.joinEnds i Ev.partnerRefused).sendResult f.src false
    else ((t.setPartner i { t.partner i with digest := q.digest, joinStep := 4 }).verified i).answersLive i f.src) f) := by
  have hgo : ¬ ((t.partner i).initiator = true ∨ (t.partner i).attest = 2) := by
    rw [hinit]
    simpa using hattest
  rw [exec_delivered (i := .joinInitiatorProofReceive f q) h rfl]
  simp only [hof]
  rw [if_neg hgo]
  simp only [hst]
  rfl

end

end

/-! ## Retries, timeouts and PARTNER_CMD -/

section
variable {s : State} {i : Nat} (hup : s.cdUp = true) (hst : (s.partner i).state = .joining)
include hup hst

theorem exec_joinTimeout_due (hdue : (s.partner i).joinStart + bits (s.regN Reg.JOIN_TIMEOUT) 23 0 ≤ s.now) :
    exec (.joinTimeout i) s = .next (s.joinEnds i Ev.partnerJoinFailed) :=
  congrArg Host.Outcome.next ((if_neg (not_or.mpr ⟨by rw [hup]; decide, Nat.not_lt.mpr hdue⟩)).trans (if_pos hst))

/-- The step a join stands at, sent again. -/
theorem exec_joinRetry_due (hdue : (s.partner i).joinSent + 64 ≤ s.now) : exec (.joinRetry i) s = .next (
    let u := s.setPartner i { s.partner i with joinSent := s.now }
    if (s.partner i).joinStep = 1 then u.sendNonce (s.partner i).node (s.partner i).myNonce
    else if (s.partner i).joinStep = 2 ∨ (s.partner i).joinStep = 3 then u.sendProof (s.partner i)
    else u) :=
  congrArg Host.Outcome.next (if_neg (not_or.mpr ⟨by rw [hup]; decide, not_or.mpr ⟨not_not_intro hst, Nat.not_lt.mpr hdue⟩⟩))

variable (hattest : (s.partner i).attest = 2)
include hattest

theorem State.not_idle_join : ¬ ((!s.cdUp) = true ∨ (s.partner i).state ≠ .joining ∨ (s.partner i).attest ≠ 2) :=
  not_or.mpr ⟨by rw [hup]; decide, not_or.mpr ⟨not_not_intro hst, not_not_intro hattest⟩⟩

theorem exec_partnerCmdApprove : exec (.partnerCmdApprove i) s = .next (
    if (s.partner i).initiator then s.becomeLive i else (s.becomeLive i).sendResult (s.partner i).node true) :=
  congrArg Host.Outcome.next (if_neg (State.not_idle_join hup hst hattest))

theorem exec_partnerCmdRefuse : exec (.partnerCmdRefuse i) s = .next ((s.joinEnds i Ev.partnerRefused).sendResult (s.partner i).node false) :=
  congrArg Host.Outcome.next (if_neg (State.not_idle_join hup hst hattest))

end

end Sys2Proof.Machine

open Sys2Proof Sys2Proof.Machine

/-- Settles O58: it holds. -/
theorem joins : Obligations.Joins := by
  unfold Obligations.Joins
  intro s t f i nonce q node
  refine ⟨fun hup => ?start, fun h => ?steps, fun hup => ?later, fun p _ hkeys => ?live, fun k r hkeys hfind => ?shared, State.startJoin_evicting,
    fun b hof h => State.entryFor_evicting hof h b⟩
  case start =>
    exact ⟨congrArg Host.Outcome.next (if_pos hup), fun hvalid => congrArg Host.Outcome.next (if_pos ⟨hup, hvalid⟩),
      fun hvalid => congrArg Host.Outcome.next (if_neg fun hgo => Bool.false_ne_true (hvalid.symm.trans hgo.2))⟩
  case steps =>
    refine ⟨fun u hof hentry => exec_joinNonceReceive_entry h hof hentry, fun u hof hentry => exec_joinNonceReceive_full h hof hentry, fun hof => ?_⟩
    intro x
    refine ⟨fun hst hinit hlow => ?_, fun hst hinit hhigh => ?_, fun hlive => exec_joinNonceReceive_live h hof hlive, fun hst hinit hattest => ?initiator,
      fun hst hinit hattest => ?responder⟩
    · rw [exec_joinNonceReceive_both h hof hst hinit, if_neg (BitVec.not_lt.mpr (BitVec.le_of_lt hlow))]
    · rw [exec_joinNonceReceive_both h hof hst hinit, if_pos hhigh]
    case initiator =>
      have hproof := exec_joinProofReceive (q := q) h hof hst hattest hinit
      refine ⟨fun hbad => ?_, fun hchain hsig => ?_, fun hstep => exec_joinResultReceive_accepted h hof hst hattest hinit hstep, exec_joinResultReceive_refused h hof hst⟩
      · rw [hproof, if_pos (hbad.imp (Bool.not_eq_true' _).mpr (Bool.not_eq_true' _).mpr)]
      · intro y
        rw [hproof, if_neg (by rw [hchain, hsig]; decide)]
    case responder =>
      have hproof := exec_joinInitiatorProofReceive (q := q) h hof hst hattest hinit
      refine ⟨fun hbad => ?_, fun hchain hsig => ?_⟩
      · rw [hproof, if_pos (hbad.imp (Bool.not_eq_true' _).mpr (Bool.not_eq_true' _).mpr)]
      · have hno : ¬ ((!q.chainOk) = true ∨ (!q.sigOk) = true) := by rw [hchain, hsig]; decide
        rw [hproof, if_neg hno]
        intro u
        refine ⟨fun hpolicy hlive => ?_, fun hpolicy => ?_⟩
        · rw [State.verified_live hpolicy, State.answersLive, if_pos hlive]
        · have hheld := State.verified_held (s := u) (i := i) hpolicy
          have hstate : ((u.verified i).partner i).state = .joining := by
            rw [hheld]
            exact (congrArg Partner.state (State.partner_setPartner_self _ _ _)).trans hst
          refine ⟨u.verified i, congrArg (fun v : State => Host.Outcome.next (v.acked f)) (if_neg ?_), hstate, by rw [hheld]⟩
          rw [hstate]
          decide
  case later =>
    intro p till
    refine ⟨fun hsoon => congrArg Host.Outcome.next (if_pos (.inr hsoon)), fun hst => ?_, fun hgone hpins => congrArg Host.Outcome.next (if_pos ⟨hup, hgone, hpins⟩),
      fun hpins => congrArg Host.Outcome.next (if_neg fun hgo => hpins hgo.2.2)⟩
    refine ⟨exec_joinTimeout_due hup hst, fun hsoon => congrArg Host.Outcome.next (if_pos (.inr (.inr hsoon))), fun hdue => ?_, fun hattest => ⟨fun hinit => ?_, fun hinit => ?_,
      exec_partnerCmdRefuse hup hst hattest⟩⟩
    · intro u
      have hretry := exec_joinRetry_due hup hst hdue
      refine ⟨fun hstep => hretry.trans (congrArg Host.Outcome.next (if_pos hstep)), fun hstep => hretry.trans (congrArg Host.Outcome.next ((if_neg ?_).trans (if_pos hstep)))⟩
      show p.joinStep ≠ 1
      omega
    · rw [exec_partnerCmdApprove hup hst hattest, if_pos hinit]
    · rw [exec_partnerCmdApprove hup hst hattest, if_neg (ne_true_of_eq_false hinit)]
  case live =>
    have hself := State.partner_setPartner_self s i { p with node := node }
    rw [State.partner_becomeLive, hself]
    · rfl
    · rw [hself]
      exact hkeys
  case shared =>
    exact ⟨fun hhome => (State.reconnect_one hkeys hfind).trans (if_neg (not_not_intro hhome)), fun hhome => (State.reconnect_one hkeys hfind).trans (if_pos hhome)⟩
end

section
/-! Register writes and reads, lamp reads and the snapshot selectors (R3, R4, R115, R185, R186, R534 to R540, R554): obligation O59. -/

namespace Sys2Proof.Machine

/-! ## Where a register lies -/

theorem unalias_self {off : Nat} (h : off < 0xD0000 ∨ 0xD0213 < off) : unalias off = off := if_neg (by omega)

/-- No register lies in the lamps' windows. -/
theorem regTable_off_lamps : regTable.all (fun r => decide (r.off + r.count * r.stride ≤ 0xFFFFC ∨ 0x1E0000 ≤ r.off)) = true := by decide +kernel

theorem findReg_lamps {off : Nat} (hlo : 0xFFFFC ≤ off) (hhi : off < 0x1E0000) : findReg off = none := by
  refine List.find?_eq_none.mpr fun r hr hindex => ?_
  have hoff := of_decide_eq_true (List.all_eq_true.mp regTable_off_lamps r hr)
  unfold RegSpec.index at hindex
  split at hindex
  · omega
  · nomatch hindex

theorem ownerOf_lamps {off : Nat} (hlo : 0x100000 ≤ off) (hhi : off < 0x1E0000) : ownerOf off = none := by
  rw [ownerOf, findReg_lamps (by omega) hhi]
  simp only [findReg_lamps (off := off - 4) (by omega) (by omega)]
  exact ite_self _

/-! ## Writes (R4, R535, R537) -/

section
variable {s : State} {off size : Nat} {v : BitVec 64} {r : RegSpec}

/-- An offset of an answering block outside the windows. -/
structure State.Answers (s : State) (off : Nat) : Prop where
  up : cdBlock off = false ∨ s.cdUp = true
  own : off < 0xD0000 ∨ 0xD0213 < off
  lamps : off < 0x100000 ∨ 0x1E0000 ≤ off
  msix : off < 0x300000 ∨ 0x301000 ≤ off
  aligned : off % 4 = 0

section
variable (h : s.Answers off)
include h

theorem State.Answers.not_blocked : ¬ (cdBlock off = true ∧ (!s.cdUp) = true) := by
  rintro ⟨hblock, hdown⟩
  rcases h.up with hup | hup
  · exact Bool.false_ne_true (hup.symm.trans hblock)
  · rw [hup] at hdown
    nomatch hdown

theorem State.Answers.reachable : (!(cdBlock off && !s.cdUp)) = true := by
  rcases h.up with hup | hup
  · rw [hup]
    rfl
  · rw [hup, Bool.not_true, Bool.and_false]
    rfl

theorem exec_regWrite_register : exec (.regWrite off size v) s = .next (s.registerWrite off size v) := by
  have hlamps := h.lamps
  have hmsix := h.msix
  rw [show exec (.regWrite off size v) s = execRegWrite off size v s from rfl, execRegWrite, unalias_self h.own]
  exact congrArg Host.Outcome.next ((if_neg h.not_blocked).trans ((if_neg (by omega)).trans (if_neg (by omega))))

theorem State.registerWrite_none (hown : ownerOf off = none) : s.registerWrite off size v = s := by
  rw [State.registerWrite, Nat.div_mul_cancel (Nat.dvd_of_mod_eq_zero h.aligned), hown]

theorem State.registerWrite_owner {o : Nat} {high : Bool} (hown : ownerOf off = some (r, o, high)) : s.registerWrite off size v =
    if r.width = 32 then (if size = 4 ∧ off % 4 = 0 then s.wholeWrite r o (v.toNat % 2 ^ 32) else s.configReject off v.toNat)
    else if size = 8 ∧ off = o then (s.setHalf o none).wholeWrite r o v.toNat
    else if size = 4 ∧ off % 4 = 0 then s.halfWrite r o high (v.toNat % 2 ^ 32)
    else s.configReject off v.toNat := by
  rw [State.registerWrite, Nat.div_mul_cancel (Nat.dvd_of_mod_eq_zero h.aligned), hown]

theorem exec_regWrite_half {o : Nat} {high : Bool} (hown : ownerOf off = some (r, o, high)) (hwidth : r.width = 64) (hsize : size = 4) :
    exec (.regWrite off size v) s = .next (s.halfWrite r o high (v.toNat % 2 ^ 32)) := by
  rw [exec_regWrite_register h, State.registerWrite_owner h hown, if_neg (by omega), if_neg (by omega), if_pos ⟨hsize, h.aligned⟩]

theorem exec_regWrite_narrow {o : Nat} {high : Bool} (hown : ownerOf off = some (r, o, high)) (hwidth : r.width = 32) (hsize : size = 4) :
    exec (.regWrite off size v) s = .next (s.wholeWrite r o (v.toNat % 2 ^ 32)) := by
  rw [exec_regWrite_register h, State.registerWrite_owner h hown, if_pos hwidth, if_pos ⟨hsize, h.aligned⟩]

end

theorem State.halfWrite_low {v : Nat} (hacc : r.acc = .rw) (o : Nat) : s.halfWrite r o false v = s.setHalf o (some v) := by
  unfold State.halfWrite
  simp only [hacc]

theorem State.halfWrite_high {v k o : Nat} (hacc : r.acc = .rw) (hhalf : s.sys.halves.find o = some k) :
    s.halfWrite r o true v = (s.setHalf o none).wholeWrite r o (v * 2 ^ 32 + k) := by
  unfold State.halfWrite
  simp only [hacc, hhalf, Option.getD_some]

/-- A register whose value nothing waits for and no condition guards is stored as its fields take it. -/
theorem State.writeReg_plain {v : Nat} (hreg : findReg off = some r) (hacc : r.acc = .rw) (hup : lengthens off 0 1 = false) (hdown : lengthens off 1 0 = false)
    (hmarks : off ≠ Reg.FLASH_GC_MARKS) (hslots : off ≠ Reg.RESUME_SLOTS) (hevent : off ≠ Reg.EVENT_CTRL) (hbreach : off ≠ Reg.BREACH_CTRL)
    (hring : off ≠ Reg.EVENT_RING_BASE) (hpending : s.io.pendingWrites = []) (hshare : s.fab.shareNext = []) (hok : s.writable off (r.write (s.regN off) v).1 = true) :
    s.writeReg off v = if (r.write (s.regN off) v).2 then (s.setRegN off (r.write (s.regN off) v).1).configReject off v else s.setRegN off (r.write (s.regN off) v).1 := by
  have hold : (if atRefill off then ((s.fab.shareNext.find? (fun e => e.1 == off)).map (·.2)).getD (s.regN off) else s.regN off) = s.regN off := by
    rw [hshare]
    exact ite_self _
  have hstore : ∀ new, s.store off (s.regN off) new = s.setRegN off new := by
    intro new
    rw [State.store, if_neg (by rw [hup, hdown]; simpa using hslots)]
    exact (if_neg fun h => hevent h.1).trans ((if_neg fun h => hbreach h.1).trans (if_neg fun h => hring h.1))
  have hasked : ∀ old, r.asked off old v = r.write old v := fun old => if_neg hmarks
  rw [State.writeReg, hreg]
  simp only [hacc, hpending, List.find?_nil, Option.map_none, Option.getD_none, hold, hasked, hok, hstore]
  rfl

/-! ## Reads (R535, R536) -/

section
variable (h : s.Answers off)
include h

theorem State.read4_owner {o : Nat} {high : Bool} (hown : ownerOf off = some (r, o, high)) :
    s.read4 off = if high then s.regValue o / 2 ^ 32 else s.regValue o % 2 ^ 32 := by
  rw [State.read4, unalias_self h.own]
  refine (if_neg ?_).trans ?_
  · exact not_or.mpr ⟨not_not_intro h.aligned, h.not_blocked⟩
  · simp only [hown]

theorem exec_regLowHalfRead_wide (hown : ownerOf off = some (r, off, false)) (hwidth : r.width = 64) : exec (.regLowHalfRead off) s =
    .next ((s.emit (.regRead off (BitVec.ofNat 64 (s.regValue off % 2 ^ 32)))).mapSys (fun y => { y with latch := some (off, s.regValue off / 2 ^ 32) })) := by
  rw [show exec (.regLowHalfRead off) s = execRegLowHalfRead off s from rfl, execRegLowHalfRead, unalias_self h.own]
  simp only [State.read4_owner h hown, hown, Bool.false_eq_true, if_false]
  exact congrArg Host.Outcome.next (if_pos ⟨hwidth, h.aligned, h.reachable⟩)

theorem exec_regLowHalfRead_narrow (hown : ownerOf off = some (r, off, false)) (hwidth : r.width = 32) : exec (.regLowHalfRead off) s =
    .next (s.emit (.regRead off (BitVec.ofNat 64 (s.regValue off % 2 ^ 32)))) := by
  rw [show exec (.regLowHalfRead off) s = execRegLowHalfRead off s from rfl, execRegLowHalfRead, unalias_self h.own]
  simp only [State.read4_owner h hown, hown, Bool.false_eq_true, if_false]
  exact congrArg Host.Outcome.next (if_neg fun hgo => absurd (hwidth.symm.trans hgo.1) (by decide))

section
variable {o : Nat} (hown : ownerOf off = some (r, o, true))
include hown

theorem exec_regHighHalfRead_latched {v : Nat} (hlatch : s.sys.latch = some (o, v)) :
    exec (.regHighHalfRead off) s = .next ((s.mapSys (fun y => { y with latch := none })).emit (.regRead off (BitVec.ofNat 64 v))) := by
  rw [show exec (.regHighHalfRead off) s = execRegHighHalfRead off s from rfl, execRegHighHalfRead, unalias_self h.own]
  simp only [hown, hlatch]
  exact congrArg Host.Outcome.next (if_pos ⟨trivial, h.reachable⟩)

theorem exec_regHighHalfRead_live (hlatch : ∀ v, s.sys.latch ≠ some (o, v)) :
    exec (.regHighHalfRead off) s = .next (s.emit (.regRead off (BitVec.ofNat 64 (s.read4 off)))) := by
  rw [show exec (.regHighHalfRead off) s = execRegHighHalfRead off s from rfl, execRegHighHalfRead, unalias_self h.own]
  simp only [hown]
  cases hl : s.sys.latch with
  | none => rfl
  | some e => exact congrArg Host.Outcome.next (if_neg fun hgo => hlatch e.2 (hl.trans (by rw [← hgo.1])))

end

end

/-! ### Lamps through their views (R115) -/

section
variable {view lamp high : Nat} (hview : view < 4) (hlamp : lamp < 16384) (hhigh : high < 2)
include hview hlamp hhigh

theorem State.windowWord_lamp : s.windowWord (0x100000 + 0x40000 * view + 8 * lamp + 4 * high) = (s.lamp lamp).toNat / 2 ^ (32 * high) % 2 ^ 32 := by
  have hin : (0x100000 + 0x40000 * view + 8 * lamp + 4 * high) % 0x40000 = 8 * lamp + 4 * high := by omega
  have hindex : (8 * lamp + 4 * high) / 8 = lamp := by omega
  have hhalf : 8 * ((0x100000 + 0x40000 * view + 8 * lamp + 4 * high) % 8) = 32 * high := by omega
  rw [State.windowWord, if_neg (by omega), if_pos (by omega), hin, hindex, hhalf]

theorem exec_regLowHalfRead_lamp (hup : s.cdUp = true) : exec (.regLowHalfRead (0x100000 + 0x40000 * view + 8 * lamp + 4 * high)) s =
    .next (s.emit (.regRead (0x100000 + 0x40000 * view + 8 * lamp + 4 * high) (BitVec.ofNat 64 ((s.lamp lamp).toNat / 2 ^ (32 * high) % 2 ^ 32)))) := by
  have hself := unalias_self (off := 0x100000 + 0x40000 * view + 8 * lamp + 4 * high) (by omega)
  have hown := ownerOf_lamps (off := 0x100000 + 0x40000 * view + 8 * lamp + 4 * high) (by omega) (by omega)
  have hread : s.read4 (0x100000 + 0x40000 * view + 8 * lamp + 4 * high) = (s.lamp lamp).toNat / 2 ^ (32 * high) % 2 ^ 32 := by
    rw [State.read4, hself]
    refine (if_neg ?_).trans ?_
    · rintro (hodd | hdown)
      · omega
      · rw [hup] at hdown
        nomatch hdown.2
    · rw [hown]
      exact State.windowWord_lamp hview hlamp hhigh
  rw [show exec (.regLowHalfRead _) s = execRegLowHalfRead _ s from rfl, execRegLowHalfRead, hself]
  simp only [hread, hown]

end

end

/-! ## Snapshots (R185, R186, R206, R383, R392, R433, R554) -/

section
variable {s : State} (hup : s.cdUp = true)
include hup

theorem State.not_down : ¬ (!s.cdUp) = true := by rw [hup]; decide

section
variable {v : BitVec 32}

theorem exec_partnerSel : exec (.partnerSel v) s = .next (s.whileFree Reg.PARTNER_SEL v.toNat (fun s =>
    (s.setRegN Reg.PARTNER_SEL (v.toNat % 2 ^ 12)).mapFab (fun f => { f with partnerSnap := s.partnerBytes (v.toNat % 2 ^ 12) }))) := by
  refine congrArg Host.Outcome.next ((if_neg (State.not_down hup)).trans ?_)
  simp only [show bits v.toNat 11 0 = v.toNat % 2 ^ 12 from congrArg (· % 2 ^ 12) (Nat.div_one _)]

theorem exec_winSel : exec (.winSel v) s = .next (s.whileFree Reg.WIN_SEL v.toNat (fun s =>
    (s.setRegN Reg.WIN_SEL (v.toNat % 2 ^ 12)).mapFab (fun f => { f with winSnap :=
      ((s.window (v.toNat % 2 ^ 12)).state * 65536 + (s.window (v.toNat % 2 ^ 12)).generation, (s.window (v.toNat % 2 ^ 12)).staging.length, (s.window (v.toNat % 2 ^ 12)).root) }))) := by
  refine congrArg Host.Outcome.next ((if_neg (State.not_down hup)).trans ?_)
  simp only [show bits v.toNat 11 0 = v.toNat % 2 ^ 12 from congrArg (· % 2 ^ 12) (Nat.div_one _)]

/-- What FIELD_SEL takes of a member. -/
def State.fieldSelected (s : State) (m rank : Nat) : State :=
  let f := s.field m
  let s := s.setRegN Reg.FIELD_SEL (4096 * m + rank)
  match f.members[rank]? with
  | none => s.mapFab (fun g => { g with fieldSnap := (0, 0, 0) })
  | some e =>
    let h := if f.root = s.me then ((f.health.find? (·.1 == e.node)).map (·.2)).getD 1000 else 0
    let late := if f.root = s.me then ((f.late.find? (·.1 == e.node)).map (·.2)).getD 0 else 0
    s.mapFab (fun g => { g with fieldSnap := (e.node.toNat, 2 ^ 30 * s.memberCode f e.node h + 65536 * h + e.weight, min late 65535) })

omit hup in
theorem State.fieldSelected_none {m rank : Nat} (h : (s.field m).members.length ≤ rank) :
    s.fieldSelected m rank = (s.setRegN Reg.FIELD_SEL (4096 * m + rank)).mapFab (fun g => { g with fieldSnap := (0, 0, 0) }) := by
  simp only [State.fieldSelected, List.getElem?_eq_none h]

omit hup in
theorem State.fieldSelected_member {m rank : Nat} {e : FieldMember} (h : (s.field m).members[rank]? = some e)
    (hroot : (s.field m).root ≠ (s.setRegN Reg.FIELD_SEL (4096 * m + rank)).me) : s.fieldSelected m rank =
      (s.setRegN Reg.FIELD_SEL (4096 * m + rank)).mapFab (fun g => { g with fieldSnap :=
        (e.node.toNat, 2 ^ 30 * (s.setRegN Reg.FIELD_SEL (4096 * m + rank)).memberCode (s.field m) e.node 0 + e.weight, 0) }) := by
  simp only [State.fieldSelected, h, if_neg hroot, Nat.mul_zero, Nat.add_zero, Nat.zero_min]

theorem exec_fieldSel : exec (.fieldSel v) s = .next (s.whileFree Reg.FIELD_SEL v.toNat (fun s => s.fieldSelected (v.toNat / 2 ^ 12 % 8) (v.toNat % 2 ^ 9))) := by
  refine congrArg Host.Outcome.next ((if_neg (State.not_down hup)).trans ?_)
  simp only [show bits v.toNat 8 0 = v.toNat % 2 ^ 9 from congrArg (· % 2 ^ 9) (Nat.div_one _), show bits v.toNat 14 12 = v.toNat / 2 ^ 12 % 8 from rfl]
  rfl

/-- What PEEK_SEL takes: a lantern's bytes or a request's; a reserved request index stays as it was. -/
def State.peeked (s : State) (kind : Bool) (i : Nat) (refused : Option Nat) : State :=
  let t := (s.setRegN Reg.PEEK_SEL (2 ^ 22 * b2n kind + i)).mapLore (fun l => { l with peek := if kind then s.requestBytes i else s.lanternBytes i })
  match refused with
  | some v => t.configReject Reg.PEEK_SEL v
  | none => t

theorem exec_peekSel : exec (.peekSel v) s = .next (s.whileFree Reg.PEEK_SEL v.toNat (fun s =>
    if v.getLsbD 22 && decide (262144 ≤ v.toNat % 2 ^ 22) then s.peeked (v.getLsbD 22) (s.regN Reg.PEEK_SEL % 2 ^ 22) (some v.toNat)
    else s.peeked (v.getLsbD 22) (v.toNat % 2 ^ 22) none)) := by
  refine congrArg Host.Outcome.next ((if_neg (State.not_down hup)).trans (congrArg (s.whileFree _ _) (funext fun u => ?_)))
  simp only [bit_toNat, show bits v.toNat 21 0 = v.toNat % 2 ^ 22 from congrArg (· % 2 ^ 22) (Nat.div_one _),
    show bits (u.regN Reg.PEEK_SEL) 21 0 = u.regN Reg.PEEK_SEL % 2 ^ 22 from congrArg (· % 2 ^ 22) (Nat.div_one _)]
  split <;> rfl

theorem exec_scSnap_free (h : s.busy Reg.SC_SNAP = false) : exec .scSnap s = .next (s.markBusy Reg.SC_SNAP) := by
  refine congrArg Host.Outcome.next ((if_neg ?_).trans (State.whileFree_free h _ _))
  exact not_or.mpr ⟨State.not_down hup, ne_true_of_eq_false h⟩

end

/-- The first hosted entry of the keeper in HOSTED_KEEPER with the lantern and the deed written. -/
def State.hostedHit (s : State) (d : BitVec 64) : Option (Nat × Deed) :=
  let l := if d.getLsbD 63 = true then 0xFFFFFFFF else d.toNat / 2 ^ 10 % 2 ^ 22
  s.lore.hosted.find? (fun e => e.2.keeper == s.reg Reg.HOSTED_KEEPER && e.2.keeperLantern == l && e.2.deed == d.toNat % 2 ^ 10)

theorem exec_hostedFind {d : BitVec 64} : exec (.hostedFind d) s = .next (s.whileFree Reg.HOSTED_FIND d.toNat (fun s =>
    (s.setRegN Reg.HOSTED_FIND (d.toNat / 2 ^ 63 * 2 ^ 63 + d.toNat % 2 ^ 32)).mapLore
      (fun y => { y with hostedFind := ((s.hostedHit d).map (fun e => 2 ^ 30 + e.1)).getD 0 }))) := by
  refine congrArg Host.Outcome.next ((if_neg (State.not_down hup)).trans ?_)
  simp only [show bits d.toNat 9 0 = d.toNat % 2 ^ 10 from congrArg (· % 2 ^ 10) (Nat.div_one _), show bits d.toNat 31 10 = d.toNat / 2 ^ 10 % 2 ^ 22 from rfl]
  rfl

omit hup in
theorem State.endBusy_latches (h : s.busy Reg.SC_SNAP = true) :
    s.endBusy.lore = { s.lore with scTileSnap := s.lore.scTile, scLinkSnap := s.lore.scLink } ∧ s.endBusy.sys.busy = [] := by
  rw [State.endBusy, if_pos h]
  exact ⟨rfl, rfl⟩

end

end Sys2Proof.Machine

open Sys2Proof Sys2Proof.Machine

/-- Settles O59: it holds. -/
theorem registersAndSnapshots : Obligations.RegistersAndSnapshots := by
  unfold Obligations.RegistersAndSnapshots
  refine ⟨?registers, ?snapshots⟩
  case registers =>
    intro s off size v r hup hown hlamps hmsix haligned
    have h : s.Answers off := ⟨hup, hown, hlamps, hmsix, haligned⟩
    refine ⟨fun howner hwidth => ⟨fun hsize => ?_, fun hsize hacc => ?_, ?plain⟩, fun hnone => ?_, fun o howner hwidth hacc hsize ho => ?_,
      fun o k howner hwidth hacc hsize hhalf _ => ?_, exec_regLowHalfRead_wide h, fun o k howner => ⟨exec_regHighHalfRead_latched h howner, exec_regHighHalfRead_live h howner⟩,
      exec_regLowHalfRead_narrow h, fun view lamp high hview hlamp hhigh hcd => exec_regLowHalfRead_lamp hview hlamp hhigh hcd⟩
    · rw [exec_regWrite_register h, State.registerWrite_owner h howner, if_pos hwidth, if_neg fun hgo => hsize hgo.1]
    · rw [exec_regWrite_narrow h howner hwidth hsize, State.wholeWrite, hacc]
    case plain =>
      intro hsize hacc hrow hreg hlonger hshorter hmarks hslots hevent hbreach hring hpending hshare hok new
      have hwrite := State.writeReg_plain hreg hacc hlonger hshorter hmarks hslots hevent hbreach hring hpending hshare hok
      have hexec : exec (.regWrite off size v) s = .next (s.writeReg off (v.toNat % 2 ^ 32)) := by
        rw [exec_regWrite_narrow h howner hwidth hsize, State.wholeWrite, hacc]
        simp only [State.writeAny, hrow, Option.getD_none]
      rw [hexec, hwrite]
      exact ⟨fun hgood => by rw [if_neg (ne_true_of_eq_false hgood)], fun hbad => by rw [if_pos hbad]⟩
    · rw [exec_regWrite_register h, State.registerWrite_none h hnone]
    · rw [exec_regWrite_half h howner hwidth hsize, State.halfWrite_low hacc, ho]
    · rw [exec_regWrite_half h howner hwidth hsize, State.halfWrite_high hacc hhalf]
  case snapshots =>
    intro s v d hup held
    have hsel : ∀ {off : Nat} {v : Nat} {go : State → State}, s.busy off = false → s.whileFree off v go = held off (go s) := fun hbusy => State.whileFree_free hbusy _ _
    refine ⟨?select, fun hbusy => ?_, fun hbusy => ?_, fun hbusy => ?_, fun hbusy => ?_, fun hbusy => ?_, fun hbusy => ?field, fun hbusy => ?peek, fun hbusy => ?hosted,
      exec_scSnap_free hup, fun hbusy => congrArg Host.Outcome.next (if_pos (.inr hbusy)), State.endBusy_latches⟩
    case select =>
      intro i
      exact ⟨fun hbusy => (exec_partnerSel hup).trans (congrArg Host.Outcome.next (hsel hbusy)), fun hbusy => (exec_winSel hup).trans (congrArg Host.Outcome.next (hsel hbusy))⟩
    · rw [exec_partnerSel hup, State.whileFree_busy hbusy]
    · rw [exec_winSel hup, State.whileFree_busy hbusy]
    · rw [exec_fieldSel hup, State.whileFree_busy hbusy]
    · rw [exec_peekSel hup, State.whileFree_busy hbusy]
    · rw [exec_hostedFind hup, State.whileFree_busy hbusy]
    case field =>
      intro m rank t
      have hexec : exec (.fieldSel v) s = .next (held Reg.FIELD_SEL (s.fieldSelected m rank)) := (exec_fieldSel hup).trans (congrArg Host.Outcome.next (hsel hbusy))
      refine ⟨fun hlen => ?_, fun e he hroot => ?_⟩
      · rw [hexec, State.fieldSelected_none hlen]
      · rw [hexec, State.fieldSelected_member he hroot]
    case peek =>
      intro i t
      have hexec := (exec_peekSel (v := v) hup).trans (congrArg Host.Outcome.next (hsel hbusy))
      refine ⟨fun hkind => ?_, fun hkind hlt => ?_, fun hkind hle => ?_⟩
      · rw [hexec, hkind]
        exact congrArg (fun n => Host.Outcome.next (held Reg.PEEK_SEL (t n (s.lanternBytes i)))) (Nat.zero_add i)
      · rw [hexec, hkind, if_neg (by rw [Bool.true_and, decide_eq_true_iff]; exact Nat.not_le.mpr hlt)]
        rfl
      · intro j
        rw [hexec, hkind, if_pos (by rw [Bool.true_and]; exact decide_eq_true hle)]
        rfl
    case hosted =>
      intro l hit t
      have hexec := (exec_hostedFind (d := d) hup).trans (congrArg Host.Outcome.next (hsel hbusy))
      refine ⟨fun i x hhit => ?_, fun hhit => ?_⟩
      · exact hexec.trans (congrArg (fun h : Option (Nat × Deed) => Host.Outcome.next (t ((h.map (fun e => 2 ^ 30 + e.1)).getD 0))) hhit)
      · exact hexec.trans (congrArg (fun h : Option (Nat × Deed) => Host.Outcome.next (t ((h.map (fun e => 2 ^ 30 + e.1)).getD 0))) hhit)
end

/-! # Frames of instructions that store nothing (O60) -/

section
open Sys2Proof Sys2Proof.Machine

namespace Sys2Proof.Machine

/-- The word of a `SET_DIFF` that is not posted, its descriptor at byte 64. -/
def diffWord : IWord := { opc := 64, opb := 0, opa := 0, posted := false, flags := 0 }

/-- Its descriptor: the difference of two empty lists replaces the list at 0x400. -/
def diffDescriptor : Bytes := leBytes 8 0x100 ++ leBytes 8 0x200 ++ leBytes 8 0x400 ++ leBytes 8 0

/-- The entry whose program is that instruction and a `NOP`. -/
def diffEntry : Entry :=
  { ring := 1, tag := 7, slot := 0, progressEn := false, notify := false, fullTurn := false, meadow := 0, svc := 0, progress := 0,
    deadline := noDeadline, prog := [diffWord.encode 0x2E, 0], isInline := true, bad := false, resultBase := 4096 }

/-- A context that stands at its first word. -/
def diffContext : Ctx :=
  { entry := diffEntry, phase := .running, wait := .none, pc := 0, stack := [], posted := [], halted := false, group := 0, promise := none,
    admitBeat := 0, bound := 0, accepted := false, breached := false, term := 0, request := none, lantern := none, out0 := 0, out1 := 0,
    outLen := 0, progressBp := 0, progressLost := false, progressOwn := false, reqCode := none, grants := [], reported := false }

/-- A ready device whose list at 0x400 holds one page of its own, in GDDR7 at unit 900,000, with 7 in the page's first byte. -/
def diffState : State :=
  { State.reset with
    sys := { ({} : Sys) with ready := true }
    io := { State.reset.io with ctxs := [(0, diffContext)] }
    mem := { ({} : Store) with
      lists := [(0x400, { pages := [{ tier := 0, shared := false, ratio := 0, loc := 900000 }] })]
      gddr := [(4096 * 900000, 7)] } }

def diffInstr : Instr := .setDiff 0 diffWord diffDescriptor

/-- The state after a command, or the one before it where the command is not one of the model. -/
def execOrStay (i : Instr) (s : State) : State :=
  match exec i s with
  | .next t => t
  | _ => s

/-- The page that leaves the output list is freed, and its bytes go with it. -/
theorem gddr_after_diffInstr : (execOrStay diffInstr diffState).mem.gddr = [] := by decide +kernel

end Sys2Proof.Machine

/-- Refutes O60: the set instructions change GDDR7. A page of its own that the output list loses is freed (log entry 140), and
a page that is freed has its bytes cleared, so `SET_DIFF` of two empty lists into a list that holds a page written before
leaves that page's bytes zero. -/
theorem not_instructionMemoryFrames : ¬ Obligations.InstructionMemoryFrames := by
  unfold Obligations.InstructionMemoryFrames
  rintro ⟨-, hframe⟩
  have hafter := gddr_after_diffInstr
  unfold execOrStay at hafter
  cases hrun : exec diffInstr diffState with
  | next t =>
    rw [hrun] at hafter
    obtain ⟨hgddr, -⟩ := hframe diffState t 0 diffWord diffDescriptor diffInstr (by simp [diffInstr]) hrun
    exact absurd (hafter.symm.trans hgddr) (List.cons_ne_nil _ _).symm
  | fault _ | refused _ =>
    rw [hrun] at hafter
    exact absurd hafter (List.cons_ne_nil _ _)

end

section
/-! Posted instructions (R127 to R131): obligation O11. -/

namespace Sys2Proof.Machine

/-! ## Handing over -/

/-- A posted instruction waits with 16 outstanding. -/
theorem State.runInstr_full {s : State} {c op : Nat} {w : IWord} {x : Ctx} (h : StandsAt s c op w x) (hshape : WellShaped op w x)
    (hposted : w.posted = true) (hfull : 16 ≤ x.outstanding) (cmd : Instr) (body : Ctx → IRes) (pre : Ctx → Pre) :
    s.runInstr c op w cmd (shapeOk op w) true false body pre = s := by
  obtain ⟨h1, h2, h3, h4, h5, h6⟩ := h
  obtain ⟨h7, h8⟩ := hshape
  simp [State.runInstr, h1, h2, h3, h4, h5, h6, h7, h8, hposted, hfull]

/-- The command of a posted set, hash or codec instruction runs it behind its precondition `pre`. -/
abbrev HandsOver (i : Instr) (s : State) (c op : Nat) (w : IWord) (pre : Pre) : Prop :=
  ∃ body, exec i s = .next (s.runInstr c op w i (shapeOk op w) true false body (fun _ => pre))

theorem handsOver_setHash {s : State} {w : IWord} {d : Bytes} {tokens : List (BitVec 16)} (hlines : s.tracked (s.hashWrites d tokens) = [])
    (c : Nat) (bad : Bool) : HandsOver (.setHash c w d tokens bad) s c 0x2F w (s.preHash d) :=
  ⟨_, congrArg Host.Outcome.next (State.coherent_starts (reads := []) hlines c 0x2F w _ _)⟩

theorem handsOver_pack {s : State} {w : IWord} {d : Bytes} (hlines : s.tracked (s.codecReads w d ++ s.codecWrites w d) = [])
    (c : Nat) (src : Bytes) (fail : Option Code) : HandsOver (.pack c w d src fail) s c 0x58 w (s.preCodec true w d) :=
  ⟨_, congrArg Host.Outcome.next (State.coherent_starts hlines c 0x58 w _ _)⟩

theorem handsOver_unpack {s : State} {w : IWord} {d : Bytes} (hlines : s.tracked (s.codecReads w d ++ s.codecWrites w d) = [])
    (c : Nat) (src : Bytes) (fail : Option Code) : HandsOver (.unpack c w d src fail) s c 0x59 w (s.preCodec false w d) :=
  ⟨_, congrArg Host.Outcome.next (State.coherent_starts hlines c 0x59 w _ _)⟩

section

variable {i : Instr} {s : State} {c op : Nat} {w : IWord} {x : Ctx} {pre : Pre}

theorem exec_of_handsOver (hi : HandsOver i s c op w pre) (h : RunsPosted s c op w x) :
    exec i s = .next ((s.setCtx c { x with posted := x.posted ++
      [{ index := x.pc, cmd := i, done := pre.map (·.1), obs := (pre.map (·.2)).getD 0 }] }).advance c) := by
  obtain ⟨body, hrun⟩ := hi
  rw [hrun, State.runInstr_posted h]

theorem exec_of_handsOver_full (hi : HandsOver i s c op w pre) (h : StandsAt s c op w x) (hshape : WellShaped op w x)
    (hposted : w.posted = true) (hfull : 16 ≤ x.outstanding) : exec i s = .next s := by
  obtain ⟨body, hrun⟩ := hi
  rw [hrun, State.runInstr_full h hshape hposted hfull]

end

/-! ## Completion -/

/-- What a posted instruction comes back with: its body's outcome, unless its helper reports a fault. -/
def State.helperOutcome (s : State) (outcome : Option Code) (r : IRes) : IRes :=
  match codecFault outcome with
  | some code => s.codecFails code
  | none => r

/-- The posted instruction at `index` comes back with `r`. -/
def State.comesBack (s : State) (c index : Nat) : IRes → State
  | .ok t => t.postDone c index .ok
  | .fail code obs => s.postDone c index code obs
  | .failAs t code obs => t.postDone c index code obs
  | _ => s

section

variable {s : State} {c index : Nat} {x : Ctx} {p : Posted} {r : IRes}

/-- A posted instruction that is still outstanding comes back with what its body or its helper's fault says. -/
theorem exec_postedComplete (hx : s.ctx c = some x) (hp : x.posted.find? (fun q => q.index == index && q.done.isNone) = some p)
    (hr : s.postedBody c index x.entry.meadow p.cmd = some r)
    (hblock : s.sys.blocks.any (fun b => b.1 == postedBlock p.cmd) = false) (outcome : Option Code) :
    exec (.postedInstructionComplete c index outcome) s = .next (s.comesBack c index (s.helperOutcome outcome r)) := by
  rw [show exec (.postedInstructionComplete c index outcome) s = execPostedInstructionComplete c index outcome s from rfl,
    execPostedInstructionComplete]
  simp only [hx, hp, hr]
  exact congrArg Host.Outcome.next (if_neg (ne_true_of_eq_false hblock))

/-- Nothing comes back while the helper's block is in reset. -/
theorem exec_postedComplete_held (hx : s.ctx c = some x) (hp : x.posted.find? (fun q => q.index == index && q.done.isNone) = some p)
    (hr : s.postedBody c index x.entry.meadow p.cmd = some r)
    (hblock : s.sys.blocks.any (fun b => b.1 == postedBlock p.cmd) = true) (outcome : Option Code) :
    exec (.postedInstructionComplete c index outcome) s = .next s := by
  rw [show exec (.postedInstructionComplete c index outcome) s = execPostedInstructionComplete c index outcome s from rfl,
    execPostedInstructionComplete]
  simp only [hx, hp, hr]
  rw [if_pos hblock]

end

/-! ## `FENCE` -/

theorem Tbl.drop_put_self {α : Type} (t : Tbl α) (k : Nat) (v : α) : Tbl.drop (Tbl.put t k v) k = Tbl.drop t k := by
  induction t with
  | nil => simp [Tbl.put, Tbl.drop]
  | cons e t ih =>
    rw [Tbl.put]
    split
    · simp [Tbl.drop]
    · rw [Tbl.drop, Tbl.drop, ih]

theorem Tbl.drop_drop_self {α : Type} (t : Tbl α) (k : Nat) : Tbl.drop (Tbl.drop t k) k = Tbl.drop t k := by
  rw [Tbl.drop_eq_filter, Tbl.drop_eq_filter, List.filter_filter]
  simp

/-- Of two settings of a context the later one stands. -/
@[simp] theorem State.setCtx_setCtx (s : State) (c : Nat) (x y : Ctx) : (s.setCtx c x).setCtx c y = s.setCtx c y := by
  simp [State.setCtx, State.mapIo, Tbl.drop_put_self, Tbl.drop_drop_self]

/-- The earlier of two failures. -/
def earlier (b : Option (Nat × Code × Nat)) (p : Nat × Code × Nat) : Option (Nat × Code × Nat) :=
  match b with
  | none => some p
  | some q => if p.1 < q.1 then some p else b

/-- The failure of a posted instruction that has come back. -/
def Posted.failure (p : Posted) : Option (Nat × Code × Nat) :=
  match p.done with
  | some .ok => none
  | some code => some (p.index, code, p.obs)
  | none => none

theorem Ctx.failedPost_eq (x : Ctx) : x.failedPost = (x.posted.filterMap Posted.failure).foldl earlier none := rfl

theorem Posted.failure_eq_some {p : Posted} {code : Code} (hdone : p.done = some code) (hcode : code ≠ .ok) :
    p.failure = some (p.index, code, p.obs) := by
  unfold Posted.failure
  split
  · next hok => exact absurd (Option.some.inj (hdone.symm.trans hok)) hcode
  · next c hc => rw [← Option.some.inj (hc.symm.trans hdone)]
  · next hnone => nomatch hdone.symm.trans hnone

theorem Posted.failure_eq_none {p : Posted} (hdone : p.done = some .ok) : p.failure = none := by
  rw [Posted.failure, hdone]

theorem Posted.of_failure_eq_some {p : Posted} {f : Nat × Code × Nat} (h : p.failure = some f) :
    p.done ≠ some .ok ∧ f.1 = p.index := by
  unfold Posted.failure at h
  split at h
  · nomatch h
  · next code hne hdone => exact ⟨by rw [hdone]; exact fun e => hne (Option.some.inj e), by rw [← Option.some.inj h]⟩
  · nomatch h

/-- With a failure that every other one comes after, the earliest is this one. -/
theorem foldl_earlier {f : Nat × Code × Nat} {l : List (Nat × Code × Nat)} (h : ∀ q ∈ l, q = f ∨ f.1 < q.1) {b : Option (Nat × Code × Nat)}
    (hb : b = some f ∨ ((∀ q, b = some q → f.1 < q.1) ∧ f ∈ l)) : l.foldl earlier b = some f := by
  induction l generalizing b with
  | nil => exact hb.resolve_right fun hmem => List.not_mem_nil hmem.2
  | cons q l ih =>
    obtain ⟨hq, hl⟩ := List.forall_mem_cons.mp h
    refine ih hl ?_
    rcases hb with rfl | ⟨hlater, hmem⟩
    · rcases hq with rfl | hq
      · exact .inl (if_neg (Nat.lt_irrefl _))
      · exact .inl (if_neg (Nat.lt_asymm hq))
    · rcases hq with rfl | hq
      · cases b with
        | none => exact .inl rfl
        | some r => exact .inl (if_pos (hlater r rfl))
      · refine .inr ⟨fun r hr => ?_, (List.mem_cons.mp hmem).resolve_left fun e => Nat.lt_irrefl _ (e ▸ hq)⟩
        cases b with
        | none => exact (Option.some.inj hr) ▸ hq
        | some u =>
          rw [earlier] at hr
          split at hr
          · exact (Option.some.inj hr) ▸ hq
          · exact hlater r hr

/-- The failure of lowest index is the one that `FENCE` and the end of a program name. -/
theorem Ctx.failedPost_of_least {x : Ctx} {p : Posted} {code : Code} (hp : p ∈ x.posted) (hdone : p.done = some code) (hcode : code ≠ .ok)
    (hleast : ∀ q ∈ x.posted, q.done ≠ some .ok → q = p ∨ p.index < q.index) : x.failedPost = some (p.index, code, p.obs) := by
  rw [Ctx.failedPost_eq]
  refine foldl_earlier (fun f hf => ?_) (.inr ⟨nofun, List.mem_filterMap.mpr ⟨p, hp, Posted.failure_eq_some hdone hcode⟩⟩)
  obtain ⟨q, hq, hfail⟩ := List.mem_filterMap.mp hf
  obtain ⟨hnot, hindex⟩ := Posted.of_failure_eq_some hfail
  rcases hleast q hq hnot with rfl | hlt
  · exact .inl (Option.some.inj (hfail.symm.trans (Posted.failure_eq_some hdone hcode)))
  · exact .inr (hindex ▸ hlt)

theorem Ctx.failedPost_of_all_ok {x : Ctx} (h : x.posted.all (fun p => p.done == some .ok) = true) : x.failedPost = none := by
  rw [Ctx.failedPost_eq, List.filterMap_eq_nil_iff.mpr fun p hp => Posted.failure_eq_none (by simpa using List.all_eq_true.mp h p hp)]
  rfl

theorem Ctx.outstanding_eq_zero {x : Ctx} (h : ∀ p ∈ x.posted, p.done.isSome = true) : x.outstanding = 0 := by
  rw [Ctx.outstanding, List.filter_eq_nil_iff.mpr fun p hp => by simp [Option.isSome_iff_ne_none.mp (h p hp)]]
  rfl

theorem Ctx.outstanding_ne_zero {x : Ctx} (h : x.posted.any (fun p => p.done.isNone) = true) : x.outstanding ≠ 0 := by
  obtain ⟨p, hp, hnone⟩ := List.any_eq_true.mp h
  exact Nat.ne_of_gt (List.length_pos_of_mem (List.mem_filter.mpr ⟨hp, hnone⟩))

section

variable {s : State} {c : Nat} {w : IWord} {x : Ctx} (h : Runs s c 0x06 w x)
include h

theorem exec_fence_waits (hout : x.outstanding ≠ 0) :
    exec (.fence c w) s = .next (s.setCtx c { x with phase := .fencing, wait := .none }) := by
  rw [exec_of_runs h rfl, if_pos hout, State.settle_wait (State.ctx_setCtx_self _ _ _), State.setCtx_setCtx]

theorem exec_fence_passes (hout : x.outstanding = 0) (hfail : x.failedPost = none) :
    exec (.fence c w) s = .next ((s.setCtx c { x with posted := [] }).advance c) := by
  rw [exec_of_runs h rfl, if_neg (not_not_intro hout)]
  simp only [hfail]
  rw [State.settle_ok]

theorem exec_fence_fails {index obs : Nat} {code : Code} (hout : x.outstanding = 0) (hfail : x.failedPost = some (index, code, obs)) :
    exec (.fence c w) s = .next ((s.setCtx c { x with halted := x.pc + 1 < x.entry.prog.length }).endEntry c code index obs) := by
  rw [exec_of_runs h rfl, if_neg (not_not_intro hout)]
  simp only [hfail]
  rw [State.settle_failAt (ctx_of_runs h)]

end

end Sys2Proof.Machine

open Sys2Proof Sys2Proof.Machine

/-- Settles O11: it holds. A posted instruction is handed over with its precondition's outcome, comes back with its body's or its helper's,
and `FENCE` goes by the failure of lowest index. -/
theorem postedAndFence : Obligations.PostedAndFence := by
  refine ⟨fun s c w x i op pre hi => ?_, fun s t c index x p hx hp hbody => ?_, fun s c w x h => ⟨fun hout => ?_, fun hok => ?_, ?_⟩⟩
  · have hands : HandsOver i s c op w pre := by
      rcases hi with ⟨d, rfl, rfl, rfl⟩ | ⟨d, rfl, rfl, rfl⟩ | ⟨d, rfl, rfl, rfl⟩ | ⟨d, ts, b, rfl, rfl, rfl, hlines⟩ |
        ⟨d, src, f, rfl, rfl, rfl, hlines⟩ | ⟨d, src, f, rfl, rfl, rfl, hlines⟩
      · exact ⟨_, rfl⟩
      · exact ⟨_, rfl⟩
      · exact ⟨_, rfl⟩
      · exact handsOver_setHash hlines c b
      · exact handsOver_pack hlines c src f
      · exact handsOver_unpack hlines c src f
    refine ⟨fun h => ⟨fun hpre => ?_, fun code obs hpre => ?_⟩, exec_of_handsOver_full hands⟩
    · rw [exec_of_handsOver hands h, hpre]; rfl
    · rw [exec_of_handsOver hands h, hpre]; rfl
  · obtain ⟨r, hr⟩ := Option.isSome_iff_exists.mp hbody
    refine ⟨fun hblock code => exec_postedComplete_held hx hp hr hblock code, fun hblock => ?_⟩
    have hdone := exec_postedComplete hx hp hr hblock
    refine ⟨fun hok => ?_, fun code obs hfail => ?_, hdone _, hdone _⟩
    · rw [hdone, Option.some.inj (hr.symm.trans hok)]; rfl
    · rw [hdone, Option.some.inj (hr.symm.trans hfail)]; rfl
  · exact exec_fence_waits h (Ctx.outstanding_ne_zero hout)
  · refine exec_fence_passes h (Ctx.outstanding_eq_zero fun p hp => ?_) (Ctx.failedPost_of_all_ok hok)
    rw [beq_iff_eq.mp (List.all_eq_true.mp hok p hp)]; rfl
  · exact fun p code hall hp hdone hcode hleast =>
      exec_fence_fails h (Ctx.outstanding_eq_zero (List.all_eq_true.mp hall)) (Ctx.failedPost_of_least hp hdone hcode hleast)

end

section

set_option Elab.async false

/-! What every operation keeps: the canonical form of the tables (O2), the ROM patches (O51) and the clock (O40). One relation
between the state before and the state after, and one rule per operation over it. -/

namespace Sys2Proof.Machine

/-- The beat, its length, its time and the correction still to take are the same. -/
structure SameClock (c d : Clock) : Prop where
  now : d.now = c.now
  len : d.len = c.len
  time : d.time = c.time
  correction : d.correction = c.correction

/-- From `s` to `t` a canonical state stays one; under `P` the ROM patches are the same, and under `C` the clock. -/
structure Kept (P C : Prop) (s t : State) : Prop where
  canonical : Canonical s → Canonical t
  patches : P → t.sys.patches = s.sys.patches
  clock : C → SameClock s.clk t.clk

/-- The state of an outcome, where it has one, is kept. -/
inductive KeptOut (P C : Prop) (s : State) : Out → Prop
  | next {t : State} (h : Kept P C s t) : KeptOut P C s (.next t)
  | fault {r : Fault} : KeptOut P C s (.fault r)
  | refused {r : Refusal} : KeptOut P C s (.refused r)

/-- The state of an instruction's result, where it has one of its own, is kept. -/
inductive KeptRes (P C : Prop) (s : State) : IRes → Prop
  | ok {t : State} (h : Kept P C s t) : KeptRes P C s (.ok t)
  | jump {t : State} {i : Nat} (h : Kept P C s t) : KeptRes P C s (.jump t i)
  | fail {code : Code} {obs : Nat} : KeptRes P C s (.fail code obs)
  | failAs {t : State} {code : Code} {obs : Nat} (h : Kept P C s t) : KeptRes P C s (.failAs t code obs)
  | failAt {t : State} {code : Code} {i obs : Nat} (h : Kept P C s t) : KeptRes P C s (.failAt t code i obs)
  | wait {t : State} {w : Wait} (h : Kept P C s t) : KeptRes P C s (.wait t w)
  | halt {t : State} (h : Kept P C s t) : KeptRes P C s (.halt t)

/-- The state that an operation gives, where it gives one, is kept. -/
inductive KeptOpt (P C : Prop) (s : State) : Option State → Prop
  | none : KeptOpt P C s .none
  | some {t : State} (h : Kept P C s t) : KeptOpt P C s (.some t)

/-- The state that comes with what an operation took is kept. -/
inductive KeptTake {α : Type} (P C : Prop) (s : State) : Option (α × State) → Prop
  | none : KeptTake P C s .none
  | some {x : α} {t : State} (h : Kept P C s t) : KeptTake P C s (.some (x, t))

/-- The state of an operation that did not fail is kept. -/
inductive KeptExc {ε : Type} (P C : Prop) (s : State) : Except ε State → Prop
  | ok {t : State} (h : Kept P C s t) : KeptExc P C s (.ok t)
  | error {e : ε} : KeptExc P C s (.error e)

/-- The state of an admission, as it goes on or with its result, is kept. -/
inductive KeptAdmit (P C : Prop) (s : State) : Admit → Prop
  | go {t : State} {id : Option Nat} {n : Nat} (h : Kept P C s t) : KeptAdmit P C s (.go t id n)
  | no {r : IRes} (h : KeptRes P C s r) : KeptAdmit P C s (.no r)

section

variable {P C : Prop} {s t u : State}

theorem SameClock.rfl {c : Clock} : SameClock c c := ⟨Eq.refl _, Eq.refl _, Eq.refl _, Eq.refl _⟩
theorem SameClock.trans {c d e : Clock} (h : SameClock c d) (k : SameClock d e) : SameClock c e :=
  ⟨k.now.trans h.now, k.len.trans h.len, k.time.trans h.time, k.correction.trans h.correction⟩

theorem Kept.rfl : Kept P C s s := ⟨id, fun _ => Eq.refl _, fun _ => .rfl⟩

/-! ## From an outcome to its state -/

theorem KeptOut.of_next {o : Out} (h : KeptOut P C s o) (e : o = .next t) : Kept P C s t := by
  subst e; cases h; assumption
theorem KeptOpt.of_some {o : Option State} (h : KeptOpt P C s o) (e : o = .some t) : Kept P C s t := by
  subst e; cases h; assumption
theorem KeptTake.of_some {α : Type} {o : Option (α × State)} {x : α} (h : KeptTake P C s o) (e : o = .some (x, t)) : Kept P C s t := by
  subst e; cases h; assumption
theorem KeptExc.of_ok {ε : Type} {o : Except ε State} (h : KeptExc P C s o) (e : o = .ok t) : Kept P C s t := by
  subst e; cases h; assumption
theorem KeptRes.of_ok {r : IRes} (h : KeptRes P C s r) (e : r = .ok t) : Kept P C s t := by
  subst e; cases h; assumption
theorem KeptRes.of_jump {r : IRes} {i : Nat} (h : KeptRes P C s r) (e : r = .jump t i) : Kept P C s t := by
  subst e; cases h; assumption
theorem KeptRes.of_failAs {r : IRes} {code : Code} {obs : Nat} (h : KeptRes P C s r) (e : r = .failAs t code obs) : Kept P C s t := by
  subst e; cases h; assumption
theorem KeptRes.of_failAt {r : IRes} {code : Code} {i obs : Nat} (h : KeptRes P C s r) (e : r = .failAt t code i obs) : Kept P C s t := by
  subst e; cases h; assumption
theorem KeptRes.of_wait {r : IRes} {w : Wait} (h : KeptRes P C s r) (e : r = .wait t w) : Kept P C s t := by
  subst e; cases h; assumption
theorem KeptRes.of_halt {r : IRes} (h : KeptRes P C s r) (e : r = .halt t) : Kept P C s t := by
  subst e; cases h; assumption
theorem KeptAdmit.of_go {a : Admit} {id : Option Nat} {n : Nat} (h : KeptAdmit P C s a) (e : a = .go t id n) : Kept P C s t := by
  subst e; cases h; assumption
theorem KeptAdmit.of_no {a : Admit} {r : IRes} (h : KeptAdmit P C s a) (e : a = .no r) : KeptRes P C s r := by
  subst e; cases h; assumption
theorem Kept.of_snd {α : Type} {x : α} {p : α × State} (h : Kept P C s p.2) (e : p = (x, t)) : Kept P C s t := by
  subst e; exact h
theorem Kept.of_fst {α : Type} {x : α} {p : State × α} (h : Kept P C s p.1) (e : p = (t, x)) : Kept P C s t := by
  subst e; exact h
theorem Kept.fst {α : Type} {x : α} (h : Kept P C s t) : Kept P C s (t, x).1 := h

/-! ## Cases -/

theorem Kept.ite {c : Prop} {_ : Decidable c} (ht : Kept P C s t) (hu : Kept P C s u) : Kept P C s (if c then t else u) := by
  split <;> assumption
/-- A step that is taken or not. -/
theorem Kept.when {c : Prop} {_ : Decidable c} (ht : Kept P C s t) (hu : Kept P C s t → Kept P C s u) : Kept P C s (if c then u else t) :=
  .ite (hu ht) ht
theorem Kept.unless {c : Prop} {_ : Decidable c} (ht : Kept P C s t) (hu : Kept P C s t → Kept P C s u) : Kept P C s (if c then t else u) :=
  .ite ht (hu ht)
theorem KeptRes.ite {c : Prop} {_ : Decidable c} {q r : IRes} (hq : KeptRes P C s q) (hr : KeptRes P C s r) : KeptRes P C s (if c then q else r) := by
  split <;> assumption
theorem KeptOpt.ite {c : Prop} {_ : Decidable c} {q r : Option State} (hq : KeptOpt P C s q) (hr : KeptOpt P C s r) :
    KeptOpt P C s (if c then q else r) := by
  split <;> assumption
theorem KeptTake.ite {α : Type} {c : Prop} {_ : Decidable c} {q r : Option (α × State)} (hq : KeptTake P C s q) (hr : KeptTake P C s r) :
    KeptTake P C s (if c then q else r) := by
  split <;> assumption
theorem KeptAdmit.ite {c : Prop} {_ : Decidable c} {a b : Admit} (ha : KeptAdmit P C s a) (hb : KeptAdmit P C s b) :
    KeptAdmit P C s (if c then a else b) := by
  split <;> assumption
theorem KeptExc.ite {ε : Type} {c : Prop} {_ : Decidable c} {q r : Except ε State} (hq : KeptExc P C s q) (hr : KeptExc P C s r) :
    KeptExc P C s (if c then q else r) := by
  split <;> assumption

theorem Kept.foldl {α : Type} {l : List α} {f : State → α → State} (h : Kept P C s t)
    (hf : ∀ u a, Kept P C s u → Kept P C s (f u a)) : Kept P C s (l.foldl f t) := by
  induction l generalizing t with
  | nil => exact h
  | cons a l ih => exact ih (hf _ a h)

theorem KeptOpt.map {o : Option State} {f : State → State} (h : KeptOpt P C s o) (hf : ∀ u, Kept P C s u → Kept P C s (f u)) :
    KeptOpt P C s (o.map f) := by
  cases h with
  | none => exact .none
  | some h => exact .some (hf _ h)
theorem KeptOpt.mapTake {α : Type} {o : Option State} {f : State → α × State} (h : KeptOpt P C s o)
    (hf : ∀ u, Kept P C s u → Kept P C s (f u).2) : KeptTake P C s (o.map f) := by
  cases h with
  | none => exact .none
  | some h => exact .some (hf _ h)
theorem KeptOpt.bind {o : Option State} {f : State → Option State} (h : KeptOpt P C s o) (hf : ∀ u, Kept P C s u → KeptOpt P C s (f u)) :
    KeptOpt P C s (o.bind f) := by
  cases h with
  | none => exact .none
  | some h => exact hf _ h
theorem KeptTake.map {α β : Type} {o : Option (α × State)} {f : α × State → β × State} (h : KeptTake P C s o)
    (hf : ∀ x, Kept P C s x.2 → Kept P C s (f x).2) : KeptTake P C s (o.map f) := by
  cases h with
  | none => exact .none
  | some h => exact .some (hf _ h)
theorem KeptTake.mapOpt {α : Type} {o : Option (α × State)} {f : α × State → State} (h : KeptTake P C s o)
    (hf : ∀ x, Kept P C s x.2 → Kept P C s (f x)) : KeptOpt P C s (o.map f) := by
  cases h with
  | none => exact .none
  | some h => exact .some (hf _ h)
theorem KeptTake.bind {α β : Type} {o : Option (α × State)} {f : α × State → Option (β × State)} (h : KeptTake P C s o)
    (hf : ∀ x, Kept P C s x.2 → KeptTake P C s (f x)) : KeptTake P C s (o.bind f) := by
  cases h with
  | none => exact .none
  | some h => exact hf _ h
theorem KeptOpt.of_map {α : Type} {o : Option α} {f : α → State} (hf : ∀ a, Kept P C s (f a)) : KeptOpt P C s (o.map f) := by
  cases o with
  | none => exact .none
  | some a => exact .some (hf a)
theorem KeptTake.of_map {α β : Type} {o : Option α} {f : α → β × State} (hf : ∀ a, Kept P C s (f a).2) : KeptTake P C s (o.map f) := by
  cases o with
  | none => exact .none
  | some a => exact .some (hf a)

theorem KeptOpt.getD {o : Option State} (h : KeptOpt P C s o) (ht : Kept P C s t) : Kept P C s (o.getD t) := by
  cases h with
  | none => exact ht
  | some h => exact h

theorem KeptTake.foldlM {α β : Type} {l : List α} {f : β × State → α → Option (β × State)} {x : β × State} (h : Kept P C s x.2)
    (hf : ∀ y a, Kept P C s y.2 → KeptTake P C s (f y a)) : KeptTake P C s (l.foldlM f x) := by
  induction l generalizing x with
  | nil => exact .some h
  | cons a l ih => exact (hf x a h).bind fun y hy => ih hy

/-- A fold that carries a state and something beside it. -/
theorem Kept.foldFst {α β : Type} {l : List α} {f : State × β → α → State × β} {p : State × β} (h : Kept P C s p.1)
    (hf : ∀ q a, Kept P C s q.1 → Kept P C s (f q a).1) : Kept P C s (l.foldl f p).1 := by
  induction l generalizing p with
  | nil => exact h
  | cons a l ih => exact ih (hf _ a h)
theorem Kept.stateAfter {o : Out} (h : Kept P C s t) (ho : KeptOut P C s o) : Kept P C s (stateAfter t o) := by
  cases ho with
  | next hu => exact hu
  | fault => exact h
  | refused => exact h

/-! ## The parts of the state -/

/-- What is still is kept. -/
theorem Kept.still (h : Kept P C s t) (k : Still t u) : Kept P C s u :=
  ⟨fun hs => k.canonical (h.canonical hs), fun hp => (congrArg Sys.patches k.sys).trans (h.patches hp), fun hc => k.clk ▸ h.clock hc⟩

theorem Kept.of_canonical (h : Kept P C s t) (hu : Canonical t → Canonical u) (hp : u.sys.patches = t.sys.patches := by rfl)
    (hc : SameClock t.clk u.clk := by exact SameClock.rfl) : Kept P C s u :=
  ⟨fun hs => hu (h.canonical hs), fun hP => hp.trans (h.patches hP), fun hC => (h.clock hC).trans hc⟩

/-- Where neither the tables nor the patches nor the clock differ, nothing is to be shown. -/
theorem Kept.same (h : Kept P C s t) (hr : u.regs = t.regs := by rfl) (hl : u.io.lamps = t.io.lamps := by rfl)
    (hs : u.sys.commons = t.sys.commons := by rfl) (hg : u.mem.gddr = t.mem.gddr := by rfl) (hf : u.mem.flash = t.mem.flash := by rfl)
    (hw : u.mem.swap = t.mem.swap := by rfl) (hp : u.sys.patches = t.sys.patches := by rfl)
    (hc : SameClock t.clk u.clk := by exact SameClock.rfl) : Kept P C s u := by
  refine h.of_canonical (fun k => ?_) hp hc
  unfold Canonical at k ⊢
  rwa [hr, hl, hs, hg, hf, hw]

theorem Kept.mapIo (h : Kept P C s t) {f : Intake → Intake} (hl : (f t.io).lamps = t.io.lamps := by rfl) : Kept P C s (t.mapIo f) := h.same (hl := hl)
theorem Kept.mapLore (h : Kept P C s t) {f : Lore → Lore} : Kept P C s (t.mapLore f) := h.same
theorem Kept.mapEng (h : Kept P C s t) {f : Engine → Engine} : Kept P C s (t.mapEng f) := h.same
theorem Kept.mapFab (h : Kept P C s t) {f : Fabric → Fabric} : Kept P C s (t.mapFab f) := h.same
theorem Kept.mapCxl (h : Kept P C s t) {f : Cxl → Cxl} : Kept P C s (t.mapCxl f) := h.same
theorem Kept.mapFls (h : Kept P C s t) {f : Flash → Flash} : Kept P C s (t.mapFls f) := h.same
theorem Kept.mapBg (h : Kept P C s t) {f : Background → Background} : Kept P C s (t.mapBg f) := h.same
theorem Kept.mapMem (h : Kept P C s t) {f : Store → Store} (hg : (f t.mem).gddr = t.mem.gddr := by rfl)
    (hf : (f t.mem).flash = t.mem.flash := by rfl) (hw : (f t.mem).swap = t.mem.swap := by rfl) : Kept P C s (t.mapMem f) :=
  h.same (hg := hg) (hf := hf) (hw := hw)
theorem Kept.mapSys (h : Kept P C s t) {f : Sys → Sys} (hs : (f t.sys).commons = t.sys.commons := by rfl)
    (hp : (f t.sys).patches = t.sys.patches := by rfl) : Kept P C s (t.mapSys f) := h.same (hs := hs) (hp := hp)
theorem Kept.mapClk (h : Kept P C s t) {f : Clock → Clock} (hc : SameClock t.clk (f t.clk) := by exact ⟨Eq.refl _, Eq.refl _, Eq.refl _, Eq.refl _⟩) :
    Kept P C s (t.mapClk f) := h.same (hc := hc)
/-- The clock changes. -/
theorem Kept.setClk (h : Kept P False s t) {f : Clock → Clock} : Kept P False s (t.mapClk f) :=
  ⟨fun hs => h.canonical hs, h.patches, False.elim⟩

theorem Kept.setReg (h : Kept P C s t) {o : Nat} {v : Word} : Kept P C s (t.setReg o v) :=
  h.of_canonical fun ⟨hr, k⟩ => ⟨Tbl.wf_set _ _ hr, k⟩

theorem Kept.setBytes (h : Kept P C s t) {tier : Nat} {b : Tbl Byte} (hb : Canonical t → Tbl.wf (fun _ => 0) b = true) :
    Kept P C s (t.setBytes tier b) :=
  h.of_canonical fun k => canonical_setBytes tier k (hb k)

theorem Kept.setCommons (h : Kept P C s t) {k : Nat} {v : Word} : Kept P C s (t.setCommons k v) :=
  h.of_canonical fun ⟨hr, hl, hm, hc, k⟩ => ⟨hr, hl, hm, Tbl.wf_set _ _ hc, k⟩

/-! ## Lamps (R3) -/

/-- No reserved bit of a lamp word is set. -/
abbrev Masked (v : Word) : Prop := v &&& lampMask = v

theorem masked_iff (v : Word) : Masked v ↔ ∀ i, v.getLsbD i = true → lampMask.getLsbD i = true := by
  unfold Masked
  refine ⟨fun h i hi => ?_, fun h => BitVec.eq_of_getLsbD_eq fun i _ => ?_⟩
  · rw [← h, BitVec.getLsbD_and, Bool.and_eq_true] at hi
    exact hi.2
  · rw [BitVec.getLsbD_and]
    cases hv : v.getLsbD i with
    | false => rfl
    | true => exact h i hv

theorem Masked.or {v w : Word} (hv : Masked v) (hw : Masked w) : Masked (v ||| w) := by
  unfold Masked at *
  rw [BitVec.and_or_distrib_right, hv, hw]

theorem masked_and_mask (v : Word) : Masked (v &&& lampMask) := by
  rw [Masked, BitVec.and_assoc, BitVec.and_self]

theorem Masked.and {v : Word} (hv : Masked v) (w : Word) : Masked (v &&& w) := by
  unfold Masked at *
  rw [BitVec.and_assoc, BitVec.and_comm w, ← BitVec.and_assoc, hv]

/-- The count's bits are not reserved. -/
theorem lampMask_low {i : Nat} (h : i < 48) : lampMask.getLsbD i = true := by
  have hall : ∀ j : Fin 48, lampMask.getLsbD j = true := by decide
  exact hall ⟨i, h⟩

theorem lampWith_getLsbD_high {v : Word} {count i : Nat} (h : 48 ≤ i) : (lampWith v count).getLsbD i = v.getLsbD i := by
  obtain ⟨j, rfl⟩ := Nat.exists_eq_add_of_le h
  rw [lampWith, BitVec.getLsbD_ofNat, BitVec.getLsbD, Nat.add_comm 48 j, ← Nat.testBit_div_two_pow, ← Nat.testBit_div_two_pow,
    Nat.add_comm j, Nat.add_comm (_ * _), Nat.add_mul_div_right _ _ (by norm_num), Nat.div_eq_of_lt (Nat.mod_lt _ (by norm_num)), Nat.zero_add]
  rcases Nat.lt_or_ge (j + 48) 64 with hlt | hge
  · rw [decide_eq_true (Nat.add_comm j 48 ▸ hlt), Bool.true_and]
  · rw [Nat.testBit_div_two_pow, Nat.testBit_lt_two_pow (Nat.lt_of_lt_of_le v.isLt (Nat.pow_le_pow_right (by norm_num) (by omega))), Bool.and_false]

theorem Masked.lampWith {v : Word} (hv : Masked v) (count : Nat) : Masked (lampWith v count) := by
  refine (masked_iff _).mpr fun i hi => ?_
  rcases Nat.lt_or_ge i 48 with hlow | hhigh
  · exact lampMask_low hlow
  · exact (masked_iff v).mp hv i (lampWith_getLsbD_high hhigh ▸ hi)

theorem Tbl.mem_of_find {α : Type} {m : Tbl α} {k : Nat} {v : α} (h : Tbl.find m k = some v) : (k, v) ∈ m := by
  induction m with
  | nil => nomatch h
  | cons e m ih =>
    rw [Tbl.find] at h
    split at h
    · next hk => rw [← hk, ← Option.some.inj h]; exact List.mem_cons_self
    · exact List.mem_cons_of_mem _ (ih h)

theorem Tbl.mem_drop {α : Type} {m : Tbl α} {k : Nat} {e : Nat × α} (h : e ∈ Tbl.drop m k) : e ∈ m :=
  List.mem_of_mem_filter (Tbl.drop_eq_filter m k ▸ h)

theorem Tbl.mem_set {α : Type} [DecidableEq α] {d : Nat → α} {m : Tbl α} {k : Nat} {v : α} {e : Nat × α} (h : e ∈ Tbl.set d m k v) :
    e = (k, v) ∨ e ∈ m := by
  rw [Tbl.set] at h
  split at h
  · exact .inr (Tbl.mem_drop h)
  · exact (Tbl.mem_put h).imp_right Tbl.mem_drop

theorem masked_lamp (h : Canonical s) (j : Nat) : Masked (s.lamp j) := by
  obtain ⟨-, -, hm, -⟩ := h
  unfold State.lamp Tbl.get
  cases hf : Tbl.find s.io.lamps j with
  | none => exact BitVec.zero_and
  | some v => exact hm _ (Tbl.mem_of_find hf)

theorem Kept.setLamp (h : Kept P C s t) {j : Nat} {v : Word} (hv : Canonical t → Masked v) : Kept P C s (t.setLamp j v) := by
  refine h.of_canonical fun k => ?_
  have hmask := hv k
  obtain ⟨hr, hl, hm, k⟩ := k
  refine ⟨hr, Tbl.wf_set _ _ hl, fun e he => ?_, k⟩
  rcases Tbl.mem_set (d := fun _ => 0) (m := t.io.lamps) (k := j) (v := v) he with rfl | he
  · exact hmask
  · exact hm e he

end

end Sys2Proof.Machine
end

section

set_option Elab.async false

/-! The rules of the operations over registers, events, promises, contexts, flash, pages and frames, in the order of the model's definitions. -/

namespace Sys2Proof.Machine

variable {P C : Prop} {s t u : State}

/-! ## Ops -/

theorem Kept.setRegN {off v : Nat} (h : Kept P C s t) : Kept P C s (t.setRegN off v) :=
  h.setReg

theorem Kept.bump {off n w : Nat} (h : Kept P C s t) : Kept P C s (t.bump off n w) :=
  h.setRegN

theorem Kept.emit {m : OutMsg} (h : Kept P C s t) : Kept P C s (t.emit m) :=
  h.same

theorem Kept.free (h : Kept P C s t) : Kept P C s t.free.2 :=
  h.same

theorem Kept.setLan {i : Nat} {l : Lantern} (h : Kept P C s t) : Kept P C s (t.setLan i l) :=
  h.mapLore

theorem Kept.setMdw {m : Nat} {x : Meadow} (h : Kept P C s t) : Kept P C s (t.setMdw m x) :=
  h.mapEng

theorem Kept.addQueued {c n : Nat} (h : Kept P C s t) : Kept P C s (t.addQueued c n) :=
  h.mapFab

theorem Kept.subQueued {c n : Nat} (h : Kept P C s t) : Kept P C s (t.subQueued c n) :=
  h.mapFab

theorem Kept.raise {code : Nat} {node : NodeId} {d0 d1 : Nat} {meadow : Option Nat} {o : Nat} (h : Kept P C s t) :
    Kept P C s (t.raise code node d0 d1 meadow o) :=
  h.mapIo.bump.when fun h => h.bump

theorem Kept.configReject {off v : Nat} (h : Kept P C s t) : Kept P C s (t.configReject off v) :=
  h.raise

/-- A command at a register that is not busy. -/
theorem Kept.whileFree {off v : Nat} {go : State → State} (h : Kept P C s t) (hgo : ∀ u, Kept P C s u → Kept P C s (go u)) :
    Kept P C s (t.whileFree off v go) :=
  .ite h.configReject (hgo _ h).same

theorem Kept.leaveDerated (h : Kept P C s t) : Kept P C s t.leaveDerated :=
  .ite h.mapClk.raise h

theorem Kept.atCommit (h : Kept P C s t) : Kept P C s t.atCommit :=
  (Kept.ite h.leaveDerated h).mapClk

theorem Kept.lightLamp {j n : Nat} (h : Kept P C s t) : Kept P C s (t.lightLamp j n) :=
  .ite (h.setLamp fun k => (masked_lamp k j).lampWith _) (h.setLamp fun k => ((masked_lamp k j).lampWith _).or (by decide))

theorem Kept.dimLamp {j n : Nat} (h : Kept P C s t) : Kept P C s (t.dimLamp j n) :=
  (Kept.ite (h.setLamp fun k => (masked_lamp k j).lampWith _) (h.setLamp fun k => ((masked_lamp k j).lampWith _).or (by decide))).when
    fun h => h.raise

theorem Kept.ringWrite {base lg len pi : Nat} {bs : List Bytes} (h : Kept P C s t) : Kept P C s (t.ringWrite base lg len pi bs) := by
  induction bs generalizing t pi with
  | nil => exact h
  | cons b bs ih => exact ih h.emit

theorem Kept.drainBreaches (h : Kept P C s t) : Kept P C s t.drainBreaches :=
  .ite h h.ringWrite.setRegN.mapIo

theorem Kept.drainEvents (h : Kept P C s t) : Kept P C s t.drainEvents :=
  .ite h ((h.ringWrite.foldl fun _ _ h => h.emit).setRegN.mapIo.when fun h => h.bump)

theorem Kept.flushEvents (h : Kept P C s t) : Kept P C s t.flushEvents :=
  (h.mapIo.foldl fun _ _ h => Kept.ite (Kept.ite h.emit h).mapIo.mapIo (Kept.ite h.emit h).mapIo.bump.setReg.mapIo).drainEvents

theorem Kept.signal {vec : Nat} (h : Kept P C s t) : Kept P C s (t.signal vec) :=
  h.mapIo

theorem Kept.dropPromise {id : Nat} (h : Kept P C s t) : Kept P C s (t.dropPromise id) :=
  h.mapIo

theorem Kept.updPromise {id : Option Nat} {f : Promise → Promise} (h : Kept P C s t) : Kept P C s (t.updPromise id f) := by
  unfold State.updPromise
  split
  · exact h
  · exact h.mapIo

theorem Kept.writeBreach {p : Promise} {code : Code} {used : Nat} (h : Kept P C s t) : Kept P C s (t.writeBreach p code used) :=
  h.still (.writeBreach _ _ _ _)

theorem Kept.endPhase {id : Option Nat} {code b : Nat} (h : Kept P C s t) : Kept P C s (t.endPhase id code b) :=
  h.updPromise

theorem Kept.keepPromise {id : Option Nat} {b : Nat} {remote : Bool} (h : Kept P C s t) : Kept P C s (t.keepPromise id b remote).1 := by
  unfold State.keepPromise
  split
  · exact h
  · dsimp only
    split
    · exact (h.when fun h => h.writeBreach).updPromise.fst
    · exact (h.when fun h => h.writeBreach).dropPromise.fst

theorem Kept.breachOf {p : Promise} {code : Code} {excused : Bool} (h : Kept P C s t) : Kept P C s (t.breachOf p code excused) :=
  .ite h.writeBreach (Kept.ite h.writeBreach h)

theorem Kept.failPromise {id : Option Nat} {code : Code} {excused : Bool} (h : Kept P C s t) : Kept P C s (t.failPromise id code excused) := by
  unfold State.failPromise
  split
  · exact h
  · exact h.breachOf.dropPromise

theorem Kept.setCtx {c : Nat} {x : Ctx} (h : Kept P C s t) : Kept P C s (t.setCtx c x) :=
  h.mapIo

theorem Kept.freeCtx {c : Nat} (h : Kept P C s t) : Kept P C s (t.freeCtx c) :=
  h.mapIo

theorem Kept.setProgress {i : Nat} {p : Progress} (h : Kept P C s t) : Kept P C s (t.setProgress i p) :=
  h.mapIo

theorem Kept.moveProgressTo {i position bp : Nat} (h : Kept P C s t) : Kept P C s (t.moveProgressTo i position bp) :=
  h.setProgress

theorem Kept.refreshProgress (h : Kept P C s t) : Kept P C s t.refreshProgress :=
  h.mapIo

theorem Kept.abandonPromise {id : Option Nat} {code : Code} (h : Kept P C s t) : Kept P C s (t.abandonPromise id code) := by
  unfold State.abandonPromise
  dsimp only
  split
  · exact h
  · exact .ite h (Kept.ite h.failPromise h.breachOf.updPromise)

theorem Kept.closeEntry {c : Nat} {code : Code} {idx obs : Nat} (h : Kept P C s t) : Kept P C s (t.closeEntry c code idx obs) := by
  unfold State.closeEntry
  dsimp only
  split
  · exact h
  · exact (((Kept.ite h.setProgress h).when fun h => h.bump).mapLore.foldl fun _ _ h => h.subQueued).mapEng.emit.mapIo.freeCtx

theorem Kept.endEntry {c : Nat} {code : Code} {idx obs : Nat} (h : Kept P C s t) : Kept P C s (t.endEntry c code idx obs) := by
  unfold State.endEntry
  split
  · exact h
  · exact h.abandonPromise.closeEntry

theorem Kept.setRequest {r : Nat} {q : Request} (h : Kept P C s t) : Kept P C s (t.setRequest r q) :=
  h.mapLore

theorem Kept.endProgram {c : Nat} (h : Kept P C s t) : Kept P C s (t.endProgram c) := by
  unfold State.endProgram
  split
  · exact h
  · refine .ite h.setCtx ?_
    split
    · exact h.endEntry
    · split
      · exact h.setCtx
      · exact h.endEntry

theorem Kept.endRequest {r : Nat} {st : RState} {code : Code} (h : Kept P C s t) : Kept P C s (t.endRequest r st code) := by
  unfold State.endRequest
  dsimp only
  split
  · split
    · exact h.setRequest
    · exact .ite h.setRequest (Kept.ite h.setRequest.endEntry h.setRequest.setCtx)
  · exact h.setRequest.when fun h => h.raise

theorem Kept.failInstr {c : Nat} {code : Code} {obs : Nat} (h : Kept P C s t) : Kept P C s (t.failInstr c code obs) := by
  unfold State.failInstr
  dsimp only
  split
  · exact h
  · exact h.setCtx.endEntry

theorem Kept.checkWord {c : Nat} (h : Kept P C s t) : Kept P C s (t.checkWord c) := by
  unfold State.checkWord
  split
  · exact h
  · split
    · exact h
    · exact .ite h h.failInstr

theorem Kept.goto {c t' : Nat} (h : Kept P C s t) : Kept P C s (t.goto c t') := by
  unfold State.goto
  split
  · exact h
  · exact h.setCtx.checkWord

theorem Kept.advance {c : Nat} (h : Kept P C s t) : Kept P C s (t.advance c) := by
  unfold State.advance
  split
  · exact h
  · exact .ite h.goto h.endProgram

theorem Kept.postDone {c index : Nat} {code : Code} {obs : Nat} (h : Kept P C s t) : Kept P C s (t.postDone c index code obs) := by
  unfold State.postDone
  dsimp only
  split
  · exact h
  · refine .ite h.setCtx ?_
    split
    · exact h.setCtx.endProgram
    · split
      · exact h.setCtx.setCtx.endEntry
      · exact h.setCtx.setCtx.advance
    · exact h.setCtx

theorem Kept.finish {o : Owner} {code : Code} {obs : Nat} (h : Kept P C s t) : Kept P C s (t.finish o code obs) := by
  unfold State.finish
  split
  · exact h
  · exact h.postDone
  · split
    · exact h.advance
    · exact h.failInstr

theorem Kept.setOut {o : Owner} {f : Ctx → Ctx} (h : Kept P C s t) : Kept P C s (t.setOut o f) := by
  unfold State.setOut
  split
  · exact h
  · split
    · exact h
    · exact h.setCtx
  · split
    · exact h
    · exact h.setCtx

theorem Kept.refuse {c : Nat} {code : Code} {term n : Nat} (h : Kept P C s t) : KeptRes P C s (IRes.refuse t c code term n) := by
  unfold IRes.refuse
  split
  · exact .fail
  · exact .ite (.failAs h) (.failAs h.setCtx)

theorem Kept.settle {c : Nat} {r : IRes} (h : Kept P C s t) (hr : KeptRes P C s r) : Kept P C s (t.settle c r) := by
  refine Kept.still ?_ (.settle t c r)
  cases hr with
  | fail => exact h
  | ok hr | jump hr | failAs hr | failAt hr | wait hr | halt hr => exact hr

/-- What a context notes of a posted instruction. -/
theorem Kept.note {c : Nat} {f : Ctx → Ctx} (h : Kept P C s t) :
    Kept P C s (match t.ctx c with | none => t | some y => (t.setCtx c (f y)).advance c) := by
  split
  · exact h
  · exact h.setCtx.advance

theorem Kept.runInstr {c op : Nat} {w : IWord} {cmd : Instr} {shape postable early : Bool} {body : Ctx → IRes}
    {pre : Ctx → Pre} (h : Kept P C s t) (hb : ∀ x, t.ctx c = some x → KeptRes P C s (body x)) :
    Kept P C s (t.runInstr c op w cmd shape postable early body pre) := by
  unfold State.runInstr
  split
  · exact h
  · next x hx =>
    have hbody := hb x hx
    refine .ite h (.ite h.failInstr ?_)
    split
    · refine .ite h ?_
      dsimp only
      split
      · split
        · next e => exact (hbody.of_wait e).note
        · next e =>
          split
          · exact hbody.of_wait e
          · exact (hbody.of_wait e).setCtx
        · next e => exact (hbody.of_ok e).note
        · exact h.note
        · next e => exact (hbody.of_failAs e).note
        · next e => exact hbody.of_failAt e
        · next e => exact hbody.of_jump e
        · next e => exact hbody.of_halt e
      · split
        · exact h.note
        · exact h.note
    · exact h.settle hbody

/-! ## Shares -/

theorem Kept.bgUse {k n : Nat} (h : Kept P C s t) : Kept P C s (t.bgUse k n) :=
  h.mapBg

theorem Kept.bgUses {l : List (Nat × Nat)} (h : Kept P C s t) : Kept P C s (t.bgUses l) :=
  h.foldl fun _ _ h => h.bgUse

theorem Kept.addJob {act id : Nat} {need : List (Nat × Nat)} (h : Kept P C s t) : Kept P C s (t.addJob act id need) :=
  h.mapBg

theorem Kept.dropJob {act id : Nat} (h : Kept P C s t) : Kept P C s (t.dropJob act id) :=
  h.mapBg

theorem Kept.serveJob {may : BgJob → Nat → Bool} {j : BgJob} (h : Kept P C s t) : Kept P C s (t.serveJob may j).1 :=
  Kept.foldFst h fun _ _ h => .ite h h.bgUse

theorem Kept.serveJobs {may : BgJob → Nat → Bool} (h : Kept P C s t) : Kept P C s (t.serveJobs may) := by
  unfold State.serveJobs
  refine Kept.mapBg (Kept.foldFst h fun _ _ h => ?_)
  exact h.serveJob

theorem Kept.passEnds {activity started period : Nat} (h : Kept P C s t) : Kept P C s (t.passEnds activity started period) :=
  .ite h.setRegN h

theorem Kept.passLate {activity started period : Nat} (h : Kept P C s t) : Kept P C s (t.passLate activity started period) :=
  .ite h h.setRegN.raise

/-! ## Operands -/

theorem KeptRes.afterPre {p : Pre} {r : IRes} (h : KeptRes P C s r) : KeptRes P C s (afterPre p r) := by
  unfold Machine.afterPre
  split
  · exact .fail
  · exact h

/-! ## Bounds -/

theorem Kept.setPartner {i : Nat} {p : Partner} (h : Kept P C s t) : Kept P C s (t.setPartner i p) :=
  h.mapFab

theorem Kept.grant {x : Ctx} {deadline n : Nat} {items : List Item} (h : Kept P C s t) : Kept P C s (t.grant x deadline n items).1 := by
  unfold State.grant
  dsimp only
  split
  · exact h
  · exact h.same

theorem Kept.charge {items : List Item} (h : Kept P C s t) : Kept P C s (t.charge items) := by
  refine h.foldl fun u i h => ?_
  split
  · exact h
  · exact h.addQueued

theorem Kept.useGrant {c index : Nat} (h : Kept P C s t) : Kept P C s (t.useGrant c index) := by
  unfold State.useGrant
  split
  · exact h
  · exact h.setCtx

theorem Kept.waitPower {c : Nat} {x : Ctx} {watts : Nat} (h : Kept P C s t) : KeptRes P C s (t.waitPower c x watts) :=
  .wait h.setCtx

theorem Kept.admitAt {c : Nat} {x : Ctx} {item : Item} (h : Kept P C s t) : KeptAdmit P C s (t.admitAt c x item) := by
  unfold State.admitAt
  refine .ite ?_ (.ite (.go h.useGrant) ?_)
  · dsimp only
    split
    · exact .no h.refuse
    · refine .ite (.no (.wait h)) (.ite (.no h.waitPower) ?_)
      split
      · exact .go h
      · exact .ite (.go h.charge) (.no (.wait h))
  · split
    · exact .no h.refuse
    · refine .go (Kept.charge ?_)
      dsimp only
      split
      · exact h.grant
      · exact h.grant.setCtx

theorem Kept.publish {o : Owner} {unit position total : Nat} (h : Kept P C s t) : Kept P C s (t.publish o unit position total) := by
  unfold State.publish
  dsimp only
  split
  · exact h
  · exact .ite h (Kept.ite h.setProgress.moveProgressTo h.setProgress).setOut

/-! ## FlashOps -/

theorem Kept.setMapEnt {u : Nat} {e : MapEnt} (h : Kept P C s t) : Kept P C s (t.setMapEnt u e) :=
  h.mapFls

theorem Kept.setSb {i : Nat} {x : Superblock} (h : Kept P C s t) : Kept P C s (t.setSb i x) :=
  h.mapFls

theorem Kept.setLive {g n : Nat} (h : Kept P C s t) : Kept P C s (t.setLive g n) :=
  h.mapFls

theorem Kept.journal {r : JRec} (h : Kept P C s t) : Kept P C s (t.journal r) :=
  h.mapFls

theorem Kept.enterReadOnly (h : Kept P C s t) : Kept P C s t.enterReadOnly :=
  .ite h h.mapFls.journal.mapFls.raise

theorem Kept.attachSpare {hole : Nat} (h : Kept P C s t) : Kept P C s (t.attachSpare hole) := by
  unfold State.attachSpare
  dsimp only
  split
  · exact h
  · exact h.journal.mapFls.when fun h => h.enterReadOnly

theorem Kept.closeSb {sb : Nat} (h : Kept P C s t) : Kept P C s (t.closeSb sb) := by
  unfold State.closeSb
  exact h.setSb.journal.mapFls

theorem Kept.warmDies {new : List (Nat × Nat)} (h : Kept P C s t) : Kept P C s (t.warmDies new) :=
  h.mapFls

theorem Kept.openSb {stream : Nat} (h : Kept P C s t) : KeptTake P C s (t.openSb stream) := by
  unfold State.openSb
  split
  · exact .none
  · exact .some ((((h.foldl fun _ _ h => h.attachSpare).setSb).journal).foldl fun _ _ h => h.journal).mapFls

theorem Kept.programParity {phys : Nat} (h : Kept P C s t) : Kept P C s (t.programParity phys) := by
  unfold State.programParity
  exact h.mapFls

theorem Kept.releaseParity {sb : Nat} (h : Kept P C s t) : Kept P C s (t.releaseParity sb) :=
  h.mapFls

theorem Kept.slotIn {sb : Nat} (h : Kept P C s t) : KeptTake P C s (t.slotIn sb) := by
  unfold State.slotIn
  dsimp only
  split
  · exact .none
  · exact .some (h.setSb.when fun h => h.closeSb).programParity

theorem Kept.nextSlot {stream : Nat} (h : Kept P C s t) : KeptTake P C s (t.nextSlot stream) := by
  unfold State.nextSlot
  split
  · split
    · next e => rw [← e]; exact h.slotIn
    · split
      · exact .none
      · next e => exact (h.closeSb.openSb.of_some e).slotIn
  · split
    · exact .none
    · next e => exact (h.openSb.of_some e).slotIn

theorem Kept.writeUnits {u n k : Nat} (h : Kept P C s t) : KeptOpt P C s (t.writeUnits u n k) := by
  induction k generalizing t u n with
  | zero => exact .some h
  | succ k ih =>
    unfold State.writeUnits
    split
    · exact .none
    · next e => exact ih (((h.nextSlot.of_some e).foldl fun _ _ h => h.setLive).journal).mapMem

theorem Kept.flTake {n : Nat} (h : Kept P C s t) : KeptTake P C s (t.flTake n) := by
  unfold State.flTake
  dsimp only
  split
  · exact .none
  · exact h.writeUnits.mapTake fun _ h => h

theorem Kept.dropUnitMove {u : Nat} (h : Kept P C s t) : Kept P C s (t.dropUnitMove u) :=
  .ite h.mapFls h

theorem Kept.freeGranule {g : Nat} (h : Kept P C s t) : Kept P C s (t.freeGranule g) :=
  h.dropUnitMove.journal

theorem Kept.flFree {loc n : Nat} (h : Kept P C s t) : Kept P C s (t.flFree loc n) :=
  .ite h (h.foldl fun _ _ h => h.setLive.when fun h => h.freeGranule)

theorem Kept.unmapUnit {u : Nat} (h : Kept P C s t) : Kept P C s (t.unmapUnit u) := by
  unfold State.unmapUnit
  exact h.setMapEnt.mapMem

theorem Kept.eraseIfEmpty {sb : Nat} (h : Kept P C s t) : Kept P C s (t.eraseIfEmpty sb) :=
  .ite h.setSb h

theorem Kept.applyRec {r : JRec} (h : Kept P C s t) : Kept P C s (t.applyRec r) := by
  unfold State.applyRec
  dsimp only
  split
  · exact h.setMapEnt
  · exact .ite h (Kept.ite h.unmapUnit h.setMapEnt).eraseIfEmpty
  · exact .ite h h.setMapEnt.eraseIfEmpty
  · exact h.setMapEnt
  · exact h.foldl fun _ _ h => Kept.ite h.unmapUnit h
  · exact h

theorem Kept.loseUnit {u : Nat} (h : Kept P C s t) : Kept P C s (t.loseUnit u) :=
  h.journal

theorem Kept.mediaFault {u page : Nat} (h : Kept P C s t) : Kept P C s (t.mediaFault u page) :=
  h.bump.raise

theorem Kept.journalPage (h : Kept P C s t) : Kept P C s t.journalPage :=
  .ite h (h.mapFls.foldl fun _ _ h => h.applyRec)

theorem Kept.journalAll (h : Kept P C s t) : Kept P C s t.journalAll :=
  h.foldl fun _ _ h => h.journalPage

theorem Kept.writeSystemUnits {u n : Nat} (h : Kept P C s t) : Kept P C s (t.writeSystemUnits u n) := by
  induction n generalizing t u with
  | zero => exact h
  | succ n ih =>
    unfold State.writeSystemUnits
    split
    · exact h
    · next e => exact ih ((h.nextSlot.of_some e).foldl fun _ _ h => h.setLive).journal

theorem Kept.systemWrite {kind bytes : Nat} (h : Kept P C s t) : Kept P C s (t.systemWrite kind bytes) := by
  unfold State.systemWrite
  refine .ite h ?_
  dsimp only
  split
  · exact h
  · refine Kept.mapFls ?_
    split
    · exact h.writeSystemUnits.journalAll
    · exact (h.writeSystemUnits.journalAll.foldl fun _ _ h => (h.foldl fun _ _ h => h.setLive).journal).journalAll

theorem Kept.retireBlock {hole : Nat} (h : Kept P C s t) : Kept P C s (t.retireBlock hole) :=
  .ite h h.journal.mapFls

theorem Kept.blockFault {sb block : Nat} (h : Kept P C s t) : Kept P C s (t.blockFault sb block) :=
  h.setSb.when fun h => h.retireBlock

theorem Kept.unitFault {u : Nat} (h : Kept P C s t) : Kept P C s (t.unitFault u) :=
  h.same.loseUnit.mediaFault.blockFault

theorem Kept.readFault {u : Nat} (h : Kept P C s t) : Kept P C s (t.readFault u) :=
  h.bump.bump.unitFault

theorem Kept.moveUnit {u : Nat} (h : Kept P C s t) : Kept P C s (t.moveUnit u) := by
  unfold State.moveUnit
  refine .ite h ?_
  split
  · next e => exact h
  · next e => exact (h.nextSlot.of_some e).unless fun h => h.journal

theorem Kept.flFault {loc n : Nat} (h : Kept P C s t) : Kept P C s (t.flFault loc n) := by
  unfold State.flFault
  split
  · exact h
  · exact h.mediaFault

/-! ## Pages -/

theorem Kept.setUsed {tier : Nat} {x : Extents} (h : Kept P C s t) : Kept P C s (t.setUsed tier x) := by
  refine h.mapMem ?_ ?_ ?_ <;> split <;> rfl

theorem Kept.takeUnits {tier n : Nat} (h : Kept P C s t) : KeptTake P C s (t.takeUnits tier n) :=
  KeptTake.of_map (fun _ => h.setUsed)

theorem Kept.takePages {tier ratio n : Nat} (h : Kept P C s t) : KeptTake P C s (t.takePages tier ratio n) := by
  induction n generalizing t with
  | zero => exact .some h
  | succ n ih =>
    unfold State.takePages
    split
    · exact .none
    · next e => exact (ih (h.takeUnits.of_some e)).map fun _ h => h

theorem Kept.copyStored {t1 a1 t2 a2 n : Nat} (h : Kept P C s t) : Kept P C s (t.copyStored t1 a1 t2 a2 n) :=
  h.setBytes fun k => wf_pasteBytes a2 n (wf_bytesOf t2 k) (wf_sliceBytes a1 n (wf_bytesOf t1 k))

theorem Kept.retireUnit {u : Nat} (h : Kept P C s t) : Kept P C s (t.retireUnit u) :=
  .ite h.raise (h.mapMem (by split <;> rfl) (by split <;> rfl) (by split <;> rfl)).bump

theorem Kept.retireFreed {loc n : Nat} (h : Kept P C s t) : Kept P C s (t.retireFreed loc n) :=
  h.mapMem.foldl fun _ _ h => h.retireUnit

theorem Kept.releaseUnits {tier loc n : Nat} (h : Kept P C s t) : Kept P C s (t.releaseUnits tier loc n) := by
  have hused : Kept P C s (if tier = 2 then t.flFree loc n else t.setUsed tier (Tbl.drop (t.used tier) loc)) := .ite h.flFree h.setUsed
  exact (hused.setBytes fun k => wf_pasteBytes _ _ (wf_bytesOf tier k) (Tbl.wf_nil _)).when fun h => h.retireFreed

theorem Kept.setRef {loc n : Nat} (h : Kept P C s t) : Kept P C s (t.setRef loc n) :=
  h.mapMem

theorem Kept.dropPage {p : Page} (h : Kept P C s t) : Kept P C s (t.dropPage p) :=
  .ite (h.setRef.when fun h => h.releaseUnits) h.releaseUnits

theorem Kept.dropPages {ps : List Page} (h : Kept P C s t) : Kept P C s (t.dropPages ps) :=
  h.foldl fun _ _ h => h.dropPage

theorem Kept.setWindow {w : Nat} {x : Window} (h : Kept P C s t) : Kept P C s (t.setWindow w x) :=
  h.mapFab

theorem Kept.setDeed {r : DRef} {d : Deed} (h : Kept P C s t) : Kept P C s (t.setDeed r d) := by
  unfold State.setDeed
  dsimp only
  split
  · exact h.mapLore
  · exact h.mapLore
  · exact h.setWindow

theorem Kept.setPlist {r : Nat} {p : PList} (h : Kept P C s t) : Kept P C s (t.setPlist r p) :=
  h.mapMem

theorem Kept.appendPages {x : ListAt} {ps : List Page} (h : Kept P C s t) : Kept P C s (t.appendPages x ps) := by
  unfold State.appendPages
  dsimp only
  split
  · exact h.setPlist
  · exact h.setDeed
  · exact h.setDeed
  · exact h

theorem Kept.emptyList {x : ListAt} (h : Kept P C s t) : Kept P C s (t.emptyList x) := by
  unfold State.emptyList
  dsimp only
  split
  · exact h.setPlist
  · exact h.setDeed
  · exact h.foldl fun _ _ h => Kept.ite h.setDeed h
  · exact h

theorem Kept.execPgAlloc {c : Nat} {w : IWord} (h : Kept P C s t) : KeptOut P C s (execPgAlloc c w t) := by
  unfold Machine.execPgAlloc
  refine .next (h.runInstr fun _ _ => ?_)
  refine KeptRes.ite .fail (KeptRes.ite .fail ?_)
  split
  · next e => exact .fail
  · next e => exact .ok (h.takePages.of_some e).appendPages

theorem Kept.execPgFree {c : Nat} {w : IWord} (h : Kept P C s t) : KeptOut P C s (execPgFree c w t) :=
  .next (h.runInstr fun _ _ => KeptRes.ite .fail (KeptRes.ite .fail (.ok h.dropPages.emptyList)))

theorem Kept.execPgShare {c : Nat} {w : IWord} {d : Bytes} (h : Kept P C s t) : KeptOut P C s (execPgShare c w d t) := by
  unfold Machine.execPgShare
  refine .next (h.runInstr fun _ _ => ?_)
  refine KeptRes.ite .fail ?_
  dsimp only
  split
  · exact .fail
  · exact KeptRes.ite .fail (KeptRes.ite .fail (.ok (h.foldl fun _ _ h => h.setRef).setLan))

theorem Kept.execPgAppend {c : Nat} {w : IWord} {d : Bytes} (h : Kept P C s t) : KeptOut P C s (execPgAppend c w d t) := by
  unfold Machine.execPgAppend
  refine .next (h.runInstr fun _ _ => ?_)
  dsimp only
  split
  · exact .fail
  · exact KeptRes.ite .fail (KeptRes.ite .fail (.ok h.emptyList.appendPages))

theorem Kept.relist {old new : List Page} (h : Kept P C s t) : Kept P C s (t.relist old new) :=
  (h.foldl fun _ _ h => h.setRef).dropPages

theorem Kept.setBody {d : Bytes} {f : List Page → List Page → List Page} (h : Kept P C s t) : KeptRes P C s (t.setBody d f) :=
  KeptRes.afterPre (KeptRes.ite .fail (KeptRes.ite .fail (.ok h.relist.emptyList.appendPages)))

theorem Kept.setUnionBody {d : Bytes} (h : Kept P C s t) : KeptRes P C s (t.setUnionBody d) :=
  h.setBody

theorem Kept.setIntersectBody {d : Bytes} (h : Kept P C s t) : KeptRes P C s (t.setIntersectBody d) :=
  h.setBody

theorem Kept.setDiffBody {d : Bytes} (h : Kept P C s t) : KeptRes P C s (t.setDiffBody d) :=
  h.setBody

theorem Kept.execSetUnion {c : Nat} {w : IWord} {d : Bytes} (h : Kept P C s t) : KeptOut P C s (execSetUnion c w d t) :=
  .next (h.runInstr fun _ _ => h.setUnionBody)

theorem Kept.execSetIntersect {c : Nat} {w : IWord} {d : Bytes} (h : Kept P C s t) : KeptOut P C s (execSetIntersect c w d t) :=
  .next (h.runInstr fun _ _ => h.setIntersectBody)

theorem Kept.execSetDiff {c : Nat} {w : IWord} {d : Bytes} (h : Kept P C s t) : KeptOut P C s (execSetDiff c w d t) :=
  .next (h.runInstr fun _ _ => h.setDiffBody)

/-! ## Frames -/

theorem Kept.setLink {i : Nat} {l : Link} (h : Kept P C s t) : Kept P C s (t.setLink i l) :=
  h.mapFab

theorem Kept.setQueue {link tc : Nat} {q : List QItem} (h : Kept P C s t) : Kept P C s (t.setQueue link tc q) :=
  h.mapFab

theorem Kept.enqueue {link tc : Nat} {q : QItem} (h : Kept P C s t) : Kept P C s (t.enqueue link tc q) :=
  h.setQueue

theorem Kept.dropFrames {p : OutFrame → Bool} (h : Kept P C s t) : Kept P C s (t.dropFrames p) := by
  unfold State.dropFrames
  exact h.mapFab

theorem Kept.queueFrame {f : OutFrame} {promise : Option Nat} {svc : Nat} (h : Kept P C s t) : Kept P C s (t.queueFrame f promise svc) := by
  unfold State.queueFrame
  split
  · exact h
  · exact h.enqueue

theorem Kept.sendNonce {n : NodeId} {d : Digest} (h : Kept P C s t) : Kept P C s (t.sendNonce n d) :=
  h.queueFrame

theorem Kept.sendLeave {n : NodeId} {eviction : Bool} (h : Kept P C s t) : Kept P C s (t.sendLeave n eviction) :=
  h.queueFrame

theorem Kept.clearRefusals (h : Kept P C s t) : Kept P C s t.clearRefusals :=
  h.mapFab

theorem Kept.entryFor {n : NodeId} {initiator : Bool} (h : Kept P C s t) : Kept P C s (t.entryFor n initiator).2 := by
  unfold State.entryFor
  dsimp only
  split
  · exact h
  · split
    · exact h
    · split
      · exact h
      · split
        · exact h.setPartner
        · split
          · exact h.setPartner.sendLeave
          · dsimp only
            exact h.clearRefusals.raise

theorem Kept.startJoin {n : NodeId} (h : Kept P C s t) : Kept P C s (t.startJoin n) := by
  unfold State.startJoin
  refine .ite h ?_
  dsimp only
  split
  · next e => exact h.entryFor.of_snd e
  · next e => exact (h.entryFor.of_snd e).free.setPartner.sendNonce

theorem Kept.send {dst : NodeId} {kind : FrameKind} {tc len : Nat} {pl : Payload} {ref : Nat} {win : Option Nat} {gen offset stamp : Nat}
    {sealBit : Bool} {promise : Option Nat} {svc : Nat} (h : Kept P C s t) :
    Kept P C s (t.send dst kind tc len pl ref win gen offset stamp sealBit promise svc) :=
  h.queueFrame.when fun h => h.startJoin

theorem Kept.sendNack {f : Frame} {kind : FrameKind} {code : Code} (h : Kept P C s t) : Kept P C s (t.sendNack f kind code) :=
  h.send

theorem Kept.knownGen {node : NodeId} {win : Nat} (h : Kept P C s t) : Kept P C s (t.knownGen node win).2 := by
  unfold State.knownGen
  split
  · exact h
  · exact h.same

theorem Kept.evicted {i : Nat} (h : Kept P C s t) : Kept P C s (t.evicted i) :=
  h.setPartner.dropFrames.when fun h => h.startJoin

theorem Kept.released {i : Nat} {p : Nat → Bool} (h : Kept P C s t) : Kept P C s (t.released i p) := by
  unfold State.released
  refine .ite h (h.setPartner.foldl fun _ _ h => ?_)
  dsimp only
  split
  · exact h.mapFab
  · exact .ite h.evicted h
  · exact h.setPartner
  · exact h

theorem Kept.ackUpTo {i a : Nat} (h : Kept P C s t) : Kept P C s (t.ackUpTo i a) :=
  h.released

theorem Kept.pathFault {p : Option Nat} (h : Kept P C s t) : Kept P C s (t.pathFault p) :=
  h.updPromise

theorem Kept.linkFault {link : Nat} (h : Kept P C s t) : Kept P C s (t.linkFault link) :=
  h.mapIo

theorem Kept.linkCheck {f : Frame} (h : Kept P C s t) : Kept P C s (t.linkCheck f).1 := by
  unfold State.linkCheck
  dsimp only
  split
  · exact h
  · split
    · exact h.bump
    · split
      · split
        · dsimp only
          exact h.bump.bump.linkFault.setLink.raise
        · exact h.bump.bump.setLink
      · split
        · exact h.setLink.bump
        · exact h.setLink

theorem Kept.acked {f : Frame} (h : Kept P C s t) : Kept P C s (t.acked f) := by
  unfold State.acked
  split
  · exact h
  · exact .ite h.ackUpTo h

theorem Kept.arrival {f : Frame} {kind : FrameKind} (h : Kept P C s t) : Kept P C s (t.arrival f kind).2 := by
  unfold State.arrival
  dsimp only
  split
  · exact h
  · split
    · next e => exact h.linkCheck.of_fst e
    · next e =>
        split
        · exact h.linkCheck.of_fst e
        · split
          · split
            · exact (h.linkCheck.of_fst e).bump
            · split
              · exact h.linkCheck.of_fst e
              · split
                · exact h.linkCheck.of_fst e
                · split
                  · exact h.linkCheck.of_fst e
                  · split
                    · exact (h.linkCheck.of_fst e).bump.acked
                    · exact (h.linkCheck.of_fst e).bump.setPartner.acked
                    · exact (h.linkCheck.of_fst e).setPartner
          · split
            · exact (h.linkCheck.of_fst e).bump
            · split
              · exact (h.linkCheck.of_fst e).setPartner
              · split
                · exact (h.linkCheck.of_fst e).setPartner
                · split
                  · exact (h.linkCheck.of_fst e).setPartner
                  · split
                    · exact (h.linkCheck.of_fst e).setPartner.bump.acked
                    · exact (h.linkCheck.of_fst e).setPartner.bump.setPartner.acked
                    · exact (h.linkCheck.of_fst e).setPartner.setPartner

theorem Kept.routed {f : Frame} {kind : FrameKind} {effect : State → State} (h : Kept P C s t)
    (he : ∀ u, Kept P C s u → Kept P C s (effect u)) : Kept P C s (t.routed f kind effect) := by
  unfold State.routed
  split
  · exact he _ h
  · split
    · exact he _ h
    · exact h
    · exact h.bump.sendNack
    · exact h.bump.sendNack.raise

/-- The effect of a delivered frame. -/
theorem Kept.receive {f : Frame} {kind : FrameKind} {effect : State → State} (h : Kept P C s t)
    (he : ∀ u, Kept P C s u → Kept P C s (effect u)) : Kept P C s (t.receive f kind effect) := by
  unfold State.receive
  split
  · next e => exact ((h.arrival.of_snd e).routed he).acked
  · next e => exact h.arrival.of_snd e

theorem Kept.setCredit {link tc : Nat} {v : Int} (h : Kept P C s t) : Kept P C s (t.setCredit link tc v) :=
  h.mapFab

theorem Kept.setMove {m : MoveOut} (h : Kept P C s t) : Kept P C s (t.setMove m) :=
  h.mapLore

theorem Kept.setCopy {m : CopyOut} (h : Kept P C s t) : Kept P C s (t.setCopy m) :=
  h.mapFab

theorem Kept.setTc0Used {link m n : Nat} (h : Kept P C s t) : Kept P C s (t.setTc0Used link m n) :=
  h.mapFab

theorem Kept.useTc0 {link : Nat} {f : OutFrame} {fwd : Bool} (h : Kept P C s t) : Kept P C s (t.useTc0 link f fwd) := by
  unfold State.useTc0
  split
  · exact h
  · exact h.setTc0Used

theorem Kept.refillTc0 (h : Kept P C s t) : Kept P C s t.refillTc0 :=
  h.foldl fun _ _ h => h.setTc0Used

theorem Kept.setPort {k turn : Nat} {d : Tbl Nat} (h : Kept P C s t) : Kept P C s (t.setPort k turn d) := by
  unfold State.setPort
  exact h.mapFab

theorem Kept.nextItem {link tc : Nat} (h : Kept P C s t) : Kept P C s (t.nextItem link tc).2 := by
  unfold State.nextItem
  dsimp only
  split
  · exact h
  · split
    · exact h
    · split
      · exact h
      · exact h.setPort

theorem Kept.chargeLink {svc n : Nat} (h : Kept P C s t) : Kept P C s (t.chargeLink svc n) :=
  h.mapLore

theorem Kept.transmit {link ns : Nat} {f : OutFrame} {fwd charged : Bool} {promise : Option Nat} {svc : Nat} (h : Kept P C s t) :
    Kept P C s (t.transmit link ns f fwd charged promise svc) := by
  unfold State.transmit
  refine .ite ((Kept.ite h.setCredit h).when fun h => h.setLink.when fun h => h.raise).emit ?_
  dsimp only
  split
  · exact ((Kept.ite h.setCredit h).when fun h => h.setLink.when fun h => h.raise).emit
  · exact ((Kept.ite h.setCredit h).when fun h => h.setLink.when fun h => h.raise).setPartner.emit.chargeLink

theorem Kept.streamPhases {promise : Option Nat} {first last : Bool} (h : Kept P C s t) : Kept P C s (t.streamPhases promise first last) :=
  (Kept.ite h.endPhase h).when fun h => h.endPhase

theorem Kept.sendItem {link ns tc pos : Nat} {q : QItem} {charged : Bool} (h : Kept P C s t) : Kept P C s (t.sendItem link ns tc pos q charged) := by
  unfold State.sendItem
  dsimp only
  split
  · exact (Kept.ite h.bump h).setQueue.useTc0.transmit
  · split
    · exact h.setQueue
    · exact (Kept.ite h.subQueued.streamPhases.setQueue h.subQueued.streamPhases.setQueue).setMove.transmit
  · split
    · exact h.setQueue
    · exact (Kept.ite h.subQueued.streamPhases.setQueue h.subQueued.streamPhases.setQueue).setCopy.transmit

theorem Kept.execLinkTransmitSelect {link ns : Nat} (h : Kept P C s t) : KeptOut P C s (execLinkTransmitSelect link ns t) := by
  unfold Machine.execLinkTransmitSelect
  refine .next (Kept.ite h ?_)
  dsimp only
  split
  · split
    · next e => exact (h.nextItem.of_snd e).sendItem
    · next e => exact h.nextItem.of_snd e
  · split
    · split
      · next e => exact (h.nextItem.of_snd e).sendItem
      · next e => exact h.nextItem.of_snd e
    · exact h

theorem Kept.dropStream {p : QItem → Bool} (h : Kept P C s t) : Kept P C s (t.dropStream p) :=
  h.mapFab

/-! ## Deeds -/

theorem Kept.keepHosted {n : Nat} (h : Kept P C s t) : Kept P C s (t.keepHosted n) :=
  h.mapLore

theorem Kept.unkeepHosted {n : Nat} (h : Kept P C s t) : Kept P C s (t.unkeepHosted n) :=
  h.mapLore

theorem Kept.freeData {r : DRef} (h : Kept P C s t) : Kept P C s (t.freeData r) :=
  h.dropPages.setDeed

theorem Kept.away {r : DRef} {home : NodeId} {epoch : Nat} (h : Kept P C s t) : Kept P C s (t.away r home epoch) := by
  unfold State.away
  dsimp only
  split
  · exact h.freeData.setDeed
  · exact h.freeData.setDeed
  · exact h.freeData.setDeed

theorem Kept.toEmber {l d epoch : Nat} (h : Kept P C s t) : Kept P C s (t.toEmber l d epoch) :=
  h.setDeed.setLan

theorem Kept.startTimer {l : Nat} (h : Kept P C s t) : Kept P C s (t.startTimer l) :=
  h.setLan

theorem Kept.lanternBack {l : Nat} (h : Kept P C s t) : Kept P C s (t.lanternBack l) :=
  h.setLan

theorem Kept.freeLantern {l : Nat} (h : Kept P C s t) : Kept P C s (t.freeLantern l) :=
  (h.dropPages.foldl fun _ _ h => h.freeData.setDeed).setLan

theorem Kept.supersede {r : DRef} {home : NodeId} {epoch : Nat} {conflict : Bool} (h : Kept P C s t) :
    Kept P C s (t.supersede r home epoch conflict) :=
  h.away.raise.when fun h => h.raise

theorem Kept.settle205 {r : DRef} {partner : NodeId} {epoch : Nat} (h : Kept P C s t) : Kept P C s (t.settle205 r partner epoch) :=
  .ite h (Kept.ite h.raise (Kept.ite h.supersede h.setDeed.raise))

theorem Kept.deedMessage {k : DeedKey} {src : NodeId} {epoch : Nat} {homeThere : Bool} (h : Kept P C s t) :
    Kept P C s (t.deedMessage k src epoch homeThere) := by
  unfold State.deedMessage
  split
  · exact h
  · exact .ite h (Kept.ite h.settle205 (Kept.ite h.supersede h))

theorem Kept.sendDeed {dst : NodeId} {p : Payload} (h : Kept P C s t) : Kept P C s (t.sendDeed dst p) :=
  h.send

theorem Kept.homeNotice {k : DeedKey} {epoch : Nat} (h : Kept P C s t) : Kept P C s (t.homeNotice k epoch) :=
  h.sendDeed

theorem Kept.startMove {o : Owner} {ring slot : Nat} {dst : NodeId} {p : MovePlan} {tc svc k n : Nat} {promise : Option Nat} {order : Nat}
    {parked : Bool} (h : Kept P C s t) :
    Kept P C s (t.startMove o ring slot dst p tc svc k n promise order parked) := by
  unfold State.startMove
  dsimp only
  split
  · refine (Kept.keepHosted ?_).mapLore.send
    split
    · exact h.endPhase.foldl fun _ _ h => h.setDeed
    · exact (h.endPhase.foldl fun _ _ h => h.setDeed).setLan
  · refine (Kept.keepHosted ?_).mapLore.send.enqueue.publish
    split
    · exact h.endPhase.foldl fun _ _ h => h.setDeed
    · exact (h.endPhase.foldl fun _ _ h => h.setDeed).setLan

theorem Kept.dropMove {m : MoveOut} (h : Kept P C s t) : Kept P C s (t.dropMove m) :=
  h.subQueued.dropStream.mapLore.unkeepHosted

theorem Kept.retryPark {m : MoveOut} {code : Code} (h : Kept P C s t) : Kept P C s (t.retryPark m code) := by
  unfold State.retryPark
  dsimp only
  split
  · exact .ite h.setLan h.setLan
  · exact h

theorem Kept.moveReturned {m : MoveOut} {code : Code} {excused : Bool} (h : Kept P C s t) : Kept P C s (t.moveReturned m code excused) := by
  unfold State.moveReturned
  refine (Kept.dropMove ?_).retryPark.failPromise.finish
  dsimp only
  split
  · exact h.foldl fun _ _ h => h.setDeed
  · exact (h.foldl fun _ _ h => h.setDeed).lanternBack

end Sys2Proof.Machine

end

section

set_option Elab.async false

/-! What the operations on pages, lanterns, requests, deeds and steps keep. -/

namespace Sys2Proof.Machine

variable {P C : Prop} {s t u : State}

/-! ## Deeds -/

theorem Kept.moveOrphaned {m : MoveOut} (h : Kept P C s t) : Kept P C s (t.moveOrphaned m) := by
  unfold State.moveOrphaned
  refine (Kept.updPromise ?_).dropMove.failPromise.finish
  dsimp only
  split
  · exact h.foldl fun _ _ h => h.setDeed.raise
  · exact (h.foldl fun _ _ h => h.setDeed.raise).setLan.raise

theorem Kept.repoint {old new : DRef} (h : Kept P C s t) : Kept P C s (t.repoint old new) := by
  unfold State.repoint
  exact h.mapLore

theorem Kept.hostDeeds {ds : List (DRef × Deed)} {keeper : NodeId} {keeperLantern : Nat} (h : Kept P C s t) :
    Kept P C s (t.hostDeeds ds keeper keeperLantern) := by
  unfold State.hostDeeds
  refine h.foldl fun _ _ h => ?_
  dsimp only
  split
  · exact h
  · exact h.setDeed.repoint.setDeed

theorem Kept.leaveHosted {l : Nat} {moved : List DRef} {keeper : NodeId} {keeperLantern : Nat} (h : Kept P C s t) :
    Kept P C s (t.leaveHosted l moved keeper keeperLantern) :=
  h.hostDeeds

theorem Kept.clearRequest {r : Nat} (h : Kept P C s t) : Kept P C s (t.clearRequest r) :=
  h.setRequest

theorem Kept.logReleased {m : MoveOut} {lantern commit : Option Nat} (h : Kept P C s t) : Kept P C s (t.logReleased m lantern commit) := by
  unfold State.logReleased
  exact h.mapLore

theorem Kept.moveFreed {m : MoveOut} {lantern commit : Option Nat} (h : Kept P C s t) : Kept P C s (t.moveFreed m lantern commit) := by
  unfold State.moveFreed
  dsimp only
  split
  · refine (Kept.dropMove ?_).setOut.keepPromise.finish
    split
    · exact h.logReleased.foldl fun _ _ h => h.away
    · refine (Kept.unkeepHosted ?_).leaveHosted.keepHosted.freeLantern
      split
      · exact h.logReleased.foldl fun _ _ h => h.away
      · exact (h.logReleased.foldl fun _ _ h => h.away).clearRequest
  · refine (Kept.dropMove ?_).setOut.updPromise.failPromise.finish
    split
    · exact h.logReleased.foldl fun _ _ h => h.away
    · refine (Kept.unkeepHosted ?_).leaveHosted.keepHosted.freeLantern
      split
      · exact h.logReleased.foldl fun _ _ h => h.away
      · exact (h.logReleased.foldl fun _ _ h => h.away).clearRequest

theorem Kept.bodyMove {c : Nat} {w : IWord} {x : Ctx} (h : Kept P C s t) : KeptRes P C s (t.bodyMove c w x) := by
  unfold State.bodyMove
  refine KeptRes.afterPre ?_
  dsimp only
  split
  · exact .fail
  · split
    · next e => exact h.admitAt.of_no e
    · next e => exact .wait (h.admitAt.of_go e).startMove

theorem Kept.execMoveState {c : Nat} {w : IWord} (h : Kept P C s t) : KeptOut P C s (execMoveState c w t) :=
  .next (h.runInstr fun _ _ => h.bodyMove)

theorem Kept.takeRatios {l : List Nat} (h : Kept P C s t) : KeptTake P C s (t.takeRatios l) := by
  induction l generalizing t with
  | nil => exact .some h
  | cons r l ih =>
    unfold State.takeRatios
    split
    · exact .none
    · next e => exact (ih (h.takeUnits.of_some e)).map fun _ h => h

theorem Kept.takeDeeds {src : NodeId} {lantern : Option Nat} {l : List OpenDeed} (h : Kept P C s t) : KeptTake P C s (t.takeDeeds src lantern l) := by
  induction l generalizing t with
  | nil => exact .some h
  | cons d l ih =>
    unfold State.takeDeeds
    split
    · exact .none
    · split
      · exact .none
      · next e => exact (ih (h.takeRatios.of_some e).setDeed).map fun _ h => h

theorem Kept.logReceipt {r : Receipt} (h : Kept P C s t) : Kept P C s (t.logReceipt r) :=
  h.mapLore

theorem Kept.logAbandoned {m : MoveIn} (h : Kept P C s t) : Kept P C s (t.logAbandoned m) := by
  unfold State.logAbandoned
  exact h.mapLore

theorem Kept.abandon {m : MoveIn} (h : Kept P C s t) : Kept P C s (t.abandon m) := by
  unfold State.abandon
  refine Kept.mapLore ?_
  dsimp only
  split
  · split
    · refine (h.foldl fun _ _ h => ?_).logAbandoned
      split
      · exact .ite h.dropPages.setDeed h.dropPages.setDeed
      · exact h.dropPages.setDeed
    · refine (h.foldl fun _ _ h => ?_).logAbandoned.dropPages.setLan
      split
      · exact .ite h.dropPages.setDeed h.dropPages.setDeed
      · exact h.dropPages.setDeed
  · refine Kept.clearRequest ?_
    split
    · refine (h.foldl fun _ _ h => ?_).logAbandoned
      split
      · exact .ite h.dropPages.setDeed h.dropPages.setDeed
      · exact h.dropPages.setDeed
    · refine (h.foldl fun _ _ h => ?_).logAbandoned.dropPages.setLan
      split
      · exact .ite h.dropPages.setDeed h.dropPages.setDeed
      · exact h.dropPages.setDeed

theorem Kept.writeStream {ps : List Page} {off : Nat} {b : Bytes} (h : Kept P C s t) : Kept P C s (t.writeStream ps off b) := by
  induction ps generalizing t off b with
  | nil => exact h
  | cons p ps ih =>
    unfold State.writeStream
    refine .ite (ih h) ?_
    exact (h.setBytes fun k => Tbl.wf_writeBytes _ _ (wf_bytesOf _ k)).unless fun h => ih h

theorem Kept.arriveLantern {m : MoveIn} {l : Nat} {o : OpenLantern} (h : Kept P C s t) : Kept P C s (t.arriveLantern m l o) := by
  unfold State.arriveLantern
  dsimp only
  split
  · refine (h.setLan.foldl fun _ _ h => ?_).setRequest
    split
    · exact h.setDeed.repoint.setDeed
    · exact h.setDeed
  · refine h.setLan.foldl fun _ _ h => ?_
    split
    · exact h.setDeed.repoint.setDeed
    · exact h.setDeed

theorem Kept.moveCommit {m : MoveIn} (h : Kept P C s t) : Kept P C s (t.moveCommit m) := by
  unfold State.moveCommit
  refine ((Kept.logReceipt ?_).foldl fun _ _ h => Kept.ite h.homeNotice h).mapLore.send
  dsimp only
  split
  · exact (h.foldl fun _ _ h => h.setDeed).arriveLantern
  · exact h.foldl fun _ _ h => h.setDeed

theorem Kept.execMoveDataReceive {f : Frame} {data : Bytes} {checkOk : Bool} (h : Kept P C s t) :
    KeptOut P C s (execMoveDataReceive f data checkOk t) := by
  unfold Machine.execMoveDataReceive
  refine .next (h.receive fun _ h => ?_)
  dsimp only
  split
  · exact .ite h.sendNack h
  · exact .ite h.writeStream.mapLore (Kept.ite h.writeStream.mapLore.abandon.sendNack h.writeStream.mapLore.moveCommit)

theorem Kept.execMoveReceiptReceive {f : Frame} {r : MoveReceipt} (h : Kept P C s t) : KeptOut P C s (execMoveReceiptReceive f r t) := by
  unfold Machine.execMoveReceiptReceive
  refine .next (h.receive fun _ h => ?_)
  split
  · exact h
  · exact h.moveFreed

theorem Kept.execMoveAbortReceive {f : Frame} (h : Kept P C s t) : KeptOut P C s (execMoveAbortReceive f t) := by
  unfold Machine.execMoveAbortReceive
  refine .next (h.receive fun _ h => ?_)
  split
  · exact h
  · exact h.abandon

theorem Kept.execMoveKill {ring slot : Nat} (h : Kept P C s t) : KeptOut P C s (execMoveKill ring slot t) := by
  unfold Machine.execMoveKill
  refine .next (Kept.ite h ?_)
  split
  · exact h
  · exact h.send.moveReturned

theorem Kept.queryMove {m : MoveOut} (h : Kept P C s t) : Kept P C s (t.queryMove m) := by
  unfold State.queryMove
  split
  · exact h
  · exact .ite h h.sendDeed

theorem Kept.execReceiptDeadlineExpiry {mv : Nat} (h : Kept P C s t) : KeptOut P C s (execReceiptDeadlineExpiry mv t) := by
  unfold Machine.execReceiptDeadlineExpiry
  refine .next ?_
  dsimp only
  split
  · exact h
  · exact .ite h.setMove.queryMove h

theorem Kept.execDeedQueryRepeat {mv : Nat} (h : Kept P C s t) : KeptOut P C s (execDeedQueryRepeat mv t) := by
  unfold Machine.execDeedQueryRepeat
  refine .next ?_
  dsimp only
  split
  · exact .ite h.setMove.queryMove h
  · split
    · exact h
    · exact .ite h.mapLore.sendDeed h

theorem Kept.execDeedTimeoutOrphan {mv : Nat} (h : Kept P C s t) : KeptOut P C s (execDeedTimeoutOrphan mv t) := by
  unfold Machine.execDeedTimeoutOrphan
  refine .next ?_
  dsimp only
  split
  · exact h
  · exact .ite h.moveOrphaned h

theorem Kept.execIncomingAbandon {mv : Nat} (h : Kept P C s t) : KeptOut P C s (execIncomingAbandon mv t) := by
  unfold Machine.execIncomingAbandon
  refine .next ?_
  split
  · exact h
  · exact .ite h.abandon h

theorem Kept.execDeedQueryReceive {f : Frame} {q : DeedQuery} (h : Kept P C s t) : KeptOut P C s (execDeedQueryReceive f q t) :=
  .next (h.receive fun _ h => h.sendDeed.deedMessage)

theorem Kept.answerIn {m : MoveIn} {a : DeedAnswer} (h : Kept P C s t) : Kept P C s (t.answerIn m a) :=
  .ite h h.abandon

theorem Kept.execDeedAnswerReceive {f : Frame} {a : DeedAnswer} (h : Kept P C s t) : KeptOut P C s (execDeedAnswerReceive f a t) := by
  unfold Machine.execDeedAnswerReceive
  refine .next (h.receive fun _ h => ?_)
  dsimp only
  split
  · split
    · exact h.moveFreed
    · exact h
    · exact h.moveReturned
    · exact h.moveOrphaned
  · split
    · exact h.deedMessage.mapLore.setOut.finish
    · split
      · exact h.deedMessage
      · exact h.deedMessage.answerIn

theorem Kept.queryIn {m : MoveIn} (h : Kept P C s t) : Kept P C s (t.queryIn m) := by
  unfold State.queryIn
  dsimp only
  split
  · exact h
  · exact .ite h h.mapLore.sendDeed

theorem Kept.queryIncoming (h : Kept P C s t) : Kept P C s t.queryIncoming :=
  h.foldl fun _ _ h => h.queryIn

theorem Kept.bodyQuery {c : Nat} {w : IWord} (h : Kept P C s t) : KeptRes P C s (t.bodyQuery c w) := by
  unfold State.bodyQuery
  dsimp only
  split
  · exact .fail
  · exact KeptRes.ite .fail (KeptRes.ite (.ok h.setOut) (.wait h.mapLore.sendDeed))

theorem Kept.execDeedQuery {c : Nat} {w : IWord} (h : Kept P C s t) : KeptOut P C s (execDeedQuery c w t) :=
  .next (h.runInstr fun _ _ => h.bodyQuery)

theorem Kept.execDeedQueryTimeout {c : Nat} (h : Kept P C s t) : KeptOut P C s (execDeedQueryTimeout c t) := by
  unfold Machine.execDeedQueryTimeout
  refine .next ?_
  split
  · exact h
  · exact .ite h.mapLore.finish h

theorem Kept.notice {n : DeedNotice} {src : NodeId} {ember : Bool} (h : Kept P C s t) : Kept P C s (t.notice n src ember) := by
  unfold State.notice
  dsimp only
  split
  · exact h
  · split
    · exact .ite h (Kept.ite h.toEmber h.setDeed)
    · exact .ite (Kept.ite h.supersede h) (Kept.ite h h.settle205)
    · exact h

theorem Kept.execHomeNoticeReceive {f : Frame} {n : DeedNotice} (h : Kept P C s t) : KeptOut P C s (execHomeNoticeReceive f n t) :=
  .next (h.receive fun _ h => h.notice)

theorem Kept.execEmberNoticeReceive {f : Frame} {n : DeedNotice} (h : Kept P C s t) : KeptOut P C s (execEmberNoticeReceive f n t) :=
  .next (h.receive fun _ h => h.notice)

theorem Kept.execDecreeNoticeReceive {f : Frame} {n : DecreeNotice} (h : Kept P C s t) : KeptOut P C s (execDecreeNoticeReceive f n t) := by
  unfold Machine.execDecreeNoticeReceive
  refine .next (h.receive fun _ h => ?_)
  refine Kept.sendDeed ?_
  dsimp only
  split
  · exact .ite h.setDeed h.raise
  · exact h.raise

theorem Kept.endDecrees {n : NodeId} (h : Kept P C s t) : Kept P C s (t.endDecrees n) :=
  h.mapLore.foldl fun _ _ h => h.raise

theorem Kept.reconnect {n : NodeId} (h : Kept P C s t) : Kept P C s (t.reconnect n) := by
  unfold State.reconnect
  refine h.foldl fun _ _ h => ?_
  split
  · exact h
  · exact .ite h h.sendDeed

theorem Kept.execDecreeNoticeRepeat {id : Nat} (h : Kept P C s t) : KeptOut P C s (execDecreeNoticeRepeat id t) := by
  unfold Machine.execDecreeNoticeRepeat
  refine .next ?_
  dsimp only
  split
  · exact h
  · exact .ite h.mapLore.sendDeed h

theorem Kept.execDecreeAckReceive {f : Frame} {a : DecreeAck} (h : Kept P C s t) : KeptOut P C s (execDecreeAckReceive f a t) := by
  unfold Machine.execDecreeAckReceive
  refine .next (h.receive fun _ h => ?_)
  dsimp only
  split
  · exact h
  · exact h.mapLore.unless fun h => h.foldl fun _ _ h => Kept.ite h.setDeed h

theorem Kept.bodyDecree {w : IWord} {d : Bytes} (h : Kept P C s t) : KeptRes P C s (t.bodyDecree w d) := by
  unfold State.bodyDecree
  refine KeptRes.afterPre ?_
  dsimp only
  split
  · exact .fail
  · refine KeptRes.ite (.ok ?_) (.ok (Kept.mapLore ?_).sendDeed)
    · split
      · exact h.setDeed.when fun h => h.setLan.startTimer
      · exact h.setDeed
    · split
      · exact h.leaveHosted.freeLantern
      · exact h.away

theorem Kept.execDeedDecree {c : Nat} {w : IWord} {d : Bytes} (h : Kept P C s t) : KeptOut P C s (execDeedDecree c w d t) :=
  .next (h.runInstr fun _ _ => h.bodyDecree)

theorem Kept.bodyRelease {w : IWord} (h : Kept P C s t) : KeptRes P C s (t.bodyRelease w) := by
  unfold State.bodyRelease
  refine KeptRes.afterPre ?_
  dsimp only
  split
  · exact .fail
  · refine .ok ?_
    split
    · exact h.freeData.setDeed
    · exact h.freeData.setDeed

theorem Kept.execDeedRelease {c : Nat} {w : IWord} (h : Kept P C s t) : KeptOut P C s (execDeedRelease c w t) :=
  .next (h.runInstr fun _ _ => h.bodyRelease)

/-! ## Codec -/

theorem Kept.countFr {c : FrCount} (h : Kept P C s t) : Kept P C s (t.countFr c) :=
  h.bump.bump.bump

theorem Kept.recode {fmt ratio : Nat} {p : Page} (h : Kept P C s t) : KeptTake P C s (t.recode fmt ratio p) := by
  unfold State.recode
  split
  · exact .none
  · next e =>
    dsimp only
    exact .some ((h.takeUnits.of_some e).setBytes fun k => Tbl.wf_writeBytes _ _ (wf_bytesOf 0 k)).countFr

theorem Kept.recodeList {fmt ratio : Nat} {l : List Page} (h : Kept P C s t) : KeptTake P C s (t.recodeList fmt ratio l) := by
  induction l generalizing t with
  | nil => exact .some h
  | cons p l ih =>
    unfold State.recodeList
    refine .ite ((ih h).map fun _ h => h) ?_
    split
    · exact .none
    · next e => exact (ih (h.recode.of_some e)).map fun _ h => h

theorem Kept.freeOld {old new : List Page} (h : Kept P C s t) : Kept P C s (t.freeOld old new) :=
  h.foldl fun _ _ h => Kept.ite h h.dropPage

theorem Kept.setObj {i : Nat} {o : Obj} (h : Kept P C s t) : Kept P C s (t.setObj i o) :=
  h.mapMem

theorem Kept.objPut {o : Obj} {rel : Nat} {data : Bytes} (h : Kept P C s t) : Kept P C s (t.objPut o rel data) :=
  .ite (h.setBytes fun k => Tbl.wf_writeBytes _ _ (wf_bytesOf 0 k))
    (h.foldl fun _ _ h => (h.setBytes fun k => Tbl.wf_writeBytes _ _ (wf_bytesOf 0 k)).countFr)

theorem Kept.snoop {line : Nat} {inv : Bool} (h : Kept P C s t) : Kept P C s (t.snoop line inv) :=
  .ite h.mapCxl.emit h

theorem Kept.callBack {reads writes : List (Nat × Nat)} (h : Kept P C s t) : Kept P C s (t.callBack reads writes) :=
  (h.foldl fun _ _ h => h.snoop).foldl fun _ _ h => h.snoop

/-- An instruction that starts once the host has answered. -/
theorem Kept.coherent {c op : Nat} {w : IWord} {ok : Bool} {reads writes : List (Nat × Nat)} {go : State → State} (h : Kept P C s t)
    (hgo : ∀ u, Kept P C s u → Kept P C s (go u)) : Kept P C s (t.coherent c op w ok reads writes go) :=
  .ite h.callBack.mapCxl (hgo t h)

theorem Kept.readWord {k : Nat} (h : Kept P C s t) : Kept P C s (t.readWord k).2 := by
  unfold State.readWord
  split
  · exact h
  · exact h.setCommons.bump
  · exact h.bump

theorem Kept.readWords {l : List Nat} (h : Kept P C s t) : Kept P C s (t.readWords l).2 := by
  induction l generalizing t with
  | nil => exact h
  | cons k l ih => exact ih h.readWord

theorem Kept.readCommons {off n : Nat} (h : Kept P C s t) : Kept P C s (t.readCommons off n).2 :=
  h.readWords

theorem Kept.putCommons {off : Nat} {b : Bytes} (h : Kept P C s t) : Kept P C s (t.putCommons off b) := by
  induction b generalizing t off with
  | nil => exact h
  | cons x b ih => exact ih (h.when fun h => h.setCommons)

theorem Kept.writeAt {addr : Nat} {b : Bytes} (h : Kept P C s t) : Kept P C s (t.writeAt addr b) := by
  unfold State.writeAt
  split
  · exact h.setBytes fun k => Tbl.wf_writeBytes _ _ (wf_bytesOf 0 k)
  · exact h.putCommons
  · split
    · exact .ite h h.objPut
    · exact .ite h h.emit

/-- An output that is written, and what follows it. -/
theorem Kept.writeOut {addr : Nat} {b : Bytes} {k : State → State} (h : Kept P C s t) (hk : ∀ u, Kept P C s u → Kept P C s (k u)) :
    KeptRes P C s (t.writeOut addr b k) :=
  .ite (.failAs h) (.ok (hk _ h.writeAt))

theorem Kept.sourceAt {addr len : Nat} {given : Bytes} (h : Kept P C s t) : Kept P C s (t.sourceAt addr len given).2 := by
  unfold State.sourceAt
  split
  · exact h
  · exact h.readCommons
  · exact h

theorem Kept.replaceList {x : ListAt} {new : List Page} (h : Kept P C s t) : Kept P C s (t.replaceList x new) := by
  unfold State.replaceList
  dsimp only
  split
  · exact h.setPlist
  · exact h.setDeed
  · exact h.foldFst fun _ _ h => h.setDeed
  · exact h

theorem Kept.recodeAt {x : ListAt} {model ratio : Nat} (h : Kept P C s t) : KeptOpt P C s (t.recodeAt x model ratio) :=
  h.recodeList.mapOpt fun _ h => h.freeOld.replaceList

theorem Kept.codecFails {code : Code} (h : Kept P C s t) : KeptRes P C s (t.codecFails code) :=
  .failAs (Kept.ite h.bump h)

theorem Kept.fixedBody {d : Bytes} {ratio : Nat} {fail : Option Code} (h : Kept P C s t) : KeptRes P C s (t.fixedBody d ratio fail) := by
  unfold State.fixedBody
  dsimp only
  split
  · exact h.codecFails
  · split
    · next e => exact .fail
    · next e => exact .ok (h.recodeAt.of_some e)

theorem Kept.packBody {c pc : Nat} {w : IWord} {d src : Bytes} {fail : Option Code} (h : Kept P C s t) :
    KeptRes P C s (t.packBody c pc w d src fail) := by
  unfold State.packBody
  refine KeptRes.afterPre (KeptRes.ite h.fixedBody ?_)
  split
  · exact h.codecFails
  · split
    · next e => exact .failAs (h.sourceAt.of_snd e)
    · next e => exact (h.sourceAt.of_snd e).writeOut fun _ h => h.bump.setOut

theorem Kept.countExpand {i input output : Nat} {r : Option Code} (h : Kept P C s t) : Kept P C s (t.countExpand i input output r) := by
  unfold State.countExpand
  dsimp only
  split
  · exact h.setRegN.setRegN.bump
  · exact h.setRegN.setRegN.bump
  · exact h.setRegN.setRegN.bump
  · exact h.setRegN.setRegN

theorem Kept.unpackBody {c pc meadow : Nat} {w : IWord} {d src : Bytes} {fail : Option Code} (h : Kept P C s t) :
    KeptRes P C s (t.unpackBody c pc meadow w d src fail) := by
  unfold State.unpackBody
  refine KeptRes.afterPre (KeptRes.ite h.fixedBody ?_)
  dsimp only
  split
  · exact h.codecFails
  · split
    · next e => exact .failAs (h.sourceAt.of_snd e)
    · next e =>
        split
        · exact .failAs (h.sourceAt.of_snd e).countExpand
        · exact (h.sourceAt.of_snd e).countExpand.writeOut fun _ h => h.setOut

theorem Kept.execPack {c : Nat} {w : IWord} {d src : Bytes} {fail : Option Code} (h : Kept P C s t) : KeptOut P C s (execPack c w d src fail t) :=
  .next (h.coherent fun _ h => h.runInstr fun _ _ => h.packBody)

theorem Kept.execUnpack {c : Nat} {w : IWord} {d src : Bytes} {fail : Option Code} (h : Kept P C s t) : KeptOut P C s (execUnpack c w d src fail t) :=
  .next (h.coherent fun _ h => h.runInstr fun _ _ => h.unpackBody)

/-! ## Lanterns -/

theorem Kept.freeAdapter {v : Nat} (h : Kept P C s t) : Kept P C s (t.freeAdapter v) :=
  (h.foldl fun _ _ h => h.dropPages).mapMem.bump

theorem Kept.reapAdapters (h : Kept P C s t) : Kept P C s t.reapAdapters :=
  h.foldl fun _ _ h => h.freeAdapter

theorem Kept.bodyCreate {c : Nat} {w : IWord} {d : Bytes} (h : Kept P C s t) : KeptRes P C s (t.bodyCreate c w d) := by
  unfold State.bodyCreate
  refine KeptRes.ite .fail ?_
  dsimp only
  split
  · exact .fail
  · exact KeptRes.ite .fail (.ok h.setLan.startTimer.setDeed.setOut)

theorem Kept.execLtnCreate {c : Nat} {w : IWord} {d : Bytes} (h : Kept P C s t) : KeptOut P C s (execLtnCreate c w d t) :=
  .next (h.runInstr fun _ _ => h.bodyCreate)

theorem Kept.closeLantern {l : Nat} (h : Kept P C s t) : Kept P C s (t.closeLantern l) :=
  h.hostDeeds.freeLantern.reapAdapters

theorem Kept.execLtnClose {c : Nat} {w : IWord} (h : Kept P C s t) : KeptOut P C s (execLtnClose c w t) :=
  .next (h.runInstr fun _ _ => KeptRes.afterPre (.ok h.closeLantern))

theorem Kept.execLtnQuery {c : Nat} {w : IWord} (h : Kept P C s t) : KeptOut P C s (execLtnQuery c w t) :=
  .next (h.coherent fun _ h => h.runInstr fun _ _ => KeptRes.afterPre (h.writeOut fun _ h => h.setOut))

theorem Kept.rearm {l i : Nat} (h : Kept P C s t) : Kept P C s (t.rearm l i) :=
  h.setLan

theorem Kept.retryTimer {l : Nat} (h : Kept P C s t) : Kept P C s (t.retryTimer l) :=
  h.setLan

theorem Kept.parkPlaces {tier : Nat} {ps : List Page} (h : Kept P C s t) : KeptTake P C s (t.parkPlaces tier ps) := by
  unfold State.parkPlaces
  split
  · exact .some h
  · refine KeptTake.foldlM h fun _ _ h => ?_
    exact .ite (.some h) (h.takeUnits.map fun _ h => h)
  · exact .ite (.some h) (h.flTake.map fun _ h => h)

theorem Kept.publishPark {tier : Nat} {o : Owner} {position total : Nat} (h : Kept P C s t) : Kept P C s (t.publishPark tier o position total) :=
  .ite h.publish h

theorem Kept.startPark {l tier : Nat} {o : Owner} {waiting : Option Owner} (h : Kept P C s t) : KeptOpt P C s (t.startPark l tier o waiting) :=
  h.parkPlaces.mapOpt fun _ h => h.setLan.mapLore.addQueued.publishPark

theorem Kept.startCachePark {l : Nat} {o : Owner} {ring slot : Nat} (h : Kept P C s t) : KeptExc P C s (t.startCachePark l o ring slot) := by
  unfold State.startCachePark
  dsimp only
  split
  · exact .error
  · exact KeptExc.ite .error (.ok h.addQueued.startMove)

theorem Kept.waitPacked {l : Nat} {o : Owner} (h : Kept P C s t) : Kept P C s (t.waitPacked l o) :=
  .ite h (h.startPark.getD h)

theorem Kept.copyPages {old new : List Page} (h : Kept P C s t) : Kept P C s (t.copyPages old new) :=
  h.foldl fun _ _ h => Kept.ite h h.copyStored

theorem Kept.parkFailed {p : Park} {code : Code} (h : Kept P C s t) : Kept P C s (t.parkFailed p code) := by
  unfold State.parkFailed
  refine Kept.finish ?_
  split
  · exact h.dropPages.lanternBack.retryTimer
  · exact h.dropPages.lanternBack

theorem Kept.noTier {l : Nat} (h : Kept P C s t) : Kept P C s (t.noTier l) :=
  h.raise.retryTimer.setLan

theorem Kept.engineParkHere {l tier : Nat} (h : Kept P C s t) : Kept P C s (t.engineParkHere l tier) := by
  unfold State.engineParkHere
  refine .ite h.waitPacked ?_
  split
  · next e => exact h.retryTimer
  · next e => exact h.startPark.of_some e

theorem Kept.enginePark {l tier : Nat} (h : Kept P C s t) : Kept P C s (t.enginePark l tier) := by
  unfold State.enginePark
  refine .ite ?_ h.engineParkHere
  split
  · next e => exact h.startCachePark.of_ok e
  · next e =>
      split
      · exact h.engineParkHere
      · exact h.noTier

theorem Kept.idleScan {l : Nat} (h : Kept P C s t) : Kept P C s (t.idleScan l) := by
  unfold State.idleScan
  refine .ite h ?_
  dsimp only
  split
  · exact .ite h.rearm (Kept.ite h.enginePark (Kept.ite h.retryTimer h.noTier))
  · refine .ite h.rearm ?_
    split
    · exact h.enginePark
    · exact h.noTier
  · refine .ite h.rearm ?_
    split
    · exact h.enginePark
    · exact h.noTier
  · exact h

theorem Kept.resumed {l : Nat} {near : Bool} (h : Kept P C s t) : Kept P C s (t.resumed l near) := by
  unfold State.resumed
  dsimp only
  split
  · exact h.setLan.setRequest
  · exact h.setLan.startTimer

theorem Kept.unpacked {l : Nat} (h : Kept P C s t) : KeptOpt P C s (t.unpacked l) :=
  KeptOpt.ite h.recodeAt (.some h)

theorem Kept.failAdmitted {req : Option Nat} {code : Code} (h : Kept P C s t) : Kept P C s (t.failAdmitted req code) := by
  unfold State.failAdmitted
  dsimp only
  split
  · exact h
  · exact .ite h.endRequest.setRequest h

theorem Kept.resumeRefused {l c : Nat} {r : IRes} (h : Kept P C s t) (hr : KeptRes P C s r) : KeptRes P C s (t.resumeRefused l c r) := by
  cases hr with
  | fail => exact .failAs h.failAdmitted
  | failAs hr => exact .failAs hr.failAdmitted
  | ok hr => exact .ok hr
  | jump hr => exact .jump hr
  | failAt hr => exact .failAt hr
  | wait hr => exact .wait hr
  | halt hr => exact .halt hr

theorem Kept.bodyResume {c : Nat} {w : IWord} {x : Ctx} (h : Kept P C s t) : KeptRes P C s (t.bodyResume c w x) := by
  unfold State.bodyResume
  refine h.resumeRefused (.afterPre ?_)
  split
  · next e => exact h.admitAt.of_no e
  · next s1 _ _ e =>
    extract_lets +onlyGivenNames tier s2 req r s3 waits
    have h3 : Kept P C s s3 := (h.admitAt.of_go e).setOut.endPhase
    refine .ite (.wait h3.mapLore) ?_
    split
    · exact .wait h3.mapLore
    · next u e' =>
      have hu : Kept P C s u := by
        split at e'
        · exact Option.some.inj e' ▸ h3
        · exact h3.unpacked.of_some e'
      exact .ite (.ok hu.resumed.keepPromise) (.failAs hu.resumed.keepPromise)

theorem Kept.execLtnResume {c : Nat} {w : IWord} (h : Kept P C s t) : KeptOut P C s (execLtnResume c w t) :=
  .next (h.runInstr fun _ _ => h.bodyResume)

theorem Kept.resumeFailed {r : Resume} {code : Code} {media : Bool} (h : Kept P C s t) : Kept P C s (t.resumeFailed r code media) :=
  (Kept.ite (Kept.ite h.updPromise.failPromise.failAdmitted.setLan.rearm (h.updPromise.failPromise.failAdmitted.when fun h => h.setLan))
      h.updPromise.failPromise.failAdmitted).finish

theorem Kept.backPlaces {ps : List Page} (h : Kept P C s t) : KeptTake P C s (t.backPlaces ps) := by
  refine KeptTake.foldlM h fun _ _ h => ?_
  exact .ite (.some h) (h.takeUnits.map fun _ h => h)

theorem Kept.readFaults {ps : List Page} (h : Kept P C s t) : Kept P C s (t.readFaults ps) :=
  h.foldl fun _ _ h => Kept.ite h.flFault h

theorem Kept.readPhases {id : Option Nat} {tier : Nat} {r : ReadReport} {whole : Bool} (h : Kept P C s t) :
    Kept P C s (t.readPhases id tier r whole) :=
  (h.updPromise.when fun h => h.endPhase).when fun h => h.endPhase

theorem Kept.execResumeCommit {lantern : Nat} {reads : ReadEnd} (h : Kept P C s t) : KeptOut P C s (execResumeCommit lantern reads t) := by
  unfold Machine.execResumeCommit
  refine .next ?_
  dsimp only
  split
  · exact h
  · refine .ite h (Kept.ite h.mapLore.readPhases.resumeFailed (Kept.ite h.mapLore.readFaults.readPhases.resumeFailed ?_))
    split
    · next e => exact h.mapLore
    · next e =>
        exact ((KeptOpt.ite h.unpacked (h.backPlaces.mapOpt fun _ h => h.mapLore.copyPages.freeOld.replaceList)).of_some
            e).mapLore.readPhases.resumed.keepPromise.finish

/-! ## Requests -/

theorem Kept.freeEntry {r : Nat} {tool : Option Nat} (h : Kept P C s t) : Kept P C s (t.freeEntry r tool) :=
  (Kept.ite (h.setRequest.when fun h => h.setLan) (Kept.ite (h.setRequest.setLan.when fun h => h.rearm)
      h.setRequest.setLan.startTimer)).reapAdapters

theorem Kept.dropRequest {r : Nat} {st : RState} {code : Code} {excused : Bool} (h : Kept P C s t) : Kept P C s (t.dropRequest r st code excused) :=
  h.failPromise.setRequest.endRequest.setRequest

theorem Kept.admitRequest {c : Nat} {x : Ctx} {w : IWord} {d : Bytes} {resumed : Bool} {promise : Option Nat} {promised : Nat} (h : Kept P C s t) :
    KeptOpt P C s (t.admitRequest c x w d resumed promise promised) := by
  unfold State.admitRequest
  dsimp only
  split
  · split
    · exact .none
    · exact .some h.setRequest.setLan.mapLore.setOut
  · exact .none

theorem Kept.bodyAdmit {c : Nat} {w : IWord} {d : Bytes} {x : Ctx} (h : Kept P C s t) : KeptRes P C s (t.bodyAdmit c w d x) := by
  unfold State.bodyAdmit
  refine KeptRes.ite (.ok h) (KeptRes.afterPre ?_)
  split
  · next e => exact h.admitAt.of_no e
  · next e =>
      split
      · next e1 => exact .fail
      · next e1 => exact .ok ((h.admitAt.of_go e).admitRequest.of_some e1)

theorem Kept.execReqAdmit {c : Nat} {w : IWord} {d : Bytes} (h : Kept P C s t) : KeptOut P C s (execReqAdmit c w d t) :=
  .next (h.runInstr fun _ _ => h.bodyAdmit)

theorem Kept.execReqKill {c : Nat} {w : IWord} (h : Kept P C s t) : KeptOut P C s (execReqKill c w t) :=
  .next (h.runInstr fun _ _ => KeptRes.afterPre (.ok h.dropRequest))

theorem Kept.execReqSetprio {c : Nat} {w : IWord} (h : Kept P C s t) : KeptOut P C s (execReqSetprio c w t) :=
  .next (h.runInstr fun _ _ => KeptRes.afterPre (.ok h.setRequest))

theorem Kept.bodySetDeadline {r deadline : Nat} (h : Kept P C s t) : KeptRes P C s (t.bodySetDeadline r deadline) :=
  KeptRes.ite (KeptRes.ite (.ok h) .fail) (KeptRes.ite .fail (.ok h.setRequest.updPromise))

theorem Kept.execReqSetdeadline {c : Nat} {w : IWord} (h : Kept P C s t) : KeptOut P C s (execReqSetdeadline c w t) :=
  .next (h.runInstr fun _ _ => KeptRes.afterPre h.bodySetDeadline)

theorem Kept.releaseRequest {r : Nat} {tool : Bool} {hint : Nat} (h : Kept P C s t) : Kept P C s (t.releaseRequest r tool hint) :=
  .ite h.setRequest h.freeEntry

theorem Kept.execReqRelease {c : Nat} {w : IWord} (h : Kept P C s t) : KeptOut P C s (execReqRelease c w t) :=
  .next (h.runInstr fun _ _ => KeptRes.afterPre (.ok h.releaseRequest))

theorem Kept.execReqReleaseTimeout {r : Nat} (h : Kept P C s t) : KeptOut P C s (execReqReleaseTimeout r t) :=
  .next (Kept.ite h.freeEntry h)

/-! ## Steps -/

theorem Kept.noteBody {h' : Hdr} (h : Kept P C s t) : Kept P C s (t.noteBody h') :=
  .ite h h.mapEng

theorem Kept.scheduleStep {m : Nat} {h' : Hdr} {o : Owner} {promise : Option Nat} {index : Nat}
    {rek : Option (Nat × Nat × Nat × Nat)} (h : Kept P C s t) :
    Kept P C s (t.scheduleStep m h' o promise index rek).1 :=
  h.setMdw.mapEng.fst

theorem Kept.takeStep {m id : Nat} {o : Owner} (h : Kept P C s t) : Kept P C s (t.takeStep m id o) :=
  h.setMdw

theorem Kept.bodyStepRun {c : Nat} {w : IWord} {x : Ctx} (h : Kept P C s t) : KeptRes P C s (t.bodyStepRun c w x) := by
  unfold State.bodyStepRun
  dsimp only
  split
  · split
    · exact .ok h
    · exact .fail
    · exact .wait h.takeStep
  · split
    · exact .failAs h.noteBody
    · exact .fail
    · exact .fail
    · split
      · next e => exact h.noteBody.admitAt.of_no e
      · next e => exact .wait (h.noteBody.admitAt.of_go e).scheduleStep

theorem Kept.execStepRun {c : Nat} {w : IWord} (h : Kept P C s t) : KeptOut P C s (execStepRun c w t) :=
  .next (h.runInstr fun _ _ => h.bodyStepRun)

theorem Kept.stepDone {t' : Step} {code : Code} {obs : Nat} (h : Kept P C s t) : Kept P C s (t.stepDone t' code obs) := by
  unfold State.stepDone
  split
  · exact h.mapIo
  · exact h.finish

theorem Kept.popStep {m at_ : Nat} (h : Kept P C s t) : Kept P C s (t.popStep m at_) :=
  h.setMdw

theorem Kept.abortStep {m : Nat} {t' : Step} {code : Code} {obs : Nat} {excused : Bool} (h : Kept P C s t) :
    Kept P C s (t.abortStep m t' code obs excused) :=
  h.popStep.failPromise.stepDone

theorem Kept.endRekindle {r : Rekindle} {code : Code} (h : Kept P C s t) : Kept P C s (t.endRekindle r code) := by
  unfold State.endRekindle
  refine .ite (Kept.finish ?_) h.mapEng.failPromise.finish
  dsimp only
  split
  · dsimp only
    exact h.mapEng
  · split
    · dsimp only
      exact (h.mapEng.when fun h => h.writeBreach).updPromise
    · exact (h.mapEng.when fun h => h.writeBreach).dropPromise

theorem Kept.failRekindle {part : Option (Nat × Nat × Nat × Nat)} {code : Code} (h : Kept P C s t) : Kept P C s (t.failRekindle part code) := by
  unfold State.failRekindle
  split
  · exact h
  · split
    · exact h
    · exact h.endRekindle

theorem Kept.boundaryRequest {r : Nat} (h : Kept P C s t) : Kept P C s (t.boundaryRequest r) := by
  unfold State.boundaryRequest
  dsimp only
  split
  · exact h.freeEntry
  · exact h.freeEntry
  · refine .ite (h.setRequest.when fun h => h.raise) ?_
    split
    · exact h.setRequest
    · exact h.freeEntry.when fun h => h.setLan
    · exact h.setRequest.when fun h => h.raise
  · exact h

theorem Kept.followRequest {r : Nat} (h : Kept P C s t) : Kept P C s (t.followRequest r) :=
  .ite h.setRequest h

theorem Kept.writeTables {m : Nat} {h' : Hdr} {rows : List RowUse} {rek : Option (Nat × Nat)} (h : Kept P C s t) :
    Kept P C s (t.writeTables m h' rows rek) :=
  h.mapEng.same

theorem Kept.carry {u : RowUse} (h : Kept P C s t) : Kept P C s (t.carry u) :=
  (Kept.ite h h.endPhase).setRequest

theorem Kept.applyRole {m : Nat} (h : Kept P C s t) : Kept P C s (t.applyRole m) := by
  unfold State.applyRole
  dsimp only
  split
  · exact h
  · split
    · exact h.setMdw
    · exact h.setMdw.finish

theorem Kept.setTile {i : Nat} {t' : TileSt} (h : Kept P C s t) : Kept P C s (t.setTile i t') :=
  h.mapEng

theorem Kept.leaveTile {m i : Nat} (h : Kept P C s t) : Kept P C s (t.leaveTile m i) := by
  unfold State.leaveTile
  dsimp only
  split
  · exact h.setMdw.raise
  · exact h.setMdw.setTile

theorem Kept.leaveTiles {m : Nat} (h : Kept P C s t) : Kept P C s (t.leaveTiles m) :=
  h.foldl fun _ _ h => h.leaveTile

theorem Kept.execTileQuarantineLeave {m : Nat} (h : Kept P C s t) : KeptOut P C s (execTileQuarantineLeave m t) :=
  .next (Kept.ite h h.leaveTiles)

theorem Kept.stepBoundary {m : Nat} (h : Kept P C s t) : Kept P C s (t.stepBoundary m) :=
  ((h.applyRole.leaveTiles.foldl fun _ _ h => h.boundaryRequest).foldl fun _ _ h => h.followRequest).reapAdapters

theorem Kept.beginStep {m : Nat} {t' : Step} (h : Kept P C s t) : Kept P C s (t.beginStep m t') := by
  unfold State.beginStep
  refine Kept.setMdw ?_
  dsimp only
  split
  · exact h.writeTables.foldl fun _ _ h => h.carry
  · exact ((h.writeTables.foldl fun _ _ h => h.carry).when fun h => h.foldl fun _ _ h => h.endPhase).mapEng

theorem Kept.execStepStart {m : Nat} (h : Kept P C s t) : KeptOut P C s (execStepStart m t) := by
  unfold Machine.execStepStart
  refine .next ?_
  dsimp only
  split
  · exact h
  · refine .ite h (Kept.ite h.stepBoundary.abortStep.failRekindle (Kept.ite h.stepBoundary.abortStep.failRekindle (Kept.ite h.stepBoundary.abortStep
        ?_)))
    split
    · exact h.stepBoundary.beginStep
    · exact h.stepBoundary.beginStep.callBack

theorem Kept.sendContributions {m : Nat} {t' : Step} {out : List (Nat × Nat × Bytes)} (h : Kept P C s t) :
    Kept P C s (t.sendContributions m t' out) := by
  unfold State.sendContributions
  refine .ite h (h.foldl fun _ _ h => ?_)
  dsimp only
  split
  · exact .ite h h.send
  · exact h

theorem Kept.openGroup {r : DRef} {d : Model} (h : Kept P C s t) : KeptOpt P C s (t.openGroup r d) :=
  h.takePages.mapOpt fun _ h => h.setDeed

theorem Kept.readAt {addr n : Nat} (h : Kept P C s t) : Kept P C s (t.readAt addr n).2 := by
  unfold State.readAt
  dsimp only
  split
  · exact h
  · exact h.readCommons
  · split
    · exact h
    · exact h.free

theorem Kept.tokensAt {addr n : Nat} (h : Kept P C s t) : Kept P C s (t.tokensAt addr n).2 :=
  h.readAt

theorem Kept.lastToken {q : Request} (h : Kept P C s t) : Kept P C s (t.lastToken q).2 := by
  unfold State.lastToken
  dsimp only
  split
  · exact h
  · exact h.free

theorem Kept.rowTokens {u : RowUse} (h : Kept P C s t) : Kept P C s (t.rowTokens u).2 := by
  unfold State.rowTokens
  dsimp only
  split
  · exact h.tokensAt
  · exact h.lastToken

theorem Kept.emitToken {m : Nat} {u : RowUse} {t' : BitVec 16} (h : Kept P C s t) : Kept P C s (t.emitToken m u t') := by
  unfold State.emitToken
  refine .ite (Kept.setRequest ?_) ((h.writeAt.when fun h => h.endPhase).when fun h => h.endPhase).setRequest
  dsimp only
  split
  · exact (h.writeAt.when fun h => h.endPhase).when fun h => h.endPhase
  · split
    · dsimp only
      exact (((h.writeAt.when fun h => h.endPhase).when fun h => h.endPhase).when fun h => h.writeBreach).updPromise
    · exact (((h.writeAt.when fun h => h.endPhase).when fun h => h.endPhase).when fun h => h.writeBreach).dropPromise

theorem Kept.judgeRequest {r : Nat} (h : Kept P C s t) : Kept P C s (t.judgeRequest r) := by
  unfold State.judgeRequest
  refine .ite h (Kept.ite ?_ (Kept.ite ?_ h))
  · dsimp only
    split
    · exact h.failPromise.setRequest.endRequest.when fun h => h.freeEntry
    · exact h.failPromise.setRequest.endRequest
  · split
    · exact h.endRequest.when fun h => h.freeEntry
    · exact h.endRequest

theorem Kept.chargeTile {svc n : Nat} (h : Kept P C s t) : Kept P C s (t.chargeTile svc n) :=
  h.mapLore

theorem Kept.chargeStep {t' : Step} (h : Kept P C s t) : Kept P C s (t.chargeStep t') := by
  unfold State.chargeStep
  refine .ite h ?_
  dsimp only
  split
  · exact h.foldl fun _ _ h => h.chargeTile
  · exact (h.foldl fun _ _ h => h.chargeTile).chargeTile

theorem Kept.rekindleDeed {m l i : Nat} (h : Kept P C s t) : KeptOpt P C s (t.rekindleDeed m l i) := by
  unfold State.rekindleDeed
  dsimp only
  split
  · exact h.takePages.mapOpt fun _ h => h.setDeed.setLan
  · exact .some h

theorem Kept.failStep {m : Nat} {t' : Step} {code : Code} {excused : Bool} (h : Kept P C s t) : Kept P C s (t.failStep m t' code excused) :=
  (h.chargeStep.when fun h => h.foldl fun _ _ h => Kept.ite h.dropRequest h).abortStep.failRekindle

theorem Kept.capture {m : Nat} {t' : Step} {truth crcs : List Word} (h : Kept P C s t) : Kept P C s (t.capture m t' truth crcs) :=
  h.setMdw

theorem Kept.countShadow {m : Nat} (h : Kept P C s t) : Kept P C s (t.countShadow m) :=
  .ite h.setMdw.mapEng h.setMdw

theorem Kept.setField {m : Nat} {f : FieldSt} (h : Kept P C s t) : Kept P C s (t.setField m f) :=
  h.same

theorem Kept.reportStep {m : Nat} {slack : Int} (h : Kept P C s t) : Kept P C s (t.reportStep m slack) :=
  .ite h (Kept.ite h.setField.setField h.setField.send)

theorem Kept.noteSlack {m : Nat} {t' : Step} {used stalls : Nat} (h : Kept P C s t) : Kept P C s (t.noteSlack m t' used stalls) :=
  (Kept.ite h.raise h).setMdw.bump

theorem Kept.markStep {t' : Step} {r : StepResult} (h : Kept P C s t) : Kept P C s (t.markStep t' r) :=
  h.updPromise.foldl fun _ _ h => h.updPromise

/-! ## Shadows -/

theorem Kept.startShadow {m : Nat} {k : Capture} {owner promise : Option Nat} {watts : Nat} {faults : List (Nat × Word)} (h : Kept P C s t) :
    Kept P C s (t.startShadow m k owner promise watts faults) := by
  unfold State.startShadow
  exact (h.setMdw.unless fun h => h.addJob).mapEng

theorem Kept.abandonAuto (h : Kept P C s t) : Kept P C s t.abandonAuto := by
  unfold State.abandonAuto
  split
  · exact .ite h.mapEng.dropJob.bump h
  · exact h

theorem Kept.bodyShadow {c : Nat} {w : IWord} {faults : List (Nat × Word)} {x : Ctx} (h : Kept P C s t) :
    KeptRes P C s (t.bodyShadow c w faults x) := by
  unfold State.bodyShadow
  dsimp only
  split
  · exact .failAs h.noteBody
  · exact .fail
  · split
    · next e => exact h.noteBody.admitAt.of_no e
    · next e => exact .wait (h.noteBody.admitAt.of_go e).startShadow
  · exact .fail

theorem Kept.execShadow {c : Nat} {w : IWord} {faults : List (Nat × BitVec 64)} (h : Kept P C s t) : KeptOut P C s (execShadow c w faults t) :=
  .next (h.runInstr fun _ _ => h.bodyShadow)

theorem Kept.execAutoShadowRun {m : Nat} {faulty : List Nat} {crcs : List Word} (h : Kept P C s t) :
    KeptOut P C s (execAutoShadowRun m faulty crcs t) := by
  unfold Machine.execAutoShadowRun
  refine .next ?_
  dsimp only
  split
  · exact h
  · refine .ite h ?_
    split
    · exact h.mapEng
    · exact h.mapEng.startShadow

theorem Kept.queueReferee (h : Kept P C s t) : Kept P C s t.queueReferee := by
  unfold State.queueReferee
  split
  · exact h
  · exact .ite h h.addJob

theorem Kept.endShadow {r : ShadowRun} (h : Kept P C s t) : Kept P C s (t.endShadow r) := by
  unfold State.endShadow
  dsimp only
  split
  · exact h.mapEng.dropJob.bump.setMdw.when fun h => h.bump.mapEng.queueReferee
  · exact .ite (h.mapEng.dropJob.bump.setMdw.when fun h => h.bump.mapEng.queueReferee).setOut.failPromise.finish (h.mapEng.dropJob.bump.setMdw.when
        fun h => h.bump.mapEng.queueReferee).setOut.endPhase.keepPromise.finish

theorem Kept.dueShadow (h : Kept P C s t) : Kept P C s t.dueShadow := by
  unfold State.dueShadow
  dsimp only
  split
  · exact h.abandonAuto.when fun h => h.endShadow
  · exact h.abandonAuto

theorem Kept.unready {m : Nat} (h : Kept P C s t) : Kept P C s (t.unready m) :=
  .ite h.setRegN h

theorem Kept.quarantine {i band cls : Nat} (h : Kept P C s t) : Kept P C s (t.quarantine i band cls) :=
  h.setTile.bump.raise.unless fun h => h.setMdw.unready.when fun h => h.setField

theorem Kept.execRefereeRun {faulty : Bool} {formed : Word} (h : Kept P C s t) : KeptOut P C s (execRefereeRun faulty formed t) := by
  unfold Machine.execRefereeRun
  refine .next ?_
  dsimp only
  split
  · exact h
  · refine .ite h ?_
    split
    · exact h.mapEng.dropJob.queueReferee
    · exact .ite h.mapEng.dropJob.queueReferee.quarantine (Kept.ite (Kept.ite h.mapEng.dropJob.queueReferee.quarantine.raise
          (h.mapEng.dropJob.queueReferee.quarantine.foldl fun _ _ h => h.raise)) h.mapEng.dropJob.queueReferee.setMdw.raise)

theorem Kept.execCanaryRun {tile : Nat} {got want : Word} (h : Kept P C s t) : KeptOut P C s (execCanaryRun tile got want t) :=
  .next (Kept.ite h (Kept.ite (Kept.ite h.bgUse.setTile.raise h.bgUse.setTile) h.bgUse.setTile))

theorem Kept.execTileClear {tile : Nat} (h : Kept P C s t) : KeptOut P C s (execTileClear tile t) :=
  .next (Kept.ite h.setTile h)

theorem Kept.execShadowSetWrite {word : Nat} {v : BitVec 32} (h : Kept P C s t) : KeptOut P C s (execShadowSetWrite word v t) :=
  .next (Kept.ite h (Kept.ite h.configReject h.setRegN.mapEng))

theorem Kept.execShadowSetEffect (h : Kept P C s t) : KeptOut P C s (execShadowSetEffect t) := by
  unfold Machine.execShadowSetEffect
  refine .next ?_
  dsimp only
  split
  · exact h
  · exact .ite h (h.mapEng.foldl fun _ _ h => Kept.ite h.setTile (Kept.ite h.setTile h))

/-! ## Models -/

theorem Kept.modelDone {slot error : Nat} (h : Kept P C s t) : Kept P C s (t.modelDone slot error) :=
  h.setRegN

theorem Kept.execModelCmdInstall {slot : Nat} {d : Bytes} (h : Kept P C s t) : KeptOut P C s (execModelCmdInstall slot d t) := by
  unfold Machine.execModelCmdInstall
  refine .next (Kept.ite h (h.whileFree fun _ h => ?_))
  split
  · exact h.modelDone
  · exact .ite h.modelDone h.mapMem.modelDone

theorem Kept.execModelCmdRemove {slot : Nat} (h : Kept P C s t) : KeptOut P C s (execModelCmdRemove slot t) := by
  unfold Machine.execModelCmdRemove
  refine .next (Kept.ite h (h.whileFree fun _ h => ?_))
  split
  · exact h.modelDone
  · exact .ite h.modelDone h.mapMem.modelDone

theorem Kept.execAdpRetire {c : Nat} {w : IWord} (h : Kept P C s t) : KeptOut P C s (execAdpRetire c w t) :=
  .next (h.runInstr fun _ _ => KeptRes.ite .fail (.ok h.mapMem.reapAdapters))

theorem Kept.execStreamWeights {c : Nat} {w : IWord} {d : Bytes} {fail : Option Code} (h : Kept P C s t) :
    KeptOut P C s (execStreamWeights c w d fail t) := by
  unfold Machine.execStreamWeights
  refine .next (h.runInstr fun _ _ => ?_)
  refine KeptRes.ite .fail (KeptRes.ite .fail (KeptRes.ite .fail ?_))
  split
  · exact .fail
  · exact .ok h.setMdw

/-! ## Attention -/

theorem Kept.setPartialOp {p : PartialOp} (h : Kept P C s t) : Kept P C s (t.setPartialOp p) :=
  h.mapEng

theorem Kept.addPartials {r : DRef} {up : Bool} (h : Kept P C s t) : Kept P C s (t.addPartials r up) :=
  h.setDeed

theorem Kept.failRunning {r : Option Nat} {code : Code} (h : Kept P C s t) : Kept P C s (t.failRunning r code) := by
  unfold State.failRunning
  split
  · exact .ite h.dropRequest h
  · exact h

theorem Kept.endPartial {p : PartialOp} {code : Code} (h : Kept P C s t) : Kept P C s (t.endPartial p code) := by
  unfold State.endPartial
  refine .ite (Kept.finish ?_) h.mapEng.addPartials.failPromise.failRunning.finish
  dsimp only
  split
  · dsimp only
    exact h.mapEng.addPartials
  · split
    · dsimp only
      exact (h.mapEng.addPartials.when fun h => h.writeBreach).updPromise
    · exact (h.mapEng.addPartials.when fun h => h.writeBreach).dropPromise

theorem Kept.homeRound {src : NodeId} {q : PartialQuery} {r : DRef} {m : Nat} (h : Kept P C s t) : Kept P C s (t.homeRound src q r m) := by
  unfold State.homeRound
  exact h.addPartials.mapEng

theorem Kept.takeQuery {src : NodeId} {q : PartialQuery} (h : Kept P C s t) : KeptExc P C s (t.takeQuery src q) := by
  unfold State.takeQuery
  dsimp only
  split
  · exact .error
  · refine KeptExc.ite .error (KeptExc.ite .error (KeptExc.ite .error ?_))
    split
    · exact .error
    · exact .error
    · exact KeptExc.ite .error (.ok h.noteBody.homeRound)

theorem Kept.takeRecord {p : PartialOp} {r : PartialRec} (h : Kept P C s t) : Kept P C s (t.takeRecord p r) := by
  unfold State.takeRecord
  refine .ite ?_ (Kept.ite (h.setPartialOp.endPhase.unless fun h => h.updPromise).endPartial (h.setPartialOp.endPhase.unless fun h =>
      h.updPromise).writeAt.endPartial)
  split
  · exact (h.setPartialOp.endPhase.unless fun h => h.updPromise).when fun h => h.writeBreach
  · exact h.setPartialOp.endPhase.unless fun h => h.updPromise

theorem Kept.takeAnswer {a : PartialAnswer} (h : Kept P C s t) : Kept P C s (t.takeAnswer a).1 := by
  unfold State.takeAnswer
  dsimp only
  split
  · split
    · exact h
    · exact (Kept.ite h.setDeed h).endPartial
  · split
    · exact h.bump
    · split
      · exact h.takeRecord
      · dsimp only
        exact h.bump.endPartial

theorem Kept.answerPartial {dst : NodeId} {a : PartialAnswer} (h : Kept P C s t) : Kept P C s (t.answerPartial dst a) :=
  .ite h.takeAnswer h.send

theorem Kept.queryRows {p : PartialOp} {first count : Nat} (h : Kept P C s t) : Kept P C s (t.queryRows p first count).2 := by
  unfold State.queryRows
  dsimp only
  split
  · exact h.free
  · exact h.readAt

theorem Kept.sendQuery {p : PartialOp} {first count : Nat} (h : Kept P C s t) : Kept P C s (t.sendQuery p first count) := by
  unfold State.sendQuery
  dsimp only
  split
  · next e => exact (h.queryRows.of_snd e).endPartial
  · next e =>
      refine .ite ?_ (h.queryRows.of_snd e).setPartialOp.send
      split
      · next e1 => exact (h.queryRows.of_snd e).setPartialOp.answerPartial
      · next e1 => exact (h.queryRows.of_snd e).setPartialOp.takeQuery.of_ok e1

theorem Kept.addPartial {p : PartialOp} (h : Kept P C s t) : Kept P C s (t.addPartial p) :=
  h.mapEng.addPartials

theorem Kept.execAttnPartialRoundAdmit {id : Nat} (h : Kept P C s t) : KeptOut P C s (execAttnPartialRoundAdmit id t) := by
  unfold Machine.execAttnPartialRoundAdmit
  refine .next ?_
  dsimp only
  split
  · exact h
  · split
    · exact h
    · refine .ite h ?_
      split
      · exact h.endPartial
      · exact h
      · refine Kept.sendQuery ?_
        split
        · exact h.updPromise
        · exact h.grant

theorem Kept.execPartialQueryReceive {f : Frame} {q : PartialQuery} (h : Kept P C s t) : KeptOut P C s (execPartialQueryReceive f q t) := by
  unfold Machine.execPartialQueryReceive
  refine .next (h.receive fun _ h => ?_)
  split
  · next e => exact h.answerPartial
  · next e => exact h.takeQuery.of_ok e

end Sys2Proof.Machine

end

section

set_option Elab.async false

/-! What moves, parks, the commit of a step and adapters keep. -/

namespace Sys2Proof.Machine

variable {P C : Prop} {s t u : State}

/-- The copies at home that the open shows a later epoch of are superseded. -/
theorem Kept.supersedeAll {l : List OpenDeed} {src : NodeId} (h : Kept P C s t) :
    Kept P C s (l.foldl (fun s d => match s.findDeed d.key with
        | some r => if (s.deed r).state = DState.home then s.supersede r src d.epoch false else s
        | none => s) t) := by
  refine h.foldl fun _ _ h => ?_
  split
  · exact .ite h.supersede h
  · exact h

theorem Kept.execMoveOpenReceive {f : Frame} {o : MoveOpen} (h : Kept P C s t) : KeptOut P C s (execMoveOpenReceive f o t) := by
  refine .next (h.receive fun u h => ?_)
  dsimp only
  split
  · exact h.mapLore.sendNack
  · refine .ite h.mapLore.supersedeAll.sendNack ?_
    split
    · exact h.mapLore.supersedeAll.sendNack
    · next e =>
      split
      · exact h.mapLore.supersedeAll.sendNack
      · next e' =>
        have h2 := (h.mapLore.supersedeAll.takeDeeds.of_some e).takeRatios.of_some e'
        refine Kept.mapLore ?_
        split
        · split
          · exact h2
          · exact h2.setLan
        · refine Kept.setRequest ?_
          split
          · exact h2
          · exact h2.setLan

/-- The start of a park to a tier that can hold it. -/
theorem Kept.startOrWait {l tier : Nat} {o : Owner} (h : Kept P C s t) : KeptRes P C s (match t.startPark l tier o with
    | none => .fail .noSpace 0
    | some u => .wait u .op) := by
  split
  · exact .fail
  · next e => exact .wait (h.startPark.of_some e)

theorem Kept.bodyPark {c : Nat} {w : IWord} {x : Ctx} (h : Kept P C s t) : KeptRes P C s (t.bodyPark c w x) := by
  unfold State.bodyPark
  refine .ite .fail (.ite (.wait h) (.ite .fail ?_))
  extract_lets +onlyGivenNames go
  have hgo (tier : Nat) : KeptRes P C s (go t tier) := by
    refine .ite (.wait h.waitPacked) (.ite ?_ h.startOrWait)
    split
    · exact .fail
    · next e => exact .wait (h.startCachePark.of_ok e)
  split
  · exact .ite (hgo 1) .fail
  · exact .ite (hgo 2) .fail
  · exact .ite .fail (.ite (hgo 4) .fail)
  · refine .ite (.ok h.rearm) ?_
    split
    · exact .fail
    · exact hgo _

/-- The lantern once its park has committed. -/
theorem Kept.parked {lantern n tier : Nat} {w : Bool} (h : Kept P C s t) :
    Kept P C s (match tier with
      | 1 =>
        let u := t.setLan lantern { t.lan lantern with state := (t.lan lantern).prior, prior := .closed, packed := true, parkTier := 1, parkedBytes := n, timer := t.now }
        if w then u else u.rearm lantern 0
      | 2 => (t.setLan lantern { t.lan lantern with state := .swapped, prior := .closed, packed := false, parkTier := 2, parkedBytes := n }).rearm lantern 1
      | _ => t.setLan lantern { t.lan lantern with state := .hibernated, prior := .closed, packed := false, parkTier := 4, parkedBytes := n, timer := 0, cacheRefused := false }) := by
  split
  · exact .ite h.setLan h.setLan.rearm
  · exact h.setLan.rearm
  · exact h.setLan

/-- The pages of a list at their new places. -/
theorem Kept.movedTo {lantern : Nat} {old new : List Page} (h : Kept P C s t) :
    Kept P C s (((t.copyPages old new).freeOld old new).replaceList (.lantern lantern) new) :=
  h.copyPages.freeOld.replaceList

theorem Kept.execParkCommit {lantern : Nat} {fail : Option Code} (h : Kept P C s t) : KeptOut P C s (execParkCommit lantern fail t) := by
  unfold Machine.execParkCommit
  refine .next ?_
  split
  · exact h
  · next p hp =>
    refine .ite h ?_
    have h1 : Kept P C s ((t.mapLore fun y => { y with parks := y.parks.filter (·.lantern != lantern) }).subQueued 3 p.bytes) := h.mapLore.subQueued
    generalize (t.mapLore _).subQueued 3 p.bytes = t1 at h1 ⊢
    dsimp only
    split
    · exact h1.parkFailed
    · split
      · exact h1.parkFailed
      · next u e =>
        have hu : Kept P C s u := by
          refine KeptOpt.of_some (.ite h1.recodeAt (.ite .none (.some ?_))) e
          exact (h1.movedTo).when fun h => h.journalAll
        exact hu.parked.publishPark.finish

theorem Kept.setUpsets {l : Tbl Nat} (h : Kept P C s t) : Kept P C s { t with sys := { t.sys with upsets := l } } :=
  h.same

theorem Kept.tilesRan {m : Nat} {r : TileRun} (h : Kept P C s t) : Kept P C s (t.tilesRan m r) :=
  h.bump.bump.mapEng.bump.bump.setUpsets

theorem Kept.commitStore {rows : List RowUse} {w : Staged} (h : Kept P C s t) : Kept P C s (t.commitStore rows w) := by
  unfold State.commitStore
  exact h.when fun h => h.setBytes fun k => Tbl.wf_writeBytes _ _ (wf_bytesOf 0 k)

theorem Kept.commitStores {rows : List RowUse} {ws : List Staged} (h : Kept P C s t) :
    Kept P C s (ws.foldl (fun u w => u.commitStore rows w) t) :=
  h.foldl fun _ _ h => h.commitStore

theorem Kept.commitTokens {l fuel n : Nat} {d : Model} (h : Kept P C s t) : Kept P C s (t.commitTokens l d fuel n) := by
  induction fuel generalizing t n with
  | zero => exact h
  | succ fuel ih =>
    unfold State.commitTokens
    refine .ite h (.ite (ih h.setDeed.setLan) (.ite (ih h.setDeed.setLan) ?_))
    split
    · next e => exact ih (h.openGroup.of_some e)
    · exact h.setDeed.setLan

theorem Kept.appendTokens {l : Nat} {ids : List (BitVec 16)} (h : Kept P C s t) : Kept P C s (t.appendTokens l ids) := by
  unfold State.appendTokens
  refine Kept.setLan ?_
  split
  · exact h.setLan
  · exact h.commitTokens

theorem Kept.stepTokens {us : List RowUse} (h : Kept P C s t) : Kept P C s (t.stepTokens us).2 := by
  induction us generalizing t with
  | nil => exact h
  | cons u us ih => exact ih h.rowTokens

theorem Kept.commitRow {m : Nat} {u : RowUse} {ids : List (BitVec 16)} {tok : BitVec 16} (h : Kept P C s t) :
    Kept P C s (t.commitRow m u ids tok) :=
  .ite h (h.appendTokens.setRequest.when fun h => h.emitToken)

theorem Kept.commitRows {m : Nat} {es : List (RowUse × List (BitVec 16) × BitVec 16)} (h : Kept P C s t) :
    Kept P C s (es.foldl (fun u e => u.commitRow m e.1 e.2.1 e.2.2) t) :=
  h.foldl fun _ _ h => h.commitRow

theorem Kept.judgeRequests {rs : List Nat} (h : Kept P C s t) : Kept P C s (rs.foldl State.judgeRequest t) :=
  h.foldl fun _ _ h => h.judgeRequest

theorem Kept.rekindleAll {m l : Nat} {is : List Nat} (h : Kept P C s t) : KeptOpt P C s (t.rekindleAll m l is) := by
  induction is generalizing t with
  | nil => exact .some h
  | cons i is ih => exact h.rekindleDeed.bind fun _ h => ih h

theorem Kept.commitRekindle {part : Option (Nat × Nat × Nat × Nat)} (h : Kept P C s t) : Kept P C s (t.commitRekindle part) := by
  unfold State.commitRekindle
  split
  · exact h
  · split
    · exact h
    · refine .ite h.mapEng ?_
      dsimp only
      split
      · exact h.endPhase.endRekindle
      · next e => exact (h.endPhase.rekindleAll.of_some e).endRekindle

theorem Kept.commitStep {m used : Nat} {st : Step} {truth crcs : List Word} {stores : List Staged}
    {rows : List (RowUse × List (BitVec 16) × BitVec 16)} (h : Kept P C s t) :
    Kept P C s (t.commitStep m st used truth crcs stores rows) :=
  h.chargeStep.setRegN.commitStores.capture.countShadow.commitRows.judgeRequests.popStep.commitRekindle.reportStep.endPhase.keepPromise.stepDone

theorem Kept.endStep {m used : Nat} {st : Step} {r : StepResult} (h : Kept P C s t) : Kept P C s (t.endStep m st used r) := by
  have h1 := (h.markStep (t' := st) (r := r)).stepTokens (us := st.rows)
  unfold State.endStep
  generalize (State.stepTokens _ _) = p at h1
  obtain ⟨ids, t1⟩ := p
  dsimp only
  split
  · exact h1.tilesRan.sendContributions.noteSlack.failStep
  · exact h1.tilesRan.sendContributions.noteSlack.commitStep

theorem Kept.execStepCommit {m : Nat} {r : StepResult} (h : Kept P C s t) : KeptOut P C s (execStepCommit m r t) := by
  refine .next ?_
  split
  · exact h
  · exact .ite h h.atCommit.endStep

/-- The new version of an adapter, where there is one. -/
theorem Kept.newAdapter {d payload : Bytes} {object : Nat} {p : Nat × State} (h : Kept P C s t) (e : t.newAdapter d payload object = .ok p) :
    Kept P C s p.2 := by
  unfold State.newAdapter at e
  split at e
  · nomatch e
  · split at e
    · nomatch e
    · split at e
      · nomatch e
      · cases e
        dsimp only
        exact h.mapMem

theorem Kept.execAdpLoad {c : Nat} {w : IWord} {d payload : Bytes} (h : Kept P C s t) : KeptOut P C s (execAdpLoad c w d payload t) := by
  refine .next (h.runInstr fun x hx => ?_)
  split
  · exact .fail
  · next e => exact .ok (Kept.setOut (h.newAdapter e))

theorem Kept.execAdpReplace {c : Nat} {w : IWord} {d payload : Bytes} (h : Kept P C s t) : KeptOut P C s (execAdpReplace c w d payload t) := by
  refine .next (h.runInstr fun x hx => ?_)
  refine .ite .fail (.ite .fail ?_)
  split
  · exact .fail
  · next e => exact .ok (Kept.setOut (Kept.mapMem (h.newAdapter e)))

theorem Kept.bodyPartial {c : Nat} {w : IWord} {d : Bytes} {x : Ctx} (h : Kept P C s t) : KeptRes P C s (t.bodyPartial c w d x) := by
  unfold State.bodyPartial
  split
  · exact .failAs (.ite h.failRunning h)
  · refine .ite (.wait h.addPartial) ?_
    split
    · next e =>
      cases h.admitAt.of_no e with
      | failAs h => exact .failAs h.failRunning
    · next e => exact h.admitAt.of_no e
    · next e => exact .wait (h.admitAt.of_go e).addPartial.sendQuery

theorem Kept.execAttnPartial {c : Nat} {w : IWord} {d : Bytes} (h : Kept P C s t) : KeptOut P C s (execAttnPartial c w d t) :=
  .next (h.runInstr fun _ _ => h.bodyPartial)

end Sys2Proof.Machine

end

section

set_option Elab.async false

/-! What the operations on attention, prefixes, tiers, flash, windows, links, meadows and fields keep. -/

namespace Sys2Proof.Machine

variable {P C : Prop} {s t u : State}

/-! ## Lanterns -/

theorem Kept.execLtnPark {c : Nat} {w : IWord} (h : Kept P C s t) : KeptOut P C s (execLtnPark c w t) :=
  .next (h.runInstr fun _ _ => h.bodyPark)

/-! ## Attention -/

theorem Kept.lateHere {r : Round} (h : Kept P C s t) : Kept P C s (t.lateHere r) := by
  unfold State.lateHere
  refine .ite h ?_
  split
  · exact h
  · exact h.updPromise

theorem Kept.startRound {m : Nat} {r : Round} (h : Kept P C s t) : Kept P C s (t.startRound m r) := by
  unfold State.startRound
  dsimp only
  split
  · exact h
  · split
    · exact h
    · exact (Kept.ite h.bump.lateHere h).mapEng

theorem Kept.execPartialRoundStart {m : Nat} (h : Kept P C s t) : KeptOut P C s (execPartialRoundStart m t) :=
  .next (Kept.ite h (h.foldl fun _ _ h => h.startRound))

theorem Kept.execPartialRoundEnd {m id : Nat} {bad : Bool} (h : Kept P C s t) : KeptOut P C s (execPartialRoundEnd m id bad t) := by
  unfold Machine.execPartialRoundEnd
  refine .next ?_
  dsimp only
  split
  · exact h
  · refine .ite h ?_
    split
    · exact h.mapEng.answerPartial
    · exact .ite h.mapEng.addPartials.answerPartial h.mapEng.addPartials.answerPartial

theorem Kept.startRekindle {o : Owner} {l a b m total : Nat} {promised : Bool} {promise : Option Nat} (h : Kept P C s t) :
    Kept P C s (t.startRekindle o l a b m total promised promise) := by
  unfold State.startRekindle
  dsimp only
  split
  · exact h.mapEng.mapLore
  · exact h.mapEng.mapLore.unless fun h => h.foldl fun _ _ h => h.scheduleStep

theorem Kept.bodyRekindle {c : Nat} {w : IWord} {d : Bytes} {x : Ctx} (h : Kept P C s t) : KeptRes P C s (t.bodyRekindle c w d x) := by
  unfold State.bodyRekindle
  refine KeptRes.afterPre ?_
  dsimp only
  split
  · next e => exact h.admitAt.of_no e
  · next e => exact .wait (h.admitAt.of_go e).startRekindle

theorem Kept.execRekindle {c : Nat} {w : IWord} {d : Bytes} (h : Kept P C s t) : KeptOut P C s (execRekindle c w d t) :=
  .next (h.runInstr fun _ _ => h.bodyRekindle)

/-! ## Prefix -/

theorem Kept.markShared {l : Nat} {ps : List Page} (h : Kept P C s t) : Kept P C s (t.markShared l ps) :=
  h.foldl fun _ _ h => Kept.ite h.setDeed h

theorem Kept.execPrefixMatch {c : Nat} {w : IWord} {d : Bytes} {hashes : List Digest} (h : Kept P C s t) :
    KeptOut P C s (execPrefixMatch c w d hashes t) :=
  .next (h.runInstr fun _ _ => KeptRes.ite .fail (.ok (h.foldl fun _ _ h => h.mapMem).mapMem.setOut))

theorem Kept.execTrieEviction (h : Kept P C s t) : KeptOut P C s (execTrieEviction t) := by
  unfold Machine.execTrieEviction
  refine .next (Kept.ite h ?_)
  split
  · exact h
  · exact .ite h h.bgUses.dropPages.mapMem.bump

theorem Kept.emberDeed {r : DRef} (h : Kept P C s t) : Kept P C s (t.emberDeed r) := by
  unfold State.emberDeed
  dsimp only
  split
  · exact h.freeData.toEmber
  · exact h.freeData.setDeed.sendDeed

theorem Kept.execEmber {c : Nat} {w : IWord} (h : Kept P C s t) : KeptOut P C s (execEmber c w t) := by
  unfold Machine.execEmber
  refine .next (h.runInstr fun _ _ => ?_)
  refine KeptRes.afterPre ?_
  split
  · exact .fail
  · exact .ok h.emberDeed

/-! ## Tiers -/

theorem Kept.objDone {index error : Nat} (h : Kept P C s t) : Kept P C s (t.objDone index error) :=
  h.setRegN

theorem Kept.takeObj {home n : Nat} (h : Kept P C s t) : KeptTake P C s (t.takeObj home n) := by
  unfold State.takeObj
  split
  · exact h.takeUnits
  · exact KeptTake.ite h.flTake .none
  · exact .some h

theorem Kept.execObjCmdInstall {index : Nat} {d : Bytes} (h : Kept P C s t) : KeptOut P C s (execObjCmdInstall index d t) := by
  unfold Machine.execObjCmdInstall
  refine .next (Kept.ite h (h.whileFree fun _ h => ?_))
  refine .ite h.objDone ?_
  dsimp only
  split
  · exact h.objDone
  · refine .ite h.objDone ?_
    split
    · next e => exact h.objDone
    · next e => exact (h.takeObj.of_some e).setObj.objDone

theorem Kept.freeObj {home loc n : Nat} (h : Kept P C s t) : Kept P C s (t.freeObj home loc n) := by
  unfold State.freeObj
  split
  · exact h.releaseUnits
  · exact h.releaseUnits
  · exact h

theorem Kept.execObjCmdRemove {index : Nat} (h : Kept P C s t) : KeptOut P C s (execObjCmdRemove index t) :=
  .next (Kept.ite h (h.whileFree fun _ h => Kept.ite h.objDone h.freeObj.setObj.objDone))

theorem Kept.grantLine {line : Nat} (h : Kept P C s t) : Kept P C s (t.grantLine line) :=
  .ite h h.mapCxl

theorem Kept.waitRoom {off : Nat} (h : Kept P C s t) : Kept P C s (t.waitRoom off) := by
  unfold State.waitRoom
  dsimp only
  split
  · exact h.mapCxl
  · exact h.mapCxl.snoop

theorem Kept.snoopObj {o : Obj} (h : Kept P C s t) : Kept P C s (t.snoopObj o) :=
  h.foldl fun _ _ h => h.snoop

theorem Kept.countRead {o : Obj} {stored : Nat → Nat → Bytes} {rel n : Nat} (h : Kept P C s t) : Kept P C s (t.countRead o stored rel n) :=
  h.countFr

theorem Kept.objWrite {o : Obj} {rel : Nat} {data : Bytes} (h : Kept P C s t) : Kept P C s (t.objWrite o rel data) :=
  .ite h.bump.raise h.objPut

theorem Kept.execTierPlace {c : Nat} {w : IWord} (h : Kept P C s t) : KeptOut P C s (execTierPlace c w t) := by
  unfold Machine.execTierPlace
  refine .next (h.runInstr fun _ _ => ?_)
  dsimp only
  split
  · exact .fail
  · exact KeptRes.ite .fail (KeptRes.ite .fail (.ok h.setObj))

theorem Kept.discardWrite (h : Kept P C s t) : Kept P C s t.discardWrite :=
  h.bump.raise

theorem Kept.applyWrite {i off : Nat} {data : Bytes} (h : Kept P C s t) : Kept P C s (t.applyWrite i off data) :=
  .ite h.objWrite h.discardWrite

theorem Kept.failTierMove {t' : TierMv} {code : Code} (h : Kept P C s t) : Kept P C s (t.failTierMove t' code) :=
  (h.mapMem.updPromise.dropJob.freeObj.setObj.foldl fun _ _ h => h.applyWrite).failPromise.finish

theorem Kept.hdmUnmapped (h : Kept P C s t) : Kept P C s t.hdmUnmapped :=
  h.bump.raise

theorem Kept.readThrough {i off : Nat} (h : Kept P C s t) : Kept P C s (t.readThrough i off) :=
  .ite h.mapMem (Kept.ite h.mapMem.emit h.mapCxl)

theorem Kept.partnerRead {o : Obj} {off : Nat} (h : Kept P C s t) : Kept P C s (t.partnerRead o off) := by
  unfold State.partnerRead
  refine (Kept.mapFab ?_).send
  split
  · exact h
  · exact h.same

theorem Kept.execReadThroughComplete {tier : Nat} {data : Bytes} {uncorrectable : Bool} (h : Kept P C s t) :
    KeptOut P C s (execReadThroughComplete tier data uncorrectable t) := by
  unfold Machine.execReadThroughComplete
  refine .next ?_
  dsimp only
  split
  · exact h
  · refine .ite h ?_
    split
    · exact .ite (h.mapMem.foldl fun _ _ h => Kept.ite h.emit h.countRead.emit) (Kept.ite (Kept.ite (h.mapMem.foldl fun _ _ h => Kept.ite h.emit
          h.countRead.emit).flFault (h.mapMem.foldl fun _ _ h => Kept.ite h.emit h.countRead.emit).loseUnit.mediaFault) (h.mapMem.foldl fun _ _ h =>
          Kept.ite h.emit h.countRead.emit).raise)
    · split
      · exact (Kept.ite (h.mapMem.foldl fun _ _ h => Kept.ite h.emit h.countRead.emit) (Kept.ite (Kept.ite (h.mapMem.foldl fun _ _ h => Kept.ite
            h.emit h.countRead.emit).flFault (h.mapMem.foldl fun _ _ h => Kept.ite h.emit h.countRead.emit).loseUnit.mediaFault) (h.mapMem.foldl fun
            _ _ h => Kept.ite h.emit h.countRead.emit).raise)).mapCxl.hdmUnmapped.emit
      · exact (Kept.ite (h.mapMem.foldl fun _ _ h => Kept.ite h.emit h.countRead.emit) (Kept.ite (Kept.ite (h.mapMem.foldl fun _ _ h => Kept.ite
            h.emit h.countRead.emit).flFault (h.mapMem.foldl fun _ _ h => Kept.ite h.emit h.countRead.emit).loseUnit.mediaFault) (h.mapMem.foldl fun
            _ _ h => Kept.ite h.emit h.countRead.emit).raise)).mapCxl.readThrough

theorem Kept.lateFor {p : Option Nat} (h : Kept P C s t) : Kept P C s (t.lateFor p) :=
  h.updPromise.endPhase

theorem Kept.execH2dSnoop {addr : BitVec 64} (h : Kept P C s t) : KeptOut P C s (execH2dSnoop addr t) :=
  .next h.emit

theorem Kept.execHdmDecoderCommit {base size : Nat} (h : Kept P C s t) : KeptOut P C s (execHdmDecoderCommit base size t) :=
  .next (Kept.ite h h.mapCxl)

theorem Kept.execCxlLinkTrained {width rate : Nat} (h : Kept P C s t) : KeptOut P C s (execCxlLinkTrained width rate t) :=
  .next (Kept.ite h (h.same.mapCxl.when fun h => h.raise))

theorem Kept.mapSession {n : Nat} (h : Kept P C s t) : Kept P C s (t.mapSession n) :=
  h.mapCxl

theorem Kept.spdm {proto code : Nat} {req : Bytes} {algs : List SpdmAlg} (h : Kept P C s t) : Kept P C s (t.spdm proto code req algs) := by
  unfold State.spdm
  dsimp only
  split
  · exact h.mapCxl.mapSession.emit
  · exact .ite h.mapCxl.mapSession.emit h.mapCxl.mapSession.emit
  · exact .ite h.mapSession.emit h.emit
  · exact .ite h.mapSession.emit h.emit
  · exact .ite h.emit h.emit
  · exact .ite h.mapSession.emit h.emit
  · exact h.emit
  · exact h.emit

theorem Kept.execDoeRequest {proto code : Nat} {o : DoeObject} (h : Kept P C s t) : KeptOut P C s (execDoeRequest proto code o t) :=
  .next (Kept.ite h (Kept.ite (Kept.ite h.mapCxl.emit h.emit) (Kept.ite h.emit (Kept.ite h.spdm h.emit))))

theorem Kept.execCxlIdeFail (h : Kept P C s t) : KeptOut P C s (execCxlIdeFail t) :=
  .next h.mapCxl.raise

theorem Kept.scrubFault {flash : Bool} {start mib : Nat} (h : Kept P C s t) : Kept P C s (t.scrubFault flash start mib) := by
  unfold State.scrubFault
  refine .ite h.same.bump ?_
  dsimp only
  split
  · exact h.same
  · exact h.same.readFault

theorem Kept.execScrubNow {c : Nat} {w : IWord} {bad : Bool} (h : Kept P C s t) : KeptOut P C s (execScrubNow c w bad t) :=
  .next (h.runInstr fun _ _ => .wait h.addJob.mapBg)

theorem Kept.endScrubs (h : Kept P C s t) : Kept P C s t.endScrubs :=
  h.foldl fun _ _ h => Kept.ite h.dropJob.mapBg.scrubFault.finish h.dropJob.mapBg.finish

theorem Kept.execGddrPatrolScrub {frame : Nat} {corrected uncorrectable : Bool} (h : Kept P C s t) :
    KeptOut P C s (execGddrPatrolScrub frame corrected uncorrectable t) :=
  .next (Kept.ite h ((Kept.ite (Kept.ite (h.bgUse.when fun h => h.bump).bump.mapMem (Kept.ite (h.bgUse.when fun h => h.bump).bump.mapMem.retireUnit
      (h.bgUse.when fun h => h.bump).bump.mapMem.mapMem)) (h.bgUse.when fun h => h.bump).mapMem).when fun h => h.bump.passEnds.mapBg))

/-! ## Flash -/

theorem Kept.execFlashTimeSet {v : BitVec 64} (h : Kept P C s t) : KeptOut P C s (execFlashTimeSet v t) :=
  .next h.mapFls

theorem Kept.checkpoint (h : Kept P C s t) : Kept P C s t.checkpoint :=
  h.journalAll.mapFls.journal

theorem Kept.execFlashCmdCheckpoint (h : Kept P C s t) : KeptOut P C s (execFlashCmdCheckpoint t) :=
  .next (Kept.ite h.checkpoint h)

theorem Kept.execFlashCheckpointDue (h : Kept P C s t) : KeptOut P C s (execFlashCheckpointDue t) :=
  .next (Kept.ite h.checkpoint h)

theorem Kept.eraseSystem (h : Kept P C s t) : Kept P C s t.eraseSystem :=
  h.same

theorem Kept.execJournalPageDurable (h : Kept P C s t) : KeptOut P C s (execJournalPageDurable t) :=
  .next (Kept.ite h.journalPage h)

theorem Kept.closeOpen (h : Kept P C s t) : Kept P C s t.closeOpen :=
  h.foldl fun _ _ h => h.closeSb

theorem Kept.eraseEmpties (h : Kept P C s t) : Kept P C s t.eraseEmpties :=
  h.foldl fun _ _ h => h.eraseIfEmpty

theorem Kept.gcNext (h : Kept P C s t) : Kept P C s t.gcNext := by
  unfold State.gcNext
  dsimp only
  split
  · exact h.mapFls.eraseIfEmpty
  · refine .ite h.mapFls.mapFls ?_
    split
    · exact h.mapFls.mapFls
    · exact h.mapFls.mapFls.eraseIfEmpty

theorem Kept.execGcStart (h : Kept P C s t) : KeptOut P C s (execGcStart t) :=
  .next (Kept.ite h.gcNext h)

theorem Kept.execGcUnitMove {unit : Nat} {unreadable : Bool} (h : Kept P C s t) : KeptOut P C s (execGcUnitMove unit unreadable t) :=
  .next (Kept.ite h (Kept.ite h.readFault.journalAll.eraseIfEmpty ((Kept.ite h.bump.bump.bump h).moveUnit.when fun h => h.bump)))

theorem Kept.startVerifies (h : Kept P C s t) : Kept P C s t.startVerifies :=
  h.mapBg.foldl fun _ _ h => Kept.ite h h.addJob

theorem Kept.execSbVerify {sb : Nat} {bad : List Nat} (h : Kept P C s t) : KeptOut P C s (execSbVerify sb bad t) :=
  .next (Kept.ite h (h.foldl fun _ _ h => h.bump.moveUnit).setSb.journal.releaseParity.dropJob)

theorem Kept.execSbEraseComplete {sb : Nat} (h : Kept P C s t) : KeptOut P C s (execSbEraseComplete sb t) :=
  .next (Kept.ite h (h.setSb.journal.releaseParity.when fun h => h.gcNext))

theorem Kept.restartRec {sb die : Nat} {r : JRec} (h : Kept P C s t) : Kept P C s (t.restartRec sb die r).2 := by
  unfold State.restartRec
  split
  · split
    · next e => exact h
    · next e => exact h.nextSlot.of_some e
  · exact h

theorem Kept.execFlashEraseFail {sb die plane channel : Nat} (h : Kept P C s t) : KeptOut P C s (execFlashEraseFail sb die plane channel t) :=
  .next (Kept.ite h h.retireBlock)

theorem Kept.execFlashPatrol {unit retries : Nat} {failed : Bool} (h : Kept P C s t) : KeptOut P C s (execFlashPatrol unit retries failed t) :=
  .next (Kept.ite h (Kept.ite (Kept.ite (((h.bgUses.when fun h => h.passEnds.mapBg).when fun h => h.bump).when fun h => h.bump).bump.moveUnit
      (((h.bgUses.when fun h => h.passEnds.mapBg).when fun h => h.bump).when fun h => h.bump).unitFault) (Kept.ite (((h.bgUses.when fun h =>
      h.passEnds.mapBg).when fun h => h.bump).when fun h => h.bump).moveUnit ((((h.bgUses.when fun h => h.passEnds.mapBg).when fun h => h.bump).when
      fun h => h.bump).when fun h => h.bgUses.moveUnit))))

theorem Kept.endFlashWrites (h : Kept P C s t) : Kept P C s t.endFlashWrites :=
  .ite h ((h.foldl fun _ _ h => h.mapLore.subQueued.parkFailed).foldl fun _ _ h => h.failTierMove)

/-! ## Windows -/

theorem Kept.takeRegion {i root : Nat} {x : ListAt} {ps : List Page} (h : Kept P C s t) : Kept P C s (t.takeRegion i root x ps) := by
  unfold State.takeRegion
  refine Kept.setWindow ?_
  dsimp only
  split
  · exact (Kept.ite h.setPlist h).setPlist
  · split
    · exact h
    · exact .ite h.setPlist h

theorem Kept.bodyWinOpen {c : Nat} {w : IWord} {d : Bytes} (h : Kept P C s t) : KeptRes P C s (t.bodyWinOpen c w d) := by
  unfold State.bodyWinOpen
  refine KeptRes.ite .fail (KeptRes.ite .fail (KeptRes.ite .fail (KeptRes.ite .fail ?_)))
  dsimp only
  split
  · next e => exact .fail
  · next e => exact .ok (h.takePages.of_some e).takeRegion.setWindow.setOut

theorem Kept.execWinOpen {c : Nat} {w : IWord} {d : Bytes} (h : Kept P C s t) : KeptOut P C s (execWinOpen c w d t) :=
  .next (h.runInstr fun _ _ => h.bodyWinOpen)

theorem Kept.execWinRevoke {c : Nat} {w : IWord} (h : Kept P C s t) : KeptOut P C s (execWinRevoke c w t) :=
  .next (h.runInstr fun _ _ => KeptRes.ite .fail (.wait h.setWindow))

theorem Kept.execWinRevokeComplete {win : Nat} (h : Kept P C s t) : KeptOut P C s (execWinRevokeComplete win t) := by
  unfold Machine.execWinRevokeComplete
  refine .next (Kept.ite h ?_)
  dsimp only
  split
  · exact h.dropPages.mapFab.setWindow.lightLamp.finish
  · exact h.dropPages.mapFab.setWindow.lightLamp

theorem Kept.refuseWindow {f : Frame} {kind : FrameKind} {order : Nat} (h : Kept P C s t) : Kept P C s (t.refuseWindow f kind order) :=
  .ite h.sendNack h.sendNack.bump.raise

theorem Kept.startCopy {d : Bytes} {o : Owner} {svc k n : Nat} {promise : Option Nat} (h : Kept P C s t) :
    Kept P C s (t.startCopy d o svc k n promise) := by
  unfold State.startCopy
  dsimp only
  split
  · exact h.endPhase.mapLore.mapFab.send
  · exact h.endPhase.mapLore.mapFab.send.enqueue

theorem Kept.bodyCopy {c : Nat} {w : IWord} {d : Bytes} {x : Ctx} (h : Kept P C s t) : KeptRes P C s (t.bodyCopy c w d x) := by
  unfold State.bodyCopy
  refine KeptRes.afterPre ?_
  dsimp only
  split
  · next e => exact h.admitAt.of_no e
  · next e => exact .wait (h.admitAt.of_go e).startCopy

theorem Kept.execCopy {c : Nat} {w : IWord} {d : Bytes} (h : Kept P C s t) : KeptOut P C s (execCopy c w d t) :=
  .next (h.coherent fun _ h => h.runInstr fun _ _ => h.bodyCopy)

theorem Kept.dropCopy {x : CopyOut} (h : Kept P C s t) : Kept P C s (t.dropCopy x) := by
  unfold State.dropCopy
  exact h.subQueued.dropStream.mapFab

theorem Kept.copyFailed {x : CopyOut} {code : Code} {excused : Bool} (h : Kept P C s t) : Kept P C s (t.copyFailed x code excused) :=
  h.dropCopy.failPromise.finish

theorem Kept.execCopyCommitReceive {f : Frame} {commitBeat : Nat} (h : Kept P C s t) : KeptOut P C s (execCopyCommitReceive f commitBeat t) := by
  unfold Machine.execCopyCommitReceive
  refine .next (h.receive fun _ h => ?_)
  split
  · exact h
  · refine Kept.finish ?_
    dsimp only
    split
    · exact h.dropCopy
    · split
      · dsimp only
        exact (h.dropCopy.when fun h => h.writeBreach).updPromise
      · exact (h.dropCopy.when fun h => h.writeBreach).dropPromise

theorem Kept.dropCopyIn {x : CopyIn} (h : Kept P C s t) : Kept P C s (t.dropCopyIn x) := by
  unfold State.dropCopyIn
  exact h.setWindow.mapFab

theorem Kept.refuseCopy {f : Frame} {kind : FrameKind} {order : Nat} (h : Kept P C s t) : Kept P C s (t.refuseCopy f kind order) := by
  unfold State.refuseCopy
  refine Kept.refuseWindow ?_
  split
  · exact h
  · exact h.dropCopyIn

theorem Kept.execCopyOpenReceive {f : Frame} {o : CopyOpen} (h : Kept P C s t) : KeptOut P C s (execCopyOpenReceive f o t) := by
  unfold Machine.execCopyOpenReceive
  refine .next (h.receive fun _ h => ?_)
  dsimp only
  split
  · exact h.refuseCopy
  · exact h.setWindow.copyPages.mapFab

theorem Kept.landCopy {x : CopyIn} (h : Kept P C s t) : Kept P C s (t.landCopy x) :=
  h.setWindow.mapFab.bump.send

theorem Kept.execCopyDataReceive {f : Frame} {data : Bytes} {checkOk collided : Bool} (h : Kept P C s t) :
    KeptOut P C s (execCopyDataReceive f data checkOk collided t) := by
  unfold Machine.execCopyDataReceive
  refine .next (h.receive fun _ h => ?_)
  dsimp only
  split
  · exact h.refuseCopy
  · exact h
  · exact .ite h.dropCopyIn.sendNack (Kept.ite h.writeStream.mapFab (Kept.ite h.writeStream.dropCopyIn.sendNack (Kept.ite
        h.writeStream.bump.dropCopyIn.sendNack h.writeStream.landCopy)))

theorem Kept.abandonCopies (h : Kept P C s t) : Kept P C s t.abandonCopies :=
  h.foldl fun _ _ h => h.dropCopyIn

theorem Kept.execSealWin {c : Nat} {w : IWord} (h : Kept P C s t) : KeptOut P C s (execSealWin c w t) := by
  unfold Machine.execSealWin
  refine .next (h.runInstr fun _ _ => ?_)
  refine KeptRes.afterPre (.wait (Kept.mapFab ?_).send)
  split
  · exact h
  · exact h.same

theorem Kept.endSeal {z : SealOut} {code : Code} (h : Kept P C s t) : Kept P C s (t.endSeal z code) :=
  h.mapFab.finish

theorem Kept.completeSeals (h : Kept P C s t) : Kept P C s t.completeSeals :=
  h.foldl fun _ _ h => h.endSeal

theorem Kept.loseSeals {n : NodeId} (h : Kept P C s t) : Kept P C s (t.loseSeals n) :=
  h.foldl fun _ _ h => h.endSeal

theorem Kept.execWinSealReceive {f : Frame} {light : Bool} (h : Kept P C s t) : KeptOut P C s (execWinSealReceive f light t) := by
  unfold Machine.execWinSealReceive
  refine .next (h.receive fun _ h => ?_)
  dsimp only
  split
  · exact h.refuseWindow
  · split
    · exact h.writeStream.lightLamp
    · exact h.writeStream

theorem Kept.execReadReceive {f : Frame} {len : Nat} {zero : Bool} (h : Kept P C s t) : KeptOut P C s (execReadReceive f len zero t) := by
  unfold Machine.execReadReceive
  refine .next (h.receive fun _ h => ?_)
  dsimp only
  split
  · exact h.refuseWindow
  · exact h.send

theorem Kept.dropLoad {id : Nat} (h : Kept P C s t) : Kept P C s (t.dropLoad id) :=
  h.mapFab

theorem Kept.execReadRespReceive {f : Frame} {data : Bytes} (h : Kept P C s t) : KeptOut P C s (execReadRespReceive f data t) := by
  unfold Machine.execReadRespReceive
  refine .next (h.receive fun _ h => ?_)
  split
  · exact h
  · exact h.dropLoad.emit

theorem Kept.execLoadTimeout {id : Nat} (h : Kept P C s t) : KeptOut P C s (execLoadTimeout id t) := by
  unfold Machine.execLoadTimeout
  refine .next ?_
  split
  · exact h
  · exact .ite h h.dropLoad.bump.raise.emit

theorem Kept.loadRefused {x : Load} {code : Code} (h : Kept P C s t) : Kept P C s (t.loadRefused x code) :=
  h.dropLoad.raise.emit

/-! ## Links -/

theorem Kept.closePort {p : Nat} (h : Kept P C s t) : Kept P C s (t.closePort p) :=
  h.foldl fun _ _ h => h.setLink

theorem Kept.openPort {p split : Nat} (h : Kept P C s t) : Kept P C s (t.openPort p split) :=
  h.foldl fun _ _ h => h.setLink

theorem Kept.execPortCfgWrite {port : Nat} {v : BitVec 32} (h : Kept P C s t) : KeptOut P C s (execPortCfgWrite port v t) :=
  .next (Kept.ite h (Kept.ite h.configReject (Kept.ite (Kept.ite h.configReject h).setRegN.openPort ((Kept.ite h.configReject h).setRegN.when fun h
      => h.closePort))))

theorem Kept.execLinkUp {link : Nat} (h : Kept P C s t) : KeptOut P C s (execLinkUp link t) :=
  .next (Kept.ite h.setLink h)

theorem Kept.execLinkTrainFail {link : Nat} (h : Kept P C s t) : KeptOut P C s (execLinkTrainFail link t) :=
  .next (Kept.ite h.setLink.raise h)

theorem Kept.execLinkDown {link : Nat} (h : Kept P C s t) : KeptOut P C s (execLinkDown link t) :=
  .next (Kept.ite h.linkFault.setLink.raise h)

theorem Kept.execKeyCmdLoad (h : Kept P C s t) : KeptOut P C s (execKeyCmdLoad t) :=
  .next (Kept.ite h.configReject h.setLink)

theorem Kept.execKeyCmdActivate (h : Kept P C s t) : KeptOut P C s (execKeyCmdActivate t) :=
  .next (Kept.ite h.configReject h.setLink)

theorem Kept.execKeyCmdDisable (h : Kept P C s t) : KeptOut P C s (execKeyCmdDisable t) :=
  .next h.setLink

theorem Kept.execRouteInstall {v : BitVec 32} {map : Bytes} (h : Kept P C s t) : KeptOut P C s (execRouteInstall v map t) := by
  unfold Machine.execRouteInstall
  refine .next (Kept.ite h.configReject ?_)
  split
  · exact h.raise
  · exact h.mapFab

theorem Kept.takeMap (h : Kept P C s t) : Kept P C s t.takeMap := by
  unfold State.takeMap
  dsimp only
  split
  · exact h
  · exact h.mapFab

theorem Kept.execMapDrainEnd (h : Kept P C s t) : KeptOut P C s (execMapDrainEnd t) :=
  .next (Kept.ite h.mapFab h)

theorem Kept.execFrameForward {f : Frame} {kind : FrameKind} {ns : Nat} {payload : Bytes} (h : Kept P C s t) :
    KeptOut P C s (execFrameForward f kind ns payload t) := by
  unfold Machine.execFrameForward
  refine .next ?_
  dsimp only
  split
  · next e => exact h.linkCheck.of_fst e
  · next e =>
      refine .ite (h.linkCheck.of_fst e) ?_
      split
      · exact (h.linkCheck.of_fst e).bump
      · exact .ite (h.linkCheck.of_fst e).bump ((h.linkCheck.of_fst e).when fun h => h.bump).enqueue

theorem Kept.refraction (h : Kept P C s t) : Kept P C s t.refraction :=
  h.mapFab.foldl fun _ _ h => h.setRegN

theorem Kept.execGateCtrlApply {entries : BitVec 4} (h : Kept P C s t) : KeptOut P C s (execGateCtrlApply entries t) :=
  .next (Kept.ite h.setRegN.configReject (Kept.ite h.setRegN.mapFab h.setRegN.mapFab.mapIo))

theorem Kept.releaseGates (h : Kept P C s t) : Kept P C s t.releaseGates := by
  unfold State.releaseGates
  split
  · exact h
  · exact .ite h h.mapFab.mapIo

theorem Kept.takeGates (h : Kept P C s t) : Kept P C s t.takeGates := by
  unfold State.takeGates
  refine Kept.refraction ?_
  split
  · exact (h.foldl fun _ _ h => h.setRegN).mapFab
  · exact (h.foldl fun _ _ h => h.setRegN).mapFab.mapFab

theorem Kept.refill (h : Kept P C s t) : Kept P C s t.refill :=
  h.refillTc0.foldl fun _ _ h => Kept.ite h (h.foldl fun _ _ h => h.setCredit)

theorem Kept.sampleQueues (h : Kept P C s t) : Kept P C s t.sampleQueues :=
  h.foldl fun _ _ h => h.mapFab

theorem Kept.execQueueSel {v : BitVec 32} (h : Kept P C s t) : KeptOut P C s (execQueueSel v t) :=
  .next (h.whileFree fun _ h => h.setRegN.mapFab.when fun h => h.mapFab)

theorem Kept.execHelloSend {link : Nat} (h : Kept P C s t) : KeptOut P C s (execHelloSend link t) :=
  .next (Kept.ite h h.setLink.enqueue)

theorem Kept.execHelloReceive {f : Frame} (h : Kept P C s t) : KeptOut P C s (execHelloReceive f t) :=
  .next (h.receive fun _ h => h.setLink.when fun h => h.startJoin)

/-! ## Meadows -/

theorem Kept.execMeadowDefine {c : Nat} {w : IWord} {d : Bytes} (h : Kept P C s t) : KeptOut P C s (execMeadowDefine c w d t) :=
  .next (h.runInstr fun _ _ => KeptRes.afterPre (KeptRes.ite (.ok h) (.wait h.setMdw)))

theorem Kept.zeroTile {i : Nat} (h : Kept P C s t) : Kept P C s (t.zeroTile i) :=
  h.mapEng.same

theorem Kept.assignTiles {m : Nat} {old new : List Nat} (h : Kept P C s t) : Kept P C s (t.assignTiles m old new) :=
  (h.foldl fun _ _ h => h.setTile).foldl fun _ _ h => (Kept.ite h h.setTile).zeroTile

theorem Kept.replaceRequests {m : Nat} (h : Kept P C s t) : Kept P C s (t.replaceRequests m) :=
  h.mapLore

theorem Kept.defineNow {m : Nat} {d : Bytes} (h : Kept P C s t) : Kept P C s (t.defineNow m d) := by
  unfold State.defineNow
  dsimp only
  split
  · exact h.assignTiles.setMdw.replaceRequests.unless fun h => h.unready
  · exact (h.assignTiles.setMdw.replaceRequests.unless fun h => h.unready).finish

theorem Kept.execMeadowDefineEffect {m : Nat} (h : Kept P C s t) : KeptOut P C s (execMeadowDefineEffect m t) := by
  unfold Machine.execMeadowDefineEffect
  refine .next ?_
  dsimp only
  split
  · exact h
  · exact .ite h h.defineNow

theorem Kept.execMeadowRole {c : Nat} {w : IWord} (h : Kept P C s t) : KeptOut P C s (execMeadowRole c w t) :=
  .next (h.runInstr fun _ _ => KeptRes.afterPre (.wait h.setMdw.publish))

theorem Kept.execMeadowDrain {c : Nat} {w : IWord} (h : Kept P C s t) : KeptOut P C s (execMeadowDrain c w t) :=
  .next (h.runInstr fun _ _ => KeptRes.ite .fail (.wait h.setMdw))

theorem Kept.execMeadowDrained {m : Nat} (h : Kept P C s t) : KeptOut P C s (execMeadowDrained m t) := by
  unfold Machine.execMeadowDrained
  refine .next (Kept.ite h ?_)
  dsimp only
  split
  · exact h.setMdw
  · exact h.setMdw.finish

/-! ## Fields -/

theorem Kept.sendMgmt {dst : NodeId} {p : Payload} (h : Kept P C s t) : Kept P C s (t.sendMgmt dst p) :=
  h.send

theorem Kept.beaconFault (h : Kept P C s t) : Kept P C s t.beaconFault :=
  h.mapIo

theorem Kept.follow {root : NodeId} (h : Kept P False s t) : Kept P False s (t.follow root) :=
  .ite h.setClk (Kept.ite h.setClk h.setClk)

theorem Kept.freeRun (h : Kept P False s t) : Kept P False s t.freeRun :=
  h.setClk.raise.beaconFault

theorem Kept.execFollowRequestReceive {r : FollowFrame} (h : Kept P False s t) : KeptOut P False s (execFollowRequestReceive r t) := by
  unfold Machine.execFollowRequestReceive
  refine .next (h.receive fun _ h => ?_)
  dsimp only
  split
  · exact .ite h h.setClk
  · refine .ite h (Kept.ite h.sendNack ?_)
    split
    · exact h.setClk
    · exact h.setClk.sendMgmt

theorem Kept.treeFull {root : NodeId} (h : Kept P C s t) : Kept P C s (t.treeFull root) :=
  .ite h.raise h

theorem Kept.tryForm {m : Nat} (h : Kept P C s t) : Kept P C s (t.tryForm m) :=
  .ite h (h.setField.foldl fun _ _ h => Kept.ite h h.sendMgmt)

theorem Kept.endFieldOp {owner : Option Nat} {code : Code} {node : Option NodeId} {obs : Nat} (h : Kept P C s t) :
    Kept P C s (t.endFieldOp owner code node obs) := by
  unfold State.endFieldOp
  dsimp only
  split
  · exact h
  · refine Kept.finish ?_
    split
    · exact h
    · exact h.setOut

theorem Kept.endForm {m : Nat} {code : Code} {node : Option NodeId} (h : Kept P C s t) : Kept P C s (t.endForm m code node) :=
  h.setField.endFieldOp

theorem Kept.setChange {m i : Nat} {k : Change} (h : Kept P C s t) : Kept P C s (t.setChange m i k) :=
  h.setField

theorem Kept.endChange {m i : Nat} {code : Code} {node : Option NodeId} {obs : Nat} (h : Kept P C s t) :
    Kept P C s (t.endChange m i code node obs) := by
  unfold State.endChange
  dsimp only
  split
  · exact h
  · exact h.setField.endFieldOp

end Sys2Proof.Machine

end

section

set_option Elab.async false

/-! What the operations that read or write what is stored, one after the other, keep. -/

namespace Sys2Proof.Machine

variable {P C : Prop} {s t u : State}

/-! ## Attention and Prefix -/

theorem Kept.execPartialResultReceive {f : Frame} {a : PartialAnswer} (h : Kept P C s t) : KeptOut P C s (execPartialResultReceive f a t) := by
  refine .next (h.receive fun u h => ?_)
  have hop : Kept P C s (if !f.forwarded then u else
      match u.eng.partials.find? (·.id == (match a with | .record r => r.id | .refused id _ _ _ => id)) with
      | none => u
      | some p => u.updPromise p.promise fun q => { q with path := true }) := by
    refine .ite h ?_
    split
    · exact h
    · exact h.updPromise
  have htake := hop.takeAnswer (a := a)
  split
  · next e => exact (htake.of_fst e).sendNack
  · next e => exact htake.of_fst e

theorem Kept.readRecords {d : Bytes} {rs : List PartialRec} {i : Nat} (h : Kept P C s t) : Kept P C s (t.readRecords d rs i).2 := by
  induction rs generalizing t i with
  | nil => exact h
  | cons r rs ih =>
    unfold State.readRecords
    split
    · exact ih h
    · exact ih h.readCommons

theorem Kept.bodyMerge {d : Bytes} {m : MergeRecs} (h : Kept P C s t) : KeptRes P C s (t.bodyMerge d m) := by
  unfold State.bodyMerge
  refine .afterPre ?_
  split
  next e =>
  have h1 := h.readRecords.of_snd e
  exact .ite (.failAs h1) (h1.writeOut fun _ h => h)

theorem Kept.execAttnMerge {c : Nat} {w : IWord} {d : Bytes} {m : MergeRecs} (h : Kept P C s t) : KeptOut P C s (execAttnMerge c w d m t) :=
  .next (h.coherent fun _ h => h.runInstr fun _ _ => h.bodyMerge)

theorem Kept.publishGroups {l model adapter layers pt g : Nat} {ps : List Page} {parent : Option Nat} {hs : List Digest} (h : Kept P C s t) :
    Kept P C s (t.publishGroups l model adapter layers pt ps g parent hs) := by
  induction hs generalizing t g parent with
  | nil => exact h
  | cons d hs ih =>
    unfold State.publishGroups
    split
    · exact ih h
    · split
      · exact h
      · exact ih (h.markShared.foldl fun _ _ h => h.setRef).mapMem

theorem Kept.setHashBody {o : Owner} {d : Bytes} {tokens : List (BitVec 16)} {bad : Bool} (h : Kept P C s t) :
    KeptRes P C s (t.setHashBody o d tokens bad) := by
  unfold State.setHashBody
  refine .afterPre ?_
  dsimp only
  split
  · exact .fail
  · refine .ite .fail (h.writeOut fun u h => Kept.setOut ?_)
    split
    · exact h.publishGroups
    · exact h

theorem Kept.execSetHash {c : Nat} {w : IWord} {d : Bytes} {tokens : List (BitVec 16)} {bad : Bool} (h : Kept P C s t) :
    KeptOut P C s (execSetHash c w d tokens bad t) :=
  .next (h.coherent fun _ h => h.runInstr fun _ _ => h.setHashBody)

theorem Kept.autoEmber {n : Nat} (h : Kept P C s t) : Kept P C s (t.autoEmber n) := by
  induction n generalizing t with
  | zero => exact h
  | succ n ih =>
    unfold State.autoEmber
    refine .ite h.mapLore ?_
    split
    · exact h
    · exact .ite h (ih h.bgUses.emberDeed.bump.raise)

/-! ## Tiers and Flash -/

theorem Kept.startTierMove {i target slot : Nat} {owner : Owner} {promise : Option Nat} (h : Kept P C s t) :
    KeptOpt P C s (t.startTierMove i target owner promise slot) := by
  refine h.takeObj.mapOpt fun x h => ?_
  dsimp only
  refine Kept.endPhase (Kept.snoopObj (Kept.mapMem (Kept.setObj ?_)))
  refine Kept.when ?_ fun h => h.addJob
  split
  · exact h.free
  · exact h

theorem Kept.bodyTierMove {c : Nat} {w : IWord} {x : Ctx} (h : Kept P C s t) : KeptRes P C s (t.bodyTierMove c w x) := by
  unfold State.bodyTierMove
  refine .afterPre ?_
  split
  · exact .fail
  · have hadmit (i : Nat) : KeptAdmit P C s (if (t.obj i).home = 0 then .go t none 0 else t.admitAt c x (t.itemTierMove x.pc w)) :=
      .ite (.go h) h.admitAt
    split
    · next e => exact (hadmit _).of_no e
    · next e =>
      have h1 := (hadmit _).of_go e
      refine .ite (.ite (.ok h1.keepPromise) (.failAs h1.keepPromise)) ?_
      split
      · exact .failAs h1.failPromise
      · next e => exact .wait (h1.startTierMove.of_some e)

theorem Kept.execTierMove {c : Nat} {w : IWord} (h : Kept P C s t) : KeptOut P C s (execTierMove c w t) :=
  .next (h.runInstr fun _ _ => h.bodyTierMove)

theorem Kept.touchMigrate {i : Nat} (h : Kept P C s t) : Kept P C s (t.touchMigrate i) := by
  unfold State.touchMigrate
  refine .ite ?_ h
  split
  · next e => exact (h.startTierMove.of_some e).setObj
  · exact h.setObj.raise

/-- The bytes of an object at their new home. -/
theorem Kept.putObject {target loc : Nat} {b : Bytes} (h : Kept P C s t) :
    Kept P C s (if target = 1 then t.emit (.hostWrite loc b)
      else t.setBytes target (Tbl.writeBytes (t.bytesOf target) (4096 * loc) b)) :=
  .ite h.emit (h.setBytes fun k => Tbl.wf_writeBytes _ _ (wf_bytesOf target k))

theorem Kept.execTierMoveCommit {obj : Nat} {data : Bytes} {reads : ReadEnd} (h : Kept P C s t) :
    KeptOut P C s (execTierMoveCommit obj data reads t) := by
  refine .next ?_
  split
  · exact h
  · refine .ite h ?_
    dsimp only
    split
    · exact (h.when fun h => h.flFault).readPhases.failTierMove
    · refine Kept.finish (Kept.keepPromise (Kept.foldl ?_ fun _ _ h => h.applyWrite))
      exact (h.when fun h => h.flFault).readPhases.dropJob.mapMem.putObject.freeObj.setObj.when fun h => h.journalAll

theorem Kept.hostReadLine {off : Nat} {uncorrectable : Bool} (h : Kept P C s t) : Kept P C s (t.hostReadLine off uncorrectable) := by
  unfold State.hostReadLine
  refine .ite h.mapCxl ?_
  split
  · exact h.hdmUnmapped.emit
  · dsimp only
    split
    · refine .ite h.setObj.bump.raise.emit (.ite h.setObj.waitRoom ?_)
      exact h.setObj.countRead.emit.when fun h => h.grantLine
    · exact h.setObj.partnerRead
    · exact h.setObj.readThrough.touchMigrate

theorem Kept.execHostRead {off : Nat} {uncorrectable : Bool} (h : Kept P C s t) : KeptOut P C s (execHostRead off uncorrectable t) :=
  .next (.ite h.emit h.hostReadLine)

theorem Kept.hostWriteLine {off : Nat} {data : Bytes} (h : Kept P C s t) : Kept P C s (t.hostWriteLine off data) := by
  unfold State.hostWriteLine
  refine .ite h.mapCxl ?_
  split
  · exact h.hdmUnmapped
  · exact .ite h.setObj.mapMem h.setObj.applyWrite.touchMigrate

theorem Kept.execHostWrite {off : Nat} {data : Bytes} (h : Kept P C s t) : KeptOut P C s (execHostWrite off data t) :=
  .next (.ite h h.hostWriteLine)

theorem Kept.wake {line : Nat} (h : Kept P C s t) : Kept P C s (t.wake line) := by
  refine Kept.foldl h.mapCxl fun _ _ h => ?_
  split
  · exact h.hostReadLine
  · exact h.hostWriteLine

theorem Kept.wakeFilter (h : Kept P C s t) : Kept P C s t.wakeFilter :=
  h.mapCxl.foldl fun _ _ h => h.hostReadLine

theorem Kept.execBiSnoopAnswer {line : Nat} {modified : Option Bytes} {late : Bool} (h : Kept P C s t) :
    KeptOut P C s (execBiSnoopAnswer line modified late t) := by
  refine .next (.ite h (Kept.wakeFilter (Kept.wake (Kept.mapCxl (Kept.when ?_ fun h => h.mapCxl.raise.foldl fun _ _ h => h.lateFor)))))
  split
  · exact h.mapCxl.when fun h => h.objWrite
  · exact h.mapCxl

theorem Kept.trimRange {g n : Nat} (h : Kept P C s t) : Kept P C s (t.trimRange g n) :=
  Kept.setBytes (tier := 2) (h.foldl fun _ _ h => h.setLive.freeGranule)
    fun k => wf_pasteBytes _ _ (wf_bytesOf 2 k) (Tbl.wf_nil _)

theorem Kept.execFlashTrim {c : Nat} {w : IWord} (h : Kept P C s t) : KeptOut P C s (execFlashTrim c w t) :=
  .next (h.runInstr fun _ _ => .afterPre (.ok (h.trimRange.journalAll.when fun h => h.mapFls).publish))

/-- Flash with nothing stored. -/
theorem Kept.emptyFlash (h : Kept P C s t) : Kept P C s (t.mapMem fun m => { m with flashUsed := [], flash := [] }) :=
  h.of_canonical fun ⟨hr, hl, hm, hc, hg, _, hw⟩ => ⟨hr, hl, hm, hc, hg, Tbl.wf_nil _, hw⟩

theorem Kept.execFlashCmdFormat (h : Kept P C s t) : KeptOut P C s (execFlashCmdFormat t) :=
  .next (.ite h.configReject h.mapFls.eraseSystem.emptyFlash.checkpoint)

theorem Kept.dropExported (h : Kept P C s t) : Kept P C s t.dropExported := by
  unfold State.dropExported
  exact h.journal.journalAll.emptyFlash.mapFls

theorem Kept.rebuiltUnits {l : List Nat} (h : Kept P C s t) :
    Kept P C s (l.foldl (fun u b => (u.bump Reg.FLASH_REBUILDS).moveUnit b) t) :=
  h.foldl fun _ _ h => h.bump.moveUnit

theorem Kept.lostUnits {l : List Nat} (h : Kept P C s t) : Kept P C s (l.foldl State.loseUnit t) :=
  h.foldl fun _ _ h => h.loseUnit

theorem Kept.execFlashRestart {i : RestartInput} (h : Kept P C s t) : KeptOut P C s (execFlashRestart i t) := by
  refine .next (.ite h (.ite h.mapFls ?_))
  have hlost (rebuilt lost : List Nat) := (h.closeOpen.rebuiltUnits (l := rebuilt)).lostUnits (l := lost)
  exact (Kept.ite (hlost _ _).dropExported (hlost _ _).journalAll).eraseEmpties.checkpoint.mapFls

theorem Kept.execFlashProgramFail {sb die plane channel : Nat} (h : Kept P C s t) :
    KeptOut P C s (execFlashProgramFail sb die plane channel t) := by
  refine .next (.ite h ?_)
  refine Kept.foldl (h.mapFls.retireBlock.foldl fun _ _ h => ?_) fun _ _ h => h.bump.moveUnit
  exact h.restartRec.journal

/-! ## Fields -/

theorem Kept.dropEarly {f : NodeId × FieldReady × Nat → Bool} (h : Kept P C s t) : Kept P C s { t with early := t.early.filter f } :=
  h.same

theorem Kept.startForm {m c : Nat} {f : FieldDesc} (h : Kept P C s t) : Kept P C s (t.startForm m c f) := by
  unfold State.startForm
  exact .ite h.setField.dropEarly.setField.tryForm h.setField.sendMgmt

theorem Kept.execFieldForm {c : Nat} {w : IWord} {d : Bytes} (h : Kept P C s t) : KeptOut P C s (execFieldForm c w d t) :=
  .next (h.runInstr fun _ _ => .afterPre (.wait h.startForm))

end Sys2Proof.Machine

end

section

set_option Elab.async false

/-! What the operations of fields, partners, the chip, resets, registers, firmware and the host keep. -/

namespace Sys2Proof.Machine

variable {P C : Prop} {s t u : State}

/-! ## Fields -/

theorem Kept.execFieldFollow {v : BitVec 64} (h : Kept P False s t) : KeptOut P False s (execFieldFollow v t) :=
  .next (Kept.ite h (Kept.ite h.configReject (h.setReg.follow.unless fun h => h.setClk.sendMgmt)))

theorem Kept.execFollowLockTimeout (h : Kept P False s t) : KeptOut P False s (execFollowLockTimeout t) := by
  unfold Machine.execFollowLockTimeout
  refine .next ?_
  split
  · exact h
  · exact .ite h (Kept.ite h.setClk h.freeRun)

theorem Kept.tryChange {m i : Nat} (h : Kept P C s t) : Kept P C s (t.tryChange m i) := by
  unfold State.tryChange
  dsimp only
  split
  · exact h
  · exact .ite h (h.setChange.foldl fun _ _ h => Kept.ite h h.sendMgmt)

theorem Kept.startChange {m : Nat} {kind : ChangeKind} {d : FieldDesc} {subject : NodeId} {owner : Option Nat} (h : Kept P C s t) :
    Kept P C s (t.startChange m kind d subject owner) :=
  (h.setField.foldl fun _ _ h => Kept.ite h h.sendMgmt).tryChange

theorem Kept.withdraw {m : Nat} {k : Change} (h : Kept P C s t) : Kept P C s (t.withdraw m k) :=
  h.foldl fun _ _ h => Kept.ite h h.sendMgmt

theorem Kept.withdrawAll {m : Nat} {p : Change → Bool} {code : Code} (h : Kept P C s t) : Kept P C s (t.withdrawAll m p code) :=
  h.setField.foldl fun _ _ h => h.withdraw.endFieldOp

theorem Kept.execFieldReform {c : Nat} {w : IWord} {d : Bytes} (h : Kept P C s t) : KeptOut P C s (execFieldReform c w d t) :=
  .next (h.runInstr fun _ _ => KeptRes.afterPre (KeptRes.ite (.failAs h.setOut) (.wait h.withdrawAll.publish.startChange)))

theorem Kept.execFieldAdmit {c : Nat} {w : IWord} (h : Kept P C s t) : KeptOut P C s (execFieldAdmit c w t) :=
  .next (h.runInstr fun _ _ => KeptRes.afterPre (.wait h.startChange))

theorem Kept.execFieldExpel {c : Nat} {w : IWord} (h : Kept P C s t) : KeptOut P C s (execFieldExpel c w t) :=
  .next (h.runInstr fun _ _ => KeptRes.afterPre (.wait h.startChange))

theorem Kept.execFieldReadyReceive {f : Frame} {r : FieldReady} (h : Kept P C s t) : KeptOut P C s (execFieldReadyReceive f r t) := by
  unfold Machine.execFieldReadyReceive
  refine .next (h.receive fun _ h => ?_)
  split
  · exact .ite h h.setField.tryForm
  · split
    · exact h.same
    · split
      · exact h
      · exact .ite h.endChange h.setChange.tryChange

theorem Kept.execFieldCommitBeatReceive {f : Frame} {fieldId c : Nat} (h : Kept P C s t) :
    KeptOut P C s (execFieldCommitBeatReceive f fieldId c t) := by
  unfold Machine.execFieldCommitBeatReceive
  refine .next (h.receive fun _ h => ?_)
  dsimp only
  split
  · exact .ite h.endForm.raise h.setField
  · split
    · exact h
    · exact h.setField

theorem Kept.execFieldAbortReceive {f : Frame} {fieldId : Nat} {missing : NodeId} (h : Kept P C s t) :
    KeptOut P C s (execFieldAbortReceive f fieldId missing t) := by
  unfold Machine.execFieldAbortReceive
  refine .next (h.receive fun _ h => ?_)
  dsimp only
  split
  · exact h.endForm
  · exact h.foldl fun _ _ h => h.setField

theorem Kept.enterHold {m : Nat} {node : NodeId} {reason : Nat} (h : Kept P C s t) : Kept P C s (t.enterHold m node reason) := by
  unfold State.enterHold
  exact h.setField.bump.raise

theorem Kept.tellMembers {m : Nat} {kind : ChangeKind} {subject : NodeId} (h : Kept P C s t) : Kept P C s (t.tellMembers m kind subject) :=
  h.foldl fun _ _ h => Kept.ite h h.sendMgmt

theorem Kept.answerChange {m i : Nat} (h : Kept P C s t) : Kept P C s (t.answerChange m i) := by
  unfold State.answerChange
  dsimp only
  split
  · exact h
  · refine .ite h ?_
    split
    · exact h
    · exact h.setField.sendMgmt

theorem Kept.answerOwn {m i : Nat} (h : Kept P C s t) : Kept P C s (t.answerOwn m i) := by
  unfold State.answerOwn
  dsimp only
  split
  · exact h
  · exact .ite h h.setChange.tryChange

theorem Kept.answerChanges (h : Kept P C s t) : Kept P C s t.answerChanges :=
  h.foldl fun _ _ h => (h.foldl fun _ _ h => h.answerChange).foldl fun _ _ h => h.answerOwn

theorem Kept.takeHold {m : Nat} {src subject : NodeId} {kind : ChangeKind} (h : Kept P C s t) : Kept P C s (t.takeHold m src subject kind) := by
  unfold State.takeHold
  refine .ite h ?_
  split
  · exact .ite h.enterHold h
  · exact .ite h.setField h
  · exact h

theorem Kept.forgetChange {m : Nat} {src : NodeId} {ch : FieldChange} (h : Kept P C s t) : Kept P C s (t.forgetChange m src ch) :=
  h.setField

theorem Kept.execFieldChangeReceive {f : Frame} {heard : HeardChange} (h : Kept P C s t) : KeptOut P C s (execFieldChangeReceive f heard t) := by
  unfold Machine.execFieldChangeReceive
  refine .next (h.receive fun _ h => ?_)
  dsimp only
  split
  · exact h
  · exact .ite h.takeHold (Kept.ite h.forgetChange (Kept.ite h.raise h).setField.answerChange)

theorem Kept.setBeat {b : Nat} (h : Kept P False s t) : Kept P False s (t.setBeat b) :=
  h.setClk.refraction

theorem Kept.homeDead {n : NodeId} (h : Kept P C s t) : Kept P C s (t.homeDead n) :=
  (h.foldl fun _ _ h => h.toEmber).foldl fun _ _ h => h.endPartial

theorem Kept.freeHostedFor {ns : List NodeId} (h : Kept P C s t) : Kept P C s (t.freeHostedFor ns) :=
  h.foldl fun _ _ h => h.freeData.setDeed

theorem Kept.leaveBeacon (h : Kept P False s t) : Kept P False s t.leaveBeacon :=
  .ite h h.follow

theorem Kept.leaveField {m : Nat} {ms : List FieldMember} {expelled : Bool} (h : Kept P False s t) : Kept P False s (t.leaveField m ms expelled) :=
  (h.setField.raise.when fun h => h.freeHostedFor.raise).leaveBeacon

theorem Kept.reviseChanges {m : Nat} (h : Kept P C s t) : Kept P C s (t.reviseChanges m) := by
  unfold State.reviseChanges
  refine h.setField.foldl fun _ _ h => ?_
  dsimp only
  split
  · exact h.endFieldOp
  · exact .ite h h.startChange

theorem Kept.execFieldFormTimeout {m : Nat} (h : Kept P C s t) : KeptOut P C s (execFieldFormTimeout m t) := by
  unfold Machine.execFieldFormTimeout
  refine .next (Kept.ite (Kept.ite h (Kept.ite (h.foldl fun _ _ h => Kept.ite h h.sendMgmt).endForm h.endForm)) ?_)
  dsimp only
  split
  · exact h
  · exact (h.foldl fun _ _ h => Kept.ite h h.sendMgmt).endChange

theorem Kept.execStepReportReceive {f : Frame} {r : StepReport} (h : Kept P C s t) : KeptOut P C s (execStepReportReceive f r t) := by
  unfold Machine.execStepReportReceive
  refine .next (h.receive fun _ h => ?_)
  dsimp only
  split
  · exact h
  · exact .ite h h.setField

theorem Kept.hold {m : Nat} {node : NodeId} {reason : Nat} (h : Kept P C s t) : Kept P C s (t.hold m node reason) :=
  .ite h (h.enterHold.when fun h => h.tellMembers)

theorem Kept.straggle {m : Nat} (h : Kept P C s t) : Kept P C s (t.straggle m) :=
  .ite h (h.foldl fun _ _ h => h.setField.when fun h => h.startChange)

theorem Kept.expelCandidate {m : Nat} (h : Kept P C s t) : Kept P C s (t.expelCandidate m) := by
  unfold State.expelCandidate
  dsimp only
  split
  · exact h
  · exact .ite h (Kept.ite h.hold (Kept.ite h.hold h.startChange))

theorem Kept.execFieldStepEvaluation {m : Nat} (h : Kept P C s t) : KeptOut P C s (execFieldStepEvaluation m t) := by
  unfold Machine.execFieldStepEvaluation
  refine .next ?_
  dsimp only
  split
  · exact h
  · exact .ite h (h.setField.when fun h => h.straggle.expelCandidate)

theorem Kept.execFieldStepGraceExpiry {m : Nat} (h : Kept P C s t) : KeptOut P C s (execFieldStepGraceExpiry m t) := by
  unfold Machine.execFieldStepGraceExpiry
  refine .next ?_
  dsimp only
  split
  · exact h
  · exact .ite h h.setField.updPromise.chargeStep.abortStep.failRekindle

theorem Kept.joinLost {n : NodeId} (h : Kept P C s t) : Kept P C s (t.joinLost n) :=
  h.foldl fun _ _ h => h.withdrawAll

theorem Kept.fieldLost {n : NodeId} {dead : Bool} (h : Kept P C s t) : Kept P C s (t.fieldLost n dead) :=
  h.foldl fun _ _ h => Kept.ite h (Kept.ite h.hold (Kept.ite h.setField h))

theorem Kept.execFieldCtrlRelease {m : Nat} (h : Kept P C s t) : KeptOut P C s (execFieldCtrlRelease m t) :=
  .next (Kept.ite h.setField.tellMembers h)

theorem Kept.execFieldCtrlPrep {m : Nat} (h : Kept P C s t) : KeptOut P C s (execFieldCtrlPrep m t) :=
  .next (Kept.ite h (Kept.ite h.configReject h.setRegN.addJob))

theorem Kept.execFieldPrepComplete {failures : Nat} (h : Kept P C s t) : KeptOut P C s (execFieldPrepComplete failures t) :=
  .next (Kept.ite h (h.dropJob.foldl fun _ _ h => h.zeroTile).setRegN)

theorem Kept.execFieldSel {v : BitVec 32} (h : Kept P C s t) : KeptOut P C s (execFieldSel v t) := by
  unfold Machine.execFieldSel
  refine .next (Kept.ite h (h.whileFree fun _ h => ?_))
  dsimp only
  split
  · exact h.setRegN.mapFab
  · exact h.setRegN.mapFab

theorem Kept.execCollectiveReceive {f : Frame} {of : PartOf} {data : Bytes} (h : Kept P C s t) :
    KeptOut P C s (execCollectiveReceive f of data t) := by
  unfold Machine.execCollectiveReceive
  refine .next (h.receive fun _ h => ?_)
  dsimp only
  split
  · exact h
  · exact .ite (Kept.ite (h.foldl fun _ _ h => Kept.ite h.updPromise h) h).bump.sendNack (Kept.ite (h.foldl fun _ _ h => Kept.ite h.updPromise h)
        h).setField

/-! ## Partners -/

theorem Kept.endWaiting {n : NodeId} (h : Kept P C s t) : Kept P C s (t.endWaiting n) :=
  (((h.foldl fun _ _ h => h.pathFault.moveReturned).foldl fun _ _ h => h.pathFault.copyFailed).loseSeals.mapLore.same.foldl fun _ _ h =>
      h.finish).foldl fun _ _ h => h.pathFault

theorem Kept.partnerGone {i : Nat} {st : PState} (h : Kept P C s t) : Kept P C s (t.partnerGone i st) :=
  h.setPartner.dropFrames.endWaiting.homeDead.endDecrees.fieldLost.joinLost

theorem Kept.sendAck {p : Partner} (h : Kept P C s t) : Kept P C s (t.sendAck p) :=
  h.queueFrame

theorem Kept.execAckSend {partner : Nat} (h : Kept P C s t) : KeptOut P C s (execAckSend partner t) :=
  .next (Kept.ite h.setPartner.sendAck h)

theorem Kept.execAckReceive {f : Frame} {map : List Nat} (h : Kept P C s t) : KeptOut P C s (execAckReceive f map t) := by
  unfold Machine.execAckReceive
  refine .next (h.receive fun _ h => ?_)
  dsimp only
  split
  · exact h
  · exact h.released

theorem Kept.countRetx {n : NodeId} (h : Kept P C s t) : Kept P C s (t.countRetx n) :=
  h.same

theorem Kept.execRetransmitTimeout {partner seq : Nat} (h : Kept P C s t) : KeptOut P C s (execRetransmitTimeout partner seq t) := by
  unfold Machine.execRetransmitTimeout
  refine .next ?_
  dsimp only
  split
  · exact h
  · refine .ite h (Kept.ite (Kept.ite h.partnerGone.raise h.setPartner) ?_)
    split
    · exact h.setPartner.bump.pathFault.countRetx
    · exact h.setPartner.bump.pathFault.countRetx.enqueue

theorem Kept.sendProof {p : Partner} (h : Kept P C s t) : Kept P C s (t.sendProof p) :=
  h.foldl fun _ _ h => h.queueFrame

theorem Kept.sendResult {n : NodeId} {ok : Bool} (h : Kept P C s t) : Kept P C s (t.sendResult n ok) :=
  h.queueFrame

theorem Kept.execJoinStart {node : NodeId} (h : Kept P C s t) : KeptOut P C s (execJoinStart node t) :=
  .next (Kept.ite h.startJoin h)

theorem Kept.becomeLive {i : Nat} (h : Kept P C s t) : Kept P C s (t.becomeLive i) :=
  h.clearRefusals.setPartner.raise.reconnect

theorem Kept.joinEnds {i code : Nat} (h : Kept P C s t) : Kept P C s (t.joinEnds i code) := by
  unfold State.joinEnds
  exact h.setPartner.dropFrames.loseSeals.clearRefusals.raise

theorem Kept.verified {i : Nat} (h : Kept P C s t) : Kept P C s (t.verified i) :=
  .ite h.setPartner.raise h.becomeLive

theorem Kept.respond {i : Nat} {n : NodeId} {nonce : Digest} (h : Kept P C s t) : Kept P C s (t.respond i n nonce) :=
  h.same.setPartner.sendProof

theorem Kept.execJoinNonceReceive {f : Frame} {nonce : Digest} (h : Kept P C s t) : KeptOut P C s (execJoinNonceReceive f nonce t) := by
  unfold Machine.execJoinNonceReceive
  refine .next (h.receive fun _ h => ?_)
  dsimp only
  split
  · split
    · next e => exact h.entryFor.of_snd e
    · next e => exact (h.entryFor.of_snd e).respond
  · split
    · exact h
    · exact .ite (Kept.ite h h.respond) (Kept.ite h.sendProof h.respond)
    · split
      · next e => exact h.entryFor.of_snd e
      · next e => exact (h.entryFor.of_snd e).respond

theorem Kept.execJoinProofReceive {f : Frame} {p : JoinProof} (h : Kept P C s t) : KeptOut P C s (execJoinProofReceive f p t) := by
  unfold Machine.execJoinProofReceive
  refine .next (h.receive fun _ h => ?_)
  dsimp only
  split
  · exact h
  · exact .ite h (Kept.ite h.joinEnds.sendResult h.setPartner.sendProof)

theorem Kept.execJoinInitiatorProofReceive {f : Frame} {p : JoinProof} (h : Kept P C s t) : KeptOut P C s (execJoinInitiatorProofReceive f p t) := by
  unfold Machine.execJoinInitiatorProofReceive
  refine .next (h.receive fun _ h => ?_)
  dsimp only
  split
  · exact h
  · refine .ite h ?_
    split
    · exact h.sendResult
    · exact .ite h.joinEnds.sendResult (h.setPartner.verified.when fun h => h.sendResult)
    · exact h

theorem Kept.execJoinResultReceive {f : Frame} {accepted : Bool} (h : Kept P C s t) : KeptOut P C s (execJoinResultReceive f accepted t) := by
  unfold Machine.execJoinResultReceive
  refine .next (h.receive fun _ h => ?_)
  dsimp only
  split
  · exact h
  · exact .ite h (Kept.ite h.joinEnds (Kept.ite h.setPartner.verified h))

theorem Kept.execJoinRetry {partner : Nat} (h : Kept P C s t) : KeptOut P C s (execJoinRetry partner t) :=
  .next (Kept.ite h (Kept.ite h.setPartner.sendNonce (h.setPartner.when fun h => h.sendProof)))

theorem Kept.execJoinTimeout {partner : Nat} (h : Kept P C s t) : KeptOut P C s (execJoinTimeout partner t) :=
  .next (Kept.ite h (Kept.ite h.joinEnds (Kept.ite h.setPartner.dropFrames.loseSeals.clearRefusals.raise h)))

theorem Kept.execHeartbeatSend {partner : Nat} (h : Kept P C s t) : KeptOut P C s (execHeartbeatSend partner t) :=
  .next (Kept.ite h.setPartner.queueFrame h)

theorem Kept.execHeartbeatReceive {f : Frame} (h : Kept P C s t) : KeptOut P C s (execHeartbeatReceive f t) :=
  .next (h.receive fun _ h => h)

theorem Kept.execPartnerDeadTimeout {partner : Nat} (h : Kept P C s t) : KeptOut P C s (execPartnerDeadTimeout partner t) :=
  .next (Kept.ite h.partnerGone.raise h)

theorem Kept.execLeaveDepartureReceive {f : Frame} (h : Kept P C s t) : KeptOut P C s (execLeaveDepartureReceive f t) := by
  unfold Machine.execLeaveDepartureReceive
  refine .next (h.receive fun _ h => ?_)
  dsimp only
  split
  · exact h
  · exact h.partnerGone.raise.sendAck

theorem Kept.execLeaveEvictionReceive {f : Frame} (h : Kept P C s t) : KeptOut P C s (execLeaveEvictionReceive f t) := by
  unfold Machine.execLeaveEvictionReceive
  refine .next (h.receive fun _ h => ?_)
  dsimp only
  split
  · exact h
  · exact .ite h.sendNack h.setPartner.dropFrames.sendAck

theorem Kept.leaveAll (h : Kept P C s t) : Kept P C s t.leaveAll :=
  h.foldl fun _ _ h => h.partnerGone.sendLeave.setPartner

theorem Kept.execFabCtrlLeave (h : Kept P C s t) : KeptOut P C s (execFabCtrlLeave t) :=
  .next (Kept.ite h.leaveAll h)

theorem Kept.evictionRefused {i : Nat} (h : Kept P C s t) : Kept P C s (t.evictionRefused i) := by
  unfold State.evictionRefused
  exact (Kept.ite h.setPartner.startJoin h.setPartner.entryFor).mapFab

theorem Kept.staleStep {src : NodeId} (h : Kept P C s t) : Kept P C s (t.staleStep src) := by
  unfold State.staleStep
  split
  · exact h
  · split
    · exact h
    · exact .ite h.chargeStep.abortStep.failRekindle h

theorem Kept.execNackReceive {f : Frame} {n : Nack} (h : Kept P C s t) : KeptOut P C s (execNackReceive f n t) := by
  unfold Machine.execNackReceive
  refine .next (h.receive fun _ h => ?_)
  split
  · split
    · exact .ite h.moveReturned h
    · split
      · exact .ite h.copyFailed h
      · exact h
  · split
    · exact .ite h.moveReturned h
    · split
      · exact .ite h.copyFailed h
      · exact h
  · split
    · exact .ite h.moveReturned h
    · split
      · exact .ite h.copyFailed h
      · exact h
  · split
    · exact h.loadRefused
    · exact h
  · split
    · exact h.endSeal
    · exact h
  · split
    · exact h.endPartial
    · exact h
  · split
    · exact .ite h.evictionRefused h
    · exact h
  · exact h.staleStep
  · exact .ite h.treeFull h
  · exact h

theorem Kept.execPartnerCmdJoin (h : Kept P C s t) : KeptOut P C s (execPartnerCmdJoin t) :=
  .next (Kept.ite h.startJoin h)

theorem Kept.execPartnerCmdApprove {partner : Nat} (h : Kept P C s t) : KeptOut P C s (execPartnerCmdApprove partner t) :=
  .next (Kept.ite h (h.becomeLive.unless fun h => h.sendResult))

theorem Kept.execPartnerCmdRefuse {partner : Nat} (h : Kept P C s t) : KeptOut P C s (execPartnerCmdRefuse partner t) :=
  .next (Kept.ite h h.joinEnds.sendResult)

theorem Kept.execPartnerCmdEvict {partner : Nat} (h : Kept P C s t) : KeptOut P C s (execPartnerCmdEvict partner t) :=
  .next (Kept.ite h.setPartner h)

theorem Kept.execPartnerSel {v : BitVec 32} (h : Kept P C s t) : KeptOut P C s (execPartnerSel v t) :=
  .next (Kept.ite h (h.whileFree fun _ h => h.setRegN.mapFab))

theorem Kept.execWinSel {v : BitVec 32} (h : Kept P C s t) : KeptOut P C s (execWinSel v t) :=
  .next (Kept.ite h (h.whileFree fun _ h => h.setRegN.mapFab))

/-! ## OnChip -/

theorem Kept.commonsWrite {view off size : Nat} {v : Word} {rmw : Bool} {f : Word → Word} (h : Kept P C s t) :
    Kept P C s (t.commonsWrite view off size v rmw f) :=
  .ite h (Kept.ite h.configReject (Kept.ite h.bump.raise (Kept.ite h.readWord h).setCommons))

theorem Kept.execCommonsPlainWrite {off size : Nat} {v : BitVec 64} (h : Kept P C s t) : KeptOut P C s (execCommonsPlainWrite off size v t) :=
  .next h.commonsWrite

theorem Kept.execCommonsSetAliasWrite {off size : Nat} {v : BitVec 64} (h : Kept P C s t) : KeptOut P C s (execCommonsSetAliasWrite off size v t) :=
  .next h.commonsWrite

theorem Kept.execCommonsClearAliasWrite {off size : Nat} {v : BitVec 64} (h : Kept P C s t) :
    KeptOut P C s (execCommonsClearAliasWrite off size v t) :=
  .next h.commonsWrite

theorem Kept.commonsRead {at_ size : Nat} (h : Kept P C s t) : Kept P C s (t.commonsRead at_ size).2 := by
  unfold State.commonsRead
  dsimp only
  split
  · exact h
  · split
    · exact h.readWord
    · dsimp only
      exact h.readWord.raise

theorem Kept.bar2Read {at_ size : Nat} (h : Kept P C s t) : Kept P C s (t.bar2Read at_ size) :=
  h.commonsRead.emit

theorem Kept.execMarch {c : Nat} {w : IWord} (h : Kept P C s t) : KeptOut P C s (execMarch c w t) :=
  .next (h.runInstr fun _ _ => KeptRes.afterPre (.wait (h.mapSys.unless fun h => h.addJob).publish))

theorem Kept.upset {new : List (Nat × Nat)} (h : Kept P C s t) : Kept P C s (t.upset new) :=
  h.mapSys

theorem Kept.marchProgress (h : Kept P C s t) : Kept P C s t.marchProgress :=
  h.mapSys.foldl fun _ _ h => h.publish

theorem Kept.retireTile {i : Nat} (h : Kept P C s t) : Kept P C s (t.retireTile i) :=
  h.setTile.unless fun h => h.setMdw.unready

theorem Kept.repairRows {r : MarchRun} {failing : Nat} (h : Kept P C s t) : Kept P C s (t.repairRows r failing).1 := by
  unfold State.repairRows
  dsimp only
  split
  · exact h.setRegN
  · exact h.setRegN.raise.when fun h => h.retireTile

theorem Kept.setVector {k v : Nat} (h : Kept P C s t) : Kept P C s (t.setVector k v) :=
  h.same

theorem Kept.sendMsix {entry : Nat} (h : Kept P C s t) : Kept P C s (t.sendMsix entry) :=
  .ite h.same h.emit

theorem Kept.unmask {entry : Nat} (h : Kept P C s t) : Kept P C s (t.unmask entry) :=
  h.setVector.when fun h => h.same.emit

theorem Kept.execMsixEntryUnmask {entry : Nat} (h : Kept P C s t) : KeptOut P C s (execMsixEntryUnmask entry t) :=
  .next (Kept.ite h.unmask h)

/-! ## Beats -/

theorem Kept.execBeatLenWrite {v : BitVec 32} (h : Kept P C s t) : KeptOut P C s (execBeatLenWrite v t) :=
  .next (Kept.ite h (Kept.ite h.configReject h.setRegN.mapClk))

theorem Kept.execBeatLenEffect (h : Kept P False s t) : KeptOut P False s (execBeatLenEffect t) := by
  unfold Machine.execBeatLenEffect
  refine .next ?_
  split
  · exact h
  · exact .ite h.setBeat h

theorem Kept.relay {b : Beacon} (h : Kept P C s t) : Kept P C s (t.relay b) :=
  h.foldl fun _ _ h => h.queueFrame

theorem Kept.hear {link : Nat} {b : Beacon} {arrival : Nat} (h : Kept P False s t) : Kept P False s (t.hear link b arrival) := by
  unfold State.hear
  dsimp only
  split
  · exact .ite (h.setClk.when fun h => h.relay) h.bump
  · exact .ite (h.setClk.when fun h => h.relay) h.bump
  · exact .ite (h.setClk.when fun h => h.relay) h.raise
  · exact h

theorem Kept.execBeaconReceive {f : Frame} {b : Beacon} {arrival : Nat} (h : Kept P False s t) :
    KeptOut P False s (execBeaconReceive f b arrival t) :=
  .next (h.receive fun _ h => Kept.ite h (Kept.ite h.hear h.bump))

theorem Kept.execBeaconLost (h : Kept P False s t) : KeptOut P False s (execBeaconLost t) :=
  .next (Kept.ite h.freeRun h)

theorem Kept.execBeaconHoldoverEnd (h : Kept P C s t) : KeptOut P C s (execBeaconHoldoverEnd t) :=
  .next (Kept.ite h.beaconFault h)

theorem Kept.sendProbe {link : Nat} {reply : Bool} (h : Kept P C s t) : Kept P C s (t.sendProbe link reply) :=
  h.enqueue

theorem Kept.execProbeSend {link : Nat} (h : Kept P C s t) : KeptOut P C s (execProbeSend link t) :=
  .next (Kept.ite h h.setLink.sendProbe)

theorem Kept.execProbeReceive {f : Frame} {reply : Bool} {roundTripNs : Nat} (h : Kept P False s t) :
    KeptOut P False s (execProbeReceive f reply roundTripNs t) :=
  .next (h.receive fun _ h => Kept.ite h.setClk h.sendProbe)

theorem Kept.voltage (h : Kept P C s t) : Kept P C s t.voltage := by
  unfold State.voltage
  refine .ite h.mapClk ?_
  split
  · exact h
  · exact .ite h h.mapClk

theorem Kept.execDeratedExited (h : Kept P C s t) : KeptOut P C s (execDeratedExited t) :=
  .next (Kept.ite h.leaveDerated h)

theorem Kept.lowerVoltage (h : Kept P C s t) : Kept P C s t.lowerVoltage :=
  .ite h.mapClk h

theorem Kept.execPowerOverDeclared {watts : Nat} (h : Kept P C s t) : KeptOut P C s (execPowerOverDeclared watts t) :=
  .next (Kept.ite h (Kept.ite (h.mapClk.when fun h => h.raise) h.mapClk))

/-! ## Resets -/

theorem Kept.leaveOnce (h : Kept P C s t) : Kept P C s t.leaveOnce := by
  unfold State.leaveOnce
  refine h.foldl fun _ _ h => ?_
  split
  · exact h
  · exact .ite h.transmit h

theorem Kept.noteCause {mask : Nat} (h : Kept P C s t) : Kept P C s (t.noteCause mask) :=
  h.setRegN.bump.setRegN

theorem Kept.execRstArm {v : BitVec 32} (h : Kept P C s t) : KeptOut P C s (execRstArm v t) :=
  .next (Kept.ite h.mapSys h)

theorem Kept.refuseReset {src : NodeId} {check : Nat} (h : Kept P C s t) : Kept P C s (t.refuseReset src check) :=
  h.bump.raise

theorem Kept.execPwrFailAssert {ns : Nat} (h : Kept P C s t) : KeptOut P C s (execPwrFailAssert ns t) :=
  .next (Kept.ite h ((Kept.ite h h.journalAll).mapSys.mapFls.when fun h => h.leaveAll))

theorem Kept.execPowerEnvelope {watts : Nat} (h : Kept P C s t) : KeptOut P C s (execPowerEnvelope watts t) :=
  .next (Kept.ite h (h.setRegN.when fun h => h.raise))

theorem Kept.publishTemps (h : Kept P C s t) : Kept P C s t.publishTemps :=
  (h.foldl fun _ _ h => h.setRegN).setRegN

theorem Kept.execThermalTripRecovery (h : Kept P C s t) : KeptOut P C s (execThermalTripRecovery t) := by
  unfold Machine.execThermalTripRecovery
  refine .next ?_
  split
  · exact h
  · exact .ite h.mapSys h

theorem Kept.excuse {p : Option Nat} (h : Kept P C s t) : Kept P C s (t.excuse p) := by
  unfold State.excuse
  split
  · exact h
  · exact h.dropPromise

theorem Kept.isolatePosts {p : Instr → Bool} (h : Kept P C s t) : Kept P C s (t.isolatePosts p) :=
  h.foldl fun _ _ h => h.foldl fun _ _ h => h.postDone

theorem Kept.isolatePark {p : Park} (h : Kept P C s t) : Kept P C s (t.isolatePark p) :=
  h.mapLore.subQueued.parkFailed

theorem Kept.isolateResume {r : Resume} (h : Kept P C s t) : Kept P C s (t.isolateResume r) :=
  h.mapLore.excuse.resumeFailed

theorem Kept.isolateTier {t' : TierMv} (h : Kept P C s t) : Kept P C s (t.isolateTier t') :=
  h.excuse.failTierMove

theorem Kept.isolateCarriers (h : Kept P C s t) : Kept P C s t.isolateCarriers :=
  ((((h.foldl fun _ _ h => h.isolatePark).foldl fun _ _ h => h.isolateResume).foldl fun _ _ h => h.isolateTier).foldl fun _ _ h =>
      h.moveReturned).foldl fun _ _ h => h.copyFailed

theorem Kept.isolateLanterns (h : Kept P C s t) : Kept P C s t.isolateLanterns :=
  (h.foldl fun _ _ h => h.isolatePark).foldl fun _ _ h => h.isolateResume

theorem Kept.isolateSteps {p : Step → Bool} (h : Kept P C s t) : Kept P C s (t.isolateSteps p) := by
  unfold State.isolateSteps
  refine h.foldl fun _ _ h => ?_
  split
  · exact .ite h.failStep h
  · exact h

theorem Kept.isolateScrubs {flash : Bool} (h : Kept P C s t) : Kept P C s (t.isolateScrubs flash) :=
  h.foldl fun _ _ h => h.dropJob.mapBg.finish

theorem Kept.isolateMemory (h : Kept P C s t) : Kept P C s t.isolateMemory :=
  h.isolateCarriers.isolateScrubs.isolateSteps

theorem Kept.isolatePorts (h : Kept P C s t) : Kept P C s t.isolatePorts :=
  ((((h.foldl fun _ _ h => h.moveReturned).foldl fun _ _ h => h.copyFailed).foldl fun _ _ h => h.endSeal).mapLore.foldl fun _ _ h => h.finish).foldl
      fun _ _ h => h.excuse.endPartial

theorem Kept.isolateSteward (h : Kept P C s t) : Kept P C s t.isolateSteward := by
  unfold State.isolateSteward
  exact (((h.foldl fun _ _ h => h.isolatePark).foldl fun _ _ h => h.isolateResume).foldl fun _ _ h => h.isolateTier).isolateScrubs.mapFls

theorem Kept.isolateMarches (h : Kept P C s t) : Kept P C s t.isolateMarches :=
  (h.mapSys.mapBg.when fun h => h.setRegN).foldl fun _ _ h => h.finish

theorem Kept.isolateJoins (h : Kept P C s t) : Kept P C s t.isolateJoins :=
  h.foldl fun _ _ h => h.joinEnds

theorem Kept.resetBlock {n : Nat} (h : Kept P C s t) : Kept P C s (t.resetBlock n) := by
  unfold State.resetBlock
  refine .ite h ?_
  dsimp only
  split
  · exact h.mapSys.isolateLanterns
  · exact h.mapSys.isolatePosts
  · exact h.mapSys.isolateCarriers
  · exact h.mapSys.isolatePosts.isolateSteps
  · exact h.mapSys.isolatePosts
  · exact h.mapSys.isolateMarches
  · exact h.mapSys.isolatePosts.isolateJoins
  · exact h.mapSys.isolateMemory
  · exact h.mapSys.isolateMemory
  · exact h.mapSys.isolatePorts
  · exact h.mapSys.isolateSteward
  · exact h.mapSys

theorem Kept.execBlockReset {c : Nat} {w : IWord} (h : Kept P C s t) : KeptOut P C s (execBlockReset c w t) :=
  .next (h.runInstr fun _ _ => KeptRes.ite .fail (.ok h.resetBlock))

theorem Kept.execBlkReset {v : BitVec 32} (h : Kept P C s t) : KeptOut P C s (execBlkReset v t) :=
  .next (h.foldl fun _ _ h => h.resetBlock)

theorem Kept.execBlockRestore {n : Nat} (h : Kept P C s t) : KeptOut P C s (execBlockRestore n t) :=
  .next h.mapSys

/-! ## RegRead -/

theorem Kept.followBounds (h : Kept P C s t) : Kept P C s t.followBounds :=
  h.setRegN.setRegN

/-! ## RegWrite -/

theorem Kept.inForce {off v : Nat} (h : Kept P C s t) : Kept P C s (t.inForce off v) :=
  .ite h.mapFab h.setRegN.mapIo

theorem Kept.pendFractions {v : Nat} {ps : List Nat} (h : Kept P C s t) : Kept P C s (t.pendFractions v ps) :=
  .ite h h.mapIo

theorem Kept.stage {off old v : Nat} (h : Kept P C s t) : Kept P C s (t.stage off old v) := by
  unfold State.stage
  dsimp only
  split
  · exact h.mapIo.when fun h => h.pendFractions
  · exact .ite (h.mapIo.when fun h => h.pendFractions) h.inForce

theorem Kept.execPendingWriteRelease {off : Nat} (h : Kept P C s t) : KeptOut P C s (execPendingWriteRelease off t) := by
  unfold Machine.execPendingWriteRelease
  refine .next (Kept.ite h.releaseGates ?_)
  dsimp only
  split
  · exact h
  · exact .ite h h.mapIo.inForce

theorem Kept.raiseLate (h : Kept P C s t) : Kept P C s t.raiseLate :=
  h.mapSys.foldl fun _ _ h => h.raise

theorem Kept.store {off old new : Nat} (h : Kept P C s t) : Kept P C s (t.store off old new) :=
  .ite h.stage (Kept.ite h.setRegN.mapIo (Kept.ite h.setRegN.mapIo (h.setRegN.when fun h => h.raiseLate)))

theorem Kept.storeKey {off v : Nat} (h : Kept P C s t) : KeptOpt P C s (t.storeKey off v) :=
  KeptOpt.ite (.some h.mapFab) (KeptOpt.ite (.some h.mapFab) (KeptOpt.ite (.some h.setRegN) .none))

/-! ## Intake -/

theorem Kept.setRing {i : Nat} {x : RingSt} (h : Kept P C s t) : Kept P C s (t.setRing i x) :=
  h.mapIo

theorem Kept.ringCtrl {i v : Nat} (h : Kept P C s t) : Kept P C s (t.ringCtrl i v) := by
  unfold State.ringCtrl
  dsimp only
  split
  · exact h
  · exact .ite h.configReject ((h.setRegN.unless fun h => h.setRing).when fun h => h.configReject)

theorem Kept.execIntakeCtrlWrite {ring : Nat} {v : BitVec 32} (h : Kept P C s t) : KeptOut P C s (execIntakeCtrlWrite ring v t) :=
  .next (Kept.ite h h.ringCtrl)

theorem Kept.startRings (h : Kept P C s t) : Kept P C s t.startRings :=
  h.foldl fun _ _ h => h.setRing

theorem Kept.tellCi (h : Kept P C s t) : Kept P C s t.tellCi :=
  h.foldl fun _ _ h => (Kept.ite h h.emit).setRing

theorem Kept.takeEntry {ring : Nat} {e : FetchedEntry} (h : Kept P C s t) : Kept P C s (t.takeEntry ring e) :=
  .ite h.bump.raise (Kept.ite h.mapIo.raise h.mapIo)

theorem Kept.stopRing {i error : Nat} (h : Kept P C s t) : Kept P C s (t.stopRing i error) :=
  h.setRing.raise

theorem Kept.pollRing {i room : Nat} {p : Poll} (h : Kept P C s t) : Kept P C s (t.pollRing i room p).1 := by
  unfold State.pollRing
  dsimp only
  split
  · exact h.stopRing
  · split
    · exact h.stopRing
    · split
      · exact h
      · exact (h.foldl fun _ _ h => h.takeEntry).setRing

theorem Kept.intake {polls : List Poll} (h : Kept P C s t) : Kept P C s (t.intake polls) := by
  unfold State.intake
  refine .ite h (h.mapIo.fst.foldFst fun _ _ h => ?_)
  split
  · exact h
  · exact h.pollRing

/-! ## RegRows -/

theorem Kept.execPeekSel {v : BitVec 32} (h : Kept P C s t) : KeptOut P C s (execPeekSel v t) :=
  .next (Kept.ite h (h.whileFree fun _ h => h.setRegN.mapLore.when fun h => h.configReject))

theorem Kept.execHostedFind {v : BitVec 64} (h : Kept P C s t) : KeptOut P C s (execHostedFind v t) :=
  .next (Kept.ite h (h.whileFree fun _ h => h.setRegN.mapLore))

theorem Kept.execScSnap (h : Kept P C s t) : KeptOut P C s (execScSnap t) :=
  .next (Kept.ite h (h.whileFree fun _ h => h))

theorem Kept.endBusy (h : Kept P C s t) : Kept P C s t.endBusy := by
  unfold State.endBusy
  exact (Kept.ite h.mapLore h).mapSys

theorem Kept.execRegLowHalfRead {at_ : Nat} (h : Kept P C s t) : KeptOut P C s (execRegLowHalfRead at_ t) := by
  unfold Machine.execRegLowHalfRead
  refine .next ?_
  dsimp only
  split
  · exact h.emit.when fun h => h.mapSys
  · exact h.emit

theorem Kept.execRegHighHalfRead {at_ : Nat} (h : Kept P C s t) : KeptOut P C s (execRegHighHalfRead at_ t) := by
  unfold Machine.execRegHighHalfRead
  refine .next ?_
  dsimp only
  split
  · exact .ite h.mapSys.emit h.emit
  · exact h.emit

/-! ## Firmware -/

theorem Kept.mapFw {f : Firmware → Firmware} (h : Kept P C s t) : Kept P C s (t.mapFw f) :=
  h.mapSys

theorem Kept.stages {from_ to_ : Nat} (h : Kept P C s t) : Kept P C s (t.stages from_ to_) :=
  h.foldl fun _ _ h => h.emit

theorem Kept.bootMarch {i : BootInput} (h : Kept P C s t) : Kept P C s (t.bootMarch i) :=
  .ite h ((h.foldl fun _ _ h => h.repairRows).foldl fun _ _ h => h.repairRows)

theorem Kept.offerPackage {p : FwPackage} {except_ : NodeId} (h : Kept P C s t) : Kept P C s (t.offerPackage p except_) :=
  .ite h (h.foldl fun _ _ h => h.sendMgmt)

theorem Kept.storePackage {p : FwPackage} {ev : Nat} {except_ : NodeId} (h : Kept P C s t) : Kept P C s (t.storePackage p ev except_) :=
  h.mapFw.systemWrite.raise.offerPackage

theorem Kept.execFwOfferReceive {f : Frame} {o : FwOffer} (h : Kept P C s t) : KeptOut P C s (execFwOfferReceive f o t) :=
  .next (h.receive fun _ h => Kept.ite h.mapFw.sendMgmt h)

theorem Kept.execFwFetchRequestReceive {f : Frame} {off len : Nat} (h : Kept P C s t) : KeptOut P C s (execFwFetchRequestReceive f off len t) := by
  unfold Machine.execFwFetchRequestReceive
  refine .next (h.receive fun _ h => ?_)
  dsimp only
  split
  · exact h
  · exact .ite h h.send

theorem Kept.fetchEnds {src : NodeId} {o : FwOffer} {p : Option FwPackage} (h : Kept P C s t) : Kept P C s (t.fetchEnds src o p) := by
  unfold State.fetchEnds
  dsimp only
  split
  · exact h.mapFw.mapFw.raise
  · exact .ite h.mapFw.storePackage h.mapFw.mapFw.raise

theorem Kept.execFwChunkReceive {f : Frame} {off : Nat} {data : Bytes} {assembled : Option FwPackage} (h : Kept P C s t) :
    KeptOut P C s (execFwChunkReceive f off data assembled t) := by
  unfold Machine.execFwChunkReceive
  refine .next (h.receive fun _ h => ?_)
  dsimp only
  split
  · exact h
  · exact .ite h (Kept.ite h.mapFw.sendMgmt h.fetchEnds)

theorem Kept.fwDone {code : Code} (h : Kept P C s t) : Kept P C s (t.fwDone code) :=
  h.mapFw

theorem Kept.startPause (h : Kept P C s t) : Kept P C s t.startPause := by
  unfold State.startPause
  split
  · exact h
  · exact .ite h h.mapSys

theorem Kept.execFwActResume (h : Kept P C s t) : KeptOut P C s (execFwActResume t) :=
  .next (Kept.ite h (h.mapSys.when fun h => h.raise))

theorem Kept.execFwCmdCommit (h : Kept P C s t) : KeptOut P C s (execFwCmdCommit t) :=
  .next h.mapFw.systemWrite.systemWrite

theorem Kept.execFwCmdRestage {p : FwPackage} (h : Kept P C s t) : KeptOut P C s (execFwCmdRestage p t) :=
  .next (Kept.ite h.mapFw.systemWrite h.configReject)

theorem Kept.execFwCmdSave (h : Kept P C s t) : KeptOut P C s (execFwCmdSave t) := by
  unfold Machine.execFwCmdSave
  refine .next ?_
  dsimp only
  split
  · exact h
  · exact h.mapFw.systemWrite

theorem Kept.bodyAttest {c : Nat} {d : Bytes} {fail : Bool} (h : Kept P C s t) : KeptRes P C s (t.bodyAttest c d fail) :=
  KeptRes.ite .fail (KeptRes.ite .fail (h.writeOut fun _ h => h.setOut))

theorem Kept.execAttest {c : Nat} {w : IWord} {d : Bytes} {fail : Bool} (h : Kept P C s t) : KeptOut P C s (execAttest c w d fail t) :=
  .next (h.coherent fun _ h => h.runInstr fun _ _ => h.bodyAttest)

/-! ## Background -/

theorem Kept.execBgWindowStart (h : Kept P C s t) : KeptOut P C s (execBgWindowStart t) :=
  .next (Kept.ite h (h.setRegN.mapBg.passLate.passLate.passLate.unless fun h => h.passLate))

theorem Kept.execGddrRecalibration {channel : Nat} (h : Kept P C s t) : KeptOut P C s (execGddrRecalibration channel t) :=
  .next (Kept.ite h (h.bgUse.mapBg.unless fun h => h.passEnds.mapBg))

theorem Kept.execTaperCalibration {pair : Nat} (h : Kept P C s t) : KeptOut P C s (execTaperCalibration pair t) :=
  .next (Kept.ite h (h.bgUses.mapBg.unless fun h => h.passEnds.mapBg))

theorem Kept.sampled (h : Kept P C s t) : Kept P C s t.sampled := by
  unfold State.sampled
  exact h.mapFab.mapEng.mapSys

theorem Kept.execTelemetrySnapshot (h : Kept P C s t) : KeptOut P C s (execTelemetrySnapshot t) :=
  .next (Kept.ite h (Kept.ite h.mapSys.bump h.mapSys.emit.setRegN.bgUse.sampled))

theorem Kept.execPldmRequest {type cmd arg : Nat} (h : Kept P C s t) : KeptOut P C s (execPldmRequest type cmd arg t) :=
  .next (Kept.ite h h.emit)

/-! ## Control -/

theorem Kept.execNop {c : Nat} {w : IWord} (h : Kept P C s t) : KeptOut P C s (execNop c w t) :=
  .next (h.runInstr fun _ _ => .ok h)

theorem Kept.execHalt {c : Nat} {w : IWord} (h : Kept P C s t) : KeptOut P C s (execHalt c w t) :=
  .next (h.runInstr fun _ _ => .halt h)

theorem Kept.execJump {c : Nat} {w : IWord} (h : Kept P C s t) : KeptOut P C s (execJump c w t) :=
  .next (h.runInstr fun _ _ => .jump h)

theorem Kept.execBranch {c : Nat} {w : IWord} (h : Kept P C s t) : KeptOut P C s (execBranch c w t) := by
  unfold Machine.execBranch
  refine .next (h.runInstr fun _ _ => ?_)
  split
  · exact .fail
  · exact .jump h
  · exact .ok h

theorem Kept.execCall {c : Nat} {w : IWord} (h : Kept P C s t) : KeptOut P C s (execCall c w t) :=
  .next (h.runInstr fun _ _ => KeptRes.ite .fail (KeptRes.ite .fail (.jump h.setCtx)))

theorem Kept.execRet {c : Nat} {w : IWord} (h : Kept P C s t) : KeptOut P C s (execRet c w t) := by
  unfold Machine.execRet
  refine .next (h.runInstr fun _ _ => ?_)
  dsimp only
  split
  · exact .halt h
  · exact KeptRes.ite (.jump h.setCtx) (.halt h.setCtx)

theorem Kept.execFence {c : Nat} {w : IWord} (h : Kept P C s t) : KeptOut P C s (execFence c w t) := by
  unfold Machine.execFence
  refine .next (h.runInstr fun _ _ => ?_)
  refine KeptRes.ite (.wait h.setCtx) ?_
  split
  · exact .failAt h
  · exact .ok h.setCtx

theorem Kept.execLampWait {c : Nat} {w : IWord} (h : Kept P C s t) : KeptOut P C s (execLampWait c w t) :=
  .next (h.runInstr fun _ _ => .wait h)

theorem Kept.execLampWaitMet {c : Nat} (h : Kept P C s t) : KeptOut P C s (execLampWaitMet c t) := by
  unfold Machine.execLampWaitMet
  refine .next ?_
  split
  · exact h
  · split
    · exact .ite h.advance h
    · exact h

theorem Kept.execLampWaitTimeout {c : Nat} (h : Kept P C s t) : KeptOut P C s (execLampWaitTimeout c t) := by
  unfold Machine.execLampWaitTimeout
  refine .next ?_
  split
  · exact h
  · split
    · exact .ite h.failInstr h
    · exact h

/-! ## HostRegs -/

theorem Kept.vectorWrite {k v : Nat} (h : Kept P C s t) : Kept P C s (t.vectorWrite k v) :=
  .ite h.setVector.unmask h.setVector

theorem Kept.msixWrite {off size : Nat} {v : Word} (h : Kept P C s t) : Kept P C s (t.msixWrite off size v) :=
  .ite h.vectorWrite (Kept.ite h.vectorWrite.vectorWrite h)

theorem Kept.setHalf {off : Nat} {h' : Option Nat} (h : Kept P C s t) : Kept P C s (t.setHalf off h') :=
  h.mapSys

/-! ## Boundary -/

theorem Kept.recordDone {r : ResultOut} (h : Kept P C s t) : Kept P C s (t.recordDone r) :=
  h.bump.when fun h => h.signal

theorem Kept.closeResults {errors : List (Nat × Nat)} (h : Kept P C s t) : Kept P C s (t.closeResults errors) :=
  h.mapIo.foldl fun _ _ h => Kept.ite h.mapIo h.recordDone

theorem Kept.signalUnread {due : Bool} {ctrl pi ci : Nat} (h : Kept P C s t) : Kept P C s (t.signalUnread due ctrl pi ci) :=
  .ite h.signal h

theorem Kept.tick (h : Kept P False s t) : Kept P False s t.tick :=
  h.setClk

theorem Kept.sendBeacon (h : Kept P C s t) : Kept P C s t.sendBeacon :=
  .ite h.relay h

theorem Kept.edgeSignals (h : Kept P C s t) : Kept P C s t.edgeSignals := by
  unfold State.edgeSignals
  exact h.signalUnread.signalUnread.mapIo

theorem Kept.idleMeadows (h : Kept P C s t) : Kept P C s t.idleMeadows :=
  h.foldl fun _ _ h => h.applyRole.leaveTiles

theorem Kept.sampleKill (h : Kept P C s t) : Kept P C s t.sampleKill := by
  unfold State.sampleKill
  split
  · exact h
  · exact h.stateAfter h.mapLore.execMoveKill

theorem Kept.stagesEnd {done : List Nat} (h : Kept P C s t) : Kept P C s (t.stagesEnd done) := by
  unfold State.stagesEnd
  exact h.mapEng

theorem Kept.gateTiles (h : Kept P C s t) : Kept P C s t.gateTiles :=
  h.mapEng

theorem Kept.countLines {i : BeatInput} (h : Kept P C s t) : Kept P C s (t.countLines i) :=
  (((h.foldl fun _ _ h => h.bump).foldl fun _ _ h => h.bump).foldl fun _ _ h => h.bump).foldl fun _ _ h => h.bump

theorem Kept.feed {stalled : Bool} (h : Kept P C s t) : Kept P C s (t.feed stalled) :=
  .ite h h.mapSys

theorem Kept.blocksBack (h : Kept P C s t) : Kept P C s t.blocksBack :=
  h.mapSys

theorem Kept.moveProgress (h : Kept P C s t) : Kept P C s t.moveProgress :=
  h.foldl fun _ _ h => h.publish

theorem Kept.execPromisedBeatExpiry {p : Nat} (h : Kept P C s t) : KeptOut P C s (execPromisedBeatExpiry p t) := by
  unfold Machine.execPromisedBeatExpiry
  refine .next ?_
  dsimp only
  split
  · exact h
  · exact .ite h (h.writeBreach.unless fun h => h.dropPromise)

theorem Kept.execBreachStoreDrain (h : Kept P C s t) : KeptOut P C s (execBreachStoreDrain t) :=
  .next (Kept.ite h.drainBreaches h)

theorem Kept.execEventStoreDrain (h : Kept P C s t) : KeptOut P C s (execEventStoreDrain t) :=
  .next (Kept.ite h.drainEvents h)

theorem Kept.execResultRecordRetry {ring slot : Nat} {success : Bool} (h : Kept P C s t) :
    KeptOut P C s (execResultRecordRetry ring slot success t) := by
  unfold Machine.execResultRecordRetry
  refine .next ?_
  dsimp only
  split
  · exact h
  · exact .ite h.mapIo.emit.recordDone h.mapIo.emit.bump.setRegN

/-! ## Admission -/

theorem Kept.addGrant {c : Nat} {g : Grant} (h : Kept P C s t) : Kept P C s (t.addGrant c g) := by
  unfold State.addGrant
  split
  · exact h
  · exact h.setCtx

theorem Kept.refuseEntry {c : Nat} {x : Ctx} {code : Code} {idx obs term n : Nat} (h : Kept P C s t) :
    Kept P C s (t.refuseEntry c x code idx obs term n) :=
  h.setCtx.endEntry

theorem Kept.takeProgress {x : Ctx} (h : Kept P C s t) : Kept P C s (t.takeProgress x).1 := by
  unfold State.takeProgress
  split
  · exact h
  · split
    · exact h
    · exact h.setProgress

theorem Kept.startGroup {c : Nat} {x : Ctx} {descs : List Bytes} {promise : Option Nat} {n i : Nat} (h : Kept P C s t) :
    Kept P C s (t.startGroup c x descs promise n i) := by
  unfold State.startGroup
  dsimp only
  split
  · exact h
  · refine .ite ?_ (Kept.ite (Kept.ite h ?_) h)
    · split
      · exact h
      · exact .ite h.noteBody.scheduleStep.addGrant (h.noteBody.when fun h => h.setMdw)
    · split
      · next e => exact h
      · next e => exact (h.admitRequest.of_some e).addGrant

end Sys2Proof.Machine

end

section

set_option Elab.async false

/-! What a change of membership, a clearing reset, a register write and a lamp update keep. -/

namespace Sys2Proof.Machine

variable {P C : Prop} {s t u : State}

/-! ## Fields -/

theorem Kept.reshard {m addr epoch : Nat} {ms : List NodeId} (h : Kept P C s t) : Kept P C s (t.reshard m addr epoch ms) := by
  unfold State.reshard
  split
  · exact h
  · refine .ite h ?_
    dsimp only
    exact (h.setBytes fun k => Tbl.wf_writeBytes _ _ (wf_bytesOf 0 k)).mapEng

theorem Kept.homeAllDead {ks : List (FieldChange × Bool)} (h : Kept P C s t) :
    Kept P C s (ks.foldl (fun u k => u.homeDead k.1.subject) t) :=
  h.foldl fun _ _ h => h.homeDead

theorem Kept.newMembership {m : Nat} {ms : List FieldMember} {ks : List (FieldChange × Bool)} (h : Kept P False s t) :
    Kept P False s (t.newMembership m ms ks) := by
  unfold State.newMembership
  dsimp only
  refine Kept.homeAllDead ?_
  have hmoved (g : FieldSt) (x : Meadow) (l : List Nat) (f : State → Nat → State) (hf : ∀ u a, Kept P False s u → Kept P False s (f u a))
      (k : Intake → Intake) (hk : ∀ io, (k io).lamps = io.lamps) :
      Kept P False s ((l.foldl f (((t.setField m g).setMdw m x).replaceRequests m)).mapIo k) :=
    ((h.setField.setMdw.replaceRequests).foldl hf).mapIo (hk _)
  refine Kept.ite (Kept.setBeat (Kept.ite (Kept.follow ?_) ?_)) (Kept.ite (Kept.follow ?_) ?_) <;>
    exact hmoved _ _ _ _ (fun _ _ h => h.reshard) _ fun _ => Eq.refl _

/-! ## OnChip and Beats -/

theorem Kept.zeroTarget {r : MarchRun} (h : Kept P C s t) : Kept P C s (t.zeroTarget r) :=
  .ite h.zeroTile (h.of_canonical fun ⟨hr, hl, hm, hc, k⟩ => ⟨hr, hl, hm, Tbl.wf_filter _ hc, k⟩)

/-- The fields take note of a derating. -/
theorem Kept.deratedFields {f : Tbl FieldSt} (h : Kept P C s t) : Kept P C s { t with fld := f } :=
  h.same

theorem Kept.timing {tapers : List Nat} (h : Kept P C s t) : Kept P C s (t.timing tapers) := by
  unfold State.timing
  split
  · exact h
  · refine Kept.when ?_ fun h => h.mapIo.deratedFields
    split
    · exact h.mapClk
    · exact .ite h.mapClk.mapClk.raise (h.mapClk.when fun h => h.mapClk)
    · exact .ite h.mapClk.mapClk.raise (h.mapClk.unless fun h => h.mapClk.raise)

/-! ## Resets -/

theorem Kept.clear {r : Reach} (h : Kept False False s t) : Kept False False s (t.clear r) :=
  ⟨fun k => by
    obtain ⟨hr, -, -, -, -, hf, -⟩ := h.canonical k
    exact ⟨Tbl.wf_filter _ hr, Tbl.wf_nil _, fun _ he => absurd he List.not_mem_nil, Tbl.wf_nil _, Tbl.wf_nil _, hf, Tbl.wf_nil _⟩,
   False.elim, False.elim⟩

theorem Kept.threshold {x limit : Int} {armed : Bool} {code : Nat} (h : Kept P C s t) : Kept P C s (t.threshold x limit armed code).1 := by
  unfold State.threshold
  split
  · exact h.raise.fst
  · exact h

/-! ## Registers -/

theorem Kept.writeReg {off v : Nat} (h : Kept P C s t) : Kept P C s (t.writeReg off v) := by
  unfold State.writeReg
  split
  · exact h
  · split
    · exact h
    · exact h.storeKey.getD h
    · exact .ite h.configReject (h.store.when fun h => h.configReject)

theorem Kept.fillContexts {n : Nat} (h : Kept P C s t) : Kept P C s (t.fillContexts n) := by
  induction n generalizing t with
  | zero => exact h
  | succ n ih =>
    unfold State.fillContexts
    split
    · exact h
    · split
      · exact h
      · exact ih h.mapIo.setCtx

/-! ## Firmware -/

theorem Kept.applyPatches {p : FwPackage} (h : Kept False C s t) : Kept False C s (t.applyPatches p) :=
  ⟨fun k => h.canonical k, False.elim, h.clock⟩

/-! ## Control and HostRegs -/

/-- The new position of a record, open while its total is 0. -/
theorem Kept.openPosition {n : Nat} (h : Kept P C s t) : Kept P C s (if n = 0 then t.free else (0, t)).2 := by
  split
  · exact h.free
  · exact h

theorem Kept.execProgressSet {c : Nat} {w : IWord} (h : Kept P C s t) : KeptOut P C s (execProgressSet c w t) := by
  refine .next (h.runInstr fun x _ => .ite .fail (.ite (.ok h) (.ite (.ite .fail (.ok h.setProgress)) (.ite .fail (.ok ?_)))))
  dsimp only
  split
  · exact h.openPosition.moveProgressTo
  · exact h.openPosition.moveProgressTo.setCtx

theorem Kept.lampUpdate {c op : Nat} {w : IWord} {cmd : Instr} {f : State → State} (h : Kept P C s t) (hf : Kept P C s (f t)) :
    Kept P C s (t.lampUpdate c op w cmd f) :=
  h.runInstr fun _ _ => .ite (.ok hf) .fail

theorem Kept.execLampLight {c : Nat} {w : IWord} (h : Kept P C s t) : KeptOut P C s (execLampLight c w t) :=
  .next (h.lampUpdate h.lightLamp)

theorem Kept.execLampDim {c : Nat} {w : IWord} (h : Kept P C s t) : KeptOut P C s (execLampDim c w t) :=
  .next (h.lampUpdate h.dimLamp)

theorem Kept.execLampSet {c : Nat} {w : IWord} (h : Kept P C s t) : KeptOut P C s (execLampSet c w t) :=
  .next (h.lampUpdate (h.setLamp fun k => (masked_lamp k _).lampWith _))

theorem Kept.lampWrite {view lamp size : Nat} {v : Word} {f : State → State} (h : Kept P C s t) (hf : Kept P C s (f t)) :
    Kept P C s (t.lampWrite view lamp size v f) :=
  .ite h (.ite hf h.configReject)

theorem Kept.execLampPlainWrite {lamp size : Nat} {v : Word} (h : Kept P C s t) : KeptOut P C s (execLampPlainWrite lamp size v t) :=
  .next (h.lampWrite (h.setLamp fun _ => masked_and_mask v))

theorem Kept.execLampSetAliasWrite {lamp size : Nat} {v : Word} (h : Kept P C s t) : KeptOut P C s (execLampSetAliasWrite lamp size v t) :=
  .next (h.lampWrite (h.setLamp fun k => (masked_lamp k lamp).or (masked_and_mask v)))

theorem Kept.execLampClearAliasWrite {lamp size : Nat} {v : Word} (h : Kept P C s t) : KeptOut P C s (execLampClearAliasWrite lamp size v t) :=
  .next (h.lampWrite (h.setLamp fun k => (masked_lamp k lamp).and _))

theorem Kept.execLampAddAliasWrite {lamp size : Nat} {v : Word} (h : Kept P C s t) : KeptOut P C s (execLampAddAliasWrite lamp size v t) :=
  .next (h.lampWrite (.ite h.lightLamp h.dimLamp))

/-! ## Boundary and Admission -/

theorem Kept.present (h : Kept P C s t) : Kept P C s t.present :=
  .ite h h.fillContexts

theorem Kept.presentEntries (h : Kept P C s t) : Kept P C s t.presentEntries :=
  h.present.tellCi

theorem Kept.atOrder {k : Nat} (h : Kept P C s t) : Kept P C s (t.atOrder k) := by
  unfold State.atOrder
  refine Kept.mapClk ?_
  exact ((h.when fun h => h.leaveDerated).when fun h => h.presentEntries).when fun h => h.voltage

theorem Kept.acceptEntry {c : Nat} {x : Ctx} {descs : List Bytes} {items : List Item} {n : Nat} (h : Kept P C s t) :
    Kept P C s (t.acceptEntry c x descs items n) := by
  refine Kept.checkWord (Kept.foldl (Kept.charge (Kept.setCtx ?_)) fun _ _ h => h.startGroup)
  exact h.takeProgress.grant

theorem Kept.postedBody {c idx meadow : Nat} {i : Instr} {r : IRes} (h : Kept P C s t) (e : t.postedBody c idx meadow i = some r) :
    KeptRes P C s r := by
  unfold State.postedBody at e
  split at e
  · exact Option.some.inj e ▸ h.setUnionBody
  · exact Option.some.inj e ▸ h.setIntersectBody
  · exact Option.some.inj e ▸ h.setDiffBody
  · exact Option.some.inj e ▸ h.setHashBody
  · exact Option.some.inj e ▸ h.packBody
  · exact Option.some.inj e ▸ h.unpackBody
  · nomatch e

theorem Kept.execPostedInstructionComplete {c idx : Nat} {outcome : Option Code} (h : Kept P C s t) :
    KeptOut P C s (execPostedInstructionComplete c idx outcome t) := by
  refine .next ?_
  split
  · exact h
  · split
    · exact h
    · split
      · exact h
      · next r e =>
        have hend : KeptRes P C s (match codecFault outcome with | some code => t.codecFails code | none => r) := by
          split
          · exact h.codecFails
          · exact h.postedBody e
        refine .ite h ?_
        split
        · next e => exact (hend.of_ok e).postDone
        · exact h.postDone
        · next e => exact (hend.of_failAs e).postDone
        · exact h

end Sys2Proof.Machine

end

section

set_option Elab.async false

/-! What the changes of fields, the reset sources, the boundary and the admission keep. -/

namespace Sys2Proof.Machine

variable {P C : Prop} {s t u : State}

/-! ## Fields -/

theorem Kept.takeChanges {m : Nat} {ks : List (FieldChange × Bool)} (h : Kept P False s t) : Kept P False s (t.takeChanges m ks) :=
  .ite h.newMembership h.leaveField

theorem Kept.commitChanges {m : Nat} (h : Kept P False s t) : Kept P False s (t.commitChanges m) :=
  .ite h (((((h.setField.unless fun h => h.takeChanges).unless fun h => h.bump.setField).foldl fun _ _ h => h.endFieldOp).foldl fun _ _ h =>
      h.endFieldOp).unless fun h => h.reviseChanges)

theorem Kept.commitAnnounced {m : Nat} (h : Kept P False s t) : Kept P False s (t.commitAnnounced m) := by
  unfold State.commitAnnounced
  refine .ite h (Kept.ite ?_ (h.setField.unless fun h => h.takeChanges))
  dsimp only
  split
  · exact h.setField
  · exact h.setField.setField.setMdw.when fun h => h.setBeat

theorem Kept.execFieldCommit {m : Nat} (h : Kept P False s t) : KeptOut P False s (execFieldCommit m t) :=
  .next (Kept.ite h (Kept.ite (Kept.ite h.setField.setMdw.endFieldOp h) h.commitChanges.commitAnnounced))

/-! ## OnChip -/

theorem Kept.execMarchRunComplete {run failing : Nat} (h : Kept P C s t) : KeptOut P C s (execMarchRunComplete run failing t) := by
  unfold Machine.execMarchRunComplete
  refine .next ?_
  dsimp only
  split
  · exact h
  · refine .ite h (Kept.publish ?_).setOut.finish
    split
    · exact (h.mapSys.dropJob.when fun h => h.zeroTarget).repairRows
    · exact h.mapSys.dropJob.when fun h => h.zeroTarget

/-! ## Resets -/

theorem Kept.resetTo {r : Reach} {mask : Nat} (h : Kept False False s t) : Kept False False s (t.resetTo r mask) :=
  .ite ((Kept.ite h.sendMsix h).unless fun h => h.leaveOnce).clear.setRegN ((Kept.ite h.sendMsix h).unless fun h => h.leaveOnce).noteCause.clear

theorem Kept.execPowerOnReset (h : Kept False False s t) : KeptOut False False s (execPowerOnReset t) :=
  .next h.mapSys.resetTo

theorem Kept.execPerstAssert (h : Kept False False s t) : KeptOut False False s (execPerstAssert t) :=
  .next (Kept.ite h h.mapSys.resetTo)

theorem Kept.execPerstDeassert {st : Straps} (h : Kept False False s t) : KeptOut False False s (execPerstDeassert st t) :=
  .next (Kept.ite h (Kept.ite h.resetTo.setRegN h).mapSys)

theorem Kept.execCxlReset (h : Kept False False s t) : KeptOut False False s (execCxlReset t) :=
  .next (Kept.ite h.resetTo h)

theorem Kept.execRstCmd {v : BitVec 32} (h : Kept False False s t) : KeptOut False False s (execRstCmd v t) :=
  .next (Kept.ite h.configReject (Kept.ite h (Kept.ite h.resetTo h.resetTo)))

theorem Kept.execWatchdogExpiry (h : Kept False False s t) : KeptOut False False s (execWatchdogExpiry t) :=
  .next (Kept.ite h.resetTo h)

theorem Kept.takeReset {src : NodeId} {r : ResetFrame} (h : Kept False False s t) : Kept False False s (t.takeReset src r) :=
  .ite (h.setRegN.setReg.when fun h => h.mapSys.systemWrite).resetTo (h.setRegN.setReg.when fun h => h.mapSys.systemWrite).resetTo

theorem Kept.execFabricResetFrame {f : Frame} {r : ResetFrame} (h : Kept False False s t) : KeptOut False False s (execFabricResetFrame f r t) := by
  unfold Machine.execFabricResetFrame
  refine .next (Kept.ite (Kept.ite h ?_) (h.receive fun _ h => ?_))
  · split
    · next e => exact h.linkCheck.of_fst e
    · next e => exact (h.linkCheck.of_fst e).refuseReset
  · dsimp only
    split
    · exact h.refuseReset
    · exact h.takeReset

theorem Kept.powerOff (h : Kept False False s t) : Kept False False s t.powerOff :=
  h.clear.mapSys

theorem Kept.execPowerLoss {withHold : Bool} (h : Kept False False s t) : KeptOut False False s (execPowerLoss withHold t) :=
  .next (Kept.ite h h.powerOff)

theorem Kept.execOvercurrentTrip (h : Kept False False s t) : KeptOut False False s (execOvercurrentTrip t) :=
  .next (Kept.ite h.powerOff.mapSys h)

theorem Kept.thermalTrip (h : Kept False False s t) : Kept False False s t.thermalTrip := by
  unfold State.thermalTrip
  exact h.setReg.resetTo.mapSys

/-! ## RegRows -/

theorem Kept.rowWrite {off v : Nat} (h : Kept P False s t) : KeptOpt P False s (t.rowWrite off v) := by
  unfold State.rowWrite
  dsimp only
  split
  · exact .some h.ringCtrl
  · exact .some (h.stateAfter h.execPortCfgWrite)
  · exact .some (h.stateAfter h.execShadowSetWrite)
  · exact KeptOpt.ite (.some (h.stateAfter h.execBeatLenWrite)) (KeptOpt.ite (.some (h.stateAfter h.execFieldFollow)) (KeptOpt.ite (.some
        (h.stateAfter h.execFieldSel)) (KeptOpt.ite (.some (h.stateAfter h.execQueueSel)) (KeptOpt.ite (.some (h.stateAfter h.execPartnerSel))
        (KeptOpt.ite (.some (h.stateAfter h.execWinSel)) (KeptOpt.ite (.some (h.stateAfter h.execPeekSel)) (KeptOpt.ite (.some (h.stateAfter
        h.execHostedFind)) (KeptOpt.ite (KeptOpt.ite (.some (h.stateAfter h.execScSnap)) (.some h)) (KeptOpt.ite (.some (h.stateAfter
        h.execGateCtrlApply)) (KeptOpt.ite (.some (h.stateAfter h.writeReg.execFabCtrlLeave)) (KeptOpt.ite (.some (h.stateAfter h.execBlkReset))
        .none)))))))))))

/-! ## HostRegs -/

theorem Kept.commandWrite {off v : Nat} (h : Kept False False s t) : Kept False False s (t.commandWrite off v) := by
  unfold State.commandWrite
  refine .ite (h.stateAfter h.execFlashTimeSet) (Kept.ite (h.stateAfter h.execRstArm) (Kept.ite (h.stateAfter h.execRstCmd) (Kept.ite h (Kept.ite
      h.mapLore (Kept.ite (h.stateAfter h.execTileClear) (Kept.ite (h.stateAfter h.execModelCmdRemove) (Kept.ite (h.stateAfter h.execObjCmdRemove)
      (Kept.ite h.configReject (Kept.ite ?_ (Kept.ite ?_ (Kept.ite ?_ (Kept.ite ?_ (Kept.ite ?_ h)))))))))))))
  · split
    · exact h.stateAfter h.execFlashCmdCheckpoint
    · exact h.stateAfter h.execFlashCmdFormat
    · exact h.configReject
  · split
    · exact h.stateAfter h.execPartnerCmdJoin
    · exact h.stateAfter h.execPartnerCmdApprove
    · exact h.stateAfter h.execPartnerCmdRefuse
    · exact h.stateAfter h.execPartnerCmdEvict
  · split
    · exact h.stateAfter h.execKeyCmdLoad
    · exact h.stateAfter h.execKeyCmdActivate
    · exact h.stateAfter h.execKeyCmdDisable
    · exact h.configReject
  · split
    · exact h.stateAfter h.execFieldCtrlRelease
    · exact h.stateAfter h.execFieldCtrlPrep
    · exact h.configReject
  · split
    · exact h.stateAfter h.execFwCmdCommit
    · exact h
    · exact h.stateAfter h.execFwCmdSave
    · exact h.configReject

theorem Kept.lampView {off size : Nat} {v : Word} (h : Kept P C s t) : Kept P C s (t.lampView off size v) := by
  unfold State.lampView
  refine .ite h ?_
  split
  · exact h.stateAfter h.execLampPlainWrite
  · exact h.stateAfter h.execLampSetAliasWrite
  · exact h.stateAfter h.execLampClearAliasWrite
  · exact h.stateAfter h.execLampAddAliasWrite

/-! ## Boundary -/

theorem Kept.closeBeat {errors : List (Nat × Nat)} (h : Kept P C s t) : Kept P C s (t.closeBeat errors) :=
  h.atOrder.reapAdapters.closeResults.flushEvents.signalUnread.signalUnread.mapIo.foldl fun _ _ h => h.sendMsix

/-- The beat counts on at the tick; nothing that the boundary does after it writes the clock. -/
theorem Kept.openBeat_of_tick {i : BeatInput} (h : Kept P C s t.tick) : Kept P C s (t.openBeat i) := by
  unfold State.openBeat
  refine Kept.timing (Kept.intake (Kept.startRings ?_))
  refine Kept.refreshProgress (Kept.moveProgress (Kept.marchProgress ?_))
  refine Kept.answerChanges (Kept.completeSeals (Kept.queryIncoming (Kept.abandonCopies ?_)))
  refine Kept.endFlashWrites (Kept.endScrubs (Kept.startVerifies (Kept.serveJobs ?_)))
  refine Kept.gateTiles (Kept.dueShadow (Kept.stagesEnd (Kept.idleMeadows ?_)))
  refine Kept.sampleQueues (Kept.refill (Kept.takeGates (Kept.takeMap ?_)))
  refine Kept.foldl (Kept.warmDies (Kept.upset ?_)) fun _ _ h => h.bar2Read
  exact h.feed.blocksBack.countLines.mapIo.followBounds.sampleKill.endBusy.sendBeacon.startPause.edgeSignals

theorem Kept.openBeat {i : BeatInput} (h : Kept P False s t) : Kept P False s (t.openBeat i) :=
  h.tick.openBeat_of_tick

theorem Kept.execBeatBoundary {i : BeatInput} (h : Kept P False s t) : KeptOut P False s (execBeatBoundary i t) :=
  .next (Kept.ite h h.closeBeat.openBeat)

theorem Kept.execIdleTimerExpiry {l : Nat} (h : Kept P C s t) : KeptOut P C s (execIdleTimerExpiry l t) :=
  .next (Kept.ite h (h.atOrder.unless fun h => h.idleScan))

theorem Kept.execAutoEmber (h : Kept P C s t) : KeptOut P C s (execAutoEmber t) :=
  .next (Kept.ite h (Kept.ite h.atOrder.mapLore.autoEmber (h.atOrder.mapLore.when fun h => h.mapLore.autoEmber)))

theorem Kept.execVoltageLower (h : Kept P C s t) : KeptOut P C s (execVoltageLower t) :=
  .next (Kept.ite h.atOrder.lowerVoltage h)

/-! ## Admission -/

theorem Kept.admitEntry {c : Nat} {x : Ctx} {descs : List Bytes} (h : Kept P C s t) : Kept P C s (t.admitEntry c x descs) := by
  unfold State.admitEntry
  refine .ite h.refuseEntry ?_
  dsimp only
  split
  · exact h.refuseEntry
  · refine .ite h.refuseEntry ?_
    split
    · exact h.refuseEntry
    · split
      · exact h.refuseEntry
      · exact h.acceptEntry

theorem Kept.execEntryAdmission {idx : Nat} {descs : List Bytes} (h : Kept P C s t) : KeptOut P C s (execEntryAdmission idx descs t) := by
  unfold Machine.execEntryAdmission
  refine .next (Kept.ite h ?_)
  dsimp only
  split
  · exact h.atOrder
  · exact h.atOrder.unless fun h => h.admitEntry

end Sys2Proof.Machine

end

section

set_option Elab.async false

/-! What a temperature sample, a write of any register, the firmware and a roused instruction keep. -/

namespace Sys2Proof.Machine

variable {P C : Prop} {s t u : State}

theorem Kept.takeSample {x : Temps} (h : Kept P C s t) :
    Kept P C s ((t.mapSys fun y => { y with samples := (x :: y.samples).take 100 }).publishTemps) :=
  h.mapSys.publishTemps

theorem Kept.execTempSample {x : Temps} (h : Kept False False s t) : KeptOut False False s (execTempSample x t) := by
  have hthreshold (l₁ l₂ : Int) (a₁ a₂ : Bool) (c₁ c₂ : Nat) := (h.takeSample (x := x)).threshold (x := maxOf x.junction) (limit := l₁)
    (armed := a₁) (code := c₁) |>.threshold (x := maxOf x.junction) (limit := l₂) (armed := a₂) (code := c₂)
  refine .next (.ite h ?_)
  exact (((hthreshold _ _ _ _ _ _).when fun h => h.raise).mapSys).when fun h => h.thermalTrip

theorem Kept.fwFail {code : Code} {obs : Nat} (h : Kept P C s t) : KeptRes P C s (IRes.fwFail t code obs) :=
  .failAs h.fwDone

theorem Kept.writeAny {off v : Nat} (h : Kept P False s t) : Kept P False s (t.writeAny off v) :=
  h.rowWrite.getD h.writeReg

theorem Kept.outState {o : Out} (h : Kept P C s t) (ho : KeptOut P C s o) : Kept P C s (o.state t) := by
  cases ho with
  | next hu => exact hu
  | fault => exact h
  | refused => exact h

theorem Kept.rouse {c : Nat} {x : Ctx} (h : Kept P C s t) : Kept P C s (t.rouse c x) := by
  unfold State.rouse
  dsimp only
  split
  · exact h.setCtx
  · split
    · exact h.setCtx.outState h.setCtx.execLtnPark
    · exact h.setCtx.outState h.setCtx.execMoveState
    · exact h.setCtx.outState h.setCtx.execStepRun
    · exact h.setCtx

end Sys2Proof.Machine

end

section

set_option Elab.async false

/-! What boot, the firmware instructions and the work that waits keep. -/

namespace Sys2Proof.Machine

variable {P C : Prop} {s t u : State}

/-! ## Firmware -/

theorem Kept.applyRecord {version : Nat} {vals : List (Nat × Word)} (h : Kept P False s t) : Kept P False s (t.applyRecord version vals) :=
  (h.foldl fun _ _ h => h.writeAny).mapFw

theorem Kept.applySettings {version : Nat} (h : Kept P False s t) : Kept P False s (t.applySettings version) := by
  unfold State.applySettings
  dsimp only
  split
  · exact h.mapFw
  · refine .ite h.mapFw.systemWrite.applyRecord ?_
    split
    · exact h.applyRecord
    · exact h.mapFw.raise

theorem Kept.bootFrom {p : FwPackage} {source error : Nat} {fallback : Bool} (h : Kept False False s t) :
    Kept False False s (t.bootFrom p source error fallback) :=
  .ite h.mapFw.mapSys.stages.applyPatches.stages.setRegN h.mapFw.mapSys.stages.applyPatches.stages.mapSys.setRegN.stages.applySettings

theorem Kept.bootSlot {j first : Nat} {p : FwPackage} {error : Nat} (h : Kept False False s t) : Kept False False s (t.bootSlot j first p error) :=
  (h.mapFw.mapSys.when fun h => h.systemWrite).bootFrom

theorem Kept.bootSources {i : BootInput} (h : Kept False False s t) : Kept False False s (t.bootSources i) := by
  unfold State.bootSources
  dsimp only
  split
  · split
    · refine .ite h.bootSlot ?_
      split
      · exact .ite h.bootSlot h.setRegN.emit
      · exact h.setRegN.emit
    · exact .ite h.bootSlot h.setRegN.emit
    · exact h.setRegN.emit
  · split
    · exact .ite h.bootSlot h.setRegN.emit
    · exact h.setRegN.emit
  · split
    · exact .ite h.bootFrom h.setRegN.emit
    · exact h.setRegN.emit
  · exact h.setRegN.emit

theorem Kept.execBoot {i : BootInput} (h : Kept False False s t) : KeptOut False False s (execBoot i t) :=
  .next (Kept.ite h h.setRegN.stages.bootMarch.bootSources)

theorem Kept.offerImage {p : Option FwPackage} {source : Nat} (h : Kept False False s t) : Kept False False s (t.offerImage p source) := by
  unfold State.offerImage
  dsimp only
  split
  · exact h.setRegN
  · exact .ite h.bootFrom h.setRegN

theorem Kept.execBootImgCmd {p : Option FwPackage} (h : Kept False False s t) : KeptOut False False s (execBootImgCmd p t) :=
  .next (Kept.ite h.offerImage h)

theorem Kept.execSdCardInsert {p : Option FwPackage} (h : Kept False False s t) : KeptOut False False s (execSdCardInsert p t) := by
  unfold Machine.execSdCardInsert
  refine .next (Kept.ite (Kept.ite h.offerImage h) (Kept.ite h ?_))
  split
  · exact h
  · exact .ite h.storePackage h

theorem Kept.bodyStage {c : Nat} {w : IWord} {p : FwPackage} {readBackOk : Bool} (h : Kept P C s t) :
    KeptRes P C s (t.bodyStage c w p readBackOk) := by
  unfold State.bodyStage
  dsimp only
  split
  · exact h.fwFail
  · split
    · exact h.fwFail
    · exact KeptRes.ite h.fwFail (KeptRes.ite h.mapFw.systemWrite.fwFail (KeptRes.ite h.mapFw.systemWrite.systemWrite.fwFail (.ok
          h.mapFw.systemWrite.systemWrite.mapFw.systemWrite.fwDone.publish)))

theorem Kept.execFwStage {c : Nat} {w : IWord} {p : FwPackage} {readBackOk : Bool} (h : Kept P C s t) :
    KeptOut P C s (execFwStage c w p readBackOk t) :=
  .next (h.runInstr fun _ _ => h.bodyStage)

theorem Kept.bodyArm {w : IWord} {verifyOk : Bool} (h : Kept P C s t) : KeptRes P C s (t.bodyArm w verifyOk) :=
  KeptRes.ite (KeptRes.ite h.fwFail (.ok h.mapFw.fwDone)) (KeptRes.ite h.fwFail (KeptRes.ite h.fwFail (.ok h.mapFw.fwDone)))

theorem Kept.execFwArm {c : Nat} {w : IWord} {verifyOk : Bool} (h : Kept P C s t) : KeptOut P C s (execFwArm c w verifyOk t) :=
  .next (h.runInstr fun _ _ => h.bodyArm)

theorem Kept.switchFw {p : FwPackage} (h : Kept False False s t) : Kept False False s (t.switchFw p) := by
  unfold State.switchFw
  exact h.mapFw.systemWrite.mapSys.applyPatches.applySettings.raise

theorem Kept.execFwActivation {ok : Bool} (h : Kept False False s t) : KeptOut False False s (execFwActivation ok t) := by
  unfold Machine.execFwActivation
  refine .next (Kept.ite h ?_)
  dsimp only
  split
  · exact h
  · refine (Kept.mapFw ?_).mapSys
    split
    · exact h.switchFw
    · exact h.raise

/-! ## Admission -/

theorem Kept.execPowerCapAdmit {c : Nat} (h : Kept P C s t) : KeptOut P C s (execPowerCapAdmit c t) := by
  unfold Machine.execPowerCapAdmit
  refine .next (Kept.ite h ?_)
  dsimp only
  split
  · exact h.atOrder
  · split
    · exact h.atOrder.when fun h => h.rouse
    · exact h.atOrder

theorem Kept.execNoDeadlineAdmit {cls : Nat} (h : Kept P C s t) : KeptOut P C s (execNoDeadlineAdmit cls t) := by
  unfold Machine.execNoDeadlineAdmit
  refine .next (Kept.ite h (Kept.ite h.atOrder ?_))
  split
  · exact h.atOrder
  · split
    · exact h.atOrder
    · exact h.atOrder.rouse

end Sys2Proof.Machine

end

section

set_option Elab.async false

/-! What a register write of the host, every command and a step keep, and O2. -/

namespace Sys2Proof.Machine

variable {P C : Prop} {s t u : State}

theorem Kept.wholeWrite {r : RegSpec} {off v : Nat} (h : Kept False False s t) : Kept False False s (t.wholeWrite r off v) := by
  unfold State.wholeWrite
  split
  · exact h
  · exact h.writeAny
  · exact h.storeKey.getD h.commandWrite

theorem Kept.halfWrite {r : RegSpec} {off v : Nat} {high : Bool} (h : Kept False False s t) : Kept False False s (t.halfWrite r off high v) := by
  unfold State.halfWrite
  split
  · exact h
  · exact h.setHalf
  · exact h.setHalf.wholeWrite
  · exact h.setHalf.wholeWrite

theorem Kept.registerWrite {off size : Nat} {v : Word} (h : Kept False False s t) : Kept False False s (t.registerWrite off size v) := by
  unfold State.registerWrite
  split
  · exact h
  · exact .ite (.ite h.wholeWrite h.configReject) (.ite h.setHalf.wholeWrite (.ite h.halfWrite h.configReject))

theorem Kept.execRegWrite {at_ size : Nat} {v : BitVec 64} (h : Kept False False s t) : KeptOut False False s (execRegWrite at_ size v t) :=
  .next (.ite h (.ite h.lampView (.ite h.msixWrite h.registerWrite)))

/-- Every command keeps the canonical form. -/
theorem Kept.exec {i : Instr} (h : Kept False False s t) : KeptOut False False s (exec i t) := by
  cases i with
  | nop => exact h.execNop
  | halt => exact h.execHalt
  | jump => exact h.execJump
  | branch => exact h.execBranch
  | call => exact h.execCall
  | ret => exact h.execRet
  | fence => exact h.execFence
  | progressSet => exact h.execProgressSet
  | postedInstructionComplete => exact h.execPostedInstructionComplete
  | lampLight => exact h.execLampLight
  | lampDim => exact h.execLampDim
  | lampSet => exact h.execLampSet
  | lampWait => exact h.execLampWait
  | lampWaitMet => exact h.execLampWaitMet
  | lampWaitTimeout => exact h.execLampWaitTimeout
  | ltnCreate => exact h.execLtnCreate
  | ltnClose => exact h.execLtnClose
  | ltnPark => exact h.execLtnPark
  | parkCommit => exact h.execParkCommit
  | ltnResume => exact h.execLtnResume
  | resumeCommit => exact h.execResumeCommit
  | ltnQuery => exact h.execLtnQuery
  | reqAdmit => exact h.execReqAdmit
  | reqKill => exact h.execReqKill
  | reqSetprio => exact h.execReqSetprio
  | reqSetdeadline => exact h.execReqSetdeadline
  | reqRelease => exact h.execReqRelease
  | reqReleaseTimeout => exact h.execReqReleaseTimeout
  | pgAlloc => exact h.execPgAlloc
  | pgFree => exact h.execPgFree
  | pgShare => exact h.execPgShare
  | pgAppend => exact h.execPgAppend
  | setUnion => exact h.execSetUnion
  | setIntersect => exact h.execSetIntersect
  | setDiff => exact h.execSetDiff
  | setHash => exact h.execSetHash
  | prefixMatch => exact h.execPrefixMatch
  | moveState => exact h.execMoveState
  | deedQuery => exact h.execDeedQuery
  | deedDecree => exact h.execDeedDecree
  | deedRelease => exact h.execDeedRelease
  | moveOpenReceive => exact h.execMoveOpenReceive
  | moveDataReceive => exact h.execMoveDataReceive
  | moveReceiptReceive => exact h.execMoveReceiptReceive
  | nackReceive => exact h.execNackReceive
  | moveKill => exact h.execMoveKill
  | moveAbortReceive => exact h.execMoveAbortReceive
  | receiptDeadlineExpiry => exact h.execReceiptDeadlineExpiry
  | deedQueryRepeat => exact h.execDeedQueryRepeat
  | deedTimeoutOrphan => exact h.execDeedTimeoutOrphan
  | incomingAbandon => exact h.execIncomingAbandon
  | deedQueryReceive => exact h.execDeedQueryReceive
  | deedAnswerReceive => exact h.execDeedAnswerReceive
  | homeNoticeReceive => exact h.execHomeNoticeReceive
  | emberNoticeReceive => exact h.execEmberNoticeReceive
  | decreeNoticeReceive => exact h.execDecreeNoticeReceive
  | decreeNoticeRepeat => exact h.execDecreeNoticeRepeat
  | decreeAckReceive => exact h.execDecreeAckReceive
  | stepRun => exact h.execStepRun
  | stepStart => exact h.execStepStart
  | stepCommit => exact h.execStepCommit
  | shadow => exact h.execShadow
  | autoShadowRun => exact h.execAutoShadowRun
  | refereeRun => exact h.execRefereeRun
  | tileQuarantineLeave => exact h.execTileQuarantineLeave
  | canaryRun => exact h.execCanaryRun
  | attnPartial => exact h.execAttnPartial
  | attnPartialRoundAdmit => exact h.execAttnPartialRoundAdmit
  | partialQueryReceive => exact h.execPartialQueryReceive
  | partialRoundStart => exact h.execPartialRoundStart
  | partialResultReceive => exact h.execPartialResultReceive
  | attnMerge => exact h.execAttnMerge
  | ember => exact h.execEmber
  | rekindle => exact h.execRekindle
  | autoEmber => exact h.execAutoEmber
  | trieEviction => exact h.execTrieEviction
  | pack => exact h.execPack
  | unpack => exact h.execUnpack
  | tierMove => exact h.execTierMove
  | tierMoveCommit => exact h.execTierMoveCommit
  | tierPlace => exact h.execTierPlace
  | streamWeights => exact h.execStreamWeights
  | adpLoad => exact h.execAdpLoad
  | adpReplace => exact h.execAdpReplace
  | adpRetire => exact h.execAdpRetire
  | winOpen => exact h.execWinOpen
  | winRevoke => exact h.execWinRevoke
  | winRevokeComplete => exact h.execWinRevokeComplete
  | copy => exact h.execCopy
  | copyOpenReceive => exact h.execCopyOpenReceive
  | copyDataReceive => exact h.execCopyDataReceive
  | copyCommitReceive => exact h.execCopyCommitReceive
  | sealWin => exact h.execSealWin
  | winSealReceive => exact h.execWinSealReceive
  | readReceive => exact h.execReadReceive
  | readRespReceive => exact h.execReadRespReceive
  | loadTimeout => exact h.execLoadTimeout
  | fieldForm => exact h.execFieldForm
  | fieldAdmit => exact h.execFieldAdmit
  | fieldExpel => exact h.execFieldExpel
  | fieldReform => exact h.execFieldReform
  | fieldReadyReceive => exact h.execFieldReadyReceive
  | fieldCommitBeatReceive => exact h.execFieldCommitBeatReceive
  | fieldAbortReceive => exact h.execFieldAbortReceive
  | fieldChangeReceive => exact h.execFieldChangeReceive
  | fieldCommit => exact h.execFieldCommit
  | fieldFormTimeout => exact h.execFieldFormTimeout
  | stepReportReceive => exact h.execStepReportReceive
  | fieldStepEvaluation => exact h.execFieldStepEvaluation
  | fieldStepGraceExpiry => exact h.execFieldStepGraceExpiry
  | followRequestReceive => exact h.execFollowRequestReceive
  | followLockTimeout => exact h.execFollowLockTimeout
  | meadowDefine => exact h.execMeadowDefine
  | meadowDefineEffect => exact h.execMeadowDefineEffect
  | meadowRole => exact h.execMeadowRole
  | meadowDrain => exact h.execMeadowDrain
  | meadowDrained => exact h.execMeadowDrained
  | march => exact h.execMarch
  | marchRunComplete => exact h.execMarchRunComplete
  | scrubNow => exact h.execScrubNow
  | flashTrim => exact h.execFlashTrim
  | fwStage => exact h.execFwStage
  | fwArm => exact h.execFwArm
  | blockReset => exact h.execBlockReset
  | blockRestore => exact h.execBlockRestore
  | attest => exact h.execAttest
  | beatBoundary => exact h.execBeatBoundary
  | deratedExited => exact h.execDeratedExited
  | voltageLower => exact h.execVoltageLower
  | powerOverDeclared => exact h.execPowerOverDeclared
  | powerCapAdmit => exact h.execPowerCapAdmit
  | noDeadlineAdmit => exact h.execNoDeadlineAdmit
  | beatLenWrite => exact h.execBeatLenWrite
  | beatLenEffect => exact h.execBeatLenEffect
  | beaconReceive => exact h.execBeaconReceive
  | beaconLost => exact h.execBeaconLost
  | beaconHoldoverEnd => exact h.execBeaconHoldoverEnd
  | probeSend => exact h.execProbeSend
  | probeReceive => exact h.execProbeReceive
  | entryAdmission => exact h.execEntryAdmission
  | intakeCtrlWrite => exact h.execIntakeCtrlWrite
  | resultRecordRetry => exact h.execResultRecordRetry
  | idleTimerExpiry => exact h.execIdleTimerExpiry
  | promisedBeatExpiry => exact h.execPromisedBeatExpiry
  | breachStoreDrain => exact h.execBreachStoreDrain
  | eventStoreDrain => exact h.execEventStoreDrain
  | pendingWriteRelease => exact h.execPendingWriteRelease
  | routeInstall => exact h.execRouteInstall
  | mapDrainEnd => exact h.execMapDrainEnd
  | frameForward => exact h.execFrameForward
  | ackReceive => exact h.execAckReceive
  | ackSend => exact h.execAckSend
  | retransmitTimeout => exact h.execRetransmitTimeout
  | collectiveReceive => exact h.execCollectiveReceive
  | helloSend => exact h.execHelloSend
  | helloReceive => exact h.execHelloReceive
  | joinStart => exact h.execJoinStart
  | joinNonceReceive => exact h.execJoinNonceReceive
  | joinProofReceive => exact h.execJoinProofReceive
  | joinInitiatorProofReceive => exact h.execJoinInitiatorProofReceive
  | joinResultReceive => exact h.execJoinResultReceive
  | joinRetry => exact h.execJoinRetry
  | joinTimeout => exact h.execJoinTimeout
  | heartbeatSend => exact h.execHeartbeatSend
  | heartbeatReceive => exact h.execHeartbeatReceive
  | partnerDeadTimeout => exact h.execPartnerDeadTimeout
  | leaveDepartureReceive => exact h.execLeaveDepartureReceive
  | leaveEvictionReceive => exact h.execLeaveEvictionReceive
  | fabCtrlLeave => exact h.execFabCtrlLeave
  | partnerCmdJoin => exact h.execPartnerCmdJoin
  | partnerCmdApprove => exact h.execPartnerCmdApprove
  | partnerCmdRefuse => exact h.execPartnerCmdRefuse
  | partnerCmdEvict => exact h.execPartnerCmdEvict
  | portCfgWrite => exact h.execPortCfgWrite
  | linkUp => exact h.execLinkUp
  | linkTrainFail => exact h.execLinkTrainFail
  | linkDown => exact h.execLinkDown
  | linkTransmitSelect => exact h.execLinkTransmitSelect
  | keyCmdLoad => exact h.execKeyCmdLoad
  | keyCmdActivate => exact h.execKeyCmdActivate
  | keyCmdDisable => exact h.execKeyCmdDisable
  | gateCtrlApply => exact h.execGateCtrlApply
  | queueSel => exact h.execQueueSel
  | partnerSel => exact h.execPartnerSel
  | winSel => exact h.execWinSel
  | fieldSel => exact h.execFieldSel
  | peekSel => exact h.execPeekSel
  | hostedFind => exact h.execHostedFind
  | scSnap => exact h.execScSnap
  | fieldFollow => exact h.execFieldFollow
  | fieldCtrlRelease => exact h.execFieldCtrlRelease
  | fieldCtrlPrep => exact h.execFieldCtrlPrep
  | fieldPrepComplete => exact h.execFieldPrepComplete
  | tileClear => exact h.execTileClear
  | shadowSetWrite => exact h.execShadowSetWrite
  | shadowSetEffect => exact h.execShadowSetEffect
  | modelCmdInstall => exact h.execModelCmdInstall
  | modelCmdRemove => exact h.execModelCmdRemove
  | objCmdInstall => exact h.execObjCmdInstall
  | objCmdRemove => exact h.execObjCmdRemove
  | hostRead => exact h.execHostRead
  | readThroughComplete => exact h.execReadThroughComplete
  | hostWrite => exact h.execHostWrite
  | biSnoopAnswer => exact h.execBiSnoopAnswer
  | h2dSnoop => exact h.execH2dSnoop
  | hdmDecoderCommit => exact h.execHdmDecoderCommit
  | cxlLinkTrained => exact h.execCxlLinkTrained
  | doeRequest => exact h.execDoeRequest
  | cxlIdeFail => exact h.execCxlIdeFail
  | commonsPlainWrite => exact h.execCommonsPlainWrite
  | commonsSetAliasWrite => exact h.execCommonsSetAliasWrite
  | commonsClearAliasWrite => exact h.execCommonsClearAliasWrite
  | lampPlainWrite => exact h.execLampPlainWrite
  | lampSetAliasWrite => exact h.execLampSetAliasWrite
  | lampClearAliasWrite => exact h.execLampClearAliasWrite
  | lampAddAliasWrite => exact h.execLampAddAliasWrite
  | regLowHalfRead => exact h.execRegLowHalfRead
  | regWrite => exact h.execRegWrite
  | flashTimeSet => exact h.execFlashTimeSet
  | flashCmdCheckpoint => exact h.execFlashCmdCheckpoint
  | flashCmdFormat => exact h.execFlashCmdFormat
  | flashCheckpointDue => exact h.execFlashCheckpointDue
  | journalPageDurable => exact h.execJournalPageDurable
  | flashRestart => exact h.execFlashRestart
  | gcStart => exact h.execGcStart
  | gcUnitMove => exact h.execGcUnitMove
  | sbVerify => exact h.execSbVerify
  | sbEraseComplete => exact h.execSbEraseComplete
  | flashProgramFail => exact h.execFlashProgramFail
  | flashEraseFail => exact h.execFlashEraseFail
  | flashPatrol => exact h.execFlashPatrol
  | gddrPatrolScrub => exact h.execGddrPatrolScrub
  | gddrRecalibration => exact h.execGddrRecalibration
  | taperCalibration => exact h.execTaperCalibration
  | bgWindowStart => exact h.execBgWindowStart
  | telemetrySnapshot => exact h.execTelemetrySnapshot
  | pldmRequest => exact h.execPldmRequest
  | tempSample => exact h.execTempSample
  | thermalTripRecovery => exact h.execThermalTripRecovery
  | powerEnvelope => exact h.execPowerEnvelope
  | overcurrentTrip => exact h.execOvercurrentTrip
  | powerOnReset => exact h.execPowerOnReset
  | perstAssert => exact h.execPerstAssert
  | perstDeassert => exact h.execPerstDeassert
  | pwrFailAssert => exact h.execPwrFailAssert
  | cxlReset => exact h.execCxlReset
  | rstArm => exact h.execRstArm
  | rstCmd => exact h.execRstCmd
  | blkReset => exact h.execBlkReset
  | watchdogExpiry => exact h.execWatchdogExpiry
  | fabricResetFrame => exact h.execFabricResetFrame
  | boot => exact h.execBoot
  | bootImgCmd => exact h.execBootImgCmd
  | sdCardInsert => exact h.execSdCardInsert
  | fwOfferReceive => exact h.execFwOfferReceive
  | fwFetchRequestReceive => exact h.execFwFetchRequestReceive
  | fwChunkReceive => exact h.execFwChunkReceive
  | fwActivation => exact h.execFwActivation
  | fwActResume => exact h.execFwActResume
  | fwCmdCommit => exact h.execFwCmdCommit
  | fwCmdRestage => exact h.execFwCmdRestage
  | fwCmdSave => exact h.execFwCmdSave
  | deedQueryTimeout => exact h.execDeedQueryTimeout
  | partialRoundEnd => exact h.execPartialRoundEnd
  | powerLoss => exact h.execPowerLoss
  | msixEntryUnmask => exact h.execMsixEntryUnmask
  | regHighHalfRead => exact h.execRegHighHalfRead

theorem Kept.step (h : Kept False False s t) : KeptOut False False s (step t) := by
  unfold Machine.step
  split
  · exact .next h
  · exact Kept.exec h.same

end Sys2Proof.Machine

open Sys2Proof Sys2Proof.Machine

/-- Settles O2: it holds. Every command runs on the queue without it, and keeps the canonical form. -/
theorem stepKeepsCanonical : Obligations.StepKeepsCanonical := by
  unfold Obligations.StepKeepsCanonical
  intro s t hs hstep
  exact ((Kept.rfl (P := False) (C := False)).step.of_next hstep).canonical hs

end

section

set_option Elab.async false

/-! The beat length and the beat boundary (O40). -/

namespace Sys2Proof.Machine

variable {s t : State}

/-! ## A write of BEAT_LEN -/

/-- The 17 bits of the length. -/
theorem bits_beatLen (n : Nat) : bits n 16 0 = n % 2 ^ 17 := by
  rw [bits, pow_zero, Nat.div_one]

section

variable {v : BitVec 32} (hup : s.cdUp = true)
include hup

theorem exec_beatLenWrite_taken (hfield : s.anyField = false) (hlegal : beatLegal (v.toNat % 2 ^ 17) = true)
    (hgates : s.gatesFit (v.toNat % 2 ^ 17) = true) :
    exec (.beatLenWrite v) s = .next ((s.setRegN Reg.BEAT_LEN (v.toNat % 2 ^ 17)).mapClk fun c =>
      { c with lenPending := if v.toNat % 2 ^ 17 = c.len then none else some (v.toNat % 2 ^ 17) }) := by
  rw [show exec (.beatLenWrite v) s = execBeatLenWrite v s from rfl, execBeatLenWrite, bits_beatLen]
  generalize v.toNat % 2 ^ 17 = b at hlegal hgates
  simp [hup, hfield, hlegal, hgates]

theorem exec_beatLenWrite_pends (hfield : s.anyField = false) (hlegal : beatLegal (v.toNat % 2 ^ 17) = true)
    (hgates : s.gatesFit (v.toNat % 2 ^ 17) = true) (hnew : v.toNat % 2 ^ 17 ≠ s.clk.len) :
    exec (.beatLenWrite v) s = .next ((s.setRegN Reg.BEAT_LEN (v.toNat % 2 ^ 17)).mapClk fun c =>
      { c with lenPending := some (v.toNat % 2 ^ 17) }) := by
  rw [exec_beatLenWrite_taken hup hfield hlegal hgates]
  exact congrArg (fun p => Host.Outcome.next ((s.setRegN Reg.BEAT_LEN (v.toNat % 2 ^ 17)).mapClk fun c => { c with lenPending := p }))
    (if_neg hnew)

theorem exec_beatLenWrite_in_force (hfield : s.anyField = false) (hlegal : beatLegal (v.toNat % 2 ^ 17) = true)
    (hgates : s.gatesFit (v.toNat % 2 ^ 17) = true) (hsame : v.toNat % 2 ^ 17 = s.clk.len) :
    exec (.beatLenWrite v) s = .next ((s.setRegN Reg.BEAT_LEN (v.toNat % 2 ^ 17)).mapClk fun c => { c with lenPending := none }) := by
  rw [exec_beatLenWrite_taken hup hfield hlegal hgates]
  exact congrArg (fun p => Host.Outcome.next ((s.setRegN Reg.BEAT_LEN (v.toNat % 2 ^ 17)).mapClk fun c => { c with lenPending := p }))
    (if_pos hsame)

theorem exec_beatLenWrite_refused
    (hbad : s.anyField = true ∨ beatLegal (v.toNat % 2 ^ 17) = false ∨ s.gatesFit (v.toNat % 2 ^ 17) = false) :
    exec (.beatLenWrite v) s = .next (s.configReject Reg.BEAT_LEN v.toNat) := by
  rw [show exec (.beatLenWrite v) s = execBeatLenWrite v s from rfl, execBeatLenWrite, bits_beatLen]
  generalize v.toNat % 2 ^ 17 = b at hbad
  rcases hbad with h | h | h <;> simp [hup, h]

end

/-! ## When a length that pends takes effect -/

theorem State.beatFree_iff (s : State) (p : Nat) :
    s.beatFree p = true ↔ (∀ e ∈ s.eng.meadows, e.2.steps = []) ∧ s.eng.shadow = none ∧ s.eng.referee = [] ∧ ∀ q ∈ s.io.promises, p ≤ q.b := by
  simp only [State.beatFree, Bool.and_eq_true, List.all_eq_true, List.isEmpty_iff, Option.isNone_iff_eq_none, decide_eq_true_eq, and_assoc]

theorem exec_beatLenEffect_pending {p : Nat} (hp : s.clk.lenPending = some p) :
    exec .beatLenEffect s = .next (if s.cdUp ∧ s.clk.order ≤ 2 ∧ !s.anyField ∧ s.beatFree p then s.setBeat p else s) := by
  rw [show exec .beatLenEffect s = execBeatLenEffect s from rfl, execBeatLenEffect, hp]

theorem State.setBeat_pending {p : Nat} (hp : s.clk.lenPending = some p) :
    s.setBeat p = (s.mapClk fun c => { c with len := p, lenPending := none }).refraction := by
  rw [State.setBeat]
  exact congrArg (fun l => State.refraction (s.mapClk fun c => { c with len := p, lenPending := l })) (if_pos hp)

theorem exec_beatLenEffect_taken {p : Nat} (hp : s.clk.lenPending = some p) (hup : s.cdUp = true) (hfree : s.beatFree p = true)
    (horder : s.clk.order ≤ 2) (hfield : s.anyField = false) :
    exec .beatLenEffect s = .next ((s.mapClk fun c => { c with len := p, lenPending := none }).refraction) := by
  rw [exec_beatLenEffect_pending hp, if_pos ⟨hup, horder, (Bool.not_eq_true' _).mpr hfield, hfree⟩, State.setBeat_pending hp]

/-- What stands in the way of a length that pends. -/
theorem State.not_beatFree {p : Nat}
    (h : (∃ e ∈ s.eng.meadows, e.2.steps ≠ []) ∨ s.eng.shadow.isSome = true ∨ s.eng.referee ≠ [] ∨ ∃ q ∈ s.io.promises, q.b < p) :
    ¬ s.beatFree p = true := by
  rw [State.beatFree_iff]
  rintro ⟨hsteps, hshadow, hreferee, hpromises⟩
  obtain ⟨e, he, hne⟩ | h | h | ⟨q, hq, hlt⟩ := h
  · exact hne (hsteps e he)
  · rw [hshadow] at h
    nomatch h
  · exact h hreferee
  · exact absurd (hpromises q hq) (Nat.not_le.mpr hlt)

theorem exec_beatLenEffect_waits {p : Nat} (hp : s.clk.lenPending = some p)
    (h : (∃ e ∈ s.eng.meadows, e.2.steps ≠ []) ∨ s.eng.shadow.isSome = true ∨ s.eng.referee ≠ [] ∨ (∃ q ∈ s.io.promises, q.b < p) ∨
      2 < s.clk.order ∨ s.anyField = true) : exec .beatLenEffect s = .next s := by
  rw [exec_beatLenEffect_pending hp, if_neg]
  rintro ⟨-, horder, hfield, hfree⟩
  obtain h | h | h | h | h | h := h
  · exact State.not_beatFree (.inl h) hfree
  · exact State.not_beatFree (.inr (.inl h)) hfree
  · exact State.not_beatFree (.inr (.inr (.inl h))) hfree
  · exact State.not_beatFree (.inr (.inr (.inr h))) hfree
  · exact absurd horder (Nat.not_le.mpr h)
  · exact ne_true_of_eq_false ((Bool.not_eq_true' _).mp hfield) h

theorem exec_beatLenEffect_none (hp : s.clk.lenPending = none) : exec .beatLenEffect s = .next s := by
  rw [show exec .beatLenEffect s = execBeatLenEffect s from rfl, execBeatLenEffect, hp]

/-! ## The boundary -/

theorem execBeatBoundary_clock (i : BeatInput) (hup : s.cdUp = true) :
    ∃ t, exec (.beatBoundary i) s = .next t ∧ SameClock s.tick.clk t.clk := by
  refine ⟨(s.closeBeat i.resultErrors).openBeat i, ?_, ?_⟩
  · rw [show exec (.beatBoundary i) s = execBeatBoundary i s from rfl, execBeatBoundary]
    simp [hup]
  · obtain ⟨hnow, hlen, htime, hcorrection⟩ := ((Kept.rfl (P := True) (C := True) (s := s)).closeBeat (errors := i.resultErrors)).clock trivial
    have htick : SameClock s.tick.clk (s.closeBeat i.resultErrors).tick.clk := by
      refine ⟨?_, hlen, ?_, ?_⟩ <;> simp only [State.tick, State.mapClk, hnow, hlen, htime, hcorrection]
    exact htick.trans ((Kept.rfl (P := True) (C := True)).openBeat_of_tick.clock trivial)

theorem slewOf_above {c : Int} (h : 8 < c) : slewOf c = 8 := by
  unfold slewOf
  omega

theorem slewOf_within {c : Int} (hlow : -8 ≤ c) (hhigh : c ≤ 8) : slewOf c = c := by
  unfold slewOf
  omega

theorem slewOf_below {c : Int} (h : c < -8) : slewOf c = -8 := by
  unfold slewOf
  omega

theorem exec_beatBoundary_down (i : BeatInput) (hup : s.cdUp = false) : exec (.beatBoundary i) s = .next s := by
  rw [show exec (.beatBoundary i) s = execBeatBoundary i s from rfl, execBeatBoundary]
  simp [hup]

/-! ## The voltage's order -/

theorem exec_voltageLower_up (hup : s.cdUp = true) : exec .voltageLower s = .next (s.atOrder 7).lowerVoltage := by
  rw [show exec .voltageLower s = execVoltageLower s from rfl, execVoltageLower, if_pos hup]

theorem State.atOrder_7_of_6 (h : s.clk.order = 6) : s.atOrder 7 = s.voltage.mapClk fun c => { c with order := 7 } := by
  have hvoltage : s.voltage.clk.order = 6 := by
    unfold State.voltage
    dsimp only
    split
    · exact h
    · split
      · exact h
      · split
        · exact h
        · exact h
  simp only [State.atOrder, h, show ¬(6 < 5 ∧ 5 ≤ 7) by decide, show ¬(6 < 3 ∧ 3 ≤ 7) by decide, show 6 < 7 ∧ 7 ≤ 7 by decide, if_true, if_false,
    State.mapClk, hvoltage, true_and]
  rfl

end Sys2Proof.Machine

open Sys2Proof Sys2Proof.Machine

/-- Settles O40: it holds. Between the boundary's two halves only the tick writes the clock. -/
theorem beatClock : Obligations.BeatClock := by
  unfold Obligations.BeatClock
  refine ⟨fun s v => ?_, fun s i => ⟨fun hup => ?_, fun hup => ?_, exec_beatBoundary_down i⟩⟩
  · intro b
    refine ⟨fun hup hfield hlegal hgates => ⟨fun hnew => ?_, fun hsame => ?_⟩, fun hup hbad => ?_, fun p hp hup => ⟨?_, ?_⟩, ?_⟩
    · exact exec_beatLenWrite_pends hup hfield hlegal hgates hnew
    · exact exec_beatLenWrite_in_force hup hfield hlegal hgates hsame
    · exact exec_beatLenWrite_refused hup hbad
    · intro hsteps hshadow hreferee hpromises horder hfield
      exact exec_beatLenEffect_taken hp hup ((State.beatFree_iff s p).mpr ⟨hsteps, hshadow, hreferee, hpromises⟩) horder hfield
    · exact exec_beatLenEffect_waits hp
    · exact exec_beatLenEffect_none
  · obtain ⟨t, hexec, hnow, hlen, htime, hcorrection⟩ := execBeatBoundary_clock i hup
    simp only [State.tick, State.mapClk] at hnow hlen htime hcorrection
    refine ⟨t, hexec, hnow, hlen, fun habove => ?_, fun hlow hhigh => ?_, fun hbelow hlong => ?_⟩
    · rw [slewOf_above habove] at htime hcorrection
      exact ⟨by omega, hcorrection⟩
    · rw [slewOf_within hlow hhigh] at htime hcorrection
      exact ⟨by omega, by omega⟩
    · rw [slewOf_below hbelow] at htime hcorrection
      exact ⟨by omega, by omega⟩
  · refine ⟨exec_voltageLower_up hup, fun horder => ?_⟩
    rw [exec_voltageLower_up hup, State.atOrder_7_of_6 horder]

end

section

set_option Elab.async false

/-! Boot, the spread of packages and `ATTEST` (O51). -/

namespace Sys2Proof.Machine

variable {s t : State}

/-! ## Boot -/

/-- A boot that begins, up to its sources. -/
theorem exec_boot_begins {i : BootInput} (hbootable : s.bootable = true) (hready : s.sys.ready = false) (hstatus : s.regN Reg.BOOT_STATUS = 0) :
    exec (.boot i) s = .next (((((s.setRegN Reg.BOOT_STATUS (bootStatus 1 0 0 false false)).stages 1 4).bootMarch i)).bootSources i) := by
  rw [show exec (.boot i) s = execBoot i s from rfl, execBoot, if_neg]
  simp [hbootable, hready, hstatus]

theorem exec_boot_still {i : BootInput} (h : s.bootable = false ∨ s.sys.ready = true ∨ s.regN Reg.BOOT_STATUS ≠ 0) :
    exec (.boot i) s = .next s := by
  rw [show exec (.boot i) s = execBoot i s from rfl, execBoot, if_pos]
  rwa [Bool.not_eq_true']

section

variable {i : BootInput} {first : Nat} {p q : FwPackage} (hsel : s.sys.bootSel = 0) (hfirst : (if s.fw.trial then s.fw.kept else s.fw.active) = first)
  (hp : s.slotImage i first = some p)
include hsel hfirst hp

theorem State.bootSources_first (hgood : imageError s.fw.floor (some p) = 0) : s.bootSources i = s.bootSlot first first p 0 := by
  unfold State.bootSources
  simp only [hsel, hfirst, hp, hgood, if_true]

theorem State.bootSources_fallback (hbad : imageError s.fw.floor (some p) ≠ 0) (hq : s.slotImage i (1 - first) = some q)
    (hgood : imageError s.fw.floor (some q) = 0) :
    s.bootSources i = s.bootSlot (1 - first) first q (imageError s.fw.floor (some p)) := by
  unfold State.bootSources
  simp only [hsel, hfirst, hp, hbad, hq, hgood, if_true, if_false]

end

theorem State.bootSources_host {i : BootInput} (hsel : s.sys.bootSel = 3) :
    s.bootSources i = (s.setRegN Reg.BOOT_STATUS (bootStatus 0xE 3 0 false false)).emit (.uart 0 0xE) := by
  unfold State.bootSources
  simp only [hsel]

@[simp] theorem State.stages_sys (a b : Nat) : (s.stages a b).sys = s.sys := by
  unfold State.stages
  exact foldl_keeps State.sys _ (fun u _ => State.emit_sys u _) s

@[simp] theorem State.stages_regs (a b : Nat) : (s.stages a b).regs = s.regs := by
  unfold State.stages
  exact foldl_keeps State.regs _ (fun u _ => State.emit_regs u _) s

/-- What stands of a verified image when its patch table is in force. -/
def State.loadedFrom (s : State) (p : FwPackage) (source : Nat) : State :=
  ((((s.mapFw fun f => { f with running := some p, source := source }).mapSys fun y => { y with meas := s.measure p source }).stages 5 5).applyPatches p).stages 6 6

theorem State.loadedFrom_sys (p : FwPackage) (source : Nat) : (s.loadedFrom p source).sys =
    { s.sys with fw := { s.sys.fw with running := some p, source := source }, meas := s.measure p source, patches := patchTable p } := by
  rw [State.loadedFrom, State.stages_sys, State.applyPatches, State.mapSys, State.stages_sys]
  rfl

theorem State.bootFrom_eq (p : FwPackage) (source error : Nat) (fallback : Bool) : s.bootFrom p source error fallback =
    if s.sys.clkSel = 3 then (s.loadedFrom p source).setRegN Reg.BOOT_STATUS (bootStatus 6 source error fallback false)
    else ((((s.loadedFrom p source).mapSys fun y => { y with ready := true }).setRegN Reg.BOOT_STATUS
      (bootStatus 7 source error fallback true)).stages 7 7).applySettings p.settings := by
  have hclk : (s.loadedFrom p source).sys.clkSel = s.sys.clkSel := by rw [State.loadedFrom_sys]
  rw [← hclk]
  rfl

theorem State.bootFrom_patches (p : FwPackage) (source error : Nat) (fallback : Bool) :
    (s.bootFrom p source error fallback).sys.patches = patchTable p := by
  have hloaded : (s.loadedFrom p source).sys.patches = patchTable p := by rw [State.loadedFrom_sys]
  have hkept : Kept True False (s.loadedFrom p source) (s.bootFrom p source error fallback) := by
    rw [State.bootFrom_eq]
    exact .ite Kept.rfl.setRegN Kept.rfl.mapSys.setRegN.stages.applySettings
  exact (hkept.patches trivial).trans hloaded

theorem State.regN_setRegN (o v : Nat) : (s.setRegN o v).regN o = v % 2 ^ 64 := by
  rw [State.regN, State.reg, State.setRegN_regs, Tbl.get_set_self, BitVec.toNat_ofNat]

theorem State.bootFrom_reserved {p : FwPackage} {source error : Nat} {fallback : Bool} (hclk : s.sys.clkSel = 3) :
    let b := s.bootFrom p source error fallback
    b.sys.ready = s.sys.ready ∧ b.sys.meas = s.measure p source ∧ b.regN Reg.BOOT_STATUS = bootStatus 6 source error fallback false % 2 ^ 64 := by
  simp only [State.bootFrom_eq, if_pos hclk, State.setRegN_sys, State.loadedFrom_sys, State.regN_setRegN, and_self]

theorem State.bootFrom_done {p : FwPackage} {source error : Nat} {fallback : Bool} (hclk : s.sys.clkSel ≠ 3) (hsettings : s.fw.settings = []) :
    let b := s.bootFrom p source error fallback
    b.sys.ready = true ∧ b.sys.meas = s.measure p source ∧ b.fw.running = some p ∧
      b.regN Reg.BOOT_STATUS = bootStatus 7 source error fallback true % 2 ^ 64 := by
  have hnone (u : State) (h : u.fw.settings = []) : u.applySettings p.settings = u.mapFw fun f => { f with applied := 0 } := by
    rw [State.applySettings, h]
  have hfw : (s.loadedFrom p source).sys.fw.settings = [] := by rw [State.loadedFrom_sys]; exact hsettings
  rw [State.bootFrom_eq, if_neg hclk, hnone _ (by rw [State.fw, State.stages_sys]; exact hfw)]
  refine ⟨?_, ?_, ?_, ?_⟩
  · simp [State.mapFw, State.mapSys]
  · simp [State.mapFw, State.mapSys, State.loadedFrom_sys]
  · simp [State.mapFw, State.mapSys, State.fw, State.loadedFrom_sys]
  · refine Eq.trans ?_ (State.regN_setRegN (s := (s.loadedFrom p source).mapSys fun y => { y with ready := true }) Reg.BOOT_STATUS _)
    simp only [State.regN, State.reg, State.mapFw, State.mapSys, State.stages_regs]

/-! ## The patch table -/

theorem patchTable_length (p : FwPackage) : (patchTable p).length = 64 := by
  rw [patchTable, List.length_append, List.length_take, List.length_replicate]
  omega

theorem patchTable_getElem? (p : FwPackage) {k : Nat} (hk : k < 64) :
    (patchTable p)[k]? = p.patches[k]? ∨ p.patches.length ≤ k ∧ (patchTable p)[k]? = some 0xFFFFFFFF00000000 := by
  unfold patchTable
  rcases Nat.lt_or_ge k p.patches.length with hlt | hge
  · left
    rw [List.getElem?_append_left (by rw [List.length_take]; omega), List.getElem?_take_of_lt hk]
  · right
    refine ⟨hge, ?_⟩
    rw [List.getElem?_append_right (by rw [List.length_take]; omega), List.length_take, List.getElem?_replicate, if_pos (by omega)]
    rfl

theorem State.romWord_unpatched {at_ : Nat} (h : ∀ e ∈ s.sys.patches, e.toNat / 2 ^ 32 ≠ at_) : s.romWord at_ = Config.romWord at_ := by
  have hnone : s.sys.patches.find? (fun e => decide (e.toNat / 2 ^ 32 = at_ ∧ at_ ≠ 0xFFFFFFFF)) = none :=
    List.find?_eq_none.mpr fun e he hfound => h e he (of_decide_eq_true hfound).1
  rw [State.romWord, hnone]

theorem State.romWord_patched {at_ : Nat} {e : Word} {rest : List Word} (hused : at_ ≠ 0xFFFFFFFF) (h : s.sys.patches = e :: rest)
    (hat : e.toNat / 2 ^ 32 = at_) : s.romWord at_ = BitVec.ofNat 32 e.toNat := by
  have hfound : s.sys.patches.find? (fun e => decide (e.toNat / 2 ^ 32 = at_ ∧ at_ ≠ 0xFFFFFFFF)) = some e := by
    rw [h]
    exact List.find?_cons_of_pos (decide_eq_true ⟨hat, hused⟩)
  rw [State.romWord, hfound]

/-! ## Images that a boot waits for -/

theorem exec_bootImgCmd_waiting {a : Option FwPackage} (hwaits : s.bootWaits = true) (hbootable : s.bootable = true) :
    exec (.bootImgCmd a) s = .next (s.offerImage a 3) :=
  congrArg Host.Outcome.next (if_pos ⟨hwaits, hbootable⟩)

theorem exec_bootImgCmd_still {a : Option FwPackage} (hwaits : s.bootWaits = false) : exec (.bootImgCmd a) s = .next s :=
  congrArg Host.Outcome.next (if_neg fun h => ne_true_of_eq_false hwaits h.1)

theorem exec_sdCardInsert_waiting {a : Option FwPackage} (hwaits : s.bootWaits = true) (hbootable : s.bootable = true) :
    exec (.sdCardInsert a) s = .next (if s.sys.bootSel ≤ 1 then s.offerImage a 2 else s) :=
  congrArg Host.Outcome.next (if_pos ⟨hwaits, hbootable⟩)

theorem exec_sdCardInsert_stored {q : FwPackage} (hwaits : s.bootWaits = false) (hup : s.cdUp = true) (hvalid : s.fwValid q = true)
    (hlen : q.len ≤ maxPackage) : exec (.sdCardInsert (some q)) s = .next (s.storePackage q Ev.fwPackageFound 0) := by
  refine congrArg Host.Outcome.next ((if_neg fun h => ne_true_of_eq_false hwaits h.1).trans ?_)
  exact (if_neg (by simp [hup])).trans (if_pos ⟨hvalid, hlen⟩)

/-! ## The spread of packages -/

section

variable {f : Frame} (h : Delivered s f .mgmt t)
include h

theorem exec_fwOfferReceive_taken {o : FwOffer} (hon : bit (t.regN Reg.FW_CTRL) 1 = true) (hactive : (t.fw.slot t.fw.active).version < o.version)
    (hstore : (t.fw.store.map (·.version)).getD 0 < o.version) (hfetch : t.fw.fetch = none) (hrefused : t.fw.refused.contains o.digest = false) :
    exec (.fwOfferReceive f o) s =
      .next (((t.mapFw (fun g => { g with fetch := some (f.src, o, 0) })).sendMgmt f.src (.fwFetch 0 (min chunkMax o.len))).acked f) := by
  rw [exec_delivered (i := .fwOfferReceive f o) h rfl]
  dsimp only
  rw [if_pos ⟨hon, hactive, hstore, Option.isNone_iff_eq_none.mpr hfetch, (Bool.not_eq_true' _).mpr hrefused⟩]

theorem exec_fwOfferReceive_left {o : FwOffer} (hleft : bit (t.regN Reg.FW_CTRL) 1 = false ∨ o.version ≤ (t.fw.slot t.fw.active).version ∨
    t.fw.fetch.isSome = true ∨ t.fw.refused.contains o.digest = true) : exec (.fwOfferReceive f o) s = .next (t.acked f) := by
  rw [exec_delivered (i := .fwOfferReceive f o) h rfl]
  dsimp only
  rw [if_neg]
  rintro ⟨hon, hactive, -, hfetch, hrefused⟩
  obtain hoff | hold | hfetching | hknown := hleft
  · exact ne_true_of_eq_false hoff hon
  · exact absurd hactive (Nat.not_lt.mpr hold)
  · rw [Option.isNone_iff_eq_none.mp hfetch] at hfetching
    nomatch hfetching
  · exact ne_true_of_eq_false ((Bool.not_eq_true' _).mp hrefused) hknown

theorem exec_fwFetchRequestReceive_stored {p : FwPackage} {off len : Nat} (hstore : t.fw.store = some p) (hoff : off < p.len) :
    exec (.fwFetchRequestReceive f off len) s =
      .next ((t.send f.src .mgmt 4 (min (min len chunkMax) (p.len - off)) (.fwChunk p.manifestDigest off (min (min len chunkMax) (p.len - off)))).acked f) := by
  rw [exec_delivered (i := .fwFetchRequestReceive f off len) h rfl]
  dsimp only
  rw [hstore]
  dsimp only
  rw [if_neg (Nat.not_le.mpr hoff)]

theorem exec_fwChunkReceive_fetching {o : FwOffer} {off : Nat} {data : Bytes} {a : Option FwPackage} (hfetch : t.fw.fetch = some (f.src, o, off)) :
    exec (.fwChunkReceive f off data a) s = .next ((if off + data.length < o.len then
        (t.mapFw (fun g => { g with fetch := some (f.src, o, off + data.length) })).sendMgmt f.src
          (.fwFetch (off + data.length) (min chunkMax (o.len - (off + data.length))))
      else t.fetchEnds f.src o a).acked f) := by
  rw [exec_delivered (i := .fwChunkReceive f off data a) h rfl]
  dsimp only
  rw [hfetch]
  dsimp only
  rw [if_neg (by simp)]

end

/-! ## `ATTEST` -/

section

variable {c : Nat} {w : IWord} {x : Ctx} {d : Bytes} {fail : Bool} (h : Runs s c 0x8E w x)
include h

theorem exec_attest_of_runs (hlines : s.tracked (s.hdmSpan (le d 32 8) attestLen) = []) :
    exec (.attest c w d fail) s = .next (s.settle c (s.bodyAttest c d fail)) :=
  exec_coherent_of_runs (i := .attest c w d fail) h (reads := []) hlines rfl

theorem exec_attest_badOperand (hlines : s.tracked (s.hdmSpan (le d 32 8) attestLen) = [])
    (hbad : le d 40 4 < attestLen ∨ zeroAt d 44 20 = false) : exec (.attest c w d fail) s = .next (s.failInstr c .badOperand) := by
  rw [exec_attest_of_runs h hlines, State.bodyAttest, if_pos (hbad.imp_right (Bool.not_eq_true' _).mpr), State.settle_fail]

theorem exec_attest_checkFail (hlines : s.tracked (s.hdmSpan (le d 32 8) attestLen) = []) (hlen : attestLen ≤ le d 40 4)
    (hzero : zeroAt d 44 20 = true) : exec (.attest c w d true) s = .next (s.failInstr c .checkFail) := by
  rw [exec_attest_of_runs h hlines, State.bodyAttest, if_neg (not_or.mpr ⟨Nat.not_lt.mpr hlen, by simp [hzero]⟩), if_pos rfl, State.settle_fail]

theorem exec_attest_report (hlines : s.tracked (s.hdmSpan (le d 32 8) attestLen) = []) (hlen : attestLen ≤ le d 40 4) (hzero : zeroAt d 44 20 = true)
    (hwhole : s.splitsAt (le d 32 8) (s.reportHead (d.take 32) ++ (Config.sign (s.reportHead (d.take 32))).take 17088).length = false) :
    exec (.attest c w d false) s =
      .next (((s.writeAt (le d 32 8) (s.reportHead (d.take 32) ++ (Config.sign (s.reportHead (d.take 32))).take 17088)).setOut (.instr c)
        (fun x => { x with outLen := 17472 })).advance c) := by
  rw [exec_attest_of_runs h hlines, State.bodyAttest, if_neg (not_or.mpr ⟨Nat.not_lt.mpr hlen, by simp [hzero]⟩), if_neg Bool.false_ne_true]
  exact congrArg Host.Outcome.next (State.settle_writeOut_whole hwhole _ _ _)

theorem exec_attest_calls (hshape : shapeOk 0x8E w = true) (hlines : s.tracked (s.hdmSpan (le d 32 8) attestLen) ≠ []) :
    exec (.attest c w d fail) s = .next ((s.callBack [] (s.hdmSpan (le d 32 8) attestLen)).mapCxl (fun y =>
      { y with snoopFor := (y.snoopFor ++ (s.tracked (s.hdmSpan (le d 32 8) attestLen)).map (·, c)).eraseDups })) :=
  congrArg Host.Outcome.next (State.coherent_calls h hshape (reads := []) hlines _)

end

end Sys2Proof.Machine

open Sys2Proof Sys2Proof.Machine

/-- Settles O51: it holds. After its patch table a boot writes only registers, which leave the table. -/
theorem bootAndAttestation : Obligations.BootAndAttestation := by
  unfold Obligations.BootAndAttestation
  intro s t f c off w x d data i o p q a
  refine ⟨fun hbootable hready hstatus => ?_, exec_boot_still, fun source error fb => ?_, fun k hk => ?_, fun at_ => State.romWord_unpatched,
    fun at_ e rest => State.romWord_patched, fun hwaits hbootable => ?_, fun hwaits => ?_, fun hdelivered => ?_, fun hruns => ?_⟩
  · rw [exec_boot_begins hbootable hready hstatus]
    refine ⟨fun hsel hp hgood => ?_, fun hsel hp hbad hq hgood => ?_, fun hsel => ?_⟩
    · rw [State.bootSources_first hsel rfl hp hgood]
    · rw [State.bootSources_fallback hsel rfl hp hbad hq hgood]
    · rw [State.bootSources_host hsel]
  · exact ⟨State.bootFrom_patches p source error fb, State.bootFrom_reserved, State.bootFrom_done⟩
  · exact ⟨patchTable_length p, patchTable_getElem? p hk⟩
  · have hinsert := exec_sdCardInsert_waiting (a := a) hwaits hbootable
    refine ⟨exec_bootImgCmd_waiting hwaits hbootable, fun hsel => ?_, fun hsel => ?_⟩
    · rw [hinsert, if_pos hsel]
    · rw [hinsert, if_neg (Nat.not_le.mpr hsel)]
  · exact ⟨exec_bootImgCmd_still hwaits, exec_sdCardInsert_stored hwaits⟩
  · refine ⟨exec_fwOfferReceive_taken hdelivered, exec_fwOfferReceive_left hdelivered, fun len => exec_fwFetchRequestReceive_stored hdelivered,
      fun hfetch => ⟨fun hmore => ?_, fun hend => ?_⟩⟩
    · rw [exec_fwChunkReceive_fetching hdelivered hfetch, if_pos hmore]
    · rw [exec_fwChunkReceive_fetching hdelivered hfetch, if_neg (Nat.not_lt.mpr hend)]
  · obtain ⟨-, ⟨hshape, -⟩, -⟩ := id hruns
    exact ⟨fun hlines fail => exec_attest_calls hruns hshape hlines, fun hlines hbad fail => exec_attest_badOperand hruns hlines hbad,
      fun hlines hlen hzero => ⟨exec_attest_checkFail hruns hlines hlen hzero, exec_attest_report hruns hlines hlen hzero⟩⟩

end
